-- ==== Sys2Proof/Word.lean ====
section
/-! DEFINITION. The word types of the Kolid module: 64-bit registers, bytes, and the flat byte list of a value. -/

namespace Sys2Proof

/-- A 64-bit register, IO-space register or memory word. -/
abbrev Word := BitVec 64

/-- One byte. -/
abbrev Byte := BitVec 8

/-- Bits [hi:lo] of a word, both ends included (R9), as a number. -/
def bits (w : Word) (hi lo : Nat) : Nat := (w.toNat / 2 ^ lo) % 2 ^ (hi + 1 - lo)

/-- Bit i of a word. -/
def bit (w : Word) (i : Nat) : Bool := w.getLsbD i

/-- A word with bits [lo + w - 1 : lo] holding n. -/
def field (n lo : Nat) : Word := BitVec.ofNat 64 (n * 2 ^ lo)

/-- A flag as a one-bit number. -/
def b2n (b : Bool) : Nat := if b then 1 else 0

end Sys2Proof
end

