-- ==== Sys2Proof/Types.lean ====
section
/-! DEFINITION. What commands and packets are made of: the issue slot of an instruction, requesters, homes, mesh packets,
dictionary items, companion accesses, fabric frames, sensor readings. Plain data. -/

namespace Sys2Proof

/-- An error of a protected store of the core that is present when a thread issues (R114, R175, R227, R292, R293): `fatal` where the code
cannot correct it. -/
inductive Upset where
  /-- Thread context storage of a thread (R114 subcode 2). -/
  | context (t : BitVec 4)
  /-- Core control state (R114 subcode 5). -/
  | control
  /-- A 64-B line of the tile file (R114 subcode 3). -/
  | tile (line : Nat)
  /-- The current or the draining accumulator (R114 subcode 3). -/
  | accum (drain : Bool)
  /-- Parity of the tag of a D-cache or I-cache way, keyed 4·set + way. -/
  | dTag (key : Nat)
  | iTag (key : Nat)
  /-- An 8-byte word of a line of the D-cache or the I-cache. -/
  | dWord (key word : Nat) (fatal : Bool)
  | iWord (key word : Nat) (fatal : Bool)
  /-- An 8-byte word of the core's scratchpad. -/
  | spad (word : Nat) (fatal : Bool)
  deriving DecidableEq, Repr

/-- Which thread of which core issues an instruction, its condition field (R42, R44), and the errors that have befallen the core's
stores since the command before it. -/
structure Issue where
  core : BitVec 13
  thread : BitVec 4
  cond : BitVec 4
  upsets : List Upset := []
  deriving DecidableEq, Repr

/-- A task pair: tag and generation (R470). TAG 0 is "no task". -/
structure Pair where
  tag : BitVec 12
  gen : BitVec 4
  deriving DecidableEq, Repr

/-- Thread modes (R90). -/
inductive Mode where
  | user | supervisor
  deriving DecidableEq, Repr

/-- Engines of a core that hold credits and make posted transfers (Table: credit messages). -/
inductive Eng where
  | dma (c : BitVec 2)
  | slot (i : BitVec 3)
  deriving DecidableEq, Repr

/-- Who made a request of the mesh. -/
inductive Who where
  | thread (core : Nat) (t : BitVec 4)
  | eng (core : Nat) (u : Eng)
  | tile (core : Nat)
  | fetch (core : Nat)
  | prefetch (core : Nat)
  | wback (core : Nat)
  | order (k : Nat)
  deriving DecidableEq, Repr

/-- The home of an address: where an access is performed (R234, R369, R21, R462). -/
inductive Home where
  | spad (core : Nat) (off : Nat)
  | hbm (a : Nat)
  | comp (a : Nat)
  deriving DecidableEq, Repr

/-- The operation of an atomic (Table: atomic operations). -/
inductive AmoOp where
  | swap | cas | add | and | or | xor | min | max | minu | maxu
  deriving DecidableEq, Repr

/-- A channel message: header word and payload words (R321), with the payload words marked uncorrectable. -/
structure Msg where
  header : Word
  words : List Word
  bad : List Nat
  deriving DecidableEq, Repr

/-- Endpoints of the mesh (Table: endpoint units) and the endpoint of another module that an id names. -/
inductive Ep where
  | core (l : Nat)
  | press (q : Nat)
  | stack (h : Nat)
  | disp
  | io
  | remote (m : Nat) (id : Nat)
  deriving DecidableEq, Repr

/-- A riding signal of a remote write (Table: signal modes). -/
structure RSig where
  mode : BitVec 2
  cnt : BitVec 6
  deriving DecidableEq, Repr

/-- Dispatcher and dictionary commands to cores (TYPE 0x06). -/
inductive CoreCmd where
  | halt (threads : BitVec 16)
  | resume (threads : BitVec 16)
  | step (threads : BitVec 16)
  | stopAll (order : Nat)
  | endSteps (order : Nat)
  deriving DecidableEq, Repr

/-- The four words of a fault record (Table: fault record). -/
structure FaultRec where
  w0 : Word
  w1 : Word
  w2 : Word
  deriving DecidableEq, Repr

/-- A press-queue control operation (TYPE 0x0B). -/
inductive PressOp where
  | cfg (w0 : Word) (dests : List (BitVec 32))
  | close
  | stat
  deriving DecidableEq, Repr

/-- What a packet carries, by TYPE (Table: packet types, R409). -/
inductive Body where
  | creditReq (core : Nat) (u : Eng) (srcMod : Nat) (tgt win off len : Nat) (pair : Pair)
  | creditGrant (u : Eng) (credit : Nat)
  | creditRefuse (u : Eng) (reason : Nat)
  | creditRevoke (u : Eng) (credit : Nat)
  | signal (cnt : BitVec 6) (n : BitVec 32) (pair : Pair) (src : Nat)
  | command (c : CoreCmd)
  | commandAck (order : Nat) (core : Nat)
  | coreStop (core : Nat) (subcode : Nat)
  | faultReply (source : Nat) (seq : BitVec 8) (pair : Pair) (abort : Bool)
  | shootdown (lo len : Nat)
  | shootdownAck
  | pressCtl (op : PressOp) (core : Nat) (t : BitVec 4) (pair : Pair)
  | pressReply (t : BitVec 4) (value : Word)
  | portSeq (port : Nat) (seq : BitVec 12)
  /-- READ_DATA, or BULK_DATA in answer to a BULK_READ (R409). -/
  | readData (id : Nat) (data : List Byte) (bad : List Nat) (bulk : Bool)
  | writeAck (id : Nat)
  | atomicData (id : Nat) (old : Word) (bad : Bool)
  | landingAck (u : Eng) (credit : Nat)
  | errorResp (id : Nat) (reason : Nat)
  /-- DROP_NOTICE (R420): reason; what was dropped (0 a message, 1 a signal, 2 a press contribution, 3 a fault record, 4 a remote write, 5 a
  victim offer, 6 a landing acknowledgment, 7 a response or a bulk write); the unit and the dense offset of a remote write; the REQ_ID. -/
  | dropNotice (reason : Nat) (what : Nat) (u : Option Eng) (pos : Nat) (id : Option Nat)
  | read (id : Nat) (home : Home) (len : Nat) (who : Who)
  /-- WRITE or BULK_WRITE of runs of bytes, each with its offset from the home (R249); `bad` are the marked words of a write of one
  run, from the word of the home. -/
  | write (id : Nat) (home : Home) (runs : List (Nat × List Byte)) (bad : List Nat) (who : Who)
  | atomic (id : Nat) (home : Home) (op : AmoOp) (eight : Bool) (a b : Word) (who : Who)
  | message (ring : BitVec 4) (m : Msg)
  | pressContrib (pair : Pair) (fmt : Nat) (elems : List (BitVec 32)) (round : Bool) (src : Nat)
  | faultRecord (r : FaultRec) (source : Nat)
  | remoteWrite (core : Nat) (u : Eng) (credit off : Nat) (pair : Pair) (data : List Byte) (last : Bool) (sig : Option RSig)
      (pos : Nat)
  | victim (line : Nat)
  | reducePiece (station : Nat) (pair : Pair) (piece : Nat) (elems : List (BitVec 32)) (sum : Bool)
  deriving DecidableEq, Repr

/-- A packet in flight: source, destination, body, AGE in rind ticks (R419), and FAGE while it is in the fabric (R434). -/
structure Packet where
  src : Ep
  dst : Ep
  body : Body
  age : Nat
  deriving DecidableEq, Repr

/-- Outcome of an ECC check that a visit or a read meets, as numbers of 8-byte words from the first: corrected, and uncorrectable (R227). In
HBM a word stands for its 64-byte codeword (R5). -/
structure Ecc where
  corrected : List Nat
  uncorrectable : List Nat
  deriving DecidableEq, Repr

/-- Roles of a dictionary request (Table: roles); a reserved ROLE value is kept as its byte. -/
inductive Role where
  | owner | operator | observer | reserved (v : Byte)
  deriving DecidableEq, Repr

/-- The path of a dictionary request. A rind-port request may carry a session and a tag whose check is the frame's own. -/
inductive Path where
  | mailbox
  | rind (session : Nat) (tagOk : Bool)
  | tap
  deriving DecidableEq, Repr

/-- One item of a dictionary request (Table: item). -/
structure Item where
  index : Nat
  sub : Nat
  type : Nat
  write : Bool
  hold : Bool
  holdId : Nat
  len : Nat
  offset : Nat
  value : List Byte
  deriving DecidableEq, Repr

/-- A frame that reaches the rind port: what R503 and R504 judge, and the items of a REQUEST. -/
structure RindFrame where
  wellFormed : Bool
  source : Nat
  seq : BitVec 16
  role : Role
  session : Nat
  tagged : Bool
  tagOk : Bool
  node : Nat
  items : List Item
  deriving DecidableEq, Repr

/-- An access by the companion over a Limjo link (R462, R463, R465). -/
inductive CompOp where
  | hbmRead (a len : Nat) (own : Bool) (ecc : Ecc)
  | hbmWrite (a : Nat) (data : List Byte)
  | hbmAtomic (a : Nat) (op : AmoOp) (eight : Bool) (x y : Word) (ecc : Ecc)
  | writeBack (a : Nat) (data : List Byte)
  | regRead (off size : Nat)
  | regWrite (off size : Nat) (v : Word)
  deriving DecidableEq, Repr

/-- Slots of one packet in a frame (R424, R428): their class and lane, how many, and, where they are the packet's last ones, the modules it
comes from and goes to, its FAGE and the packet. -/
structure FabPart where
  cls : BitVec 2
  lane : Bool
  slots : Nat
  src : Nat
  dst : Nat
  fage : Nat
  packet : Option Packet
  deriving DecidableEq, Repr

/-- A frame received at a fabric port (R424, R425): whether the codeword decoded, and with corrected symbols, whether the CRC matched, and its
contents. CREDITS holds the
count of class c, lane l at place 2c + l; PAUSE holds the bits of FC1, FC2 and FC3. -/
structure FabFrame where
  decoded : Bool
  corrected : Bool
  crcOk : Bool
  kind : BitVec 4
  seq : BitVec 12
  ack : Option (BitVec 12)
  pause : BitVec 3
  credits : List (BitVec 6)
  parts : List FabPart
  deriving DecidableEq, Repr

/-- Traffic of a wake event, held until the module is in Run (R517). -/
inductive Wake where
  | sqTail (r : BitVec 8) (v : Word)
  | doorbell (v : Word)
  | faultReply (v : Word)
  | shootCtl (v : Word)
  | frame (port : Nat) (f : FabFrame)
  | access (op : CompOp)
  deriving DecidableEq, Repr

/-- Sensor readings of a throttle period (R522), of each die: at or above the throttle point; all at least 2 K below. -/
structure ThrottleIn where
  hot : List Nat
  cool : List Nat
  overPower : Bool
  underPower : Bool
  deriving DecidableEq, Repr

/-- The end of an attempt of a boot step (R529, R531): component, whether it passed, the journal's DETAIL and DURATION, and the
positions that failed at B8, B10 and B11; the far end that B6 found ([7:0] module, [12:8] port). -/
structure BootEnd where
  component : Nat
  pass : Bool
  detail : Word
  duration : Nat
  failing : List Nat
  peer : Nat
  /-- At B2 and B3, copies of the anti-rollback floors whose MAC fails: 0 and 1 of FW_SVN_MIN, 2 and 3 of CONFIG_SVN_MIN (R556). -/
  macs : List Nat := []
  deriving DecidableEq, Repr

/-- A port's training result (R433, R545, R423): 0 failed, else the number of active lanes, their mask, and the far end. -/
structure TrainEnd where
  lanes : Nat
  mask : Nat
  peerModule : Nat
  peerPort : Nat
  deriving DecidableEq, Repr

end Sys2Proof
end

