-- ==== Sys2Proof/Syntax.lean ====
section
/-! DEFINITION. The commands the module takes: one constructor per row of spec/opcode_table.json. -/

namespace Sys2Proof

/-- A command. An instruction row carries its issue slot and the fields of its word; an event row names the unit, the packet in
flight (its place in `State.net`) or the outside input it concerns. -/
inductive Instr where
  /-- LD (R59). Scalar load of 1, 2, 4 or 8 bytes into rd, checked for alignment, range, translation, permission and uncorrectable data. -/
  | ld (x : Issue) (rd : BitVec 5) (rs1 : BitVec 5) (size : BitVec 2) (sign : Bool) (imm : BitVec 9)
  /-- ST (R59). Scalar store of the low 1, 2, 4 or 8 bytes of rd. -/
  | st (x : Issue) (rd : BitVec 5) (rs1 : BitVec 5) (size : BitVec 2) (sign : Bool) (imm : BitVec 9)
  /-- LD_ACQ (R274). Load at the home that then invalidates clean unlocked SHARED D-cache and side-buffer lines. -/
  | ldAcq (x : Issue) (rd : BitVec 5) (rs1 : BitVec 5) (size : BitVec 2) (sign : Bool) (imm : BitVec 9)
  /-- LDX (R57). Indexed load at rs1 + rs2, with rs2 optionally scaled. -/
  | ldx (x : Issue) (rd : BitVec 5) (rs1 : BitVec 5) (rs2 : BitVec 5) (size : BitVec 2) (sign : Bool) (scale : Bool)
  /-- STX (R57). Indexed store at rs1 + rs2, with rs2 optionally scaled. -/
  | stx (x : Issue) (rd : BitVec 5) (rs1 : BitVec 5) (rs2 : BitVec 5) (size : BitVec 2) (sign : Bool) (scale : Bool)
  /-- ADD (R47). Adds rs1 and rs2, setting the flags when S = 1. -/
  | add (x : Issue) (rd : BitVec 5) (rs1 : BitVec 5) (rs2 : BitVec 5) (s : Bool)
  /-- SUB (R47). Subtracts rs2 from rs1, setting the flags when S = 1. -/
  | sub (x : Issue) (rd : BitVec 5) (rs1 : BitVec 5) (rs2 : BitVec 5) (s : Bool)
  /-- AND (R46). Bitwise AND of rs1 and rs2. -/
  | and (x : Issue) (rd : BitVec 5) (rs1 : BitVec 5) (rs2 : BitVec 5) (s : Bool)
  /-- OR (R46). Bitwise OR of rs1 and rs2. -/
  | or (x : Issue) (rd : BitVec 5) (rs1 : BitVec 5) (rs2 : BitVec 5) (s : Bool)
  /-- XOR (R46). Bitwise XOR of rs1 and rs2. -/
  | xor (x : Issue) (rd : BitVec 5) (rs1 : BitVec 5) (rs2 : BitVec 5) (s : Bool)
  /-- ANDN (R46). rs1 AND NOT rs2. -/
  | andn (x : Issue) (rd : BitVec 5) (rs1 : BitVec 5) (rs2 : BitVec 5) (s : Bool)
  /-- SHL (R46). Shifts rs1 left by rs2 mod 64. -/
  | shl (x : Issue) (rd : BitVec 5) (rs1 : BitVec 5) (rs2 : BitVec 5) (s : Bool)
  /-- SHR (R46). Shifts rs1 logically right by rs2 mod 64. -/
  | shr (x : Issue) (rd : BitVec 5) (rs1 : BitVec 5) (rs2 : BitVec 5) (s : Bool)
  /-- SAR (R46). Shifts rs1 arithmetically right by rs2 mod 64. -/
  | sar (x : Issue) (rd : BitVec 5) (rs1 : BitVec 5) (rs2 : BitVec 5) (s : Bool)
  /-- MIN (R46). Signed minimum of rs1 and rs2. -/
  | min (x : Issue) (rd : BitVec 5) (rs1 : BitVec 5) (rs2 : BitVec 5) (s : Bool)
  /-- MAX (R46). Signed maximum of rs1 and rs2. -/
  | max (x : Issue) (rd : BitVec 5) (rs1 : BitVec 5) (rs2 : BitVec 5) (s : Bool)
  /-- MINU (R46). Unsigned minimum of rs1 and rs2. -/
  | minu (x : Issue) (rd : BitVec 5) (rs1 : BitVec 5) (rs2 : BitVec 5) (s : Bool)
  /-- MAXU (R46). Unsigned maximum of rs1 and rs2. -/
  | maxu (x : Issue) (rd : BitVec 5) (rs1 : BitVec 5) (rs2 : BitVec 5) (s : Bool)
  /-- MUL (R80). Low 64 bits of the product of rs1 and rs2. -/
  | mul (x : Issue) (rd : BitVec 5) (rs1 : BitVec 5) (rs2 : BitVec 5) (s : Bool)
  /-- MULH (R80). High 64 bits of the signed product. -/
  | mulh (x : Issue) (rd : BitVec 5) (rs1 : BitVec 5) (rs2 : BitVec 5) (s : Bool)
  /-- MULHU (R80). High 64 bits of the unsigned product. -/
  | mulhu (x : Issue) (rd : BitVec 5) (rs1 : BitVec 5) (rs2 : BitVec 5) (s : Bool)
  /-- DIV (R81). Signed division on the single non-pipelined divider. -/
  | div (x : Issue) (rd : BitVec 5) (rs1 : BitVec 5) (rs2 : BitVec 5) (s : Bool)
  /-- DIVU (R81). Unsigned division. -/
  | divu (x : Issue) (rd : BitVec 5) (rs1 : BitVec 5) (rs2 : BitVec 5) (s : Bool)
  /-- REM (R81). Signed remainder. -/
  | rem (x : Issue) (rd : BitVec 5) (rs1 : BitVec 5) (rs2 : BitVec 5) (s : Bool)
  /-- REMU (R81). Unsigned remainder. -/
  | remu (x : Issue) (rd : BitVec 5) (rs1 : BitVec 5) (rs2 : BitVec 5) (s : Bool)
  /-- CLZ (R46). Counts the leading zeros of rs1. -/
  | clz (x : Issue) (rd : BitVec 5) (rs1 : BitVec 5) (s : Bool)
  /-- CTZ (R46). Counts the trailing zeros of rs1. -/
  | ctz (x : Issue) (rd : BitVec 5) (rs1 : BitVec 5) (s : Bool)
  /-- POPC (R46). Counts the set bits of rs1. -/
  | popc (x : Issue) (rd : BitVec 5) (rs1 : BitVec 5) (s : Bool)
  /-- CMP (R47). Sets the flags from rs1 − rs2. -/
  | cmp (x : Issue) (rs1 : BitVec 5) (rs2 : BitVec 5)
  /-- ADDI (R46). Adds a sign-extended immediate to rs1. -/
  | addi (x : Issue) (rd : BitVec 5) (rs1 : BitVec 5) (imm : BitVec 11) (s : Bool)
  /-- ANDI (R46). ANDs rs1 with a sign-extended immediate. -/
  | andi (x : Issue) (rd : BitVec 5) (rs1 : BitVec 5) (imm : BitVec 11) (s : Bool)
  /-- ORI (R46). ORs rs1 with a sign-extended immediate. -/
  | ori (x : Issue) (rd : BitVec 5) (rs1 : BitVec 5) (imm : BitVec 11) (s : Bool)
  /-- XORI (R46). XORs rs1 with a sign-extended immediate. -/
  | xori (x : Issue) (rd : BitVec 5) (rs1 : BitVec 5) (imm : BitVec 11) (s : Bool)
  /-- SHLI (R46). Shifts left by an immediate amount. -/
  | shli (x : Issue) (rd : BitVec 5) (rs1 : BitVec 5) (amt : BitVec 6) (s : Bool)
  /-- SHRI (R46). Shifts logically right by an immediate amount. -/
  | shri (x : Issue) (rd : BitVec 5) (rs1 : BitVec 5) (amt : BitVec 6) (s : Bool)
  /-- SARI (R46). Shifts arithmetically right by an immediate amount. -/
  | sari (x : Issue) (rd : BitVec 5) (rs1 : BitVec 5) (amt : BitVec 6) (s : Bool)
  /-- CMPI (R47). Sets the flags from rs1 minus an immediate. -/
  | cmpi (x : Issue) (rs1 : BitVec 5) (imm : BitVec 11)
  /-- MOVI (R46). Loads a sign-extended 17-bit constant into rd. -/
  | movi (x : Issue) (rd : BitVec 5) (imm : BitVec 17)
  /-- MOVK (R46). Replaces one halfword of rd with a 16-bit immediate. -/
  | movk (x : Issue) (rd : BitVec 5) (imm : BitVec 16) (hw : BitVec 2)
  /-- PCMP (R46). Sets predicate P from a condition on rs1 and rs2. -/
  | pcmp (x : Issue) (cc : BitVec 4) (p : Bool) (rs1 : BitVec 5) (rs2 : BitVec 5)
  /-- PCMPI (R46). Sets predicate P from a condition on rs1 and an immediate. -/
  | pcmpi (x : Issue) (cc : BitVec 4) (p : Bool) (rs1 : BitVec 5) (imm : BitVec 12)
  /-- MFL (R48). Copies the flags word into a register. -/
  | mfl (x : Issue) (reg : BitVec 5)
  /-- MTL (R48). Loads the flags and predicates from a register. -/
  | mtl (x : Issue) (reg : BitVec 5)
  /-- IN (R54). Reads an 8-byte IO-space register, subject to the alignment, range and mode checks. -/
  | ioIn (x : Issue) (rd : BitVec 5) (rs1 : BitVec 5) (imm : BitVec 12)
  /-- OUT (R56). Writes an 8-byte IO-space register that has no row of its own, in program order. -/
  | ioOut (x : Issue) (rd : BitVec 5) (rs1 : BitVec 5) (imm : BitVec 12)
  /-- B (R61). Branch with one delay slot. -/
  | b (x : Issue) (disp : BitVec 22)
  /-- CALL (R66). Pushes the return address and flags, executes the delay slot and jumps. -/
  | call (x : Issue) (disp : BitVec 22)
  /-- JR (R61). Jumps to a register target after the delay slot. -/
  | jr (x : Issue) (rs1 : BitVec 5)
  /-- CALR (R66). Register-target call with a stack push. -/
  | calr (x : Issue) (rs1 : BitVec 5)
  /-- RET (R67). Pops the return address and returns after the delay slot. -/
  | ret (x : Issue)
  /-- RETF (R67). Return that also restores the flags and predicates. -/
  | retf (x : Issue)
  /-- TRAP (R75). Completes and then raises cause 0x10 with its number. -/
  | trap (x : Issue) (imm : BitVec 8)
  /-- SETMODE (R90). Serializing change of mode, with a one-instruction shadow. -/
  | setmode (x : Issue) (imm : BitVec 8)
  /-- ERET (R97). Restores the thread state from the frame at sp. -/
  | eret (x : Issue)
  /-- ISYNC (R77). Waits for the thread's earlier stores to be performed and discards fetched, unissued instructions. -/
  | isync (x : Issue)
  /-- LP_SETUP (R69). Sets up a hardware loop level with a count taken from a register. -/
  | lpSetup (x : Issue) (level : Bool) (rs : BitVec 5) (off : BitVec 12)
  /-- LP_SETUPI (R69). Sets up a hardware loop level with an immediate count. -/
  | lpSetupi (x : Issue) (level : Bool) (cnt : BitVec 7) (off : BitVec 12)
  /-- LP_CLR (R73). Clears a loop level; level 0 clears both levels. -/
  | lpClr (x : Issue) (level : Bool)
  /-- LP_GET (R74). Reads LC, LS or LE of a loop level. -/
  | lpGet (x : Issue) (level : Bool) (reg : BitVec 5) (fld : BitVec 2)
  /-- LP_SET (R74). Writes LC, LS or LE of a loop level. -/
  | lpSet (x : Issue) (level : Bool) (reg : BitVec 5) (fld : BitVec 2)
  /-- TAKE_INTERRUPT (R111). A thread with AE = 1 takes a pending enabled doorbell or timer interrupt. -/
  | takeInterrupt (core : BitVec 13) (t : BitVec 4)
  /-- TAKE_EVENT (R110). Thread 0 with AE = 1 takes the oldest queued unit event. -/
  | takeEvent (core : BitVec 13)
  /-- START (R85). Thread command that starts a FREE or STOPPED thread at THR_PC and THR_SP. -/
  | start (x : Issue) (n : BitVec 4) (v : Word)
  /-- STOP (R89). Thread command that stops a thread at the next instruction boundary. -/
  | stop (x : Issue) (n : BitVec 4) (v : Word)
  /-- KILL (R89). Thread command that frees a thread, discarding its staged words and releasing the matrix lease. -/
  | kill (x : Issue) (n : BitVec 4) (v : Word)
  /-- RELEASE (R108). Thread command that releases a FAULT_WAIT thread to issue its waiting instruction again. -/
  | release (x : Issue) (n : BitVec 4) (v : Word)
  /-- INJECT (R89). Thread command that makes a thread take an exception with cause INJ_CAUSE. -/
  | inject (x : Issue) (n : BitVec 4) (v : Word)
  /-- RESUME (R594). Thread command that continues a STOPPED thread, restoring from the last-resort slot when LRS = 1. -/
  | resume (x : Issue) (n : BitVec 4) (v : Word)
  /-- WDOG_KICK (R116). An out by thread 0 reloads the supervisor watchdog. -/
  | wdogKick (x : Issue) (v : Word)
  /-- WATCHDOG_EXPIRY (R116). The watchdog count reaches zero and the core stops with subcode 6. -/
  | watchdogExpiry (core : BitVec 13)
  /-- TIMER_EXPIRY (R111). The core timer expires and sets the timer INT_PEND of its thread. -/
  | timerExpiry (core : BitVec 13)
  /-- EVT_NEXT_READ (R110). Reading EVT_NEXT removes and returns the oldest event record. -/
  | evtNextRead (x : Issue) (rd : BitVec 5)
  /-- T_ACQUIRE (R147). Takes the matrix lease, or waits for it. -/
  | tAcquire (x : Issue)
  /-- T_RELEASE (R148). Frees the lease once the engine is idle. -/
  | tRelease (x : Issue)
  /-- T_CFG (R153). Applies a tile layout and clears the tile file, accumulators and operand cache. -/
  | tCfg (x : Issue) (layout : BitVec 2)
  /-- T_SWAP (R156). Exchanges the current and draining accumulators. -/
  | tSwap (x : Issue)
  /-- T_ZERO (R157). Zeroes the current accumulator and tags it ZERO. -/
  | tZero (x : Issue)
  /-- T_TZ (R185). Zeroes one tile and sets its scales to 0x7F. -/
  | tTz (x : Issue) (tile : BitVec 4)
  /-- T_WAIT (R161). Holds the thread until the engine is idle. -/
  | tWait (x : Issue)
  /-- T_MMA (R164). Checks a matrix product at issue and queues it. -/
  | tMma (x : Issue) (ta : BitVec 4) (tb : BitVec 4) (rs : BitVec 5)
  /-- MMA_EXECUTE (R166). The array runs a queued t.mma once its operand-cache entry is ready. -/
  | mmaExecute (core : BitVec 13)
  /-- T_LD (R170). Loads tile rows from D-space. -/
  | tLd (x : Issue) (td : BitVec 4) (ra : BitVec 5) (rdesc : BitVec 5)
  /-- T_ST (R170). Stores tile rows to D-space. -/
  | tSt (x : Issue) (ts : BitVec 4) (ra : BitVec 5) (rdesc : BitVec 5)
  /-- T_LDX (R171). Loads 4-bit block rows, expanding them to 8-bit and loading their scales. -/
  | tLdx (x : Issue) (td : BitVec 4) (ra : BitVec 5) (rscl : BitVec 5) (rdesc : BitVec 5)
  /-- TILE_ROW_LAND (R177). A requested tile row arrives and is written into the tile or to memory. -/
  | tileRowLand (core : BitVec 13) (i : Nat)
  /-- T_DRAIN (R179). Checks a drain of the draining accumulator and queues it. -/
  | tDrain (x : Issue) (td : BitVec 4) (rctl : BitVec 5) (ra : BitVec 5)
  /-- DRAIN_COMPLETE (R181). The drain writes its last row, adds its tally counts and increments its counter. -/
  | drainComplete (core : BitVec 13)
  /-- T_CSAVE (R189). Saves the matrix context image to scratchpad. -/
  | tCsave (x : Issue) (ra : BitVec 5)
  /-- T_CREST (R189). Restores the matrix context image from scratchpad. -/
  | tCrest (x : Issue) (ra : BitVec 5)
  /-- MTX_SEED_WRITE (R184). Seeds the drain generator lanes. -/
  | mtxSeedWrite (x : Issue) (v : Word)
  /-- TALLY_CLEAR (R187). TALLY_SEL.CLEAR zeroes one tally set. -/
  | tallyClear (x : Issue) (v : Word)
  /-- TALLY_CLEAR_ALL (R187). TALLY_SEL.CLEAR_ALL zeroes all eight tally sets. -/
  | tallyClearAll (x : Issue) (v : Word)
  /-- V_ADD (R197). Vector add. -/
  | vAdd (x : Issue) (vd : BitVec 4) (va : BitVec 4) (vb : BitVec 4) (sloe : Bool) (type : BitVec 3)
  /-- V_SUB (R197). Vector subtract. -/
  | vSub (x : Issue) (vd : BitVec 4) (va : BitVec 4) (vb : BitVec 4) (sloe : Bool) (type : BitVec 3)
  /-- V_MUL (R197). Vector multiply. -/
  | vMul (x : Issue) (vd : BitVec 4) (va : BitVec 4) (vb : BitVec 4) (sloe : Bool) (type : BitVec 3)
  /-- V_MIN (R197). Vector minimum. -/
  | vMin (x : Issue) (vd : BitVec 4) (va : BitVec 4) (vb : BitVec 4) (sloe : Bool) (type : BitVec 3)
  /-- V_MAX (R197). Vector maximum. -/
  | vMax (x : Issue) (vd : BitVec 4) (va : BitVec 4) (vb : BitVec 4) (sloe : Bool) (type : BitVec 3)
  /-- V_DIV (R201). Vector divide. -/
  | vDiv (x : Issue) (vd : BitVec 4) (va : BitVec 4) (vb : BitVec 4) (sloe : Bool) (type : BitVec 3)
  /-- V_AND (R196). Vector bitwise AND. -/
  | vAnd (x : Issue) (vd : BitVec 4) (va : BitVec 4) (vb : BitVec 4) (sloe : Bool) (type : BitVec 3)
  /-- V_OR (R196). Vector bitwise OR. -/
  | vOr (x : Issue) (vd : BitVec 4) (va : BitVec 4) (vb : BitVec 4) (sloe : Bool) (type : BitVec 3)
  /-- V_XOR (R196). Vector bitwise XOR. -/
  | vXor (x : Issue) (vd : BitVec 4) (va : BitVec 4) (vb : BitVec 4) (sloe : Bool) (type : BitVec 3)
  /-- V_SHL (R196). Vector shift left. -/
  | vShl (x : Issue) (vd : BitVec 4) (va : BitVec 4) (vb : BitVec 4) (sloe : Bool) (type : BitVec 3)
  /-- V_SHR (R196). Vector logical shift right. -/
  | vShr (x : Issue) (vd : BitVec 4) (va : BitVec 4) (vb : BitVec 4) (sloe : Bool) (type : BitVec 3)
  /-- V_SAR (R196). Vector arithmetic shift right. -/
  | vSar (x : Issue) (vd : BitVec 4) (va : BitVec 4) (vb : BitVec 4) (sloe : Bool) (type : BitVec 3)
  /-- V_CMPEQ (R197). Vector compare for equality. -/
  | vCmpeq (x : Issue) (vd : BitVec 4) (va : BitVec 4) (vb : BitVec 4) (sloe : Bool) (type : BitVec 3)
  /-- V_CMPLT (R197). Vector compare for less than. -/
  | vCmplt (x : Issue) (vd : BitVec 4) (va : BitVec 4) (vb : BitVec 4) (sloe : Bool) (type : BitVec 3)
  /-- V_CMPLE (R197). Vector compare for less than or equal. -/
  | vCmple (x : Issue) (vd : BitVec 4) (va : BitVec 4) (vb : BitVec 4) (sloe : Bool) (type : BitVec 3)
  /-- V_LDEXP (R197). Scales each element by a power of two. -/
  | vLdexp (x : Issue) (vd : BitVec 4) (va : BitVec 4) (vb : BitVec 4) (sloe : Bool) (type : BitVec 3)
  /-- V_PERM (R196). Permutes elements by index. -/
  | vPerm (x : Issue) (vd : BitVec 4) (va : BitVec 4) (vb : BitVec 4) (sloe : Bool) (type : BitVec 3)
  /-- V_FMA (R197). Fused multiply-add. -/
  | vFma (x : Issue) (vd : BitVec 4) (va : BitVec 4) (vb : BitVec 4) (sloe : Bool) (type : BitVec 3)
  /-- V_FMS (R197). Fused multiply-subtract. -/
  | vFms (x : Issue) (vd : BitVec 4) (va : BitVec 4) (vb : BitVec 4) (sloe : Bool) (type : BitVec 3)
  /-- V_FNMA (R197). Negated fused multiply-add. -/
  | vFnma (x : Issue) (vd : BitVec 4) (va : BitVec 4) (vb : BitVec 4) (sloe : Bool) (type : BitVec 3)
  /-- V_SEL (R196). Selects elements by a mask. -/
  | vSel (x : Issue) (vd : BitVec 4) (va : BitVec 4) (vb : BitVec 4) (sloe : Bool) (type : BitVec 3)
  /-- V_DPA (R198). INT8 four-term dot product accumulated into INT32. -/
  | vDpa (x : Issue) (vd : BitVec 4) (va : BitVec 4) (vb : BitVec 4) (sloe : Bool) (type : BitVec 3)
  /-- V_NEG (R196). Negates each element. -/
  | vNeg (x : Issue) (vd : BitVec 4) (va : BitVec 4) (sloe : Bool) (type : BitVec 3)
  /-- V_ABS (R196). Absolute value of each element. -/
  | vAbs (x : Issue) (vd : BitVec 4) (va : BitVec 4) (sloe : Bool) (type : BitVec 3)
  /-- V_MOV (R196). Vector register move. -/
  | vMov (x : Issue) (vd : BitVec 4) (va : BitVec 4) (sloe : Bool) (type : BitVec 3)
  /-- V_RCP (R201). Reciprocal. -/
  | vRcp (x : Issue) (vd : BitVec 4) (va : BitVec 4) (sloe : Bool) (type : BitVec 3)
  /-- V_SQRT (R201). Square root. -/
  | vSqrt (x : Issue) (vd : BitVec 4) (va : BitVec 4) (sloe : Bool) (type : BitVec 3)
  /-- V_RSQRT (R201). Reciprocal square root. -/
  | vRsqrt (x : Issue) (vd : BitVec 4) (va : BitVec 4) (sloe : Bool) (type : BitVec 3)
  /-- V_EXP2 (R201). Base-2 exponential. -/
  | vExp2 (x : Issue) (vd : BitVec 4) (va : BitVec 4) (sloe : Bool) (type : BitVec 3)
  /-- V_LOG2 (R201). Base-2 logarithm. -/
  | vLog2 (x : Issue) (vd : BitVec 4) (va : BitVec 4) (sloe : Bool) (type : BitVec 3)
  /-- V_EXP (R201). Natural exponential. -/
  | vExp (x : Issue) (vd : BitVec 4) (va : BitVec 4) (sloe : Bool) (type : BitVec 3)
  /-- V_TANH (R201). Hyperbolic tangent. -/
  | vTanh (x : Issue) (vd : BitVec 4) (va : BitVec 4) (sloe : Bool) (type : BitVec 3)
  /-- V_SIGM (R201). Logistic sigmoid. -/
  | vSigm (x : Issue) (vd : BitVec 4) (va : BitVec 4) (sloe : Bool) (type : BitVec 3)
  /-- V_SIN (R201). Sine. -/
  | vSin (x : Issue) (vd : BitVec 4) (va : BitVec 4) (sloe : Bool) (type : BitVec 3)
  /-- V_COS (R201). Cosine. -/
  | vCos (x : Issue) (vd : BitVec 4) (va : BitVec 4) (sloe : Bool) (type : BitVec 3)
  /-- V_BSCALE (R205). Computes the E8M0 scale of each block of 32 elements. -/
  | vBscale (x : Issue) (vd : BitVec 4) (va : BitVec 4) (sloe : Bool) (type : BitVec 3)
  /-- V_RADD (R200). Reduces the elements of a register by addition. -/
  | vRadd (x : Issue) (vd : BitVec 4) (va : BitVec 4) (sloe : Bool) (type : BitVec 3)
  /-- V_RMAX (R199). Reduces the elements of a register to their maximum. -/
  | vRmax (x : Issue) (vd : BitVec 4) (va : BitVec 4) (sloe : Bool) (type : BitVec 3)
  /-- V_RMIN (R199). Reduces the elements of a register to their minimum. -/
  | vRmin (x : Issue) (vd : BitVec 4) (va : BitVec 4) (sloe : Bool) (type : BitVec 3)
  /-- V_CVT (R203). Converts elements between lane formats. -/
  | vCvt (x : Issue) (vd : BitVec 4) (va : BitVec 4) (rctl : BitVec 5) (type : BitVec 3)
  /-- V_PACK4 (R204). Packs elements into INT4 or E2M1 blocks. -/
  | vPack4 (x : Issue) (vd : BitVec 4) (va : BitVec 4) (rctl : BitVec 5) (type : BitVec 3)
  /-- V_UNPACK4 (R204). Expands a 4-bit block into FP32 elements. -/
  | vUnpack4 (x : Issue) (vd : BitVec 4) (va : BitVec 4) (rctl : BitVec 5) (type : BitVec 3)
  /-- V_SPLAT (R194). Broadcasts a general register into every element. -/
  | vSplat (x : Issue) (rg : BitVec 5) (vr : BitVec 4) (lane : BitVec 7) (type : BitVec 3)
  /-- V_GETL (R194). Reads one element into a general register. -/
  | vGetl (x : Issue) (rg : BitVec 5) (vr : BitVec 4) (lane : BitVec 7) (type : BitVec 3)
  /-- V_SETL (R194). Writes one element from a general register. -/
  | vSetl (x : Issue) (rg : BitVec 5) (vr : BitVec 4) (lane : BitVec 7) (type : BitVec 3)
  /-- V_LD (R209). Loads 128 B from D-space into a vector register. -/
  | vLd (x : Issue) (vd : BitVec 4) (rs1 : BitVec 5) (rs2 : BitVec 5)
  /-- V_ST (R209). Stores a vector register to 128 B of D-space. -/
  | vSt (x : Issue) (vs : BitVec 4) (rs1 : BitVec 5) (rs2 : BitVec 5)
  /-- V_LDT (R210). Reads a tile row into a vector register. -/
  | vLdt (x : Issue) (vd : BitVec 4) (tile : BitVec 4) (rs2 : BitVec 5)
  /-- V_STT (R210). Writes a vector register into a tile row. -/
  | vStt (x : Issue) (vs : BitVec 4) (tile : BitVec 4) (rs2 : BitVec 5)
  /-- V_GATHER (R211). Gathers elements by index. -/
  | vGather (x : Issue) (vd : BitVec 4) (rs1 : BitVec 5) (rs2 : BitVec 5) (vi : BitVec 4)
  /-- V_SCATTER (R211). Scatters elements by index. -/
  | vScatter (x : Issue) (vs : BitVec 4) (rs1 : BitVec 5) (rs2 : BitVec 5) (vi : BitVec 4)
  /-- V_TALLY (R212). Counts the elements of a register into a tally set. -/
  | vTally (x : Issue) (va : BitVec 4) (set : BitVec 3) (type : BitVec 3)
  /-- V_SEED (R208). Seeds the vector lane generator. -/
  | vSeed (x : Issue) (rs : BitVec 5)
  /-- MEMFILL (R233). Fills a range with a repeated 8-byte pattern, chunk by chunk. -/
  | memfill (x : Issue) (ra : BitVec 5) (rs1 : BitVec 5) (rs2 : BitVec 5)
  /-- LWOPEN (R237). Opens a landing window. -/
  | lwopen (x : Issue) (rd : BitVec 5) (rs1 : BitVec 5) (rs2 : BitVec 5)
  /-- LWCLOSE (R241). Closes a landing window and revokes its credits. -/
  | lwclose (x : Issue) (rd : BitVec 5) (rs1 : BitVec 5)
  /-- LWSTAT (R237). Returns the status of a landing window. -/
  | lwstat (x : Issue) (rd : BitVec 5) (rs1 : BitVec 5)
  /-- CREDIT_REQ (R238). The receiver judges a credit request and grants or refuses it. -/
  | creditReq (i : Nat)
  /-- CREDIT_GRANT (R251). The sender unit receives a grant and begins sending its remote-write data. -/
  | creditGrant (i : Nat)
  /-- CREDIT_REFUSE (R238). The sender unit receives a refusal and retries or ends by reason. -/
  | creditRefuse (i : Nat)
  /-- CREDIT_REVOKE (R241). The sender unit receives a revoke and ends its remote write with 0x12. -/
  | creditRevoke (i : Nat)
  /-- CREDIT_RETRY (R238). Every 2 µs after a NO_WINDOW or BUSY refusal, the unit requests the credit again. -/
  | creditRetry (core : BitVec 13) (u : Eng)
  /-- CREDIT_TIMEOUT (R238). No reply within 50 ms ends the request with TIMEOUT. -/
  | creditTimeout (core : BitVec 13) (u : Eng)
  /-- CREDIT_QUARANTINE_END (R595). A freed credit entry leaves quarantine after 21 ms. -/
  | creditQuarantineEnd (core : BitVec 13) (entry : BitVec 6)
  /-- REMOTE_WRITE (R239). A remote-write packet arrives; it is written or dropped, and any riding signal is applied. -/
  | remoteWrite (i : Nat)
  /-- LANDING_ACK (R373). The sender receives the landing acknowledgment of its whole credit. -/
  | landingAck (i : Nat)
  /-- WINDOW_REQUEST (R234). A module-window read, write or tile transfer is performed at the owning core's network path. -/
  | windowRequest (i : Nat)
  /-- SCRUB_VISIT (R229). The scrubber reads and checks one beat in a free or scrub slot. -/
  | scrubVisit (core : BitVec 13) (ecc : Ecc)
  /-- ST_Q (R253). Copies a stream descriptor into a slot's queue. -/
  | stQ (x : Issue) (slot : BitVec 3) (rs : BitVec 5)
  /-- ST_WAIT (R255). Waits for the head segment and returns its segment word. -/
  | stWait (x : Issue) (rd : BitVec 5) (slot : BitVec 3)
  /-- ST_REL (R256). Releases or posts the head segment. -/
  | stRel (x : Issue) (slot : BitVec 3)
  /-- STREAM_DESC_START (R248). A descriptor becomes active, or starts early, and is checked before any byte moves. -/
  | streamDescStart (core : BitVec 13) (slot : BitVec 3)
  /-- STREAM_RESPONSE (R250). A stream request's data or acknowledgment arrives and is landed. -/
  | streamResponse (core : BitVec 13) (slot : BitVec 3) (i : Nat)
  /-- ST_STOP (R262). Slot command STOP. -/
  | stStop (x : Issue) (slot : BitVec 3)
  /-- ST_RESUME (R262). Slot command RESUME. -/
  | stResume (x : Issue) (slot : BitVec 3)
  /-- ST_SKIP (R262). Slot command SKIP. -/
  | stSkip (x : Issue) (slot : BitVec 3)
  /-- ST_FLUSH (R262). Slot command FLUSH. -/
  | stFlush (x : Issue) (slot : BitVec 3)
  /-- STALL_CLEAR (R266). STALL_CFG.CLEAR zeroes the seven stall counters. -/
  | stallClear (x : Issue) (v : Word)
  /-- CMO_CLEAN (R280). Cache maintenance CLEAN. -/
  | cmoClean (x : Issue) (v : Word)
  /-- CMO_INV (R280). Cache maintenance INV. -/
  | cmoInv (x : Issue) (v : Word)
  /-- CMO_CLEAN_INV (R280). Cache maintenance CLEAN_INV. -/
  | cmoCleanInv (x : Issue) (v : Word)
  /-- CMO_LOCK (R286). Fills and locks a D-cache line. -/
  | cmoLock (x : Issue) (v : Word)
  /-- CMO_UNLOCK (R290). Releases cache locks. -/
  | cmoUnlock (x : Issue) (v : Word)
  /-- PF_FLUSH (R291). PF_CTL.FLUSH empties the prefetch side buffer. -/
  | pfFlush (x : Issue) (v : Word)
  /-- CACHE_FILL (R278). A D-cache or side-buffer fill response arrives and installs a line. -/
  | cacheFill (i : Nat)
  /-- VICTIM (R279). The memory-side cache takes or declines an offered clean victim. -/
  | victim (i : Nat)
  /-- CACHE_INIT_DONE (R294). The reset invalidation of a cache ends. -/
  | cacheInitDone (core : BitVec 13) (icache : Bool)
  /-- TLB_INV_VA (R306). TLB_INV op 1 removes the entry that covers VA. -/
  | tlbInvVa (x : Issue) (v : Word)
  /-- TLB_INV_ALL (R306). TLB_INV op 2 removes all TLB entries. -/
  | tlbInvAll (x : Issue) (v : Word)
  /-- XLT_ROOT_WRITE (R296). Writing XLT_ROOT sets the root and invalidates the TLB. -/
  | xltRootWrite (x : Issue) (v : Word)
  /-- WALK_COMPLETE (R304). A page walk ends and installs its translation or reports a fault. -/
  | walkComplete (core : BitVec 13) (i : Nat)
  /-- XLT_FWD (R309). Forwards a thread's translation fault to the dispatcher. -/
  | xltFwd (x : Issue) (v : Word)
  /-- FAULT_RECORD (R466). The dispatcher writes a fault record into the fault ring. -/
  | faultRecord (i : Nat)
  /-- FAULT_REPLY_WRITE (R466). The driver writes FAULT_REPLY, and the dispatcher sends the reply to its source. -/
  | faultReplyWrite (v : Word)
  /-- FAULT_REPLY (R312). A fault reply arrives at its core, unit or controller and is applied. -/
  | faultReply (i : Nat)
  /-- SHOOT_CTL (R467). The driver starts a shootdown. -/
  | shootCtl (v : Word)
  /-- SHOOTDOWN (R307). A core or controller removes the covering entries and acknowledges. -/
  | shootdown (i : Nat)
  /-- SHOOTDOWN_ACK (R467). The last acknowledgment completes the shootdown. -/
  | shootdownAck (i : Nat)
  /-- CH_PUT (R322). Appends a word to the staging buffer. -/
  | chPut (x : Issue) (ra : BitVec 5)
  /-- CH_CLR (R322). Empties the staging buffer. -/
  | chClr (x : Issue)
  /-- CH_SEND (R324). Commits a staged message to the outbound queue. -/
  | chSend (x : Issue) (ra : BitVec 5) (rb : BitVec 5)
  /-- CH_SENDD (R340). Sends a descriptor-mode message with a CRC of the data. -/
  | chSendd (x : Issue) (ra : BitVec 5) (rb : BitVec 5)
  /-- CH_RECV (R331). Takes the head message of a ring, or waits for one. -/
  | chRecv (x : Issue) (ra : BitVec 5) (vd : BitVec 4) (ring : BitVec 4)
  /-- CH_RECVNB (R331). Takes the head message of a ring without waiting. -/
  | chRecvnb (x : Issue) (ra : BitVec 5) (vd : BitVec 4) (ring : BitVec 4)
  /-- CH_PEEK (R331). Returns the head header of a ring. -/
  | chPeek (x : Issue) (ra : BitVec 5) (ring : BitVec 4)
  /-- MESSAGE (R327). The ring interface places, parks or drops an arriving message. -/
  | message (i : Nat)
  /-- RING_STALL_EVENT (R334). A message parked past the stall limit raises event 0x0A. -/
  | ringStallEvent (core : BitVec 13) (ring : BitVec 4)
  /-- RING_ENABLE (R319). Enabling a ring through RING_CFG checks it and resets its pointers. -/
  | ringEnable (x : Issue) (ring : BitVec 4) (v : Word)
  /-- RING_PAUSE (R335). Sets or clears PAUSE of a ring. -/
  | ringPause (x : Issue) (ring : BitVec 4) (v : Word)
  /-- RING_DISCARD (R336). Sets or clears DISCARD of a ring. -/
  | ringDiscard (x : Issue) (ring : BitVec 4) (v : Word)
  /-- CH_PRESS (R343). Sends a contribution to a press queue. -/
  | chPress (x : Issue) (ra : BitVec 5) (rb : BitVec 5)
  /-- CH_PCFG (R342). Configures and opens a press queue. -/
  | chPcfg (x : Issue) (ra : BitVec 5) (rb : BitVec 5)
  /-- CH_PCLOSE (R347). Closes a press queue. -/
  | chPclose (x : Issue) (ra : BitVec 5) (rb : BitVec 5)
  /-- CH_PSTAT (R348). Returns the status of a press queue. -/
  | chPstat (x : Issue) (ra : BitVec 5) (rb : BitVec 5)
  /-- PRESS_CTL (R342). A press queue acts on a configure, close or status message and replies. -/
  | pressCtl (i : Nat)
  /-- PRESS_CONTRIB (R344). A press queue adds or drops an arriving contribution. -/
  | pressContrib (i : Nat)
  /-- SC_SET (R355). Sets a counter's value. -/
  | scSet (x : Issue) (rs : BitVec 5) (cnt : BitVec 6) (ord : Bool)
  /-- SC_ADD (R354). Adds to a counter. -/
  | scAdd (x : Issue) (rs : BitVec 5) (cnt : BitVec 6) (ord : Bool)
  /-- SC_SUB (R356). Subtracts from a counter, or flags an underflow. -/
  | scSub (x : Issue) (rs : BitVec 5) (cnt : BitVec 6) (ord : Bool)
  /-- SC_GET (R380). Reads a counter's value. -/
  | scGet (x : Issue) (rd : BitVec 5) (cnt : BitVec 6)
  /-- SC_WAIT (R357). Waits until a counter reaches a value. -/
  | scWait (x : Issue) (rs : BitVec 5) (cnt : BitVec 6) (ord : Bool) (intr : Bool)
  /-- SC_WAITSUB (R358). Waits for a counter value and subtracts it. -/
  | scWaitsub (x : Issue) (rs : BitVec 5) (cnt : BitVec 6) (ord : Bool) (intr : Bool)
  /-- SC_SIG (R360). Sends a signal to a counter of a named core. -/
  | scSig (x : Issue) (ra : BitVec 5) (rs : BitVec 5) (rel : Bool)
  /-- SIGNAL_ARRIVAL (R362). A signal arrives and is applied or dropped as stale. -/
  | signalArrival (i : Nat)
  /-- SC_WRITE (R355). An out to SCn writes the counter fields, with KEEP honoured. -/
  | scWrite (x : Issue) (cnt : BitVec 6) (v : Word)
  /-- AMO_SWAP (R369). Atomic swap. -/
  | amoSwap (x : Issue) (rd : BitVec 5) (rs1 : BitVec 5) (rs2 : BitVec 5) (eight : Bool) (ord : Bool)
  /-- AMO_CAS (R369). Atomic compare and swap. -/
  | amoCas (x : Issue) (rd : BitVec 5) (rs1 : BitVec 5) (rs2 : BitVec 5) (eight : Bool) (ord : Bool)
  /-- AMO_ADD (R369). Atomic add. -/
  | amoAdd (x : Issue) (rd : BitVec 5) (rs1 : BitVec 5) (rs2 : BitVec 5) (eight : Bool) (ord : Bool)
  /-- AMO_AND (R369). Atomic AND. -/
  | amoAnd (x : Issue) (rd : BitVec 5) (rs1 : BitVec 5) (rs2 : BitVec 5) (eight : Bool) (ord : Bool)
  /-- AMO_OR (R369). Atomic OR. -/
  | amoOr (x : Issue) (rd : BitVec 5) (rs1 : BitVec 5) (rs2 : BitVec 5) (eight : Bool) (ord : Bool)
  /-- AMO_XOR (R369). Atomic XOR. -/
  | amoXor (x : Issue) (rd : BitVec 5) (rs1 : BitVec 5) (rs2 : BitVec 5) (eight : Bool) (ord : Bool)
  /-- AMO_MIN (R369). Atomic signed minimum. -/
  | amoMin (x : Issue) (rd : BitVec 5) (rs1 : BitVec 5) (rs2 : BitVec 5) (eight : Bool) (ord : Bool)
  /-- AMO_MAX (R369). Atomic signed maximum. -/
  | amoMax (x : Issue) (rd : BitVec 5) (rs1 : BitVec 5) (rs2 : BitVec 5) (eight : Bool) (ord : Bool)
  /-- AMO_MINU (R369). Atomic unsigned minimum. -/
  | amoMinu (x : Issue) (rd : BitVec 5) (rs1 : BitVec 5) (rs2 : BitVec 5) (eight : Bool) (ord : Bool)
  /-- AMO_MAXU (R369). Atomic unsigned maximum. -/
  | amoMaxu (x : Issue) (rd : BitVec 5) (rs1 : BitVec 5) (rs2 : BitVec 5) (eight : Bool) (ord : Bool)
  /-- ATOMIC_AT_HOME (R226). The home performs an arriving atomic as one read-modify-write and answers. -/
  | atomicAtHome (i : Nat)
  /-- FENCE (R376). Waits for the earlier accesses of the WAITFOR observers, holding the HOLD observers. -/
  | fence (x : Issue) (waitfor : BitVec 4) (hold : BitVec 4) (acq : Bool)
  /-- DM_START (R384). Starts a DMA chain on an idle channel. -/
  | dmStart (x : Issue) (rd : BitVec 5) (ch : BitVec 2) (rs : BitVec 5)
  /-- DM_WAIT (R385). Waits until a DMA channel is idle. -/
  | dmWait (x : Issue) (ch : BitVec 2)
  /-- DMA_DESC_FETCH (R396). A descriptor fetch returns; the descriptor is checked and started. -/
  | dmaDescFetch (core : BitVec 13) (ch : BitVec 2)
  /-- DMA_RESPONSE (R388). A DMA read or write response arrives and is landed or acknowledged. -/
  | dmaResponse (core : BitVec 13) (ch : BitVec 2) (i : Nat)
  /-- DMA_RETRY_GAP (R397). After RETRY_GAP_US, a block that failed with a bus error is requested again. -/
  | dmaRetryGap (core : BitVec 13) (ch : BitVec 2) (i : Nat)
  /-- DMA_COMPLETE (R393). A descriptor's last write is performed; write-back, counter and link follow. -/
  | dmaComplete (core : BitVec 13) (ch : BitVec 2)
  /-- DMA_STOP (R400). DMA command STOP. -/
  | dmaStop (x : Issue) (ch : BitVec 2)
  /-- DMA_RESUME (R400). DMA command RESUME. -/
  | dmaResume (x : Issue) (ch : BitVec 2)
  /-- DMA_SKIP (R400). DMA command SKIP. -/
  | dmaSkip (x : Issue) (ch : BitVec 2)
  /-- DMA_ABORT (R400). DMA command ABORT. -/
  | dmaAbort (x : Issue) (ch : BitVec 2)
  /-- DROP_NOTICE (R596). A drop notice arrives at the packet's source, which counts it or lowers its POS. -/
  | dropNotice (i : Nat)
  /-- ERROR_RESP (R421). An error response reaches the unit waiting for it. -/
  | errorResp (i : Nat)
  /-- PACKET_AGED (R419). A packet reaching AGE 999 is removed and answered. -/
  | packetAged (i : Nat)
  /-- COMMAND (R414). A dispatcher or dictionary command packet, unicast or multicast, reaches its cores. -/
  | command (i : Nat)
  /-- HBM_READ (R598). An HBM controller serves a read request. -/
  | hbmRead (i : Nat) (ecc : Ecc)
  /-- HBM_WRITE (R598). An HBM controller takes a write into its write buffers and acknowledges it. -/
  | hbmWrite (i : Nat)
  /-- COMPANION_ACCESS (R462). A companion access to the HBM or register window arrives over a Limjo link. -/
  | companionAccess (link : BitVec 2) (op : CompOp)
  /-- FABRIC_FRAME (R425). A fabric frame is received and accepted, discarded or answered with a NAK. -/
  | fabricFrame (port : Nat) (f : FabFrame)
  /-- NAK (R425). A NAK makes the sender replay from ACK + 1. -/
  | nak (port : Nat) (ack : BitVec 12)
  /-- REPLAY_TIMEOUT (R425). No acknowledgment for 8 µs makes the sender replay. -/
  | replayTimeout (port : Nat)
  /-- FABRIC_PACKET_AGED (R434). A fabric packet whose FAGE reaches 18,000 is dropped. -/
  | fabricPacketAged (port : Nat) (i : Nat)
  /-- PORT_DOWN (R432). A port goes DOWN on timeout, loss of lock or disabling. -/
  | portDown (port : Nat)
  /-- PORT_SEQ (R432). A port report arrives, and the lost frames are resent. -/
  | portSeq (port : Nat) (seq : BitVec 12)
  /-- PORT_SEQ_TIMEOUT (R432). With no report after 1 ms, the unreported packets are dropped with LOST. -/
  | portSeqTimeout (port : Nat)
  /-- FLOW_HOLD_END (R432). After the 20-ms hold, the affected flows are routed anew. -/
  | flowHoldEnd (port : Nat)
  /-- PORT_RETRAIN (R433). A DOWN port retrains every 10 ms. -/
  | portRetrain (port : Nat) (r : TrainEnd)
  /-- LIMJO_LINK_DOWN (R545). A Limjo link goes DOWN, and its traffic moves to the next UP link. -/
  | limjoLinkDown (link : BitVec 2)
  /-- SEAM_FAILURE (R546). An uncorrectable flit on a seam link ends the module's work. -/
  | seamFailure
  /-- SQ_TAIL (R469). A submission doorbell write sets a ring's tail. -/
  | sqTail (r : BitVec 8) (v : Word)
  /-- CQ_HEAD (R468). The driver writes the completion ring head and wrap bit. -/
  | cqHead (c : BitVec 6) (v : Word)
  /-- DOORBELL (R465). Sets the doorbell INT_PEND of a core's thread. -/
  | doorbell (v : Word)
  /-- ORDER_FETCH (R469). The dispatcher fetches a work order from a submission ring. -/
  | orderFetch (r : BitVec 8)
  /-- ORDER_START (R471). A QUEUED order whose resources are free is judged by the start checks. -/
  | orderStart (k : Nat)
  /-- NORM_DELIVERY (R451). The norm queue delivers its sum to the dispatcher, ending pass 1. -/
  | normDelivery
  /-- PASS2_END (R454). Every engine finishes; the step counter increments and the order completes. -/
  | pass2End
  /-- REDUCE_PIECE (R477). A piece arrives at a station and is added; complete pieces are returned. -/
  | reducePiece (k : Nat) (piece : Nat) (src : Nat) (elems : List (BitVec 32)) (sum : Bool)
  /-- ORDER_TIMEOUT (R472). TIMEOUT_MS elapses, and the order stops without saving. -/
  | orderTimeout (k : Nat)
  /-- CORE_STOP_REPORT (R472). A core-stop report reaches the dispatcher, and the order stops. -/
  | coreStopReport (i : Nat) (retest : Bool)
  /-- CORE_DONE (R475). A core's END_CNT reaches END_VALUE; when all cores have, the end steps run. -/
  | coreDone (k : Nat) (core : BitVec 13)
  /-- COMPLETION_WRITE (R479). A COMPLETING order writes its record once its ring has room. -/
  | completionWrite (k : Nat)
  /-- INTERRUPT_SEND (R467). At the end of a tick, one message is sent for each vector raised in it. -/
  | interruptSend
  /-- DICT_WRITE (R490). A dictionary write item is judged and applied, for entries without a row of their own. -/
  | dictWrite (role : Role) (path : Path) (it : Item)
  /-- DICT_READ (R498). A dictionary read item returns the value at the request's instant. -/
  | dictRead (role : Role) (path : Path) (it : Item)
  /-- GROUP_ENABLE (R491). Writing a group's ENABLE runs the group's check. -/
  | groupEnable (role : Role) (path : Path) (index : Nat) (v : Bool)
  /-- HOLD_READ (R500). A BLOB read with HOLD copies the entry into a hold, or reads from one. -/
  | holdRead (role : Role) (path : Path) (it : Item)
  /-- HOLD_EXPIRY (R500). A hold ends 1 s after its last read. -/
  | holdExpiry (n : BitVec 4)
  /-- FLASH_COMMIT_DONE (R487). A persistent write's flash commit completes and is answered. -/
  | flashCommitDone
  /-- GO (R506). MB_CTL.GO submits the mailbox request. -/
  | go (v : Word)
  /-- MAILBOX_RESPONSE (R506). The response is written to MB_RESP, DONE is set and vector 66 may be sent. -/
  | mailboxResponse
  /-- REQUEST (R503). A rind-port REQUEST frame is received and queued for its tick. -/
  | request (f : RindFrame)
  /-- DISCOVER (R503). A DISCOVER is answered with DISCOVER_RESP. -/
  | discover (f : RindFrame)
  /-- OPEN_REQ (R559). An operator opens a rind-port session. -/
  | openReq (key : Nat) (fieldsOk : Bool) (sigOk : Bool) (sessionKey : Nat)
  /-- CLOSE (R560). Closes a session. -/
  | close (session : Nat) (tagOk : Bool)
  /-- SESSION_TIMEOUT (R560). A session ends after 600 s without an accepted request. -/
  | sessionTimeout (session : Nat)
  /-- PLCA_STATUS_CHANGE (R502). The PLCA status changes; held responses are discarded or sent. -/
  | plcaStatusChange (ok : Bool)
  /-- RESET_REQ (R497). A write of 1 requests a module reset in the next tick. -/
  | resetReq (role : Role) (path : Path) (v : Bool)
  /-- MODULE_RESET (R527). A reset request starts a boot of kind 1. -/
  | moduleReset
  /-- OFF_REQ (R514). Enters Off, or permits a cold start. -/
  | offReq (role : Role) (path : Path) (v : Bool)
  /-- RETIRE_REQ (R538). Marks a logical id for retirement. -/
  | retireReq (role : Role) (path : Path) (id : Nat)
  /-- REINSTATE (R542). Makes a retired position a spare at the next start. -/
  | reinstate (role : Role) (path : Path) (pos : Nat)
  /-- STAGE (R557). Writes bytes of an image into the staging area. -/
  | stage (role : Role) (path : Path) (off : Nat) (data : List Byte)
  /-- COMMIT (R557). Installs the staged firmware image or configuration record. -/
  | commit (role : Role) (path : Path) (v : Nat) (check : Nat)
  /-- NONCE (R561). Writes the verifier's nonce. -/
  | nonce (role : Role) (path : Path) (data : List Byte)
  /-- REPORT (R561). Reading REPORT returns a signed attestation report. -/
  | report (role : Role) (path : Path)
  /-- FABRIC_ENABLE (R436). Enables the fabric and takes up the torus values. -/
  | fabricEnable (role : Role) (path : Path) (v : Bool)
  /-- PORT_ENABLE (R432). Writing 0 takes a port DOWN; 1 lets it retrain. -/
  | portEnable (role : Role) (path : Path) (port : Nat) (v : Bool)
  /-- STEP_SIZE (R454). Writes η and sets STEP_WRITTEN. -/
  | stepSize (role : Role) (path : Path) (v : BitVec 32)
  /-- STEP_COUNTER (R454). Writes the step counter and clears PASS2_PARTIAL. -/
  | stepCounter (role : Role) (path : Path) (v : BitVec 32)
  /-- GLOBAL_NORM_SQ (R459). Writes the global norm and sets NORM_FRESH. -/
  | globalNormSq (role : Role) (path : Path) (v : BitVec 32)
  /-- DEBUG_HALT (R593). DEBUG group command HALT. -/
  | debugHalt (role : Role) (path : Path)
  /-- DEBUG_RESUME (R593). DEBUG group command RESUME. -/
  | debugResume (role : Role) (path : Path)
  /-- DEBUG_STEP (R593). DEBUG group command STEP. -/
  | debugStep (role : Role) (path : Path)
  /-- IO_DATA_READ (R592). Performs a supervisor in on the target core. -/
  | ioDataRead (role : Role) (path : Path)
  /-- IO_DATA_WRITE (R592). Performs a supervisor out on the target core. -/
  | ioDataWrite (role : Role) (path : Path) (v : Word)
  /-- HALT_REQ (R581). DBG_HALT requests the halt of threads. -/
  | haltReq (x : Issue) (v : Word)
  /-- DBG_RESUME (R585). DBG_HALT resumes halted threads. -/
  | dbgResume (x : Issue) (v : Word)
  /-- DBG_STEP (R585). DBG_HALT steps halted threads by one instruction. -/
  | dbgStep (x : Issue) (v : Word)
  /-- DBG_DATA_READ (R590). Reads a register of a stopped thread. -/
  | dbgDataRead (x : Issue) (rd : BitVec 5)
  /-- DBG_DATA_WRITE (R590). Writes a register of a stopped thread. -/
  | dbgDataWrite (x : Issue) (v : Word)
  /-- PMC_CLEAR (R591). PMC_CFG.CLEAR zeroes one programmable counter. -/
  | pmcClear (x : Issue) (n : BitVec 3) (v : Word)
  /-- PMC_CLEAR_ALL (R591). PMC_CTL.CLEAR_ALL zeroes every counter of the range. -/
  | pmcClearAll (x : Issue) (v : Word)
  /-- EXTEST (R579). TAP instruction that drives and samples the J2 pins. -/
  | extest (pins : Nat)
  /-- IDCODE (R579). TAP instruction that selects the ID code register. -/
  | idcode
  /-- SAMPLE_PRELOAD (R579). TAP instruction that samples or preloads the boundary register. -/
  | samplePreload (pins : Nat)
  /-- DICT (R580). TAP Update-DR submits a dictionary request as OBSERVER. -/
  | dict (data : RindFrame)
  /-- BYPASS (R579). TAP bypass instruction. -/
  | bypass
  /-- TRST (R579). TRST_L low resets the TAP controller. -/
  | trst
  /-- POWER_STATE_CHOICE (R516). Each rind tick, the target power state is chosen. -/
  | powerStateChoice
  /-- STATE_ENTRY (R514). After DWELL_US, the module enters Nap, Hold or Parked. -/
  | stateEntry
  /-- WAKE (R517). A wake event returns the module to Run. -/
  | wake
  /-- THROTTLE_PERIOD (R522). Every 100 ticks, the duty of each die is set. -/
  | throttlePeriod (r : ThrottleIn)
  /-- POWER_FAIL (R520). An input leaves its limits, and every die and stack is switched off. -/
  | powerFail (aux : Bool)
  /-- THERMAL_TRIP (R523). A sensor passes its trip point; orders abort and the module parks. -/
  | thermalTrip
  /-- COOLANT_LOSS (R524). Low flow or a leak takes the module to Off. -/
  | coolantLoss
  /-- LEAK (R575). A leak reading in two ticks sets LEAK and takes a coolant loss. -/
  | leak (pin : Bool)
  /-- COLD_START (R520). The main input in range for 100 ms begins a cold start. -/
  | coldStart
  /-- POWER_ON_RESET_EXIT (R576). The auxiliary input stable for 10 ms makes the rind leave power-on reset. -/
  | powerOnResetExit (straps : BitVec 5)
  /-- RIND_RESET (R519). The auxiliary input below 3.0 V resets the rind. -/
  | rindReset
  /-- RESET_L (R572). RESET_L low for two ticks takes a reset request; its release starts the boot. -/
  | resetL (low : Bool)
  /-- BOOT_STEP_ATTEMPT (R529). An attempt of a boot step ends, passes or fails, and is journalled. -/
  | bootStepAttempt (e : BootEnd)
  /-- BOOT_STEP_TIMEOUT (R528). An attempt that exceeds its budget ends as TIMEOUT. -/
  | bootStepTimeout (component : Nat)
  /-- READ_DATA (R234). A read response (module-window, uncached, acquire, companion or COPY read) arrives at its requester, which writes the destination and completes the access. -/
  | readData (i : Nat)
  /-- WRITE_ACK (R271). The acknowledgment of a window, write-through, uncached, write-back or I/O-die write arrives, and the write counts as performed. -/
  | writeAck (i : Nat)
  /-- ATOMIC_DATA (R370). The result of an atomic performed at a remote home returns, writes rd and performs the acquire of ORD. -/
  | atomicData (i : Nat)
  /-- PRESS_REPLY (R342). The reply of a press queue to ch.pcfg, ch.pclose or ch.pstat arrives, writes ra and releases the waiting thread. -/
  | pressReply (i : Nat)
  /-- COMMAND_ACK (R418). A core's acknowledgment of a dispatcher command reaches the dispatcher, which advances a switch or end steps once all have arrived. -/
  | commandAck (i : Nat)
  /-- RECALL_ANSWER (R463). The companion's answer to a recall arrives over LC0, and the home agent updates its directory and serves the held access. -/
  | recallAnswer (h : BitVec 5) (line : Nat) (data : Option (List Byte))
  /-- PASS1_PARTIAL (R449). A Quince engine finishes its last block of pass 1, writes PARTIAL and sends its contribution to the norm queue. -/
  | pass1Partial (h : BitVec 5)
  /-- SCRUB_PASS_END (R478). The scrub pass of a SCRUB work order over its stacks and scratchpads ends, and the order completes OK or OK_DEGRADED. -/
  | scrubPassEnd (k : Nat) (corrected : List Nat) (uncorrectable : List Nat)
  /-- ILLEGAL_INSTRUCTION (R43). A thread issues a word with a reserved major opcode or unassigned function and raises 0x01. -/
  | illegalInstruction (x : Issue) (word : BitVec 32)
  /-- INSTRUCTION_FETCH (R50). An instruction fetch fills the I-cache from the home, or faults on range, translation or no-execute. -/
  | instructionFetch (core : BitVec 13) (t : BitVec 4)
  /-- TRANSMIT_OPPORTUNITY (R502). The module's PLCA transmit opportunity arrives, and it sends its oldest queued response frame. -/
  | transmitOpportunity
  /-- LEAK_CLEAR (R575). Both leak sources read dry, and the leak reading clears. -/
  | leakClear
  /-- TRIP_CLEAR (R523). Every sensor reads at least 10 K below its throttle point, enabling is permitted again and the thermal-trip alert cause clears. -/
  | tripClear
  deriving DecidableEq, Repr

end Sys2Proof
end

