-- ==== Sys2Proof/Decode.lean ====
section
/-! DEFINITION. The command that a word spells by the bits of spec/opcode_table.json. The table gives no row a bit: every row stands for a
command that reaches the module from a decoder, a register or a packet. -/

namespace Sys2Proof

/-- The command of a word of the table: none, as the table gives no row bits. -/
def decodeTableWord (_nbits _w : Nat) : Option Instr := none

end Sys2Proof
end

