-- ==== Sys2Proof/Machine/Map.lean ====
section
/-! DEFINITION. Sparse maps in one canonical form: keys strictly rising, no entry equal to the default. Registers, counters,
slots, cores and memories are such maps, so that equal contents are equal data. -/

namespace Sys2Proof.Machine

/-- A sparse map from Nat: a list of key and value, keys rising. -/
abbrev SMap (α : Type) := List (Nat × α)

/-- The value at key k, d where none is listed. -/
def mget {α : Type} (d : α) : SMap α → Nat → α
  | [], _ => d
  | (j, v) :: r, k => if j = k then v else mget d r k

/-- Sets key k to v; setting the default removes the entry. -/
def mput {α : Type} [DecidableEq α] (d : α) (k : Nat) (v : α) : SMap α → SMap α
  | [] => if v = d then [] else [(k, v)]
  | (j, w) :: r =>
    if k < j then (if v = d then (j, w) :: r else (k, v) :: (j, w) :: r)
    else if k = j then (if v = d then r else (k, v) :: r)
    else (j, w) :: mput d k v r

/-- Changes the value at key k by f. -/
def mmod {α : Type} [DecidableEq α] (d : α) (k : Nat) (f : α → α) (m : SMap α) : SMap α := mput d k (f (mget d m k)) m

/-- Keys strictly rising from a lower bound, and no listed value equal to the default: the canonical form. -/
def mwfFrom {α : Type} [DecidableEq α] (d : α) : Nat → SMap α → Bool
  | _, [] => true
  | lo, (j, v) :: r => decide (lo ≤ j) && decide (v ≠ d) && mwfFrom d (j + 1) r

/-- The canonical form of a map. -/
def mwf {α : Type} [DecidableEq α] (d : α) (m : SMap α) : Bool := mwfFrom d 0 m

/-- A set of numbers kept as a rising list: adds k. -/
def insertNat (k : Nat) : List Nat → List Nat
  | [] => [k]
  | j :: r => if k < j then k :: j :: r else if k = j then j :: r else j :: insertNat k r

/-- Removes k from a set of numbers. -/
def eraseNat (k : Nat) (l : List Nat) : List Nat := l.filter (fun j => j ≠ k)

/-- The list without its i-th element. -/
def dropAt {α : Type} : Nat → List α → List α
  | _, [] => []
  | 0, _ :: r => r
  | i + 1, a :: r => a :: dropAt i r

/-- The i-th element replaced. -/
def setAt {α : Type} : Nat → α → List α → List α
  | _, _, [] => []
  | 0, b, _ :: r => b :: r
  | i + 1, b, a :: r => a :: setAt i b r

/-- Addition that stays at a largest value. -/
def satAdd (top a b : Nat) : Nat := Nat.min top (a + b)

/-- Bytes of a number, least significant first (R10). -/
def toBytes : Nat → Nat → List Byte
  | 0, _ => []
  | n + 1, v => BitVec.ofNat 8 v :: toBytes n (v / 256)

/-- The number that bytes hold, least significant first (R10). -/
def ofBytes : List Byte → Nat
  | [] => 0
  | b :: r => b.toNat + 256 * ofBytes r

/-- Splits bytes into little-endian 8-byte words. -/
def wordsOf : Nat → List Byte → List Word
  | 0, _ => []
  | n + 1, l => BitVec.ofNat 64 (ofBytes (l.take 8)) :: wordsOf n (l.drop 8)

/-- The bytes of words, in order. -/
def bytesOf (l : List Word) : List Byte := (l.map (fun w => toBytes 8 w.toNat)).flatten

/-- Sign extension of the low 8·n bits of v to 64 bits. -/
def sextBytes (n : Nat) (v : Nat) : Word :=
  if 2 ^ (8 * n - 1) ≤ v then BitVec.ofNat 64 (v + 2 ^ 64 - 2 ^ (8 * n)) else BitVec.ofNat 64 v

/-- The i-th word of a list, zero past its end. -/
def wat (l : List Word) (i : Nat) : Word := l.getD i 0#64

/-- Bits [hi:lo] of a number. -/
def nbits (v hi lo : Nat) : Nat := (v / 2 ^ lo) % 2 ^ (hi + 1 - lo)

/-- Bit i of a number. -/
def nbit (v i : Nat) : Bool := (v / 2 ^ i) % 2 == 1

/-- A field of a register. -/
def fl (n lo : Nat) : Nat := n * 2 ^ lo

/-- A register word. -/
def w64 (n : Nat) : Word := BitVec.ofNat 64 n

end Sys2Proof.Machine
end

