-- ==== Sys2Proof/Machine/Formats.lean ====
section
/-! DEFINITION. Number formats, conversion and exact arithmetic (R119–R142): encodings, rounding (R127–R129), tally classes (R132, R133), the
stochastic generator (R183), and the sums of the array (R134, R135, R138). -/

namespace Sys2Proof.Machine

/-- Formats (Table: format encodings); E8M0 scales are bytes. -/
inductive Fmt where
  | int4 | e2m1 | int8 | e4m3 | e5m2 | bf16 | fp16 | fp32 | int32
  deriving DecidableEq, Repr

/-- Bits of an encoding. -/
def Fmt.bits (f : Fmt) : Nat :=
  match f with
  | .int4 | .e2m1 => 4
  | .int8 | .e4m3 | .e5m2 => 8
  | .bf16 | .fp16 => 16
  | .fp32 | .int32 => 32

/-- Two's complement formats. -/
def Fmt.isInt (f : Fmt) : Bool :=
  match f with
  | .int4 | .int8 | .int32 => true
  | .e2m1 | .e4m3 | .e5m2 | .bf16 | .fp16 | .fp32 => false

/-- Fraction bits m. -/
def Fmt.man (f : Fmt) : Nat :=
  match f with
  | .e2m1 => 1
  | .e4m3 => 3
  | .e5m2 => 2
  | .bf16 => 7
  | .fp16 => 10
  | .fp32 => 23
  | .int4 | .int8 | .int32 => 0

/-- Exponent bias. -/
def Fmt.bias (f : Fmt) : Nat :=
  match f with
  | .e2m1 => 1
  | .e4m3 => 7
  | .e5m2 | .fp16 => 15
  | .bf16 | .fp32 => 127
  | .int4 | .int8 | .int32 => 0

/-- The format has infinities and a special exponent. -/
def Fmt.hasInf (f : Fmt) : Bool :=
  match f with
  | .e5m2 | .bf16 | .fp16 | .fp32 => true
  | .int4 | .e2m1 | .int8 | .e4m3 | .int32 => false

/-- Magnitude bits of the largest finite value (Table: extreme and special values). -/
def Fmt.maxMag (f : Fmt) : Nat :=
  match f with
  | .int4 => 7
  | .e2m1 => 0x7
  | .int8 => 127
  | .e4m3 => 0x7E
  | .e5m2 => 0x7B
  | .bf16 => 0x7F7F
  | .fp16 => 0x7BFF
  | .fp32 => 0x7F7FFFFF
  | .int32 => 0x7FFFFFFF

/-- The canonical NaN (R120); 0 where the format has none. -/
def Fmt.nan (f : Fmt) : Nat :=
  match f with
  | .e4m3 => 0x7F
  | .e5m2 => 0x7E
  | .bf16 => 0x7FC0
  | .fp16 => 0x7E00
  | .fp32 => 0x7FC00000
  | .int4 | .e2m1 | .int8 | .int32 => 0

/-- An exact value: NaN, an infinity, or (−1)^neg × m × 2^e; m = 0 is a zero with its sign. -/
inductive Val where
  | nan
  | inf (neg : Bool)
  | fin (neg : Bool) (m : Nat) (e : Int)
  deriving DecidableEq, Repr

/-- The value of an encoding (R119). -/
def decode (f : Fmt) (n : Nat) : Val :=
  let w := f.bits
  let n := n % 2 ^ w
  let s := decide (2 ^ (w - 1) ≤ n)
  if f.isInt then .fin s (if s then 2 ^ w - n else n) 0
  else
    let mag := n % 2 ^ (w - 1)
    let m := f.man
    let E := mag / 2 ^ m
    let F := mag % 2 ^ m
    if f.hasInf && decide (E = 2 ^ (w - 1 - m) - 1) then (if F = 0 then .inf s else .nan)
    else if f = .e4m3 ∧ mag = 0x7F then .nan
    else if E = 0 then .fin s F (1 - (f.bias : Int) - m)
    else .fin s (2 ^ m + F) ((E : Int) - f.bias - m)

/-- m × 2^e rounded to a multiple of 2^qe, in that unit, by RMODE 0 RNE, 1 RTZ, 2 SR with the 16-bit value r (R127, R128). -/
def roundMag (m : Nat) (e qe : Int) (mode r : Nat) : Nat :=
  if qe ≤ e then m * 2 ^ (e - qe).toNat
  else
    let sh := (qe - e).toNat
    let q := m / 2 ^ sh
    let rem := m % 2 ^ sh
    let up := match mode with
      | 0 => decide (2 ^ sh < 2 * rem) || (decide (2 * rem = 2 ^ sh) && q % 2 == 1)
      | 1 => false
      | _ => decide (2 ^ 16 ≤ rem * 2 ^ 16 / 2 ^ sh + r)
    if up then q + 1 else q

/-- The unit of the last place that a value has in a floating-point format, the exponent range unbounded above. -/
def quantum (f : Fmt) (m : Nat) (e : Int) : Int :=
  max (e + Nat.log2 m - f.man) (1 - (f.bias : Int) - f.man)

/-- What became of a converted element (Table: tally bins): the first four bins, or the exponent of the result. -/
inductive Cls where
  | zero | flushed | saturated | nonfinite
  | exp (e : Int)
  deriving DecidableEq, Repr

/-- An encoding from a sign and magnitude bits. -/
def signMag (f : Fmt) (s : Bool) (mag : Nat) : Nat := mag + b2n s * 2 ^ (f.bits - 1)

/-- Two's complement encoding. -/
def intEnc (f : Fmt) (s : Bool) (mag : Nat) : Nat := if s then (2 ^ f.bits - mag) % 2 ^ f.bits else mag

/-- Largest magnitude of an integer format on a side. -/
def intLim (f : Fmt) (s : Bool) : Nat := if s then 2 ^ (f.bits - 1) else 2 ^ (f.bits - 1) - 1

/-- Conversion of a value into a format, with its class (R129, R132). -/
def convert (f : Fmt) (mode r : Nat) (sat : Bool) (x : Val) : Nat × Cls :=
  match x with
  | .nan => (f.nan, .nonfinite)
  | .inf s =>
    if f.isInt then (intEnc f s (intLim f s), .saturated)
    else if f = .e2m1 then (signMag f s 7, .saturated)
    else if f.hasInf then (signMag f s ((2 ^ (f.bits - 1 - f.man) - 1) * 2 ^ f.man), .nonfinite)
    else (f.nan, .nonfinite)
  | .fin s m e =>
    if m = 0 then (if f.isInt then 0 else signMag f s 0, .zero)
    else if f.isInt then
      let q := roundMag m e 0 mode r
      if intLim f s < q then (intEnc f s (intLim f s), .saturated)
      else if q = 0 then (0, .flushed)
      else (intEnc f s q, .exp (Nat.log2 q))
    else
      let qe := quantum f m e
      let q := roundMag m e qe mode r
      let mag := (qe + f.man + f.bias - 1).toNat * 2 ^ f.man + q
      if q = 0 then (signMag f s 0, .flushed)
      else if f.maxMag < mag then
        if sat then (signMag f s f.maxMag, .saturated)
        else if f.hasInf then (signMag f s ((2 ^ (f.bits - 1 - f.man) - 1) * 2 ^ f.man), .nonfinite)
        else (f.nan, .nonfinite)
      else (signMag f s mag, .exp (qe + Nat.log2 q))

/-- The tally bin of a class, for a base exponent (Table: tally bins). -/
def clsBin (base : Int) (c : Cls) : Nat :=
  match c with
  | .zero => 0
  | .flushed => 1
  | .saturated => 2
  | .nonfinite => 3
  | .exp e => 4 + Nat.min 35 (e - base).toNat

/-- Base exponent of the EXP bins (R133, R206); `base` is the set's signed BASE. -/
def binBase (f : Fmt) (base : BitVec 8) : Int :=
  match f with
  | .int8 | .int32 | .int4 => 0
  | .e2m1 => -1
  | .e4m3 => -9
  | .e5m2 => -16
  | .fp16 => -20
  | .bf16 | .fp32 => base.toInt

/-! ### Exact arithmetic with the signs of IEEE 754 -/

def Val.neg (x : Val) : Val :=
  match x with
  | .nan => .nan
  | .inf s => .inf (!s)
  | .fin s m e => .fin (!s) m e

def Val.abs (x : Val) : Val :=
  match x with
  | .nan => .nan
  | .inf _ => .inf false
  | .fin _ m e => .fin false m e

/-- Product; a zero has the sign that the operands' signs give, also where they are integers, which have no −0 (R138; log 57). -/
def Val.mul (x y : Val) : Val :=
  match x, y with
  | .nan, _ | _, .nan => .nan
  | .inf s, .inf t => .inf (s != t)
  | .inf s, .fin t m _ => if m = 0 then .nan else .inf (s != t)
  | .fin s m _, .inf t => if m = 0 then .nan else .inf (s != t)
  | .fin s m e, .fin t n d => .fin (s != t) (m * n) (e + d)

/-- The signed integer that s, m, e is in units of 2^g, for g ≤ e. -/
def inUnits (s : Bool) (m : Nat) (e g : Int) : Int :=
  let v : Int := m * 2 ^ (e - g).toNat
  if s then -v else v

/-- Sum; an exact zero of two terms of unlike signs is +0. -/
def Val.add (x y : Val) : Val :=
  match x, y with
  | .nan, _ | _, .nan => .nan
  | .inf s, .inf t => if s = t then .inf s else .nan
  | .inf s, .fin .. => .inf s
  | .fin .., .inf t => .inf t
  | .fin s m e, .fin t n d =>
    let g := min e d
    let v := inUnits s m e g + inUnits t n d g
    if v = 0 then .fin (s && t) 0 0 else .fin (decide (v < 0)) v.natAbs g

/-- x × 2^k. -/
def Val.scale (x : Val) (k : Int) : Val :=
  match x with
  | .fin s m e => .fin s m (e + k)
  | x => x

/-- Order of two values that are not NaN: x < y. -/
def Val.lt (x y : Val) : Bool :=
  match x, y with
  | .nan, _ | _, .nan => false
  | .inf s, .inf t => s && !t
  | .inf s, .fin .. => s
  | .fin .., .inf t => !t
  | .fin s m e, .fin t n d => decide (inUnits s m e (min e d) < inUnits t n d (min e d))

/-- Rounded to nearest even in a format, overflow to infinity. -/
def rnd (f : Fmt) (x : Val) : Nat := (convert f 0 0 false x).1

/-- A subnormal encoding becomes a zero of its sign (Table: fast-mode deviations). -/
def flushSub (f : Fmt) (n : Nat) : Nat :=
  let mag := n % 2 ^ (f.bits - 1)
  if mag < 2 ^ f.man then n - mag else n

/-! ### The stochastic generator (R183) -/

/-- One step of a lane. -/
def lfsrStep (s : BitVec 32) : BitVec 32 := if s.getLsbD 0 then (s >>> 1) ^^^ 0x80200003#32 else s >>> 1

/-- Sixteen steps: the next 16-bit value is the low half. -/
def lfsr16 (s : BitVec 32) : BitVec 32 := (List.range 16).foldl (fun s _ => lfsrStep s) s

/-! ### Four-bit blocks (R123, R124) -/

/-- E2M1 to E4M3 (Table: E2M1 expansion). -/
def e2m1Expand (n : Nat) : Nat :=
  let mag := [0x00, 0x30, 0x38, 0x3C, 0x40, 0x44, 0x48, 0x4C].getD (n % 8) 0
  if n % 8 = 0 then 0 else mag + (n / 8 % 2) * 128

/-- INT4 to INT8 by sign extension. -/
def int4Expand (n : Nat) : Nat := if 8 ≤ n % 16 then n % 16 + 240 else n % 16

/-- Expands packed 4-bit elements: element 2i in the low half of byte i. -/
def expand4 (e2m1 : Bool) (l : List Byte) : List Byte :=
  (l.map (fun b =>
    let g (n : Nat) : Byte := BitVec.ofNat 8 (if e2m1 then e2m1Expand n else int4Expand n)
    [g (b.toNat % 16), g (b.toNat / 16)])).flatten

/-! ### Sums of the array -/

/-- The sum of a group in fast mode: products truncated to the grain below the largest (R135, steps 2 to 4). -/
def groupSum (grain : Nat) (ps : List Val) : Val :=
  if ps.contains .nan || (ps.contains (.inf true) && ps.contains (.inf false)) then .nan
  else if ps.contains (.inf false) then .inf false
  else if ps.contains (.inf true) then .inf true
  else
    let tops := ps.filterMap (fun p => match p with
      | .fin _ m e => if m = 0 then none else some (e + (Nat.log2 m : Int))
      | _ => none)
    match tops with
    | [] => .fin false 0 0
    | t :: r =>
      let g := r.foldl max t - (grain : Int)
      let v := ps.foldl (fun (a : Int) p => match p with
        | .fin s m e => let k : Int := roundMag m e g 1 0; if s then a - k else a + k
        | _ => a) 0
      .fin (decide (v < 0)) v.natAbs g

/-- Step 6 of R135: one rounding to FP32, zero sums +0, subnormal results to zero. -/
def addFast (acc : Nat) (g : Val) : Nat :=
  match Val.add (decode .fp32 acc) g with
  | .fin _ 0 _ => 0
  | v => flushSub .fp32 (rnd .fp32 v)

/-- A binary32 addition of R138. -/
def addSloe (acc : Nat) (p : Val) : Nat := rnd .fp32 (Val.add (decode .fp32 acc) p)

/-- Saturating INT32 addition (R134). -/
def addInt32 (acc : BitVec 32) (v : Int) : BitVec 32 :=
  let s := acc.toInt + v
  BitVec.ofInt 32 (if s < -2147483648 then -2147483648 else if 2147483647 < s then 2147483647 else s)

/-- A scale of R125 applied to a value. -/
def blockScale (s : Nat) (x : Val) : Val := if s = 0xFF then .nan else x.scale ((s : Int) - 127)

/-- The groups of a list of products, n at a time. -/
def groupsOf (n : Nat) : Nat → List Val → List (List Val)
  | 0, _ => []
  | k + 1, l => if l.isEmpty then [] else l.take n :: groupsOf n k (l.drop n)

end Sys2Proof.Machine
end

