-- ==== Sys2Proof/Config.lean ====
section
/-! DEFINITION. What a part fixes (its grade, its identity) and the free values: constants with no body for what the spec leaves
open, so that no statement rests on a value of them. -/

namespace Sys2Proof.Config

/-- GRADE_CORES of the configuration record that is installed at reset, and of the core map of the installation's first start (R2, R8, R535):
DESIGN CHOICE KLD-4608-LQ of the three grades (log 3). -/
def firstGrade : Nat := 4608

/-- Free value number n: an undefined byte, row or register (R150, R476; log 6). -/
opaque freeValue : Nat → BitVec 64

/-- β^t in binary64, whose last bits R445 does not fix (log 6). -/
opaque pow64 : BitVec 32 → Nat → BitVec 64

/-- Result of an approximate vector operation (R201): operation, lane format, operands (log 6). -/
opaque approx : Nat → Nat → Nat → Nat → BitVec 32

/-- Which of n candidate ways or entries is replaced (R278, R302): pseudo-LRU or unstated (log 6). -/
opaque victim : Nat → Nat

/-- Repair rows of a stack, whose number the spec does not state (R543, R544; log 6). -/
opaque repairRows : Nat

/-- The DRAM row of an HBM offset (R543), which the spec does not lay out (log 6). -/
opaque hbmRow : Nat → Nat

/-- SHA-256 of bytes, as a number of 32 bytes (R554; log 9). -/
opaque sha256 : List Byte → Nat

/-- The identity signature over bytes (R552, R561; log 9). -/
opaque identitySign : List Byte → Nat

/-- The identity public key, 64 bytes (R553; log 9). -/
opaque identityPub : Nat

/-- The certificate chain (`0x9000:02`; log 9). -/
opaque certChain : List Byte

/-- SERIAL of the configuration record that is installed at reset, and the numeric part of a serial (`0x1000:04`, `:07`; log 9). -/
opaque serial : List Byte
opaque serialNumber : List Byte → Nat

/-- The binary32 reading of a sensor entry (index × 256 + subindex, and place within a RECORD) at a tick: an input from outside (R519, R522,
R524; log 6). -/
opaque sensor : Nat → Nat → Nat → BitVec 32

/-- The first of checks 2, 4 and 5 of R554 that an image fails, 0 where it passes them (log 9). -/
opaque imageCheck : List Byte → Nat

/-- Module ephemeral key and signature of an OPEN_RESP, by session number (R559; log 9). -/
opaque openProof : Nat → List Byte

end Sys2Proof.Config
end

