-- ==== Sys2Proof/Machine/State.lean ====
section
/-! DEFINITION. The state of the Kolid module: every core with its threads, engines and registers, the mesh packets in flight, the
HBM and companion memory, the dispatcher, the dictionary, the fabric, power, start-up, security and debug, and the queue of
commands. Plain data. The docstring of a field names the rule of spec/ that gives it. -/

namespace Sys2Proof.Machine

/-! ### A thread (R84, R45, R95, R102, R308, R322) -/

/-- Thread states (R84). -/
inductive TState where
  | free | ready | wait | faultWait | stopped | halted | coreStopped
  deriving DecidableEq, Repr

/-- What a waiting thread waits on (R86): its instruction, with what ends the wait. -/
inductive Wait where
  | none
  | counter (cnt : BitVec 6) (n : Nat) (sub : Bool) (ord : Bool)
  | ring (r : BitVec 4)
  | lease
  | stream (slot : BitVec 3) (rd : BitVec 5)
  | dma (ch : BitVec 2)
  | press (rd : BitVec 5)
  deriving DecidableEq, Repr

/-- What holds a READY thread inside its instruction: nothing, a page walk (R304), a request of the mesh that is not answered
(R234, R271), or a cache maintenance operation (R280). -/
inductive Held where
  | none
  | walk (page : Nat)
  | access (id : Nat)
  | cmo
  deriving DecidableEq, Repr

/-- What a fault reports: cause, address, DETAIL bits, and the translation reason and level (0 where none). An access carries one as the
template of the faults that it may meet. -/
structure FInfo where
  cause : Nat
  addr : Nat
  write : Bool
  fetch : Bool
  io : Bool
  size : Nat
  reason : Nat
  level : Nat
  deriving DecidableEq, Repr

/-- An exception entry: cause, interrupt code, trap number, ASYNC, fault address, DETAIL and the PC that is recorded. -/
structure Entry where
  cause : Nat
  int : Nat
  trap : Nat
  async : Bool
  addr : Nat
  detail : Word
  pc : Word
  deriving DecidableEq, Repr

/-- An access that a thread's instruction in progress has had answered: its home,
bytes, marked words (relative to the word of the home), and whether it was a write. -/
structure AccRec where
  home : Home
  data : List Byte
  bad : List Nat
  write : Bool
  deriving DecidableEq, Repr

/-- Flags and predicates (R45). -/
structure Flags where
  n : Bool
  z : Bool
  c : Bool
  v : Bool
  p0 : Bool
  p1 : Bool
  deriving DecidableEq, Repr

/-- A hardware loop level: count, start and end (R69). -/
structure Loop where
  lc : BitVec 32
  ls : Word
  le : Word
  deriving DecidableEq, Repr

/-- XLT_FSRn with the saved VA and PC of R308 and R314. -/
structure Fsr where
  reason : Nat
  level : Nat
  write : Bool
  fetch : Bool
  outstanding : Bool
  replied : Bool
  result : Bool
  cntEn : Bool
  cnt : BitVec 6
  seq : BitVec 8
  va : BitVec 48
  pc : BitVec 48
  deriving DecidableEq, Repr

/-- A fence that has issued and not completed (R376): the requests it waits for, what it holds, and whether it acquires. -/
structure FenceRec where
  ids : List Nat
  hold : BitVec 4
  acq : Bool
  deriving DecidableEq, Repr

/-- The debugger's hold on a thread (R581, R584, R585, R587, R588): a hit to be taken at the next instruction boundary (KIND, INDEX, ADDR),
a step in progress, the PC not to match again. -/
structure ThreadDbg where
  pend : Option (Nat × Nat × Nat)
  stepping : Bool
  skip : Option Word
  /-- HALTED through the DEBUG group, or stepped from there (R584). -/
  group : Bool
  deriving DecidableEq, Repr

/-- One hardware thread. -/
structure Thread where
  st : TState
  mode : Mode
  ae : Bool
  startMode : Mode
  startAE : Bool
  injCause : Nat
  doorbellEn : Bool
  timerEn : Bool
  lrs : Bool
  cmdIgnored : Bool
  lastCause : Nat
  waitClasses : BitVec 6
  wait : Wait
  held : Held
  pendDoorbell : Bool
  pendTimer : Bool
  nest : Nat
  thrSp : Word
  stackLimit : Word
  regs : SMap Word
  flags : Flags
  loop0 : Loop
  loop1 : Loop
  /-- The address of the next instruction; also THR_PC (R45, THR_PC). -/
  pc : Word
  /-- The pending target while the next instruction is a delay slot (R61, R105). -/
  slot : Option Word
  /-- The next instruction is the shadow of `setmode` (R90). -/
  shadow : Bool
  prog : Word
  injPend : Bool
  stopPend : Bool
  vregs : SMap (BitVec 1024)
  staged : SMap Word
  stagedN : Nat
  fsr : Fsr
  fences : List FenceRec
  dbg : ThreadDbg
  /-- The thread's context storage holds an uncorrectable error (R114 subcode 2). -/
  ctxBad : Bool
  /-- Accesses of the instruction in progress that are answered; empty between instructions. -/
  acc : List AccRec
  /-- An exception entry whose frame is not yet written (R92). -/
  entry : Option Entry
  deriving DecidableEq, Repr

/-- Flags and predicates all 0. -/
def Flags.zero : Flags := { n := false, z := false, c := false, v := false, p0 := false, p1 := false }

/-- A loop level at 0. -/
def Loop.zero : Loop := { lc := 0#32, ls := 0#64, le := 0#64 }

/-- XLT_FSR at its reset value. -/
def Fsr.reset : Fsr :=
  { reason := 0, level := 0, write := false, fetch := false, outstanding := false, replied := false, result := false,
    cntEn := false, cnt := 0#6, seq := 0#8, va := 0#48, pc := 0#48 }

/-- A thread at core reset (THR_CTL, THR_STAT, THR_PC, THR_SP, PROG, STACK_LIMITn). Registers: DESIGN CHOICE 0 (log 3). -/
def Thread.reset : Thread :=
  { st := .free, mode := .user, ae := false, startMode := .user, startAE := false, injCause := 0, doorbellEn := false,
    timerEn := false, lrs := false, cmdIgnored := false, lastCause := 0, waitClasses := 0#6, wait := .none, held := .none,
    pendDoorbell := false, pendTimer := false, nest := 0, thrSp := 0#64, stackLimit := 0#64, regs := [], flags := Flags.zero,
    loop0 := Loop.zero, loop1 := Loop.zero, pc := 0#64, slot := none, shadow := false, prog := 0#64, injPend := false,
    stopPend := false, vregs := [], staged := [], stagedN := 0, fsr := Fsr.reset, fences := [],
    dbg := { pend := none, stepping := false, skip := none, group := false }, ctxBad := false, acc := [], entry := none }

/-! ### Scratchpad, landing windows and credits (R215, R236, R238) -/

/-- A landing window (R237). -/
structure Window where
  opened : Bool
  base : Nat
  size : Nat
  maxCredits : Nat
  ownPair : Bool
  pair : Pair
  thisModule : Bool
  otherModules : Bool
  drops : Nat
  deriving DecidableEq, Repr

/-- A window that was never opened. -/
def Window.closed : Window :=
  { opened := false, base := 0, size := 0, maxCredits := 0, ownPair := false, pair := ⟨0#12, 0#4⟩, thisModule := false,
    otherModules := false, drops := 0 }

/-- A credit entry (R238, R239, R595). -/
inductive Credit where
  | free
  /-- Held: window, sender (module, core, unit), range, bytes written, pair. -/
  | held (win : Nat) (srcMod : Nat) (srcCore : Nat) (u : Eng) (off len : Nat) (done : Nat) (pair : Pair)
  /-- In quarantine, with the rind ticks it has been there. -/
  | quarantine (ticks : Nat)
  deriving DecidableEq, Repr

/-! ### Caches (R267, R286, R291) and translation (R296, R302, R304) -/

/-- A D-cache way or side-buffer line. -/
structure DLine where
  valid : Bool
  /-- Virtual address of the line. -/
  va : Nat
  /-- Back tag: home of the line (R268). -/
  home : Home
  shared : Bool
  dirty : Bool
  locked : Bool
  data : List Byte
  /-- Words that are poisoned (R292). -/
  poison : List Nat
  /-- The way's tag holds a parity error (R293). -/
  tagBad : Bool
  /-- Words that hold an error not yet met, uncorrectable or not (R292). -/
  flips : List (Nat × Bool)
  deriving DecidableEq, Repr

/-- An empty way. -/
def DLine.empty : DLine :=
  { valid := false, va := 0, home := .hbm 0, shared := false, dirty := false, locked := false, data := [], poison := [],
    tagBad := false, flips := [] }

/-- Who asked for a cache maintenance operation: a thread's `out` (R280), a dictionary write (R592), or a context switch (R270), which
leaves the registers as they are. -/
inductive CmoBy where
  | thread (t : BitVec 4)
  | io
  | switch
  deriving DecidableEq, Repr

/-- A maintenance operation in progress: CMO_CMD, the next way of its walk, lines acted on and written back so far, its write-backs that
are not acknowledged, and for LOCK the request of its fill and the line that it brought. -/
structure CmoRun where
  who : CmoBy
  cmd : Word
  next : Nat
  lines : Nat
  wb : Nat
  ids : List Nat
  fill : Option Nat
  line : Option DLine
  /-- RESULT, once the operation has nothing left to do but to wait for its write-backs. -/
  result : Option Nat
  deriving DecidableEq, Repr

/-- The caches of a core, the side buffer, the write-back buffer and the registers 0x0A00–0x0AFF. -/
structure Caches where
  /-- D-cache ways, keyed 4·set + way. -/
  d : SMap DLine
  /-- I-cache ways, keyed 4·set + way. -/
  i : SMap DLine
  /-- Prefetch side buffer, oldest first (R291). -/
  side : List DLine
  /-- Write-back buffer: line homes with the request id whose acknowledgment frees them (R272). -/
  wbb : List (Nat × Home)
  cmoAddr : Nat
  cmoLen : Nat
  cmoResult : Nat
  cmoLines : Nat
  cmoWb : Nat
  lockDrops : Nat
  pfEnable : Bool
  pfDepthM1 : Nat
  pfShared : Bool
  dirtyDiscards : Nat
  dcCorr : Nat
  dcUe : Nat
  tagPar : Nat
  icErr : Nat
  dcBusy : Bool
  icBusy : Bool
  /-- The maintenance operation in progress (R280). -/
  cmo : Option CmoRun
  /-- Values of `out`s to CMO_CMD through the debug group that wait for their turn (R280, R592). -/
  cmoWait : List Word
  deriving DecidableEq, Repr

/-- Caches at core reset (R294). -/
def Caches.reset : Caches :=
  { d := [], i := [], side := [], wbb := [], cmoAddr := 0, cmoLen := 0, cmoResult := 0, cmoLines := 0, cmoWb := 0,
    lockDrops := 0, pfEnable := true, pfDepthM1 := 1, pfShared := true, dirtyDiscards := 0, dcCorr := 0, dcUe := 0, tagPar := 0,
    icErr := 0, dcBusy := true, icBusy := true, cmo := none,
    cmoWait := [] }

/-- A translation that a TLB holds (R302): page base and log2 size, ADDR, SPACE, permissions and CLASS. -/
structure Tlb where
  va : Nat
  log2 : Nat
  addr : Nat
  comp : Bool
  r : Bool
  w : Bool
  x : Bool
  u : Bool
  cls : Nat
  deriving DecidableEq, Repr

/-- Kinds of access judged by R301. -/
inductive Acc where
  | load | store | atomic | fetch
  deriving DecidableEq, Repr

/-- Who waits for a walk: a thread at its instruction with the fault that its access would meet, a unit at its next request, or the
LOCK of a maintenance operation. -/
inductive Waiter where
  | thread (t : BitVec 4) (f : FInfo)
  | unit (u : Eng)
  | cmo
  deriving DecidableEq, Repr

/-- A walk in progress (R304). -/
structure Walk where
  page : Nat
  waiters : List Waiter
  deriving DecidableEq, Repr

/-- Translation state of a core, registers 0x0B00–0x0BFF (R296–R314). -/
structure Xlt where
  /-- XLT_ROOT: [0] ENABLE, [39:12] ROOT. -/
  root : Word
  /-- Entries of 4 KiB pages, at most 4 of each set. -/
  tlb : List Tlb
  /-- Entries of 2 MiB and 1 GiB pages, at most 32. -/
  big : List Tlb
  walks : List Walk
  walkCount : Nat
  shootdowns : Nat
  fwdIgnored : Bool
  forwards : Nat
  /-- SEQ, OUTSTANDING and saved VA of unit sources 16–27 (R310, R401). -/
  unitSeq : SMap Nat
  unitOut : List Nat
  unitVa : SMap Nat
  /-- Requests that the shootdown under way waits for (R307). -/
  shoot : Option (List Nat)
  deriving DecidableEq, Repr

/-- Translation state at core reset. -/
def Xlt.reset : Xlt :=
  { root := 0#64, tlb := [], big := [], walks := [], walkCount := 0, shootdowns := 0, fwdIgnored := false, forwards := 0,
    unitSeq := [], unitOut := [], unitVa := [], shoot := none }

/-! ### Rings (R318, R350) and counters (R353, R381) -/

/-- A channel ring: RING_CFG, RING_PTR, RING_STAT, its pair, its parked message with its age in rind ticks, and the words of
placed messages that are marked uncorrectable are those of the scratchpad (R333). -/
structure Ring where
  base : Nat
  sizeLog2 : Nat
  enable : Bool
  pause : Bool
  discard : Bool
  stallEv : Bool
  arrCntEn : Bool
  arrCnt : BitVec 6
  head : Nat
  tail : Nat
  msgs : Nat
  staleDrops : Nat
  cancelDrops : Nat
  stalled : Bool
  cfgErr : Nat
  pair : Pair
  parked : Option Msg
  parkAge : Nat
  deriving DecidableEq, Repr

/-- A ring at core reset (R350). -/
def Ring.reset : Ring :=
  { base := 0, sizeLog2 := 0, enable := false, pause := false, discard := false, stallEv := true, arrCntEn := false,
    arrCnt := 0#6, head := 0, tail := 0, msgs := 0, staleDrops := 0, cancelDrops := 0, stalled := false, cfgErr := 0,
    pair := ⟨0#12, 0#4⟩, parked := none, parkAge := 0 }

/-- A sync counter SCn; WAITERS is read from the threads (R381). -/
structure Counter where
  value : Nat
  loc : Bool
  ovf : Bool
  under : Bool
  staleSig : Nat
  deriving DecidableEq, Repr

/-- A counter at reset (R381). -/
def Counter.reset : Counter := { value := 0, loc := false, ovf := false, under := false, staleSig := 0 }

/-! ### Streams (R259, R264) and DMA channels (R402) -/

/-- Why a unit stops at an element or byte (R261, R310, R398). -/
inductive Why where
  | stopCmd
  | ue
  | err (e : Nat)
  | credit (reason : Nat)
  | xlate (reason level : Nat) (va : Nat) (write : Bool)
  | bus
  deriving DecidableEq, Repr

/-- The credit of a remote write at its sender (R238, R251). -/
inductive CreditSt where
  | none
  /-- Requested; ticks since the request and since the first refusal. -/
  | asked (since : Nat) (refused : Option Nat)
  /-- Refused with NO_WINDOW or BUSY, to be asked again; ticks since the first refusal. -/
  | again (refused : Nat)
  | held (id : Nat)
  deriving DecidableEq, Repr

/-- A queued stream descriptor with the thread and mode that queued it (R253). -/
structure Desc where
  w : List Word
  thread : BitVec 4
  mode : Mode
  deriving DecidableEq, Repr

/-- A stream slot. Progress is counted in units: elements, or blocks of 64 elements with TRANSPOSE. -/
structure Slot where
  st : Nat
  queue : List Desc
  err : Nat
  creditReason : Nat
  cmdIgnored : Bool
  started : Bool
  early : Bool
  pos : Nat
  /-- Next unit of the active descriptor to request. -/
  nxt : Nat
  /-- Next unit of the early-started descriptor to request. -/
  nxtEarly : Nat
  /-- Segments of the active descriptor that threads have released or posted. -/
  rel : Nat
  /-- Segments from the head on whose CNT increment has been applied: bit i is segment `rel` + i. -/
  counted : Nat
  /-- Units [lo, hi) of the active descriptor that failed since it last began to move (R261). -/
  failed : List (Nat × Nat)
  credit : CreditSt
  /-- The lowest failed unit and why, while the slot comes to a stop (R260, R261). -/
  stopping : Option (Nat × Why)
  /-- First unit from which credit bytes were requested: OFFSET + base·e starts the held credit (R264). -/
  creditFrom : Nat
  /-- Bytes of a LOAD_REMOTE read and not yet sent: dense offset and bytes (R251, R363). -/
  got : List (Nat × List Byte)
  /-- A unit of the early-started descriptor failed: it starts again from 0 when it becomes active (R258, R260). -/
  earlyBad : Bool
  deriving DecidableEq, Repr

/-- A slot at reset. -/
def Slot.reset : Slot :=
  { st := 0, queue := [], err := 0, creditReason := 0, cmdIgnored := false, started := false, early := false, pos := 0, nxt := 0,
    nxtEarly := 0, rel := 0, counted := 0, failed := [], credit := .none, stopping := none, creditFrom := 0, got := [],
    earlyBad := false }

/-- A DMA channel, registers 0x0900 + 0x40·c. -/
structure Chan where
  st : Nat
  err : Nat
  creditReason : Nat
  issuer : BitVec 4
  issuerMode : Mode
  cmdIgnored : Bool
  chainDone : Nat
  pos : Nat
  cur : Nat
  cfgLimit : Nat
  cfgGap : Nat
  errAddr : Nat
  errCause : Nat
  retries : Nat
  halts : Nat
  /-- The descriptor copy; empty while the fetch of CUR is outstanding (R386, R396). -/
  desc : List Word
  /-- The descriptor has passed its checks (R387). -/
  started : Bool
  /-- Next byte to request. -/
  nxt : Nat
  /-- Running CRC over the first `crcUpTo` bytes read (R392), and data read beyond them. -/
  crc : BitVec 32
  crcUpTo : Nat
  crcBuf : List (Nat × List Byte)
  /-- Word 6 RETRIES of the running descriptor. -/
  descRetries : Nat
  /-- Failures of each block, keyed by its first byte (R397). -/
  fails : SMap Nat
  /-- Blocks that wait for their retry gap: first byte, length, phase is a write, data of the write (R397). -/
  again : List (Nat × Nat × Option (List Byte))
  credit : CreditSt
  creditFrom : Nat
  stopping : Option (Nat × Why)
  /-- Bytes of a REMOTE read and not yet sent: offset and bytes (R363, R391). -/
  got : List (Nat × List Byte)
  /-- The unit of a SRC_FIXED descriptor, once it is read (R389). -/
  unit : List Byte
  /-- Abandoned: ABORT while running (R400). -/
  aborting : Bool
  deriving DecidableEq, Repr

/-- A channel at reset. -/
def Chan.reset : Chan :=
  { st := 0, err := 0, creditReason := 0, issuer := 0#4, issuerMode := .user, cmdIgnored := false, chainDone := 0, pos := 0,
    cur := 0, cfgLimit := 3, cfgGap := 10, errAddr := 0, errCause := 0, retries := 0, halts := 0, desc := [], started := false,
    nxt := 0, crc := 0xFFFFFFFF#32, crcUpTo := 0, crcBuf := [], descRetries := 0, fails := [], again := [], credit := .none,
    creditFrom := 0, stopping := none, got := [], unit := [], aborting := false }

/-! ### The matrix engine (R146–R189) -/

/-- Tag of an accumulator: type 0 ZERO, 1 INT32, 2 FP32; M and N (R155). -/
structure Tag where
  type : Nat
  m : Nat
  n : Nat
  deriving DecidableEq, Repr

/-- An accumulator: element (m, n) at key 64·m + n (R155, R188). -/
structure Accum where
  data : SMap (BitVec 32)
  tag : Tag
  /-- Some element holds an uncorrectable error (R114 subcode 3). -/
  bad : Bool
  deriving DecidableEq, Repr

/-- An instruction of the engine queue (R158), with the request id a fence waits for. -/
inductive MqOp where
  | mma (ta tb : Nat) (shape : Word)
  /-- Tile or scratchpad address, output rows under the tag at issue, seed epoch. -/
  | drain (td : Nat) (ctl : Word) (addr : Nat) (rows : Nat) (epoch : Nat)
  | swap
  | zero
  | tz (tile : Nat)
  deriving DecidableEq, Repr

/-- A queued instruction with its id. -/
structure MqItem where
  id : Nat
  op : MqOp
  deriving DecidableEq, Repr

/-- Where a part of a tile row is: its bytes read, or asked for, or its write acknowledged or under way (R172). -/
inductive RowAt where
  | got (data : List Byte) (bad : Bool)
  | sent (id n : Nat)
  deriving DecidableEq, Repr

/-- A requested tile row that has not landed (R173): kind 0 load, 1 store, 2 INT4 load, 3 E2M1 load. -/
structure TileRow where
  id : Nat
  kind : Nat
  /-- First 64-B line of the tile file, and row size in bytes. -/
  line : Nat
  bytes : Nat
  /-- The parts of the row, and of its scales. -/
  row : List RowAt
  scl : List RowAt
  /-- Bytes to be stored, and whether the row was poisoned. -/
  data : List Byte
  bad : Bool
  deriving DecidableEq, Repr

/-- A tally set's TALLY_CFG (R132, TALLY_CFGs). -/
structure TallyCfg where
  base : BitVec 8
  hold : Bool
  ovf : Bool
  deriving DecidableEq, Repr

/-- The matrix engine of a core. -/
structure Mtx where
  /-- Tile file by 64-B line, 0 to 511 (R151). -/
  tile : SMap (List Byte)
  /-- Scale store, byte 2·line + j (R152, R188). -/
  scale : SMap Byte
  poison : List Nat
  layout : Nat
  cur : Accum
  drn : Accum
  /-- Tags as left by the instructions issued so far (MTX_ACC). -/
  curI : Tag
  drnI : Tag
  queue : List MqItem
  rows : List TileRow
  /-- Tiles held by valid operand-cache entries, oldest first (R167). -/
  opc : List Nat
  lease : Option Nat
  /-- The holder was killed: the lease is freed once the engine is idle (R149). -/
  dying : Bool
  /-- Threads waiting for the lease, longest first (R147). -/
  waiters : List Nat
  shapeErr : Nat
  poisonRows : Nat
  seed : BitVec 32
  /-- Drain generator lanes by seed epoch (R184). -/
  lanes : List (Nat × List (BitVec 32))
  epoch : Nat
  tallySel : Nat
  tallyCfg : SMap TallyCfg
  /-- Bin b of set s at key 40·s + b. -/
  tally : SMap Nat
  deriving DecidableEq, Repr

/-- The tag ZERO, 64, 64 (R186). -/
def Tag.zero : Tag := { type := 0, m := 64, n := 64 }

/-- A zeroed accumulator. -/
def Accum.zero : Accum := { data := [], tag := Tag.zero, bad := false }

/-- TALLY_CFG at reset. -/
def TallyCfg.reset : TallyCfg := { base := 0xF0#8, hold := false, ovf := false }

/-- State of generator lane l for a seed: seed xor ((l + 1) × 0x9E37_79B9), or 1 where that is 0 (R184, R208). -/
def laneSeed (seed : BitVec 32) (l : Nat) : BitVec 32 :=
  let v := seed ^^^ (BitVec.ofNat 32 ((l + 1) * 0x9E3779B9))
  if v = 0#32 then 1#32 else v

/-- The engine at core reset and at a LAUNCH (R186). -/
def Mtx.reset : Mtx :=
  { tile := [], scale := [], poison := [], layout := 0, cur := Accum.zero, drn := Accum.zero, curI := Tag.zero,
    drnI := Tag.zero, queue := [], rows := [], opc := [], lease := none, dying := false, waiters := [], shapeErr := 0, poisonRows := 0,
    seed := 1#32, lanes := [(0, (List.range 64).map (laneSeed 1#32))], epoch := 0, tallySel := 0, tallyCfg := [], tally := [] }

/-! ### Debug and performance counters (R578–R593) -/

/-- A breakpoint (DBG_BPn). -/
structure Bp where
  en : Bool
  pc : Word
  mask : BitVec 16
  deriving DecidableEq, Repr

/-- A watchpoint (DBG_WPAn, DBG_WPCn). -/
structure Wp where
  en : Bool
  rd : Bool
  wr : Bool
  lenLog2 : Nat
  addr : Word
  mask : BitVec 16
  deriving DecidableEq, Repr

/-- DBG_HIT. -/
structure Hit where
  valid : Bool
  thread : Nat
  kind : Nat
  index : Nat
  addr : Nat
  deriving DecidableEq, Repr

/-- Registers 0x0E00–0x0EFF and the units stopped under R583 (slots 0–7, channels 8–11). -/
structure Dbg where
  ignored : Bool
  selErr : Bool
  action : Bool
  haltUnits : Bool
  haltAll : Bool
  bp : SMap Bp
  wp : SMap Wp
  hit : Hit
  selThread : Nat
  selReg : Nat
  stopped : List Nat
  deriving DecidableEq, Repr

/-- A disabled breakpoint. -/
def Bp.off : Bp := { en := false, pc := 0#64, mask := 0#16 }

/-- A disabled watchpoint. -/
def Wp.off : Wp := { en := false, rd := false, wr := false, lenLog2 := 0, addr := 0#64, mask := 0#16 }

/-- No hit. -/
def Hit.empty : Hit := { valid := false, thread := 0, kind := 0, index := 0, addr := 0 }

/-- Debug registers at core reset. -/
def Dbg.reset : Dbg :=
  { ignored := false, selErr := false, action := false, haltUnits := false, haltAll := false, bp := [], wp := [],
    hit := Hit.empty, selThread := 0, selReg := 0, stopped := [] }

/-- A programmable counter (PMC_CFGn, PMC_CNTn). -/
structure Pmc where
  event : Nat
  mask : BitVec 16
  en : Bool
  count : Nat
  deriving DecidableEq, Repr

/-- A counter at core reset. -/
def Pmc.off : Pmc := { event := 0, mask := 0#16, en := false, count := 0 }

/-- Registers 0x0D00–0x0DFF (R591). The SLOTW counters, keyed 0 MTX to 3 NET, are counted in time and stay (log 8). -/
structure Perf where
  pmc : SMap Pmc
  freeze : Bool
  freezeOnHalt : Bool
  cycles : Nat
  issued : Nat
  slotw : SMap Nat
  spadCorr : Nat
  spadUe : Nat
  dropMsg : Nat
  dropSig : Nat
  dropPress : Nat
  deriving DecidableEq, Repr

/-- Counters at core reset. -/
def Perf.reset : Perf :=
  { pmc := [], freeze := false, freezeOnHalt := true, cycles := 0, issued := 0, slotw := [], spadCorr := 0, spadUe := 0,
    dropMsg := 0, dropSig := 0, dropPress := 0 }

/-! ### A core -/

/-- What an outstanding request of a core is for. -/
inductive OutKind where
  /-- Scalar load that reads at the home (window, uncached, acquire): writes rd of thread t (R234, R274). -/
  | load (t : BitVec 4) (rd : BitVec 5) (size : Nat) (sext : Bool) (acq : Bool) (va : Nat)
  /-- D-cache fill for a load of thread t (R276, R278); `noInstall` is set by an acquire. -/
  | fillLoad (t : BitVec 4) (rd : BitVec 5) (size : Nat) (sext : Bool) (va : Nat) (line : DLine) (noInstall : Bool)
  /-- D-cache fill for a PRIVATE store miss of thread t: fill, merge, mark dirty. -/
  | fillStore (t : BitVec 4) (va : Nat) (data : List Byte) (line : DLine)
  /-- Store of thread t at its home; a line of the D-cache takes the bytes `merge` when the home has acknowledged. -/
  | store (t : BitVec 4) (va : Nat) (size : Nat) (merge : List Byte)
  /-- A read, a write or a line fill that an instruction of thread t with several accesses, or its exception entry, goes on with. -/
  | accRead (t : BitVec 4) (home : Home) (f : FInfo)
  | accWrite (t : BitVec 4) (home : Home) (data : List Byte) (f : FInfo) (merge : Option Nat)
  | fillAcc (t : BitVec 4) (line : DLine) (f : FInfo) (store : Bool) (noInstall : Bool)
  /-- Line fill of the I-cache for thread t (R50). -/
  | fetch (t : BitVec 4) (line : DLine) (f : FInfo)
  /-- The fill of a LOCK (R286). -/
  | lock (line : DLine)
  | atomic (t : BitVec 4) (rd : BitVec 5) (eight : Bool) (ord : Bool) (va : Nat)
  /-- Side-buffer prefetch (R291). -/
  | prefetch (line : DLine) (noInstall : Bool)
  /-- Write-back of a dirty line (R272). -/
  | wback
  /-- A part of a row of a tile transfer: its home and length, and whether it is written (R173). -/
  | tile (home : Home) (n : Nat) (write : Bool)
  /-- A stream request of units [lo, hi); write: the pattern side was written; data already read goes to its place. -/
  | stream (slot : BitVec 3) (early : Bool) (lo hi : Nat) (write : Bool)
  /-- A DMA request of bytes [lo, lo + len). -/
  | dma (ch : BitVec 2) (lo len : Nat) (write : Bool) (data : List Byte)
  deriving DecidableEq, Repr

/-- An outstanding request. -/
structure Out where
  id : Nat
  kind : OutKind
  /-- The request is an access through the module window (R235). -/
  win : Bool := false
  deriving DecidableEq, Repr

/-- The supervisor's registers of a core, 0x0200–0x023F, and the task it runs. -/
structure Sup where
  vbar : Word
  wdPeriod : Nat
  wdEnable : Bool
  /-- Watchdog count in rind ticks; DESIGN CHOICE 0 at reset (log 3). -/
  wdCount : Nat
  /-- Event queue, oldest first (R109). -/
  evq : List Word
  coalesced : Nat
  tmInterval : Nat
  tmThread : Nat
  tmEnable : Bool
  tmPeriodic : Bool
  tmCount : Nat
  stopSub : Nat
  stopThread : Nat
  allwaitCount : Nat
  /-- All-wait may be raised (R113). -/
  allwaitArmed : Bool
  /-- The core is stopped (R115). -/
  stopped : Bool
  /-- The current pair, TAG 0 for no task (R378, R473). -/
  pair : Pair
  groupFirst : Nat
  groupCount : Nat
  /-- The order the core runs under, END_CNT, END_VALUE, and whether its part is reported done (R475). -/
  order : Option Nat
  endCnt : BitVec 6
  endValue : Nat
  doneSent : Bool
  /-- Counter END_CNT has held END_VALUE since the task began (R475). -/
  endHit : Bool
  /-- Core control state holds a parity error (R114 subcode 5). -/
  ctrlBad : Bool
  /-- A dispatcher command stops the core's task: 0 none, 1 a switch that saves it (R480), 2 the end steps (R475). -/
  switching : Nat
  /-- Slots 0–7 and channels 8–11 that were in RUN when the switch began (R264, R401). -/
  swUnits : List Nat
  /-- Messages for the overflow area with their rings, and how many were dropped beyond it (R480). -/
  overflow : List (Nat × Msg)
  overDrops : Nat
  deriving DecidableEq, Repr

/-- Supervisor state at core reset. -/
def Sup.reset : Sup :=
  { vbar := 0#64, wdPeriod := 100, wdEnable := false, wdCount := 0, evq := [], coalesced := 0, tmInterval := 0, tmThread := 0,
    tmEnable := false, tmPeriodic := false, tmCount := 0, stopSub := 0, stopThread := 0, allwaitCount := 0, allwaitArmed := true,
    stopped := false, pair := ⟨0#12, 0#4⟩, groupFirst := 0, groupCount := 0, order := none, endCnt := 0#6, endValue := 0,
    doneSent := false, endHit := false, ctrlBad := false, switching := 0, swUnits := [], overflow := [], overDrops := 0 }

/-- The scratchpad of a core, its scrubber, landing windows and credits (R215–R243). -/
structure Spad where
  mem : List Host.Cell
  /-- Indexes of 8-byte words that are uncorrectable, and of words that hold a single-bit error (R227). -/
  ue : List Nat
  ce : List Nat
  scrubPos : Nat
  /-- Corrected words that wait for their write-back (R230). -/
  scrubFix : List Nat
  wins : SMap Window
  credits : SMap Credit
  deriving DecidableEq, Repr

/-- The scratchpad after B10 (R217): zero and valid. -/
def Spad.reset : Spad := { mem := [], ue := [], ce := [], scrubPos := 0, scrubFix := [], wins := [], credits := [] }

/-- One core. -/
structure Core where
  thr : SMap Thread
  sup : Sup
  spad : Spad
  cache : Caches
  xlt : Xlt
  rings : SMap Ring
  /-- Messages held at the core's VC2 input, oldest first (R329). -/
  vc2 : List Packet
  /-- Outbound queue, at most 16 entries (R324). -/
  outq : List Packet
  sc : SMap Counter
  slots : SMap Slot
  stallMask : BitVec 8
  stallFreeze : Bool
  /-- Stall counters, keyed 0 SRC to 6 ISSUE; counted in time, they stay (log 8). -/
  stalls : SMap Nat
  chans : SMap Chan
  mtx : Mtx
  /-- Vector generator lanes (R207). -/
  vlanes : List (BitVec 32)
  dbg : Dbg
  perf : Perf
  outs : List Out
  deriving DecidableEq, Repr

/-- A core at core reset: every register at its reset value. -/
def Core.reset : Core :=
  { thr := [], sup := Sup.reset, spad := Spad.reset, cache := Caches.reset, xlt := Xlt.reset, rings := [], vc2 := [], outq := [],
    sc := [], slots := [], stallMask := 0xFF#8, stallFreeze := false, stalls := [], chans := [], mtx := Mtx.reset,
    vlanes := (List.range 32).map (laneSeed 1#32), dbg := Dbg.reset, perf := Perf.reset, outs := [] }

/-! ### Press queues and stations (R342–R348, R477) -/

/-- A press queue: its configuration word 0, destinations, owner pair, current round's parity, the sums and counts of the current and
the next round, DROPS. A delivery under way is its PRESS messages in flight. -/
structure PressQ where
  opened : Bool
  cfg : Word
  dests : List (BitVec 32)
  pair : Pair
  round : Bool
  cur : SMap (BitVec 32)
  nxt : SMap (BitVec 32)
  curN : Nat
  nxtN : Nat
  drops : Nat
  /-- The norm queue of R451, which delivers to the dispatcher. -/
  norm : Bool
  deriving DecidableEq, Repr

/-- A closed press queue. -/
def PressQ.closed : PressQ :=
  { opened := false, cfg := 0#64, dests := [], pair := ⟨0#12, 0#4⟩, round := false, cur := [], nxt := [], curN := 0, nxtN := 0,
    drops := 0, norm := false }

/-- A fabric press station under a REDUCE: owner pair, format, participants, and per piece the sum and the contributors so far. -/
structure Station where
  opened : Bool
  pair : Pair
  fmt : Nat
  parts : Nat
  sums : SMap (List (BitVec 32))
  srcs : SMap (List Nat)
  deriving DecidableEq, Repr

/-- A closed station. -/
def Station.closed : Station := { opened := false, pair := ⟨0#12, 0#4⟩, fmt := 0, parts := 0, sums := [], srcs := [] }

/-! ### The dispatcher (R465–R482) -/

/-- States of an order (R472). -/
inductive OrdSt where
  | queued | running | stopping | completing
  deriving DecidableEq, Repr

/-- An order in flight: its number in fetch order, submission ring and 16 words, its state, result and progress. -/
structure Order where
  k : Nat
  ring : Nat
  w : List Word
  st : OrdSt
  status : Nat
  reason : Nat
  detail : Word
  ticks : Nat
  hasPair : Bool
  /-- Cores that have reported their part done (R475), and cores whose acknowledgment is outstanding. -/
  done : List Nat
  acks : List Nat
  /-- Cores that have stopped (R115) under the order. -/
  dead : List Nat
  /-- A PREEMPT's number while the switch runs, and whether it saves the scratchpad (R480). -/
  preempt : Option Nat
  saveSpad : Bool
  /-- For a RESUME of a task: the saved LAUNCH word 9 in force. -/
  word9 : Word
  /-- REDUCE: pieces whose sum this module has written. -/
  pieces : List Nat
  /-- The order has passed the start checks and entered RUNNING. -/
  started : Bool
  /-- The order fetched before it from its ring (R472). -/
  prev : Option Nat
  deriving DecidableEq, Repr

/-- A shootdown in progress (R467): SEQ, range, pair, and the targets that have not acknowledged. -/
structure Shoot where
  seq : BitVec 16
  lo : Nat
  len : Nat
  waiting : List Ep
  deriving DecidableEq, Repr

/-- A recall in flight at a home agent (R463) with the accesses held for it. -/
structure Recall where
  h : Nat
  line : Nat
  invalidate : Bool
  held : List Packet
  deriving DecidableEq, Repr

/-- The dispatcher, the register window and the home agents. -/
structure Disp where
  sqTail : SMap Nat
  cqHead : SMap Nat
  /-- HEAD of each submission ring, TAIL of each completion ring with its wrap bit in bit 16. -/
  sqHead : SMap Nat
  cqTail : SMap Nat
  orders : List Order
  nextOrder : Nat
  /-- The order fetched last from each submission ring. -/
  lastOf : SMap (Option Nat)
  /-- What a saved task keeps beside its image: keyed 32 × image address + j, the PC of R308 of thread j for j below 16, and the root of
  the task at j = 16 (R314, R482). -/
  ctxSide : SMap Word
  /-- Submission ring served last (R469). -/
  lastRing : Nat
  /-- Pairs released, with rind ticks since (R471). -/
  released : List (Pair × Nat)
  faultTail : Nat
  faultHead : Nat
  /-- Fault records that wait for room in the ring (R466). -/
  faultWait : List FaultRec
  shootVa : Nat
  shootLen : Nat
  shootDone : Nat
  shoot : Option Shoot
  /-- SHOOT_CTL writes that wait (R467). -/
  shootWait : List Word
  /-- Vectors raised in this rind tick, and messages sent (R467). -/
  raised : List Nat
  sent : List Nat
  /-- Home-agent directory: line address and whether OWNED, oldest first (R463). -/
  dir : List (Nat × Bool)
  recalls : List Recall
  recallCount : Nat
  /-- Lines a memory-side cache holds, oldest first (R279). -/
  msc : List Nat
  /-- Counters of a stack: key 6·h + 0 hits, 1 misses, 2 taken, 3 declined, 4 corrected, 5 uncorrectable. -/
  stackCnt : SMap Nat
  /-- Data answered to companion reads, newest first (R462). -/
  answers : List (List Byte)
  deriving DecidableEq, Repr

/-- The dispatcher at reset. -/
def Disp.reset : Disp :=
  { sqTail := [], cqHead := [], sqHead := [], cqTail := [], orders := [], nextOrder := 0, lastOf := [], ctxSide := [], lastRing := 255, released := [],
    faultTail := 0, faultHead := 0, faultWait := [], shootVa := 0, shootLen := 0, shootDone := 0, shoot := none, shootWait := [],
    raised := [], sent := [], dir := [], recalls := [], recallCount := 0, msc := [], stackCnt := [], answers := [] }

/-! ### The Quince engines (R437–R459) -/

/-- A Quince engine. -/
structure Engine where
  st : Nat
  layer : Nat
  block : Nat
  partialSum : BitVec 32
  /-- Running binary64 sum (R449). -/
  acc : BitVec 64
  /-- The engine has finished its share of the pass. -/
  fin : Bool
  lanes : List (BitVec 32)
  /-- Update tally of the layer in progress (R446). -/
  tally : SMap Nat
  /-- Rule R447 has been applied to LAYER in this pass. -/
  ruled : Bool
  seq : Nat
  outstanding : Bool
  /-- Entries of the controller's TLB, at most 64 (R316). -/
  tlb : List Tlb
  deriving DecidableEq, Repr

/-- An engine at reset. -/
def Engine.reset : Engine :=
  { st := 0, layer := 0, block := 0, partialSum := 0#32, acc := 0#64, fin := false, lanes := [], tally := [], ruled := false,
    seq := 0, outstanding := false, tlb := [] }

/-- Constants of a pass 2, formed at its start (R445), all FP32. -/
structure Snap where
  beta1 : BitVec 32
  beta2 : BitVec 32
  omb1 : BitVec 32
  omb2 : BitVec 32
  bc1 : BitVec 32
  bc2 : BitVec 32
  c : BitVec 32
  eta : BitVec 32
  eps : BitVec 32
  decay : BitVec 32
  lostHi : Nat
  bigHi : Nat
  srShare : Nat
  deriving DecidableEq, Repr

/-- A snapshot of zeros. -/
def Snap.zero : Snap :=
  { beta1 := 0#32, beta2 := 0#32, omb1 := 0#32, omb2 := 0#32, bc1 := 0#32, bc2 := 0#32, c := 0#32, eta := 0#32, eps := 0#32,
    decay := 0#32, lostHi := 0, bigHi := 0, srShare := 0 }

/-- The Quince passes of the module. -/
structure Quince where
  eng : SMap Engine
  /-- Pass running: 0 none, 1 or 2, with its order. -/
  pass : Nat
  order : Nat
  exclude : BitVec 32
  snap : Snap
  tableVa : Nat
  tstride : Nat
  root : Word
  /-- A preempted pass that a RESUME may continue (R457). -/
  saved : Nat
  stepWritten : Bool
  normFresh : Bool
  pass2Partial : Bool
  localNorm : BitVec 32
  deriving DecidableEq, Repr

/-- The Quince engines at reset. -/
def Quince.reset : Quince :=
  { eng := [], pass := 0, order := 0, exclude := 0#32, snap := Snap.zero, tableVa := 0, tstride := 0, root := 0#64, saved := 0,
    stepWritten := false, normFresh := false, pass2Partial := false, localNorm := 0#32 }

/-! ### The fabric (R422–R436) and the Limjo links (R461–R464) -/

/-- A frame that a port has sent: KIND, SEQ, ACK and CREDITS (R424). -/
structure OutFrame where
  kind : BitVec 4
  seq : BitVec 12
  ack : BitVec 12
  credits : List Nat
  deriving DecidableEq, Repr

/-- A fabric port. -/
structure Port where
  /-- 0 OFF, 1 TRAINING, 2 UP, 3 UP on 2 lanes, 4 DOWN. -/
  st : Nat
  peer : Nat
  replays : Nat
  fecCorrected : Nat
  fecUncorrected : Nat
  lanes : Nat
  txSeq : BitVec 12
  rxNext : BitVec 12
  /-- DATA frames not acknowledged, oldest first (R425): SEQ, and the packets whose last slot they carry. -/
  replay : List (BitVec 12 × List Packet)
  nakSent : Bool
  /-- After a loss: frames of the failed port whose report has not arrived (R432). -/
  lost : List (BitVec 12 × List Packet)
  /-- Packets that wait for credits, PAUSE, room in the replay buffer, a report or the 20-ms hold, in the order they came (R426, R432). -/
  heldPk : List Packet
  /-- The packet that the last frame carries in part, with the slots that remain (R424). -/
  cut : Option (Packet × Nat)
  /-- Slots sent and not freed by the far end, of class c and lane l at key 2c + l (R426). -/
  used : SMap Nat
  /-- Classes that the far end pauses (R426). -/
  paused : BitVec 3
  /-- The class of FC1 to FC3 that was served last (R426). -/
  lastCls : Nat
  /-- Received slots of packets that are not complete, and freed slots that no frame has reported, keyed as `used`. -/
  rxHeld : SMap Nat
  owed : SMap Nat
  /-- Packets held for the 20-ms hold. -/
  holding : Bool
  /-- Retrained: joins the choice of port after the next QUIESCE (R433). -/
  joinWait : Bool
  /-- Frames sent since the port came UP: DATA, IDLE with credits, NAK and replays, oldest first. -/
  out : List OutFrame
  deriving DecidableEq, Repr

/-- A port at reset. -/
def Port.reset : Port :=
  { st := 0, peer := 0, replays := 0, fecCorrected := 0, fecUncorrected := 0, lanes := 0, txSeq := 0#12, rxNext := 0#12,
    replay := [], nakSent := false, lost := [], heldPk := [], cut := none, used := [], paused := 0#3, lastCls := 3, rxHeld := [], owed := [],
    holding := false, joinWait := false, out := [] }

/-- The fabric and the links of the module. -/
structure Fabric where
  ports : SMap Port
  /-- Torus sizes and coordinate in force (R436): as TORUS_DIMS and MODULE_COORD. -/
  dims : Nat
  coord : Nat
  /-- FABRIC_DROPS: AGED, NO_CORE, LOST, NO_ROUTE, bad frames. -/
  drops : SMap Nat
  /-- Limjo link states (0x5010 + l). -/
  ljl : SMap Nat
  deriving DecidableEq, Repr

/-- The fabric at reset. -/
def Fabric.reset : Fabric := { ports := [], dims := 0, coord := 0, drops := [], ljl := [] }

/-! ### The dictionary, the rind port and the mailbox (R483–R508) -/

/-- A BLOB hold (R500): number, path code, role code, entry, copy, ticks since the last read. -/
structure HoldRec where
  n : Nat
  path : Nat
  role : Nat
  index : Nat
  sub : Nat
  data : List Byte
  age : Nat
  deriving DecidableEq, Repr

/-- An item of a response (Table: item). -/
structure RItem where
  index : Nat
  sub : Nat
  type : Nat
  reason : Nat
  holdId : Nat
  len : Nat
  offset : Nat
  value : List Byte
  deriving DecidableEq, Repr

/-- A request that waits for its tick, or its response: path code 0 mailbox, 1 rind port, 2 test access port. -/
structure Req where
  path : Nat
  source : Nat
  session : Nat
  seq : Nat
  role : Nat
  wellFormed : Bool
  items : List Item
  deriving DecidableEq, Repr

/-- A judged response, with the rind ticks since it was judged or kept. -/
structure Resp where
  path : Nat
  source : Nat
  session : Nat
  seq : Nat
  role : Nat
  tick : Nat
  items : List RItem
  age : Nat
  /-- OP of the message, and the body of a session message (Table: message operations, Table: session messages). -/
  op : Nat
  body : List Byte
  deriving DecidableEq, Repr

/-- An OPERATOR session of the rind port (R559): number, key index, session key, last accepted SEQ, ticks since. -/
structure Session where
  n : Nat
  key : Nat
  ks : Nat
  lastSeq : Option (BitVec 16)
  age : Nat
  deriving DecidableEq, Repr

/-- The dictionary and its two paths. -/
structure Dict where
  /-- Values written to entries, keyed 256·index + sub; an entry not listed reads its default. -/
  val : SMap (Option Nat)
  gen : Nat
  rxFrames : Nat
  rxDiscard : Nat
  authFail : Nat
  mailboxReqs : Nat
  plcaOk : Bool
  beaconLoss : Nat
  logHead : Nat
  /-- Event log records of 32 bytes, newest first, at most 256 (R508). -/
  log : List (List Byte)
  holds : List HoldRec
  /-- Requests that wait for their tick (R495). -/
  waiting : List Req
  /-- Rind-port responses queued for the transmit opportunity (R502). -/
  txq : List Resp
  /-- The kept response of each source (R505), newest first. -/
  kept : List Resp
  /-- Responses sent on the rind port, newest first. -/
  sentFrames : List Resp
  mbReq : SMap Byte
  mbResp : List Byte
  mbSeq : Nat
  mbNewSeq : Nat
  mbBusy : Bool
  mbDone : Bool
  mbOverrun : Bool
  mbRespLen : Nat
  mbIntr : Bool
  /-- The judged mailbox response that is not yet written. -/
  mbJudged : Option Resp
  /-- The flash commit in progress: ticks left, the answer held for it (R487). -/
  flash : Option Nat
  /-- Responses that wait for the commit (R487). -/
  flashHeld : List Resp
  /-- Persistent values as last committed. -/
  committed : SMap (Option Nat)
  /-- The item answered last. -/
  answer : Option RItem
  sessions : List Session
  nextSession : Nat
  deriving DecidableEq, Repr

/-- The dictionary in power-on reset. -/
def Dict.reset : Dict :=
  { val := [], gen := 0, rxFrames := 0, rxDiscard := 0, authFail := 0, mailboxReqs := 0, plcaOk := false, beaconLoss := 0,
    logHead := 0, log := [], holds := [], waiting := [], txq := [], kept := [], sentFrames := [], mbReq := [], mbResp := [],
    mbSeq := 0, mbNewSeq := 0, mbBusy := false, mbDone := false, mbOverrun := false, mbRespLen := 0, mbIntr := false,
    mbJudged := none, flash := none, flashHeld := [], committed := [], answer := none, sessions := [], nextSession := 1 }

/-! ### Power, start-up, security, pins and the test access port -/

/-- Power state, supply, thermal and coolant (R509–R525). -/
structure Power where
  /-- 0 Run to 5 Off; Doze is derived (R513). -/
  st : Nat
  target : Nat
  /-- TICK at which the choice became what it is (R516). -/
  since : Nat
  /-- Ticks spent in each state. -/
  residency : SMap Nat
  /-- Wake events are pending, and the traffic held until Run (R517). -/
  wake : Bool
  held : List Wake
  /-- Thermal duty of each die and the shared duty (R522). -/
  dt : SMap Nat
  dp : Nat
  duty : SMap Nat
  throttleTicks : SMap Nat
  trips : Nat
  /-- A thermal trip is in force (R523). -/
  trip : Bool
  powerFails : Nat
  /-- Off was entered by: 0 none, 1 request, 2 power fail, 3 coolant loss, 4 auxiliary over-voltage. -/
  offWhy : Nat
  /-- OFF_REQ (R514). -/
  offReq : Bool
  deriving DecidableEq, Repr

/-- Power state in power-on reset: Off (R576). -/
def Power.reset : Power :=
  { st := 5, target := 0, since := 0, residency := [], wake := false, held := [], dt := [], dp := 16, duty := [],
    throttleTicks := [], trips := 0, trip := false, powerFails := 0, offWhy := 0, offReq := false }

/-- A start in progress (R527): kind, step, components of the step that have ended, failed normal attempts of each, failed variants of each
(at B10: 1 from the end of the normal attempts), positions to be retired at the end of the step (R530). -/
structure BootRun where
  kind : Nat
  step : Nat
  ended : List Nat
  fails : SMap Nat
  variant : SMap Nat
  retire : List Nat
  deriving DecidableEq, Repr

/-- Start-up, journal, core map, retirement (R526–R549). -/
structure Boot where
  run : Option BootRun
  /-- MODULE_STATE: 0 BOOTING, 1 READY, 2 ENABLED, 3 SERVICE. -/
  modState : Nat
  /-- Reset requested for the following tick (R497). -/
  resetReq : Bool
  /-- STICKY marks, 65,536·step + component (R529). -/
  sticky : List Nat
  bootCount : Nat
  journalHead : Nat
  /-- Journal records of 32 bytes, newest first. -/
  journal : List (List Byte)
  errHead : Nat
  errors : List (List Byte)
  /-- Positions whose map entry differs from the first start: state and id (R535). -/
  cmap : SMap (Option (Nat × Nat))
  /-- Logical ids that have moved: their position. -/
  idPos : SMap (Option Nat)
  mapGen : Nat
  /-- The map, BY_ID and MAP_GEN as last committed to flash (R487, R538). -/
  mapSaved : SMap (Option (Nat × Nat)) × SMap (Option Nat) × Nat
  /-- Logical ids marked for retirement in this rind tick (R539). -/
  markedNow : List Nat
  /-- Positions to be made SPARE at the next start (R542). -/
  reinstate : List Nat
  /-- STACK_STATE and ROWS_REPAIRED. -/
  stackState : SMap Nat
  rowsRepaired : SMap Nat
  /-- Uncorrectable scratchpad words of a position: 4,194,304·position + offset, marked replaced, ticks since (R599). -/
  spadWords : List (Nat × Bool × Nat)
  /-- Core stops of subcode 2–5 and uncorrectable cache refills in the window: position, 0 or 1, ticks since (R536). -/
  stops : List (Nat × Nat × Nat)
  /-- HBM errors of a row: row, uncorrectable, ticks since (R543). -/
  rowErrs : List (Nat × Bool × Nat)
  /-- Who holds the rind: 0 the firmware, 1 the boot ROM after B1 failed, 2 its recovery service after B2 failed (R533), 3 power-on reset
  (R576). -/
  rom : Nat
  deriving DecidableEq, Repr

/-- Start-up state while the rind is in power-on reset (R576): nothing has started. -/
def Boot.reset : Boot :=
  { run := none, modState := 0, resetReq := false, sticky := [], bootCount := 0, journalHead := 0, journal := [], errHead := 0,
    errors := [], cmap := [], idPos := [], mapGen := 0, mapSaved := ([], [], 0), markedNow := [], reinstate := [], stackState := [],
    rowsRepaired := [], spadWords := [], stops := [], rowErrs := [], rom := 3 }

/-- An installed image: VERSION, SVN and the SHA-256 of the image (R554), and the body of a configuration record (Table: configuration record
body). -/
structure Image where
  version : Nat
  svn : Nat
  hash : Nat
  body : List Byte
  deriving DecidableEq, Repr

/-- Security state (R550–R561). -/
structure Sec where
  /-- Firmware slots 0 and 1; record copies, keyed 0 and 1. -/
  fw : SMap Image
  recs : SMap Image
  /-- Firmware slot running and active; record copy in use and next. -/
  fwRun : Nat
  fwActive : Nat
  recRun : Nat
  recNext : Nat
  /-- GRADE_CORES of the record that the running start took up (R2, R557). -/
  grade : Nat
  fwFloor : Nat
  recFloor : Nat
  /-- Copies of the floors whose MAC failed at the last start: 0 and 1 of the firmware floor, 2 and 3 of the record floor (R556). -/
  floorFail : List Nat
  stage : SMap Byte
  nonce : Nat
  /-- Operator keys 0–7. -/
  opKeys : SMap Nat
  /-- An accepted COMMIT that is being written: its value and the image (R557). -/
  inst : Option (Nat × Image)
  deriving DecidableEq, Repr

/-- An image of version, SVN and hash 0. -/
def Image.zero : Image := { version := 0, svn := 0, hash := 0, body := [] }

/-- Security state: DESIGN CHOICE both slots hold an image of version and SVN 0, and the records a grade of 4,608 cores (log 3). -/
def Sec.reset : Sec :=
  { fw := [], recs := [], fwRun := 0, fwActive := 0, recRun := 0, recNext := 0, grade := Config.firstGrade, fwFloor := 0, recFloor := 0, floorFail := [],
    stage := [], nonce := 0, opKeys := [], inst := none }

/-- Pins of J2 (R567–R576) and the test access port (R579). -/
structure Pins where
  straps : Nat
  resetLow : Bool
  leakTrace : Bool
  leakPin : Bool
  leak : Bool
  pinResets : Nat
  powerFail : Bool
  coolant : Bool
  /-- TAP instruction register, the DICT response, the sampled and driven boundary values. -/
  tapIr : Nat
  tapResp : Option Resp
  boundary : Nat
  driven : Option Nat
  deriving DecidableEq, Repr

/-- Pins and TAP at reset; the TAP selects IDCODE (PRESUMED, IEEE 1149.1; log 3). -/
def Pins.reset : Pins :=
  { straps := 0, resetLow := false, leakTrace := false, leakPin := false, leak := false, pinResets := 0, powerFail := false,
    coolant := false, tapIr := 1, tapResp := none, boundary := 0, driven := none }

/-- The state of the module and its queue of commands. -/
structure State where
  /-- TICK (R494). -/
  tick : Nat
  /-- Cores by logical id. -/
  cores : SMap Core
  /-- Packets in flight in the mesh, oldest first (R405, R411). -/
  net : List Packet
  /-- Number of the next request. -/
  nextId : Nat
  hbm : List Host.Cell
  /-- HBM words (8 bytes) marked uncorrectable. -/
  hbmUE : List Nat
  comp : List Host.Cell
  press : SMap PressQ
  stations : SMap Station
  disp : Disp
  quince : Quince
  fab : Fabric
  dict : Dict
  power : Power
  boot : Boot
  sec : Sec
  pins : Pins
  /-- The model's own: number of the next free value (R201, R476, R150; log 6). -/
  freeCtr : Nat
  /-- The model's own: commands that wait, first in first out. -/
  pending : List Instr
  deriving DecidableEq, Repr

/-- The module at reset: the rind in power-on reset, TICK 0, the module in Off, every core at its reset values, memory with nothing
listed (R494, R576, R577). `POWER_ON_RESET_EXIT` begins the cold start. -/
def State.reset : State :=
  { tick := 0, cores := [], net := [], nextId := 0, hbm := [], hbmUE := [], comp := [], press := [], stations := [],
    disp := Disp.reset, quince := Quince.reset, fab := Fabric.reset, dict := Dict.reset, power := Power.reset,
    boot := Boot.reset, sec := Sec.reset, pins := Pins.reset, freeCtr := 0, pending := [] }

/-! ### Stops -/

/-- Why a step stops with a fault: no constructor. Every address that the spec says does not exist is met by a cause of the spec's
own, so no step of this model stops with a fault. -/
inductive Fault where
  deriving DecidableEq, Repr

/-- Why a command has no meaning. -/
inductive Refusal where
  /-- Raised by `exec` for a command that has no meaning in this model yet. Safe. -/
  | notModelled (mnemonic : String)
  deriving DecidableEq, Repr

end Sys2Proof.Machine
end

