-- ==== Sys2Proof/Machine/Mem.lean ====
section
/-! DEFINITION. Named operations over cores, threads, memories and packets: register files, byte memories, scratchpad with its
uncorrectable words, HBM and companion memory, error records, events, sending and taking packets. -/

namespace Sys2Proof.Machine

/-! ### Cores and threads -/

/-- Core of logical id L. -/
def getCore (σ : State) (L : Nat) : Core := mget Core.reset σ.cores L

/-- Replaces core L. -/
def setCore (σ : State) (L : Nat) (c : Core) : State := { σ with cores := mput Core.reset L c σ.cores }

/-- Changes core L by f. -/
def modCore (σ : State) (L : Nat) (f : Core → Core) : State := setCore σ L (f (getCore σ L))

/-- Thread t of a core. -/
def getThr (c : Core) (t : Nat) : Thread := mget Thread.reset c.thr t

/-- Replaces thread t of a core. -/
def setThr (c : Core) (t : Nat) (h : Thread) : Core := { c with thr := mput Thread.reset t h c.thr }

/-- Changes thread t of a core by f. -/
def modThr (c : Core) (t : Nat) (f : Thread → Thread) : Core := setThr c t (f (getThr c t))

/-- Thread t of core L. -/
def thrOf (σ : State) (L t : Nat) : Thread := getThr (getCore σ L) t

/-- Changes thread t of core L by f. -/
def modT (σ : State) (L t : Nat) (f : Thread → Thread) : State := modCore σ L (fun c => modThr c t f)

/-- Register g of a thread; g0 reads as zero (R45). -/
def greg (h : Thread) (r : Nat) : Word := if r = 0 then 0#64 else mget 0#64 h.regs r

/-- Writes register g of a thread; writes to g0 are discarded (R45). -/
def setG (h : Thread) (r : Nat) (v : Word) : Thread := if r = 0 then h else { h with regs := mput 0#64 r v h.regs }

/-- Reads a register of thread t of core L. -/
def rg (σ : State) (L t : Nat) (r : BitVec 5) : Word := greg (thrOf σ L t) r.toNat

/-- Writes a register of thread t of core L. -/
def wg (σ : State) (L t : Nat) (r : BitVec 5) (v : Word) : State := modT σ L t (fun h => setG h r.toNat v)

/-- Vector register of a thread, as a number of 1,024 bits. -/
def vreg (h : Thread) (v : Nat) : BitVec 1024 := mget 0#1024 h.vregs v

/-- Writes a vector register. -/
def setV (h : Thread) (v : Nat) (x : BitVec 1024) : Thread := { h with vregs := mput 0#1024 v x h.vregs }

/-- The flags word of R48. -/
def flagsWord (f : Flags) : Nat :=
  b2n f.v + 2 * b2n f.c + 4 * b2n f.z + 8 * b2n f.n + 16 * b2n f.p0 + 32 * b2n f.p1

/-- Flags and predicates from a flags word (R48). -/
def flagsOf (w : Nat) : Flags :=
  { v := nbit w 0, c := nbit w 1, z := nbit w 2, n := nbit w 3, p0 := nbit w 4, p1 := nbit w 5 }

/-- Ring r, counter n, window w, credit e, slot s, channel c of a core. -/
def getRing (c : Core) (r : Nat) : Ring := mget Ring.reset c.rings r
def setRing (c : Core) (r : Nat) (x : Ring) : Core := { c with rings := mput Ring.reset r x c.rings }
def getSc (c : Core) (n : Nat) : Counter := mget Counter.reset c.sc n
def setSc (c : Core) (n : Nat) (x : Counter) : Core :=
  { c with
    sc := mput Counter.reset n x c.sc
    sup := { c.sup with endHit := c.sup.endHit || (n == c.sup.endCnt.toNat && decide (c.sup.endValue ≤ x.value)) } }
def getWin (c : Core) (w : Nat) : Window := mget Window.closed c.spad.wins w
def setWin (c : Core) (w : Nat) (x : Window) : Core := { c with spad := { c.spad with wins := mput Window.closed w x c.spad.wins } }
def getCred (c : Core) (e : Nat) : Credit := mget Credit.free c.spad.credits e
def setCred (c : Core) (e : Nat) (x : Credit) : Core :=
  { c with spad := { c.spad with credits := mput Credit.free e x c.spad.credits } }
def getSlot (c : Core) (s : Nat) : Slot := mget Slot.reset c.slots s
def setSlot (c : Core) (s : Nat) (x : Slot) : Core := { c with slots := mput Slot.reset s x c.slots }
def getChan (c : Core) (n : Nat) : Chan := mget Chan.reset c.chans n
def setChan (c : Core) (n : Nat) (x : Chan) : Core := { c with chans := mput Chan.reset n x c.chans }

/-! ### The module: identity and placement -/

/-- Bytes of a scratchpad (R215). -/
def spadSize : Nat := 0x280000

/-- The module id of R39, from the torus values in force. -/
def moduleId (σ : State) : Nat :=
  let x := nbits σ.fab.dims 2 0 + 1
  let y := nbits σ.fab.dims 5 3 + 1
  (nbits σ.fab.coord 7 6 * y + nbits σ.fab.coord 5 3) * x + nbits σ.fab.coord 2 0

/-- Position 128y + x of logical id L (R535, BY_ID). -/
def posOf (σ : State) (L : Nat) : Nat := (mget none σ.boot.idPos L).getD L

/-- GRADE_CORES in force (R1, R2). -/
def gradeOf (σ : State) : Nat := σ.sec.grade

/-- State and id of a position at the first start (R8, R535): id L at position L, the rest SPARE (log 3). -/
def mapDefault (p : Nat) : Nat × Nat := if p < Config.firstGrade then (0, p) else (1, 0x1FFF)

/-- State and id of a position. -/
def mapAt (σ : State) (p : Nat) : Nat × Nat := (mget none σ.boot.cmap p).getD (mapDefault p)

/-- Region of a position (R25). -/
def regionOf (p : Nat) : Nat := 4 * ((p % 128) / 16) + 2 * (p / 128 / 20) + ((p % 128) / 8) % 2

/-- Cluster of a position (R25). -/
def clusterOf (p : Nat) : Nat := 10 * regionOf p + 2 * (((p / 128) % 20) / 4) + ((p % 128) % 8) / 4

/-- The module is READY or ENABLED, and in Run or Doze: cores, mesh and controllers are clocked (R512, R513). -/
def running (σ : State) : Bool := σ.power.st == 0 && (σ.boot.modState == 1 || σ.boot.modState == 2)

/-- Logical id L names a core of the module that is not stopped, while the module runs. -/
def coreOn (σ : State) (L : Nat) : Bool := running σ && decide (L < gradeOf σ)

/-- Stack of an HBM offset (R21). -/
def stackOf (a : Nat) : Nat := a / 0x600000000

/-- Bytes of HBM (R21). -/
def hbmSize : Nat := 0xC000000000

/-- The stack is in service (R544). -/
def stackUp (σ : State) (h : Nat) : Bool := mget 0 σ.boot.stackState h != 3

/-- Some Limjo link is UP (R462). -/
def linkUp (σ : State) : Bool := (List.range 4).any (fun l => mget 0 σ.fab.ljl l == 2 || mget 0 σ.fab.ljl l == 3)

/-- The next free value. -/
def fresh (σ : State) : BitVec 64 × State := (Config.freeValue σ.freeCtr, { σ with freeCtr := σ.freeCtr + 1 })

/-! ### Bytes -/

/-- n bytes of a memory from address a; an address not listed reads 0 (log 4). -/
def readBytes (m : List Host.Cell) : Nat → Nat → List Byte
  | _, 0 => []
  | a, n + 1 => mget 0#8 m a :: readBytes m (a + 1) n

/-- Writes bytes from address a. -/
def writeBytes (m : List Host.Cell) : Nat → List Byte → List Host.Cell
  | _, [] => m
  | a, b :: r => writeBytes (mput 0#8 a b m) (a + 1) r

/-- Indexes of the 8-byte words that [a, a + n) touches. -/
def wordsTouched (a n : Nat) : List Nat := if n = 0 then [] else (List.range ((a + n - 1) / 8 + 1 - a / 8)).map (· + a / 8)

/-- Word k lies wholly in [a, a + n). -/
def wordWhole (a n k : Nat) : Bool := decide (a ≤ 8 * k) && decide (8 * k + 8 ≤ a + n)

/-- Marked words that [a, a + n) touches. -/
def badIn (ue : List Nat) (a n : Nat) : List Nat := (wordsTouched a n).filter (fun k => ue.contains k)

/-- Removes the marks of the words that a write of [a, a + n) replaces whole. -/
def clearBad (ue : List Nat) (a n : Nat) : List Nat := ue.filter (fun k => !wordWhole a n k)

/-- Adds marks. -/
def addBad (ue : List Nat) (ks : List Nat) : List Nat := ks.foldl (fun u k => insertNat k u) ue

/-! ### Error records and performance counts -/

/-- The little-endian field of an error record or journal. -/
def le (n v : Nat) : List Byte := toBytes n v

/-- Adds an error record, or increments COUNT of the record of the same word within 1 h (R547). -/
def errRecord (σ : State) (cls sev L pos stk bank cause off : Nat) (pair : Pair) : State :=
  let x := if pos = 0xFFFF then 0xFF else pos % 128
  let y := if pos = 0xFFFF then 0xFF else pos / 128
  let die := if pos = 0xFFFF then 0xFF else (pos % 128) / 16
  let same (r : List Byte) : Bool :=
    (cls == 1 || cls == 3 || cls == 4) && ofBytes ((r.drop 12).take 1) == cls && ofBytes ((r.drop 24).take 8) == off &&
      (cls == 4 || (ofBytes ((r.drop 16).take 1) == x && ofBytes ((r.drop 17).take 1) == y)) &&
      decide (ofBytes ((r.drop 4).take 8) ≤ σ.tick) && decide (σ.tick ≤ ofBytes ((r.drop 4).take 8) + 3600000000)
  match σ.boot.errors.findIdx? same with
  | some i =>
    let r := σ.boot.errors.getD i []
    let r' := r.take 22 ++ le 2 (satAdd 0xFFFF (ofBytes ((r.drop 22).take 2)) 1) ++ r.drop 24
    { σ with boot := { σ.boot with errors := setAt i r' σ.boot.errors } }
  | none =>
    let n := σ.boot.errHead + 1
    let r := le 4 n ++ le 8 σ.tick ++ le 1 cls ++ le 1 sev ++ le 2 L ++ le 1 x ++ le 1 y ++ le 1 die ++ le 1 stk ++ le 1 bank ++
      le 1 cause ++ le 2 1 ++ le 8 off ++ le 2 (pair.tag.toNat + 4096 * pair.gen.toNat) ++ le 30 0
    { σ with boot := { σ.boot with errHead := n, errors := (r :: σ.boot.errors).take 4096 } }

/-- Counting stops under FREEZE, and under FREEZE_ON_HALT while a thread is HALTED (R591). -/
def frozen (c : Core) : Bool :=
  c.perf.freeze || (c.perf.freezeOnHalt && c.thr.any (fun p => decide (p.2.st = .halted)))

/-- Adds n to every programmable counter that counts the event for thread t (R591). -/
def pmcEvent (c : Core) (ev : Nat) (t : Option Nat) (n : Nat) : Core :=
  if frozen c then c else
  { c with perf := { c.perf with pmc := c.perf.pmc.map (fun p =>
      if p.2.en && p.2.event == ev && (p.2.mask == 0#16 || (match t with | some k => p.2.mask.getLsbD k | none => true)) then
        (p.1, { p.2 with count := satAdd (2 ^ 48 - 1) p.2.count n }) else p) } }

/-- An uncorrectable cache refill, core stop or word counts toward retirement (R536): marks the core when its rule says. -/
def bankOf (off : Nat) : Nat :=
  let b := off / 64
  let g := (b ^^^ (b / 8) ^^^ (b / 64) ^^^ (b / 512) ^^^ (b / 4096) ^^^ (b / 32768)) % 8
  if off < 0x80000 then 2 * g + (b / 8) % 2 else 4 * g + (b / 8) % 4

/-! ### The core map (R535–R541) -/

/-- Distance of two positions. -/
def posDist (p q : Nat) : Nat :=
  let d (a b : Nat) := if a ≤ b then b - a else a - b
  d (p % 128) (q % 128) + d (p / 128) (q / 128)

/-- The SPARE position that a retirement of position p reserves: same die first, nearest, then lower y, then lower x (R538). -/
def pickSpare (σ : State) (p : Nat) : Option Nat :=
  let spares := (List.range 5120).filter (fun q => (mapAt σ q).1 == 1)
  let best (l : List Nat) : Option Nat :=
    l.foldl (fun acc q => match acc with
      | none => some q
      | some b => if posDist p q < posDist p b then some q else some b) none
  match best (spares.filter (fun q => (q % 128) / 16 == (p % 128) / 16)) with
  | some q => some q
  | none => best spares

/-- Sets the map entry of a position. -/
def setMap (σ : State) (p st id : Nat) : State :=
  { σ with boot := { σ.boot with cmap := mput none p (if mapDefault p = (st, id) then none else some (st, id)) σ.boot.cmap } }

/-- The map is committed to flash as a persistent write (R487, R538). -/
def mapCommit (σ : State) : State := { σ with dict := { σ.dict with flash := some (σ.dict.flash.getD 5000) } }

/-- The pending id L has no reserved spare: MODULE_ENABLE becomes 0 (R541). -/
def spareMissing (σ : State) : State :=
  { σ with dict := { σ.dict with val := mput none 0x200001 none σ.dict.val },
           boot := { σ.boot with modState := if σ.boot.modState = 2 then 1 else σ.boot.modState } }

/-- Gives back the spare reserved for id L. -/
def unreserve (σ : State) (L : Nat) : State :=
  match (List.range 5120).find? (fun q => mapAt σ q == (2, L)) with
  | some q => setMap σ q 1 0x1FFF
  | none => σ

/-- Reserves a spare for the pending id L (R538). -/
def reserveSpare (σ : State) (L : Nat) : State :=
  match pickSpare σ (posOf σ L) with
  | some q => setMap σ q 2 L
  | none => spareMissing σ

/-- Marks logical id L for retirement (R538, R541): the marks of this rind tick reserve in ascending logical id. An id that is not ACTIVE stays
as it is. -/
def markRetire (σ : State) (L : Nat) : State :=
  let p := posOf σ L
  if (mapAt σ p).1 ≠ 0 then σ else
  let ms := insertNat L σ.boot.markedNow
  let σ1 := ms.foldl reserveSpare (ms.foldl unreserve (setMap σ p 3 L))
  mapCommit { σ1 with boot := { σ1.boot with mapGen := σ1.boot.mapGen + 1, markedNow := ms } }

/-- Some pending id has no reserved spare (R541). -/
def noSpare (σ : State) : Bool :=
  σ.boot.cmap.any (fun e => match e.2 with
    | some (3, L) => !σ.boot.cmap.any (fun f => f.2 == some (2, L))
    | _ => false)

/-- Ticks of the 24-h window of R536. -/
def window24 : Nat := 86400000000

/-- Automatic retirement is on (`0x6020:01`, R537). -/
def autoRetire (σ : State) : Bool := ((mget none σ.dict.val 0x602001).getD 1) == 1

/-- An uncorrectable scratchpad word of core L at offset off is met: counted, recorded, and judged for retirement (R228, R599). -/
def noteSpadUE (σ : State) (L off : Nat) : State :=
  let c := getCore σ L
  let σ := if frozen c then σ else
    setCore σ L { c with perf := { c.perf with spadUe := satAdd 0xFFFFFFFF c.perf.spadUe 1 } }
  let pos := posOf σ L
  let w := 8 * (off / 8)
  let σ := errRecord σ 1 1 L pos 0xFF (bankOf off) 0x0D w c.sup.pair
  let key := 4194304 * pos + w
  let l := σ.boot.spadWords
  match l.find? (fun e => e.1 == key) with
  | some (_, true, _) => if autoRetire σ then markRetire σ L else σ
  | some (_, false, _) => σ
  | none =>
    let l' := l ++ [(key, false, 0)]
    let σ := { σ with boot := { σ.boot with spadWords := l' } }
    if 3 ≤ (l'.filter (fun e => e.1 / 4194304 == pos)).length ∧ autoRetire σ = true then markRetire σ L else σ

/-! ### Scratchpad, HBM, companion memory -/

/-- Reads [off, off + n) of core L's scratchpad, with the marked words it touches. -/
def spadRead (σ : State) (L off n : Nat) : List Byte × List Nat :=
  let s := (getCore σ L).spad
  (readBytes s.mem off n, badIn s.ue off n)

/-- A read of [off, off + n) of core L's scratchpad corrects the words that hold a single-bit error: each is counted and goes to the
scrubber to be written back (R227, R228, R230). -/
def spadMeet (σ : State) (L off n : Nat) : State :=
  let c := getCore σ L
  match badIn c.spad.ce off n with
  | [] => σ
  | ks =>
    let c := { c with spad := { c.spad with scrubFix := addBad c.spad.scrubFix ks } }
    setCore σ L (if frozen c then c else
      { c with perf := { c.perf with spadCorr := satAdd 0xFFFFFFFF c.perf.spadCorr ks.length } })

/-- Writes scratchpad bytes except those of marked words that the write covers only in part (R227), corrects the words it covers in part, clears the marks of words it
replaces, cancels a write-back to a touched beat (R230) and marks reported words replaced (R599). -/
def spadWrite (σ : State) (L off : Nat) (data : List Byte) : State :=
  let c := getCore σ L
  let n := data.length
  let partials := (badIn c.spad.ue off n).filter (fun k => !wordWhole off n k)
  let old := readBytes c.spad.mem off n
  let eff := (data.zip old).zipIdx.map (fun p => if partials.contains ((off + p.2) / 8) then p.1.2 else p.1.1)
  let ws := wordsTouched off n
  let mended := (c.spad.ce.filter (fun k => ws.contains k && !wordWhole off n k)).length
  let c := if mended = 0 || frozen c then c else
    { c with perf := { c.perf with spadCorr := satAdd 0xFFFFFFFF c.perf.spadCorr mended } }
  let σ := setCore σ L { c with spad := { c.spad with
    mem := writeBytes c.spad.mem off eff, ue := clearBad c.spad.ue off n, ce := c.spad.ce.filter (fun k => !ws.contains k),
    scrubFix := c.spad.scrubFix.filter (fun w => !ws.any (fun k => k / 8 == w / 8)) } }
  if σ.boot.spadWords.isEmpty then σ else
  let base := 4194304 * posOf σ L
  { σ with boot := { σ.boot with spadWords := σ.boot.spadWords.map (fun e =>
    if decide (base ≤ e.1) && decide (e.1 < base + 4194304) && wordWhole off n ((e.1 - base) / 8) then (e.1, true, e.2.2) else e) } }

/-- Marked words that a write of [off, off + n) covers only in part (Table: uncorrectable scratchpad data by reader). -/
def partBad (c : Core) (off n : Nat) : List Nat := (badIn c.spad.ue off n).filter (fun k => !wordWhole off n k)

/-- A write from the network path: marked words that it covers in part stay as they are and are recorded. -/
def netWrite (σ : State) (L off : Nat) (data : List Byte) (bad : List Nat) : State :=
  let ks := partBad (getCore σ L) off data.length
  let σ := spadWrite σ L off data
  let σ := modCore σ L (fun c => { c with spad := { c.spad with ue := addBad c.spad.ue (bad.map (fun k => k + off / 8)) } })
  ks.foldl (fun σ k => noteSpadUE σ L (8 * k)) σ

/-- Marks words of core L's scratchpad, covered by a write of poisoned data, as uncorrectable. -/
def spadMark (σ : State) (L : Nat) (ks : List Nat) : State :=
  modCore σ L (fun c => { c with spad := { c.spad with ue := addBad c.spad.ue ks } })

/-- Writes scratchpad bytes whose words `bad` (relative to the data) are uncorrectable. -/
def spadWriteBad (σ : State) (L off : Nat) (data : List Byte) (bad : List Nat) : State :=
  spadMark (spadWrite σ L off data) L (bad.map (fun k => k + off / 8))

/-- Reads HBM bytes with marked words. -/
def hbmRead (σ : State) (a n : Nat) : List Byte × List Nat := (readBytes σ.hbm a n, badIn σ.hbmUE a n)

/-- Writes HBM bytes; whole words lose their marks, `bad` words (relative to the word of a) take them. -/
def hbmWrite (σ : State) (a : Nat) (data : List Byte) (bad : List Nat) : State :=
  { σ with hbm := writeBytes σ.hbm a data,
           hbmUE := addBad (clearBad σ.hbmUE a data.length) (bad.map (fun k => k + a / 8)) }

/-- Writes companion memory. -/
def compWrite (σ : State) (a : Nat) (data : List Byte) : State := { σ with comp := writeBytes σ.comp a data }

/-- Bytes at a home, with marked words relative to the word of the address. -/
def homeBytes (σ : State) (h : Home) (n : Nat) : List Byte × List Nat :=
  match h with
  | .spad L off => let r := spadRead σ L off n; (r.1, r.2.map (· - off / 8))
  | .hbm a => let r := hbmRead σ a n; (r.1, r.2.map (· - a / 8))
  | .comp a => (readBytes σ.comp a n, [])

/-- Performs a write at a home. -/
def homePut (σ : State) (h : Home) (data : List Byte) (bad : List Nat) : State :=
  match h with
  | .spad L off => spadWriteBad σ L off data bad
  | .hbm a => hbmWrite σ a data bad
  | .comp a => compWrite σ a data

/-- A home moved on by k bytes. -/
def homeAdd (h : Home) (k : Nat) : Home :=
  match h with
  | .spad L off => .spad L (off + k)
  | .hbm a => .hbm (a + k)
  | .comp a => .comp (a + k)

/-- Runs of bytes end at this offset. -/
def runsEnd (rs : List (Nat × List Byte)) : Nat := rs.foldl (fun m r => Nat.max m (r.1 + r.2.length)) 0

/-- Performs the runs of a write at a home; the marked words are those of a write of one run. -/
def homePutRuns (σ : State) (h : Home) (rs : List (Nat × List Byte)) (bad : List Nat) : State :=
  rs.foldl (fun σ r => homePut σ (homeAdd h r.1) r.2 bad) σ

/-- [h, h + n) and [g, g + k) have a byte in common. -/
def homeMeets (h : Home) (n : Nat) (g : Home) (k : Nat) : Bool :=
  let meet (a b : Nat) : Bool := decide (a < b + k) && decide (b < a + n)
  match h, g with
  | .spad L a, .spad K b => L == K && meet a b
  | .hbm a, .hbm b | .comp a, .comp b => meet a b
  | _, _ => false

/-- The home can perform accesses: its stack is in service, some link is UP (R420, R544). -/
def homeUp (σ : State) (h : Home) : Bool :=
  match h with
  | .spad L _ => decide (L < gradeOf σ)
  | .hbm a => stackUp σ (stackOf a)
  | .comp _ => linkUp σ

/-- The companion holds a line that a read or a write of [a, a + n) of HBM must recall first (R463). -/
def mustRecall (σ : State) (h : Home) (n : Nat) (write : Bool) : Option (Nat × Bool) :=
  match h with
  | .hbm a =>
    match σ.disp.dir.find? (fun e => decide (e.1 < a + n) && decide (a < e.1 + 64) && (write || e.2)) with
    | some e => some (e.1, write)
    | none => none
  | _ => none

/-- Starts a recall of a line, or adds an access to one in flight (R463). -/
def startRecall (σ : State) (line : Nat) (inv : Bool) (pk : List Packet) : State :=
  let d := σ.disp
  match d.recalls.findIdx? (fun r => r.line == line) with
  | some i =>
    let r := d.recalls.getD i ⟨0, 0, false, []⟩
    { σ with disp := { d with recalls := setAt i { r with held := r.held ++ pk, invalidate := r.invalidate || inv } d.recalls } }
  | none =>
    { σ with disp := { d with recalls := d.recalls ++ [{ h := stackOf line, line := line, invalidate := inv, held := pk }],
                              recallCount := satAdd 0xFFFFFFFF d.recallCount 1 } }

/-! ### Atomics (R368, R369) -/

/-- The new memory value of an atomic on w bits (Table: atomic operations): old value, rs2, and rd for cas. -/
def amoNew (op : AmoOp) (w : Nat) (old a rd : Nat) : Nat :=
  let m := 2 ^ w
  let old := old % m
  let a := a % m
  let rd := rd % m
  let slt (x y : Nat) : Bool := decide ((x + m / 2) % m < (y + m / 2) % m)
  match op with
  | .swap => a
  | .cas => if old = rd then a else old
  | .add => (old + a) % m
  | .and => old &&& a
  | .or => old ||| a
  | .xor => old ^^^ a
  | .min => if slt a old then a else old
  | .max => if slt old a then a else old
  | .minu => Nat.min old a
  | .maxu => Nat.max old a

/-! ### Packets -/

/-- Endpoint of a home. -/
def homeEp (h : Home) : Ep :=
  match h with
  | .spad L _ => .core L
  | .hbm a => .stack (stackOf a)
  | .comp _ => .io

/-- The requester's accesses are bulk traffic: streams and DMA, and for writes also tile stores and write-backs (Table: packet types). -/
def bulkWho (w : Who) (write : Bool) : Bool :=
  match w with
  | .eng .. => true
  | .tile _ | .wback _ => write
  | _ => false

/-- Virtual channel of a packet (R409). -/
def vcOf (b : Body) : Nat :=
  match b with
  | .write _ _ _ _ w => if bulkWho w true then 3 else 2
  | .readData _ _ _ bulk => if bulk then 3 else 1
  | .creditReq .. | .creditGrant .. | .creditRefuse .. | .creditRevoke .. | .signal .. | .command .. | .commandAck .. |
    .coreStop .. | .faultReply .. | .shootdown .. | .shootdownAck .. | .pressCtl .. | .pressReply .. | .portSeq .. => 0
  | .writeAck .. | .atomicData .. | .landingAck .. | .errorResp .. | .dropNotice .. => 1
  | .read .. | .atomic .. | .message .. | .pressContrib .. | .faultRecord .. | .reducePiece .. => 2
  | .remoteWrite .. | .victim .. => 3

/-- Puts a packet into the mesh. -/
def inject (σ : State) (p : Packet) : State := { σ with net := σ.net ++ [p] }

/-- A new packet with AGE 0 (R419). -/
def pkt (src dst : Ep) (b : Body) : Packet := { src := src, dst := dst, body := b, age := 0 }

/-- Sends a packet. -/
def send (σ : State) (src dst : Ep) (b : Body) : State := inject σ (pkt src dst b)

/-- The packet at place i may arrive: no older packet of its VC has the same endpoints (R411). -/
def mayArrive (σ : State) (i : Nat) : Option Packet :=
  match σ.net[i]? with
  | none => none
  | some p =>
    if (σ.net.take i).any (fun q => decide (vcOf q.body = vcOf p.body) && decide (q.src = p.src) && decide (q.dst = p.dst))
    then none else some p

/-- Takes the packet at place i out of the mesh. -/
def takePkt (σ : State) (i : Nat) : State := { σ with net := dropAt i σ.net }

/-- A fresh request id. -/
def newId (σ : State) : Nat × State := (σ.nextId, { σ with nextId := σ.nextId + 1 })

/-- A home in the scratchpad of another core than L: an access through the module window (R52). -/
def inWindow (L : Nat) (h : Home) : Bool :=
  match h with
  | .spad k _ => decide (k ≠ L)
  | _ => false

/-- Adds an outstanding request of core L to a home. -/
def addOut (σ : State) (L id : Nat) (k : OutKind) (h : Home) : State :=
  modCore σ L (fun c => { c with outs := c.outs ++ [{ id := id, kind := k, win := inWindow L h }] })

/-- 32 accesses through the module window are outstanding: one more to a home there waits (R235). -/
def winFull (σ : State) (L : Nat) (h : Home) : Bool :=
  inWindow L h && decide (32 ≤ ((getCore σ L).outs.filter (·.win)).length)

/-- The outstanding request id of a core. -/
def findOut (c : Core) (id : Nat) : Option Out := c.outs.find? (fun o => o.id == id)

/-- Removes an outstanding request. -/
def dropOut (σ : State) (L id : Nat) : State :=
  modCore σ L (fun c => { c with outs := c.outs.filter (fun o => o.id != id) })

/-- Sends a read request of core L. Companion memory answers over its link at once (log 10). -/
def sendRead (σ : State) (L id : Nat) (h : Home) (n : Nat) (w : Who) : State :=
  match h with
  | .comp _ =>
    if linkUp σ then let r := homeBytes σ h n; send σ .io (.core L) (.readData id r.1 r.2 (bulkWho w false))
    else send σ .io (.core L) (.errorResp id 4)
  | _ => send σ (.core L) (homeEp h) (.read id h n w)

/-- Sends a write request of core L: runs of bytes from a home on. -/
def sendRuns (σ : State) (L id : Nat) (h : Home) (rs : List (Nat × List Byte)) (bad : List Nat) (w : Who) : State :=
  match h with
  | .comp _ =>
    if linkUp σ then send (homePutRuns σ h rs bad) .io (.core L) (.writeAck id)
    else send σ .io (.core L) (.errorResp id 4)
  | _ => send σ (.core L) (homeEp h) (.write id h rs bad w)

/-- Sends a write request of core L for bytes at a home. -/
def sendWrite (σ : State) (L id : Nat) (h : Home) (data : List Byte) (bad : List Nat) (w : Who) : State :=
  sendRuns σ L id h [(0, data)] bad w

/-- Sends an atomic of core L. -/
def sendAtomic (σ : State) (L id : Nat) (h : Home) (op : AmoOp) (eight : Bool) (a rd : Word) (w : Who) : State :=
  match h with
  | .comp _ =>
    if linkUp σ then
      let n := if eight then 8 else 4
      let old := ofBytes (homeBytes σ h n).1
      let σ := homePut σ h (toBytes n (amoNew op (8 * n) old a.toNat rd.toNat)) []
      send σ .io (.core L) (.atomicData id (BitVec.ofNat 64 old) false)
    else send σ .io (.core L) (.errorResp id 4)
  | _ => send σ (.core L) (homeEp h) (.atomic id h op eight a rd w)

/-! ### Events for the supervisor thread (R108–R110) -/

/-- The event record of a source (Table: event record). -/
def eventRecord (unit index thread : Nat) (fw : Bool) (cause : Nat) : Word :=
  BitVec.ofNat 64 (2 ^ 63 + index * 2 ^ 16 + unit * 2 ^ 13 + b2n fw * 2 ^ 12 + thread * 2 ^ 8 + cause)

/-- Queues an event, or counts it when its source has one queued (R109). -/
def queueEvent (c : Core) (unit index thread : Nat) (fw : Bool) (cause : Nat) : Core :=
  let same (w : Word) : Bool := bits w 15 13 == unit && bits w 23 16 == index
  if c.sup.evq.any same then { c with sup := { c.sup with coalesced := satAdd 0xFFFF c.sup.coalesced 1 } }
  else pmcEvent { c with sup := { c.sup with evq := c.sup.evq ++ [eventRecord unit index thread fw cause] } } 0x11 none 1

end Sys2Proof.Machine
end

