-- ==== Sys2Proof/Machine/Access.lean ====
section
/-! DEFINITION. Reaching D-space and I-space: the range rules of R49–R53, page walks and TLBs (R296–R306), the D-cache and its side
buffer (R267–R293), and whole accesses through them. -/

namespace Sys2Proof.Machine

/-- A fault with a cause and no address. -/
def faultOf (cause : Nat) : FInfo :=
  { cause := cause, addr := 0, write := false, fetch := false, io := false, size := 0, reason := 0, level := 0 }

/-- A fault at an address. -/
def faultAt (cause addr : Nat) (write : Bool) (size : Nat) : FInfo :=
  { cause := cause, addr := addr, write := write, fetch := false, io := false, size := size, reason := 0, level := 0 }

/-- How an access ends: with a value, with a fault, or waiting with the state that the wait leaves. -/
inductive AR (α : Type) where
  | ok (σ : State) (v : α)
  | fault (σ : State) (f : FInfo)
  | hold (σ : State)

/-- Goes on with the value of an access. -/
def andThen {α β : Type} (r : AR α) (f : State → α → AR β) : AR β :=
  match r with
  | .ok σ v => f σ v
  | .fault σ e => .fault σ e
  | .hold σ => .hold σ

/-! ### Core stop (R114, R115) -/

/-- The engine's stores hold free values (R150; log 6). -/
def mtxUndefined (m : Mtx) (k : Nat) : Mtx :=
  let w (i : Nat) : BitVec 32 := (Config.freeValue (k + i)).truncate 32
  let acc (o : Nat) : SMap (BitVec 32) := (List.range 4096).map (fun i => (i, w (o + i)))
  { m with
    tile := (List.range 512).map (fun i => (i, bytesOf ((List.range 8).map (fun j => Config.freeValue (k + 16384 + 8 * i + j))))),
    scale := (List.range 1024).map (fun i => (i, (w (8192 + i)).truncate 8)),
    cur := { m.cur with data := acc 0 }, drn := { m.drn with data := acc 4096 } }

/-- Stops core L: every thread CORE_STOPPED, its instructions in flight cancelled, the matrix contents undefined (R150), the report on
VC0. -/
def coreStop (σ : State) (L sub thread : Nat) : State :=
  let c := getCore σ L
  if c.sup.stopped then σ else
  let c := (List.range 16).foldl (fun c t => modThr c t (fun h =>
    { h with st := .coreStopped, wait := .none, waitClasses := 0#6, held := .none, stopPend := false, injPend := false, acc := [],
             entry := none })) c
  let keep (o : Out) : Bool := match o.kind with
    | .stream .. | .dma .. | .wback => true
    | _ => false
  let c := { c with
    sup := { c.sup with stopped := true, stopSub := sub, stopThread := if sub = 1 ∨ sub = 2 then thread else 0 },
    outs := c.outs.filter keep, cache := { c.cache with cmo := none, cmoWait := [] },
    mtx := mtxUndefined { c.mtx with queue := [], rows := [] } σ.freeCtr }
  let σ := setCore { σ with freeCtr := σ.freeCtr + 65536 } L c
  send σ (.core L) .disp (.coreStop L sub)

/-! ### Ranges (R49, R51, R53) -/

/-- Where a D-space access goes. -/
inductive Range where
  | bad
  | spad (L off : Nat)
  | trans
  deriving DecidableEq, Repr

/-- The row of Table: D-space ranges that holds every byte of [va, va + n). -/
def rangeOf (σ : State) (L va n : Nat) : Range :=
  if va + n ≤ spadSize then .spad L va
  else if 0x4000000000 ≤ va ∧ va < 0x4800000000 then
    let k := (va - 0x4000000000) / 0x400000
    let off := (va - 0x4000000000) % 0x400000
    if k < gradeOf σ ∧ off + n ≤ spadSize then .spad k off else .bad
  else if 0x10000000000 ≤ va ∧ va + n ≤ 2 ^ 48 then .trans
  else .bad

/-- [off, off + n) meets the last-resort slots (R53). -/
def inLastResort (off n : Nat) : Bool := decide (off < 0x80000) && decide (0x7F800 < off + n)

/-- Logical id K lies in the core group of core L's task (R53, R474). -/
def inGroup (σ : State) (L K : Nat) : Bool :=
  let s := (getCore σ L).sup
  decide (s.groupFirst ≤ K) && decide (K < s.groupFirst + s.groupCount)

/-- R53 denies the access in user mode. -/
def r53Denies (σ : State) (L K off n : Nat) (mode : Mode) (write : Bool) : Bool :=
  decide (mode = .user) && ((write && inLastResort off n) || (decide (K ≠ L) && !inGroup σ L K))

/-! ### Page walks (R297–R301) -/

/-- How a walk ends. -/
inductive WalkR where
  | ok (e : Tlb)
  | fail (reason level : Nat)
  | recall (line : Nat)

/-- A page table entry with V = 1 is malformed at a level (R299). -/
def pteMalformed (e lvl : Nat) : Bool :=
  let leaf := nbit e 1
  let addr := nbits e 51 12 * 4096
  let reserved := nbits e 63 52 != 0 || nbits e 11 10 != 0 || nbit e 8
  if leaf then
    reserved || lvl == 0 || nbits e 7 6 == 3 || (lvl == 1 && nbits e 29 12 != 0) || (lvl == 2 && nbits e 20 12 != 0) ||
      (!nbit e 9 && decide (hbmSize < addr + 2 ^ (39 - 9 * lvl)))
  else reserved || lvl == 3 || nbits e 9 2 != 0 || decide (hbmSize < addr + 4096)

/-- A leaf of the tables as a TLB entry (R298, R302). -/
def tlbOf (va e lvl : Nat) : Tlb :=
  let log2 := 39 - 9 * lvl
  { va := va / 2 ^ log2 * 2 ^ log2, log2 := log2, addr := nbits e 51 12 * 4096, comp := nbit e 9, r := nbit e 2, w := nbit e 3,
    x := nbit e 4, u := nbit e 5, cls := nbits e 7 6 }

/-- Walks on from a table at a level (R297). -/
def walkLevels (σ : State) (va : Nat) : Nat → Nat → Nat → WalkR
  | 0, lvl, _ => .fail 3 lvl
  | fuel + 1, lvl, tab =>
    let a := tab + 8 * ((va / 2 ^ (39 - 9 * lvl)) % 512)
    match mustRecall σ (.hbm a) 8 false with
    | some r => .recall r.1
    | none =>
      let r := hbmRead σ a 8
      if !stackUp σ (stackOf a) || !r.2.isEmpty then .fail 4 lvl else
      let e := ofBytes r.1
      if !nbit e 0 then .fail 2 lvl
      else if pteMalformed e lvl then .fail 3 lvl
      else if nbit e 1 then .ok (tlbOf va e lvl)
      else walkLevels σ va fuel (lvl + 1) (nbits e 51 12 * 4096)

/-- A walk from a root (R296, R299). -/
def walkFrom (σ : State) (root : Word) (va : Nat) : WalkR :=
  let r := bits root 39 12 * 4096
  if !bit root 0 then .fail 1 0
  else if 0xBFFFFFF000 < r then .fail 3 0
  else walkLevels σ va 4 0 r

/-- Cause of a translation reason at a thread (Table: translation fault reasons). -/
def reasonCause (r : Nat) : Nat := if r = 4 then 0x0D else if r ≤ 3 then 0x04 else if r = 6 then 0x06 else 0x05

/-- The permission check of R301: 0, or the first reason that applies. -/
def permReason (e : Tlb) (mode : Mode) (acc : Acc) : Nat :=
  if mode = .user ∧ e.u = false then 5
  else match acc with
    | .fetch => if e.x then 0 else 6
    | .load => if e.r then 0 else 7
    | .store => if e.w then 0 else 8
    | .atomic => if e.r then (if e.w then 0 else 8) else 7

/-- The TLB entry that covers an address (R302). -/
def tlbFind (x : Xlt) (va : Nat) : Option Tlb :=
  let hit (e : Tlb) : Bool := decide (e.va ≤ va) && decide (va < e.va + 2 ^ e.log2)
  match x.tlb.find? hit with
  | some e => some e
  | none => x.big.find? hit

/-- Installs a translation; in a full set the replaced entry is a free choice (R302). -/
def tlbInstall (x : Xlt) (e : Tlb) (k : Nat) : Xlt :=
  if e.log2 = 12 then
    let inSet (q : Tlb) : Bool := (q.va / 4096) % 64 == (e.va / 4096) % 64
    let same := x.tlb.filter inSet
    if same.length < 4 then { x with tlb := x.tlb ++ [e] }
    else { x with tlb := x.tlb.filter (fun q => !inSet q) ++ dropAt (Config.victim k % 4) same ++ [e] }
  else if x.big.length < 32 then { x with big := x.big ++ [e] }
  else { x with big := dropAt (Config.victim k % 32) x.big ++ [e] }

/-- Removes the entries that cover any byte of [lo, lo + n) (R306, R307). -/
def tlbRemove (x : Xlt) (lo n : Nat) : Xlt :=
  let keep (e : Tlb) : Bool := !(decide (e.va < lo + n) && decide (lo < e.va + 2 ^ e.log2))
  { x with tlb := x.tlb.filter keep, big := x.big.filter keep }

/-- Empties the TLB (R305). -/
def tlbClear (x : Xlt) : Xlt := { x with tlb := [], big := [] }

/-- The fault of an access for a translation reason. -/
def xlateFault (f : FInfo) (reason level : Nat) : FInfo := { f with cause := reasonCause reason, reason := reason, level := level }

/-- Counts a walk (TLB_STAT.WALKS, event 0x0D). -/
def countWalk (c : Core) : Core :=
  pmcEvent { c with xlt := { c.xlt with walkCount := satAdd 0xFFFFFFFF c.xlt.walkCount 1 } } 0x0D none 1

/-- Adds a waiter to the walk of a page; a walk starts when none of the page runs and fewer than 4 run (R304). -/
def joinWalk (σ : State) (L page : Nat) (w : Waiter) : State :=
  let c := getCore σ L
  match c.xlt.walks.findIdx? (fun k => k.page == page) with
  | some i =>
    let k := c.xlt.walks.getD i ⟨page, []⟩
    if k.waiters.contains w then σ else
    setCore σ L { c with xlt := { c.xlt with walks := setAt i { k with waiters := k.waiters ++ [w] } c.xlt.walks } }
  | none =>
    if 4 ≤ c.xlt.walks.length then σ else
    let c := countWalk c
    setCore σ L { c with xlt := { c.xlt with walks := c.xlt.walks ++ [{ page := page, waiters := [w] }] } }

/-- A walk of the page runs, or one more may start (R304). -/
def mayWalk (c : Core) (page : Nat) : Bool := c.xlt.walks.any (fun w => w.page == page) || decide (c.xlt.walks.length < 4)

/-- Translation for an access of thread t: its entry, the fault of a permission, or a walk that holds the thread inside its instruction
(R304). `f` is the access as a fault reports it. -/
def threadXlate (σ : State) (L t : Nat) (mode : Mode) (acc : Acc) (va : Nat) (f : FInfo) : AR Tlb :=
  let c := getCore σ L
  match tlbFind c.xlt va with
  | some e =>
    match permReason e mode acc with
    | 0 => .ok σ e
    | r => .fault σ (xlateFault f r 0)
  | none =>
    let page := va / 4096
    if mayWalk c page then
      .hold (modT (joinWalk σ L page (.thread (BitVec.ofNat 4 t) f)) L t (fun h => { h with held := .walk page }))
    else .hold σ

/-! ### Caches -/

/-- Address of the line of a byte. -/
def lineOf (va : Nat) : Nat := va / 64 * 64

/-- The way and line of an address in a cache of s sets. -/
def findLine (m : SMap DLine) (s va : Nat) : Option (Nat × DLine) :=
  let set := (va / 64) % s
  (List.range 4).findSome? (fun w =>
    let l := mget DLine.empty m (4 * set + w)
    if l.valid && l.va == lineOf va then some (4 * set + w, l) else none)

/-- Drops a way: a locked way stays reserved, and where `counts` it counts in LOCK_DROPS (R287). -/
def dropWay (k : Caches) (counts : Bool) (key : Nat) (l : DLine) : Caches :=
  if l.locked then
    { k with d := mput DLine.empty key { l with valid := false, dirty := false, data := [], poison := [], flips := [] } k.d,
             lockDrops := if counts && l.valid then satAdd 0xFFFFFFFF k.lockDrops 1 else k.lockDrops }
  else { k with d := mput DLine.empty key DLine.empty k.d }

/-- Looks up the ways of a set for tag parity errors (R293): each is a miss, and a dirty one stops the core with subcode 4. -/
def checkTags (σ : State) (L va : Nat) : State :=
  let set := (va / 64) % 256
  (List.range 4).foldl (fun σ w =>
    let c := getCore σ L
    let l := mget DLine.empty c.cache.d (4 * set + w)
    if !l.tagBad then σ
    else if l.dirty then coreStop σ L 4 0
    else setCore σ L { c with cache := { c.cache with
      d := mput DLine.empty (4 * set + w) DLine.empty c.cache.d, tagPar := satAdd 0xFFFF c.cache.tagPar 1,
      lockDrops := if l.locked then satAdd 0xFFFFFFFF c.cache.lockDrops 1 else c.cache.lockDrops } }) σ

/-- The errors of a line that a read of its words [o, o + n) meets (R292): corrected words are rewritten; an uncorrectable word of a dirty
line is poisoned; that of a clean line makes the line go. -/
def lineMeet (l : DLine) (o n : Nat) : DLine × Nat × Nat :=
  let ws := wordsTouched o n
  let met := l.flips.filter (fun e => ws.contains e.1)
  let bad := (met.filter (·.2)).map (·.1)
  ({ l with flips := l.flips.filter (fun e => !ws.contains e.1), poison := addBad l.poison bad }, met.length - bad.length, bad.length)

/-- A read of [va, va + n), inside one line, looks up the D-cache: tag parity (R293), then the errors of the words it meets (R292). -/
def dcMeet (σ : State) (L va n : Nat) : State :=
  let σ := checkTags σ L va
  let c := getCore σ L
  match findLine c.cache.d 256 va with
  | none => σ
  | some (key, l) =>
    if l.flips.isEmpty then σ else
    let r := lineMeet l (va % 64) n
    let k := { c.cache with dcCorr := satAdd 0xFFFF c.cache.dcCorr r.2.1, dcUe := satAdd 0xFFFF c.cache.dcUe r.2.2 }
    let k := if r.2.2 = 0 ∨ l.dirty = true then { k with d := mput DLine.empty key r.1 k.d } else dropWay k false key l
    setCore σ L { c with cache := k }

/-- The way that a fill takes (R278, R287): the way reserved for the line, an invalid unlocked way, or a free choice of the valid
unlocked ways. -/
def fillWay (m : SMap DLine) (va k : Nat) : Nat :=
  let set := (va / 64) % 256
  let way (w : Nat) : DLine := mget DLine.empty m (4 * set + w)
  match (List.range 4).find? (fun w => (way w).locked && !(way w).valid && (way w).va == lineOf va) with
  | some w => 4 * set + w
  | none =>
    match (List.range 4).find? (fun w => !(way w).locked && !(way w).valid) with
    | some w => 4 * set + w
    | none =>
      let ws := (List.range 4).filter (fun w => !(way w).locked)
      4 * set + ws.getD (Config.victim k % ws.length) 3

/-- Sends a dirty line to its home through the write-back buffer (R272); the errors of its words are met (R292). -/
def writeBack (σ : State) (L : Nat) (l : DLine) : State :=
  let r := lineMeet l 0 64
  let (id, σ) := newId σ
  let σ := addOut σ L id .wback l.home
  let σ := modCore σ L (fun c => { c with cache := { c.cache with
    wbb := c.cache.wbb ++ [(id, l.home)], dcCorr := satAdd 0xFFFF c.cache.dcCorr r.2.1, dcUe := satAdd 0xFFFF c.cache.dcUe r.2.2 } })
  sendWrite σ L id l.home r.1.data r.1.poison (.wback L)

/-- What becomes of a victim (R278). -/
def evict (σ : State) (L : Nat) (l : DLine) : State :=
  if !l.valid then σ
  else if l.dirty then writeBack σ L l
  else match l.home with
    | .hbm a => send σ (.core L) (.stack (stackOf a)) (.victim a)
    | _ => σ

/-- A fill of a line needs a victim while all 8 write-back entries are in use (R272). -/
def noRoom (σ : State) (L va : Nat) : Bool :=
  let k := (getCore σ L).cache
  decide (8 ≤ k.wbb.length) && (mget DLine.empty k.d (fillWay k.d va σ.freeCtr)).valid

/-- Installs a line, or answers none while the write-back buffer has no room for a victim (R272). -/
def installLine (σ : State) (L : Nat) (l : DLine) : Option State :=
  if noRoom σ L l.va then none else
  let c := getCore σ L
  let key := fillWay c.cache.d l.va σ.freeCtr
  let old := mget DLine.empty c.cache.d key
  let σ := evict { σ with freeCtr := σ.freeCtr + 1 } L old
  some (modCore σ L (fun c => { c with cache := { c.cache with
    d := mput DLine.empty key { l with locked := old.locked } c.cache.d } }))

/-- The line stands in the write-back buffer: a miss to it waits (R272). -/
def inWbb (c : Core) (h : Home) : Bool := c.cache.wbb.any (fun p => decide (p.2 = h))

/-- Home of the line that a home lies in. -/
def homeLine (h : Home) : Home :=
  match h with
  | .hbm a => .hbm (lineOf a)
  | .comp a => .comp (lineOf a)
  | h => h

/-- A fill of the line of va is outstanding. -/
def fillOut (c : Core) (va : Nat) : Bool :=
  c.outs.any (fun o => match o.kind with
    | .fillLoad _ _ _ _ v _ _ => lineOf v == lineOf va
    | .fillStore _ v _ _ => lineOf v == lineOf va
    | .fillAcc _ l _ _ _ => l.va == lineOf va
    | .prefetch l _ => l.va == lineOf va
    | .lock l => l.va == lineOf va
    | _ => false)

/-- An atomic to the line of va is outstanding (R273). -/
def amoOut (c : Core) (va : Nat) : Bool :=
  c.outs.any (fun o => match o.kind with
    | .atomic _ _ _ _ v => lineOf v == lineOf va
    | _ => false)

/-- Acquire (R274, R276): clean unlocked SHARED lines and SHARED side-buffer lines go, and SHARED fills in flight install nothing. -/
def acquire (c : Core) : Core :=
  let go (l : DLine) : Bool := l.valid && l.shared && !l.locked && !l.dirty
  let out (o : Out) : Out := match o.kind with
    | .fillLoad t rd size sx va l _ => { o with kind := .fillLoad t rd size sx va l (o.kind matches .fillLoad _ _ _ _ _ _ true || l.shared) }
    | .fillAcc t l f st b => { o with kind := .fillAcc t l f st (b || l.shared) }
    | .prefetch l b => { o with kind := .prefetch l (b || l.shared) }
    | _ => o
  { c with cache := { c.cache with d := c.cache.d.filter (fun p => !go p.2), side := c.cache.side.filter (fun l => !l.shared) },
           outs := c.outs.map out }

/-- Marks of words of a line that [va, va + n) touches. -/
def linePoison (l : DLine) (va n : Nat) : List Nat := l.poison.filter (fun k => (wordsTouched (va - lineOf va) n).contains k)

/-- Merges bytes into a line; whole words lose their poison (R292). -/
def mergeLine (l : DLine) (va : Nat) (data : List Byte) : DLine :=
  let o := va - lineOf va
  { l with data := l.data.take o ++ data ++ l.data.drop (o + data.length), poison := clearBad l.poison o data.length,
           flips := l.flips.filter (fun e => !wordWhole o data.length e.1) }

/-- A line as a fill brings it. -/
def lineNew (va : Nat) (h : Home) (shared : Bool) (data : List Byte) : DLine :=
  { valid := true, va := lineOf va, home := h, shared := shared, dirty := false, locked := false, data := data, poison := [],
    tagBad := false, flips := [] }

/-- Takes a side-buffer line out of the buffer. -/
def sideTake (c : Core) (va : Nat) : Option (DLine × Core) :=
  match c.cache.side.find? (fun l => l.va == lineOf va) with
  | some l => some (l, { c with cache := { c.cache with side := c.cache.side.filter (fun q => q.va != lineOf va) } })
  | none => none

/-- An uncorrectable cache refill of core L at an address (R292, R536): error record of class 3, and the second in the window marks the
core. -/
def noteCacheUE (σ : State) (L va : Nat) : State :=
  let c := getCore σ L
  let pos := posOf σ L
  let σ := setCore σ L { c with cache := { c.cache with dcUe := satAdd 0xFFFF c.cache.dcUe 1 } }
  let σ := errRecord σ 3 1 L pos 0xFF 0xFF 0x0D va c.sup.pair
  let n := (σ.boot.stops.filter (fun e => e.1 == pos && e.2.1 == 1)).length
  let σ := { σ with boot := { σ.boot with stops := σ.boot.stops ++ [(pos, 1, 0)] } }
  if 1 ≤ n ∧ autoRetire σ = true then markRetire σ L else σ

/-! ### Places: what an access reaches after its checks -/

/-- A part of an access inside one 64-B line: its address, length and home; class 3 means not through a cache. -/
structure Place where
  va : Nat
  n : Nat
  home : Home
  cls : Nat
  deriving DecidableEq, Repr

/-- Home of an address under a translation. -/
def homeAt (e : Tlb) (va : Nat) : Home := if e.comp then .comp (e.addr + (va - e.va)) else .hbm (e.addr + (va - e.va))

/-- The pieces of [va, va + n) that lie in one 64-B line each. -/
def pieces : Nat → Nat → Nat → List (Nat × Nat)
  | 0, _, _ => []
  | fuel + 1, va, n =>
    if n = 0 then [] else
    let k := Nat.min n (64 - va % 64)
    (va, k) :: pieces fuel (va + k) (n - k)

/-- Translates each piece of a translated access. -/
def placesOf (σ : State) (L t : Nat) (mode : Mode) (acc : Acc) (f : FInfo) : List (Nat × Nat) → AR (List Place)
  | [] => .ok σ []
  | (va, n) :: r =>
    andThen (threadXlate σ L t mode acc va f) (fun σ e =>
      andThen (placesOf σ L t mode acc f r) (fun σ ps => .ok σ ({ va := va, n := n, home := homeAt e va, cls := e.cls } :: ps)))

/-- Checks one access of thread t under R51 whole, in the order of R59; `f` is the access as a fault reports it. -/
def resolve (σ : State) (L t : Nat) (mode : Mode) (acc : Acc) (va n : Nat) (f : FInfo) : AR (List Place) :=
  match rangeOf σ L va n with
  | .bad => .fault σ { f with cause := 0x05 }
  | .spad k off =>
    if r53Denies σ L k off n mode f.write then .fault σ { f with cause := 0x05 }
    else .ok σ ((pieces (n / 64 + 2) off n).map (fun p => { va := va + (p.1 - off), n := p.2, home := .spad k p.1, cls := 3 }))
  | .trans =>
    if (getCore σ L).cache.dcBusy then .hold σ else placesOf σ L t mode acc f (pieces (n / 64 + 2) va n)

/-! ### Requests of an instruction with several accesses -/

/-- The record of an answered access of thread t. -/
def accFind (h : Thread) (home : Home) (n : Nat) (write : Bool) : Option AccRec :=
  h.acc.find? (fun r => r.write == write && decide (r.home = home) && r.data.length == n)

/-- Records an access of thread t as answered. -/
def accKeep (σ : State) (L t : Nat) (r : AccRec) : State := modT σ L t (fun h => { h with acc := h.acc ++ [r] })

/-- The instruction of thread t has no answered access any more. -/
def accClear (σ : State) (L t : Nat) : State := modT σ L t (fun h => { h with acc := [] })

/-- A new request of thread t, which holds it inside its instruction. -/
def threadAsks (σ : State) (L t : Nat) (k : OutKind) (h : Home) : Nat × State :=
  let (id, σ) := newId σ
  (id, modT (addOut σ L id k h) L t (fun h => { h with held := .access id }))

/-- Reads n bytes at a home for thread t: the local scratchpad at once, another home by a request, whose answer the instruction goes on
with. -/
def homeRead (σ : State) (L t : Nat) (f : FInfo) (h : Home) (n : Nat) : AR (List Byte × List Nat) :=
  let ask : AR (List Byte × List Nat) :=
    match accFind (thrOf σ L t) h n false with
    | some r => .ok σ (r.data, r.bad)
    | none =>
      if winFull σ L h then .hold σ else
      let (id, σ) := threadAsks σ L t (.accRead (BitVec.ofNat 4 t) h f) h
      .hold (sendRead σ L id h n (.thread L (BitVec.ofNat 4 t)))
  match h with
  | .spad k off => if k = L then .ok (spadMeet σ L off n) (homeBytes σ h n) else ask
  | _ => ask

/-- Writes bytes at a home for thread t; `merge` is the address whose D-cache line takes them when the home has acknowledged. -/
def homeWrite (σ : State) (L t : Nat) (f : FInfo) (h : Home) (data : List Byte) (merge : Option Nat) : AR Unit :=
  let ask : AR Unit :=
    match accFind (thrOf σ L t) h data.length true with
    | some _ => .ok σ ()
    | none =>
      if winFull σ L h then .hold σ else
      let (id, σ) := threadAsks σ L t (.accWrite (BitVec.ofNat 4 t) h data f merge) h
      .hold (sendWrite σ L id h data [] (.thread L (BitVec.ofNat 4 t)))
  match h with
  | .spad k off =>
    if k ≠ L then ask else
    match partBad (getCore σ L) off data.length with
    | [] => .ok (spadWrite σ L off data) ()
    | ks => .fault (ks.foldl (fun σ w => noteSpadUE σ L (8 * w)) σ) { f with cause := 0x0D }
  | _ => ask

/-- Prefetches after a load miss: the next lines of the page that are in neither the cache nor the buffer (R291). -/
def prefetch (σ : State) (L va : Nat) : State :=
  let c := getCore σ L
  let k := c.cache
  match tlbFind c.xlt va with
  | none => σ
  | some e =>
    if !k.pfEnable || (e.cls == 1 && !k.pfShared) || !e.r then σ else
    (List.range (k.pfDepthM1 + 1)).foldl (fun σ i =>
      let a := lineOf va + 64 * (i + 1)
      let c := getCore σ L
      if e.va + 2 ^ e.log2 ≤ a ∨ (findLine c.cache.d 256 a).isSome = true ∨ c.cache.side.any (fun l => l.va == a) = true ∨
          fillOut c a = true ∨ inWbb c (homeAt e a) = true then σ
      else
        let (id, σ) := newId σ
        let l := lineNew a (homeAt e a) (decide (e.cls = 1)) []
        sendRead (addOut σ L id (.prefetch l false) (homeAt e a)) L id (homeAt e a) 64 (.prefetch L)) σ

/-- Bytes of a line from an address on. -/
def lineBytes (l : DLine) (va n : Nat) : List Byte := (l.data.drop (va % 64)).take n

/-- Bytes of a place for thread t with its marked words (relative to the word of its first byte). `alloc` fills a line on a miss (the
scalar and vector paths); without it a miss reads at the home (R172). -/
def readPlace (σ : State) (L t : Nat) (f : FInfo) (alloc : Bool) (p : Place) : AR (List Byte × List Nat) :=
  if 2 ≤ p.cls then homeRead σ L t f p.home p.n else
  let lh := homeLine p.home
  let t4 := BitVec.ofNat 4 t
  let h := thrOf σ L t
  match accFind h p.home p.n false, accFind h lh 64 false with
  | some r, _ => .ok σ (r.data, r.bad)
  | none, some r =>
    .ok σ ((r.data.drop (p.va % 64)).take p.n,
      (r.bad.filter (fun k => (wordsTouched (p.va % 64) p.n).contains k)).map (· - p.va % 64 / 8))
  | none, none =>
  let σ := dcMeet σ L p.va p.n
  let c := getCore σ L
  let keep (σ : State) (d : List Byte) (bad : List Nat) : AR (List Byte × List Nat) :=
    .ok (accKeep σ L t { home := p.home, data := d, bad := bad, write := false }) (d, bad)
  if c.sup.stopped then .hold σ else
  match findLine c.cache.d 256 p.va with
  | some (_, l) =>
    keep (setCore σ L (pmcEvent c 0x09 (some t) 1)) (lineBytes l p.va p.n) ((linePoison l p.va p.n).map (· - p.va % 64 / 8))
  | none =>
    if fillOut c p.va || amoOut c p.va || inWbb c lh then .hold σ
    else if !alloc then
      match c.cache.side.find? (fun l => l.va == lineOf p.va) with
      | some l => .ok σ (lineBytes l p.va p.n, [])
      | none => homeRead σ L t f p.home p.n
    else if noRoom σ L p.va then .hold σ
    else
      let σ := setCore σ L (pmcEvent c 0x0A (some t) 1)
      match sideTake (getCore σ L) p.va with
      | some (l, c') =>
        match installLine (setCore σ L (pmcEvent c' 0x0C (some t) 1)) L l with
        | some σ => keep σ (lineBytes l p.va p.n) []
        | none => .hold σ
      | none =>
        let (id, σ) := threadAsks σ L t (.fillAcc t4 (lineNew p.va lh (decide (p.cls = 1)) []) f false false) lh
        .hold (prefetch (sendRead σ L id lh 64 (.thread L t4)) L p.va)

/-- A SHARED store leaves no line of the address in the side buffer (R291). -/
def sideDrop (σ : State) (L va : Nat) : State :=
  match sideTake (getCore σ L) va with
  | some (_, c) => setCore σ L c
  | none => σ

/-- A PRIVATE store that hits the side buffer moves the line into the D-cache (R291); none while the move must wait. -/
def sideMove (σ : State) (L va : Nat) : Option State :=
  match sideTake (getCore σ L) va with
  | some (l, c) => installLine (setCore σ L c) L l
  | none => some σ

/-- Merges bytes into the D-cache line of an address, if it is there. -/
def mergeAt (σ : State) (L va : Nat) (data : List Byte) (dirty : Bool) : State :=
  let c := getCore σ L
  match findLine c.cache.d 256 va with
  | some (key, l) => setCore σ L { c with cache := { c.cache with
      d := mput DLine.empty key { mergeLine l va data with dirty := dirty } c.cache.d } }
  | none => σ

/-- Writes bytes to a place for thread t, by the write policy of its class (Table: behaviour by cache class); without `alloc` a PRIVATE
miss writes at the home. -/
def writePlace (σ : State) (L t : Nat) (f : FInfo) (alloc : Bool) (p : Place) (data : List Byte) : AR Unit :=
  if 2 ≤ p.cls then homeWrite σ L t f p.home data none else
  let lh := homeLine p.home
  let t4 := BitVec.ofNat 4 t
  match accFind (thrOf σ L t) p.home data.length true with
  | some _ => .ok σ ()
  | none =>
  let σ := dcMeet σ L p.va p.n
  let c := getCore σ L
  let put (σ : State) : AR Unit :=
    .ok (accKeep (mergeAt σ L p.va data true) L t { home := p.home, data := data, bad := [], write := true }) ()
  if c.sup.stopped then .hold σ else
  match findLine c.cache.d 256 p.va with
  | some _ =>
    let σ := setCore σ L (pmcEvent c 0x09 (some t) 1)
    if p.cls = 0 then put σ else homeWrite σ L t f p.home data (some p.va)
  | none =>
    if fillOut c p.va || amoOut c p.va || inWbb c lh then .hold σ
    else if p.cls = 1 then homeWrite (sideDrop (setCore σ L (pmcEvent c 0x0A (some t) 1)) L p.va) L t f p.home data none
    else if c.cache.side.any (fun l => l.va == lineOf p.va) then
      match sideMove σ L p.va with
      | some σ => put (modCore σ L (fun c => pmcEvent c 0x0A (some t) 1))
      | none => .hold σ
    else if !alloc then homeWrite σ L t f p.home data none
    else if noRoom σ L p.va then .hold σ
    else
      let σ := setCore σ L (pmcEvent c 0x0A (some t) 1)
      let (id, σ) := threadAsks σ L t (.fillAcc t4 (lineNew p.va lh false []) f true false) lh
      .hold (sendRead σ L id lh 64 (.thread L t4))

/-- Reads every place in order. -/
def readPlaces (σ : State) (L t : Nat) (f : FInfo) (alloc : Bool) : List Place → AR (List Byte × Bool)
  | [] => .ok σ ([], false)
  | p :: r => andThen (readPlace σ L t f alloc p) (fun σ v =>
      andThen (readPlaces σ L t f alloc r) (fun σ w => .ok σ (v.1 ++ w.1, !v.2.isEmpty || w.2)))

/-- Writes data over every place in order. -/
def writePlaces (σ : State) (L t : Nat) (f : FInfo) (alloc : Bool) : List Place → List Byte → AR Unit
  | [], _ => .ok σ ()
  | p :: r, d => andThen (writePlace σ L t f alloc p (d.take p.n)) (fun σ _ => writePlaces σ L t f alloc r (d.drop p.n))

/-- Reads n bytes for thread t: checked whole, then read; `true` where a word is uncorrectable. -/
def readNow (σ : State) (L t : Nat) (mode : Mode) (alloc : Bool) (va n : Nat) (f : FInfo) : AR (List Byte × Bool) :=
  andThen (resolve σ L t mode .load va n f) (fun σ ps => readPlaces σ L t f alloc ps)

/-- Writes bytes for thread t after every check. -/
def writeNow (σ : State) (L t : Nat) (mode : Mode) (alloc : Bool) (va : Nat) (data : List Byte) (f : FInfo) : AR Unit :=
  andThen (resolve σ L t mode .store va data.length f) (fun σ ps => writePlaces σ L t f alloc ps data)

/-- Records the uncorrectable words of core L's own scratchpad that a read of D-space met (R228); those of another core are recorded where
the read is performed. -/
def noteLocalUE (σ : State) (L va n : Nat) : State :=
  match rangeOf σ L va n with
  | .spad k off => if k = L then (badIn (getCore σ L).spad.ue off n).foldl (fun σ w => noteSpadUE σ L (8 * w)) σ else σ
  | _ => σ

end Sys2Proof.Machine
end

