-- ==== Sys2Proof/Machine/Maintain.lean ====
section
/-! DEFINITION. Cache maintenance (R280–R290): an operation walks its lines in ascending set and way, as write-back entries come free, and
ends once every write-back it caused is acknowledged. -/

namespace Sys2Proof.Machine

/-- The selected lines of a maintenance operation: a test on the key and the line. -/
def cmoSelects (k : Caches) (target set way sets : Nat) (key : Nat) (l : DLine) : Bool :=
  match target with
  | 0 => l.va == lineOf k.cmoAddr && key / 4 == (k.cmoAddr / 64) % sets
  | 1 => decide (l.va < k.cmoAddr + k.cmoLen) && decide (k.cmoAddr < l.va + 64) && k.cmoLen != 0
  | 2 => key == 4 * set + way
  | _ => true

/-- The result of the checks of R285 that need no translation. -/
def cmoCheck (k : Caches) (v : Word) : Nat :=
  let op := bits v 2 0
  let target := bits v 4 3
  let icache := bit v 5
  let okD := decide (op ≤ 3) || (op == 4 && target == 0) || (op == 5 && (target == 0 || target == 3))
  let resv := bits v 7 6 != 0 || bits v 63 18 != 0
  if resv || (icache && op != 2 && op != 0) || (!icache && !okD) || (icache && target == 2 && decide (128 ≤ bits v 15 8)) then 1
  else if op ≠ 0 ∧ (target = 0 ∨ op = 4) ∧ k.cmoAddr < 0x10000000000 then 2
  else 0

/-- CMO_STAT. -/
def cmoDone (k : Caches) (result lines wb : Nat) : Caches := { k with cmoResult := result, cmoLines := lines, cmoWb := wb }

/-- A fill that an operation by ADDR or RANGE must wait for (R282). -/
def cmoFillPending (c : Core) (target : Nat) : Bool :=
  let sel (va : Nat) : Bool := match target with
    | 0 => lineOf va == lineOf c.cache.cmoAddr
    | 1 => decide (lineOf va < c.cache.cmoAddr + c.cache.cmoLen) && decide (c.cache.cmoAddr < lineOf va + 64)
    | _ => false
  c.outs.any (fun o => match o.kind with
    | .fillLoad _ _ _ _ va _ _ => sel va
    | .fillStore _ va _ _ => sel va
    | .fillAcc _ l _ _ _ => sel l.va
    | .prefetch l _ => sel l.va
    | _ => false)

/-- Changes the operation in progress. -/
def modCmo (σ : State) (L : Nat) (f : CmoRun → CmoRun) : State :=
  modCore σ L (fun c => { c with cache := { c.cache with cmo := c.cache.cmo.map f } })

/-- The operation has its RESULT. -/
def cmoResult (σ : State) (L r n : Nat) : State := modCmo σ L (fun x => { x with result := some r, lines := n })

/-- Acts on way `key` of the D-cache under an operation other than LOCK (Table: maintenance operations); `counts` where LOCK_DROPS and
DIRTY_DISCARDS count. -/
def cmoAct (k : Caches) (op : Nat) (counts : Bool) (key : Nat) (l : DLine) : Caches :=
  if op = 5 then { k with d := mput DLine.empty key (if l.valid then { l with locked := false } else DLine.empty) k.d }
  else if !l.valid then k
  else if op = 1 then { k with d := mput DLine.empty key { l with dirty := false } k.d }
  else
    let k := dropWay k counts key l
    if op = 2 && l.dirty then { k with dirtyDiscards := satAdd 0xFFFFFFFF k.dirtyDiscards 1 } else k

/-- The walk of the D-cache from way x.next on: it stops at a dirty line that finds no write-back entry free. -/
def cmoWalk : Nat → State → Nat → State
  | 0, σ, _ => σ
  | fuel + 1, σ, L =>
    let c := getCore σ L
    match c.cache.cmo with
    | none => σ
    | some x =>
      let op := bits x.cmd 2 0
      let sel (p : Nat × DLine) : Bool :=
        decide (x.next ≤ p.1) && cmoSelects c.cache (bits x.cmd 4 3) (bits x.cmd 15 8) (bits x.cmd 17 16) 256 p.1 p.2
      match c.cache.d.find? sel with
      | none => cmoResult σ L 0 x.lines
      | some (key, l) =>
        let clean := l.valid && l.dirty && (op == 1 || op == 3)
        if clean && decide (8 ≤ c.cache.wbb.length) then σ else
        let id := σ.nextId
        let σ := if clean then writeBack σ L l else σ
        let σ := modCore σ L (fun c => { c with cache := cmoAct c.cache op (x.who != .switch) key l })
        cmoWalk fuel (modCmo σ L (fun x => { x with
          next := key + 1, lines := x.lines + b2n l.valid, wb := x.wb + b2n clean, ids := if clean then id :: x.ids else x.ids })) L

/-- Side-buffer lines that the operation invalidates. -/
def cmoSide (k : Caches) (op target : Nat) : Caches :=
  let hit (l : DLine) : Bool := match target with
    | 0 => l.va == lineOf k.cmoAddr
    | 1 => decide (l.va < k.cmoAddr + k.cmoLen) && decide (k.cmoAddr < l.va + 64) && k.cmoLen != 0
    | 2 => false
    | _ => true
  if op = 2 ∨ op = 3 then { k with side := k.side.filter (fun l => !hit l) } else k

/-- The way, of ways 0 to 2, that a LOCK of an address takes: the one reserved for it, an invalid one, or a free choice (R286). -/
def lockWay (k : Caches) (va n : Nat) : Option Nat :=
  let set := (va / 64) % 256
  let way (w : Nat) : DLine := mget DLine.empty k.d (4 * set + w)
  let ws := (List.range 3).filter (fun w => !(way w).locked || (way w).va == lineOf va)
  match ws.find? (fun w => (way w).locked) with
  | some w => some (4 * set + w)
  | none => match ws.find? (fun w => !(way w).valid) with
    | some w => some (4 * set + w)
    | none => (ws[Config.victim n % ws.length]?).map (4 * set + ·)

/-- Puts a locked line, or a reserved empty way where `l` is not valid, into way `key`. -/
def lockPut (σ : State) (L key : Nat) (l : DLine) : State :=
  let old := mget DLine.empty (getCore σ L).cache.d key
  let σ := evict { σ with freeCtr := σ.freeCtr + 1 } L old
  modCore σ L (fun c => { c with cache := { c.cache with d := mput DLine.empty key { l with locked := true } c.cache.d } })

/-- LOCK (R285–R287). A refill that is uncorrectable or refused leaves the way locked, reserved and empty (log 46). -/
def cmoLock (σ : State) (L : Nat) (x : CmoRun) : State :=
  let va := (getCore σ L).cache.cmoAddr
  let σ := dcMeet σ L va 0
  let c := getCore σ L
  if c.sup.stopped then σ else
  let full (key : Nat) : Bool := decide (8 ≤ c.cache.wbb.length) && (mget DLine.empty c.cache.d key).valid
  match lockWay c.cache va σ.freeCtr, findLine c.cache.d 256 va with
  | _, some (k0, l) =>
    if l.locked then cmoResult σ L 0 1 else
    match lockWay c.cache va σ.freeCtr with
    | none => cmoResult σ L 5 0
    | some key =>
      if k0 % 4 ≠ 3 then cmoResult (modCore σ L (fun c => { c with cache := { c.cache with
          d := mput DLine.empty k0 { l with locked := true } c.cache.d } })) L 0 1
      else if full key then σ
      else
        let σ := modCore σ L (fun c => { c with cache := { c.cache with d := mput DLine.empty k0 DLine.empty c.cache.d } })
        cmoResult (lockPut σ L key l) L 0 1
  | none, none => cmoResult σ L 5 0
  | some key, none =>
    match x.line with
    | some l => if full key then σ else cmoResult (lockPut σ L key l) L 0 (b2n l.valid)
    | none =>
      if x.fill.isSome then σ else
      match tlbFind c.xlt va with
      | none =>
        if c.cache.dcBusy || !mayWalk c (va / 4096) then σ else joinWalk σ L (va / 4096) .cmo
      | some e =>
        if permReason e .supervisor .load ≠ 0 then cmoResult σ L 3 0
        else if 2 ≤ e.cls then cmoResult σ L 4 0
        else
          let h := homeAt e (lineOf va)
          if full key || inWbb c h || amoOut c va then σ else
          match sideTake c va with
          | some (l, c) => cmoResult (lockPut (setCore σ L c) L key l) L 0 1
          | none =>
            let (id, σ) := newId σ
            let l := lineNew va h (decide (e.cls = 1)) []
            modCmo (sendRead (addOut σ L id (.lock l) h) L id h 64 (.wback L)) L (fun x => { x with fill := some id })

/-- One step of the operation in progress: its checks, the fills it waits for, then the lines it selects. -/
def cmoStep (σ : State) (L : Nat) : State :=
  let c := getCore σ L
  match c.cache.cmo with
  | none => σ
  | some x =>
    let op := bits x.cmd 2 0
    let target := bits x.cmd 4 3
    if x.result.isSome ∨ c.sup.stopped = true then σ
    else if op = 0 then cmoResult σ L 0 0
    else if cmoFillPending c target then σ
    else if bit x.cmd 5 then
      let k := c.cache
      let hit := k.i.filter (fun p => p.2.valid && cmoSelects k target (bits x.cmd 15 8) (bits x.cmd 17 16) 128 p.1 p.2)
      let i := hit.foldl (fun d p => mput DLine.empty p.1 DLine.empty d) k.i
      cmoResult (setCore σ L { c with cache := { k with i := i } }) L 0 hit.length
    else if op = 4 then cmoLock σ L x
    else cmoWalk 1025 (modCore σ L (fun c => { c with cache := cmoSide c.cache op target })) L

/-- The operation in progress has acted on every line, and its write-backs are acknowledged (R280). -/
def cmoEnded (c : Core) : Option CmoRun :=
  match c.cache.cmo with
  | some x => if x.result.isSome && !x.ids.any (fun i => c.cache.wbb.any (fun p => p.1 == i)) then some x else none
  | none => none

/-- Begins an operation: the checks of R285 may end it at once. A context switch cleans and invalidates every line (R270). -/
def cmoBegin (σ : State) (L : Nat) (who : CmoBy) (v : Word) : State :=
  modCore σ L (fun c =>
    let r := cmoCheck c.cache v
    let x : CmoRun := { who := who, cmd := v, next := 0, lines := 0, wb := 0, ids := [], fill := none, line := none,
                        result := if r = 0 then none else some r }
    { c with cache := { c.cache with cmo := some x } })

/-- The operation in progress ends: CMO_STAT, or for a context switch empty caches and no locks. -/
def cmoEnd (σ : State) (L : Nat) (x : CmoRun) : State :=
  modCore σ L (fun c => { c with cache :=
    let k := { c.cache with cmo := none }
    match x.who with
    | .switch => { k with d := [], i := [], side := [] }
    | _ => cmoDone k (x.result.getD 0) x.lines x.wb })

/-- The operation of LOCK gets its line, or none where the refill failed. -/
def lockFill (σ : State) (L : Nat) (l : DLine) (data : Option (List Byte)) : State :=
  modCmo σ L (fun x => { x with line := some (match data with
    | some d => { l with data := d }
    | none => { l with valid := false }) })

end Sys2Proof.Machine
end

