-- ==== Sys2Proof/Machine/Route.lean ====
section
/-! DEFINITION. Sending a packet: within the module, to a logical id that does not exist (R412), and through the fabric's choice of
direction and port (R429, R432, R435); the answer that a dropped packet's kind calls for (R420). -/

namespace Sys2Proof.Machine

/-- Endpoint of logical id `id` on module m, seen from this module. -/
def coreEp (σ : State) (m id : Nat) : Ep := if m = moduleId σ then .core id else .remote m id

/-- The id that R429 takes for the choice of port. -/
def epId (e : Ep) : Nat :=
  match e with
  | .core l => l
  | .press q => q
  | .stack h => h
  | .remote _ i => i
  | .disp | .io => 0

/-- FABRIC_DROPS (`0x5100:05`): key 0 AGED, 1 NO_CORE, 2 LOST, 3 NO_ROUTE, 4 bad frames. -/
def fabDrop (σ : State) (k : Nat) : State :=
  { σ with fab := { σ.fab with drops := mmod 0 k (satAdd 0xFFFFFFFF 1) σ.fab.drops } }

/-- Counts a dropped message (0), signal (1) or press contribution (2) at its source core (R421). -/
def netDrop (σ : State) (L k : Nat) : State :=
  let c := getCore σ L
  if frozen c then σ else
  let p := c.perf
  setCore σ L { c with perf :=
    if k = 0 then { p with dropMsg := satAdd 0xFFFF p.dropMsg 1 }
    else if k = 1 then { p with dropSig := satAdd 0xFFFF p.dropSig 1 }
    else { p with dropPress := satAdd 0xFFFF p.dropPress 1 } }

/-- The answer to a dropped packet (R420): an error to the requester, a notice to the destination of a response or to the source of a
posted packet; a CREDIT_REQ is refused with reason 6 (R435); nothing for another VC0 packet. -/
def dropAnswer (b : Body) (src dst : Ep) (reason : Nat) : Option (Ep × Body) :=
  match b with
  | .creditReq _ u .. => some (src, .creditRefuse u 6)
  | .write id _ _ _ w =>
    some (src, if bulkWho w true then .dropNotice reason 7 none 0 (some id) else .errorResp id reason)
  | .read id .. | .atomic id .. => some (src, .errorResp id reason)
  | .readData id .. | .writeAck id | .atomicData id .. => some (dst, .dropNotice reason 7 none 0 (some id))
  | .landingAck u _ => some (dst, .dropNotice reason 6 (some u) 0 none)
  | .message .. => some (src, .dropNotice reason 0 none 0 none)
  | .pressContrib .. => some (src, .dropNotice reason 2 none 0 none)
  | .faultRecord .. => some (src, .dropNotice reason 3 none 0 none)
  | .remoteWrite _ u _ _ _ _ _ _ pos => some (src, .dropNotice reason 4 (some u) pos none)
  | .victim .. => some (src, .dropNotice reason 5 none 0 none)
  | _ => none

/-! ### The fabric's choice (R429, R432) -/

/-- Port p takes part in R429's choice. -/
def portServes (σ : State) (p : Nat) : Bool :=
  let q := mget Port.reset σ.fab.ports p
  (q.st == 2 || q.st == 3) && !q.joinWait

/-- Ports of a direction group: 2·dim for +, 2·dim + 1 for −. -/
def groupPorts (g : Nat) : List Nat := (List.range 4).map (· + 4 * g)

/-- Torus sizes in force (R39). -/
def dimSize (σ : State) (d : Nat) : Nat :=
  if d = 0 then nbits σ.fab.dims 2 0 + 1 else if d = 1 then nbits σ.fab.dims 5 3 + 1 else nbits σ.fab.dims 7 6 + 1

/-- This module's coordinate in a dimension. -/
def dimHere (σ : State) (d : Nat) : Nat :=
  if d = 0 then nbits σ.fab.coord 2 0 else if d = 1 then nbits σ.fab.coord 5 3 else nbits σ.fab.coord 7 6

/-- The coordinate of a module id. -/
def dimOf (σ : State) (m d : Nat) : Nat :=
  if d = 0 then m % dimSize σ 0 else if d = 1 then (m / dimSize σ 0) % dimSize σ 1 else m / dimSize σ 0 / dimSize σ 1

/-- The direction group of the first dimension whose distance is not 0 (R429); the other way round when it has no port UP (R432). -/
def routeGroup (σ : State) (m : Nat) : Option Nat :=
  if dimSize σ 0 * dimSize σ 1 * dimSize σ 2 ≤ m then none else
  match (List.range 3).find? (fun d => dimOf σ m d != dimHere σ d) with
  | none => none
  | some d =>
    let n := dimSize σ d
    let dist := (dimOf σ m d + n - dimHere σ d) % n
    let g := if dist ≤ n - dist then 2 * d else 2 * d + 1
    let h := if dist ≤ n - dist then 2 * d + 1 else 2 * d
    if (groupPorts g).any (portServes σ) then some g
    else if (groupPorts h).any (portServes σ) then some h
    else none

/-- The fabric carries traffic (`0x5100:01`). -/
def fabricOn (σ : State) : Bool := ((mget none σ.dict.val 0x510001).getD 0) == 1

/-! ### Classes, slots, credits and frames (R424, R426, R427, R428) -/

/-- Fabric class of a packet: that of its virtual channel, but FC2 for a signal (R427). -/
def fcOf (b : Body) : Nat :=
  match b with
  | .signal .. => 2
  | b => vcOf b

/-- Bytes of data that a packet carries beside its header; the fields of a credit message take 32 (log 42). -/
def dataBytes (b : Body) : Nat :=
  match b with
  | .creditReq .. | .creditGrant .. | .creditRefuse .. | .creditRevoke .. => 32
  | .readData _ d _ _ => d.length
  | .write _ _ rs _ _ => runsEnd rs
  | .remoteWrite _ _ _ _ _ d _ _ _ => d.length
  | .message _ m => 8 + 8 * m.words.length
  | .pressContrib _ fmt es _ _ => if fmt = 2 then 2 * es.length else 4 * es.length
  | .reducePiece _ _ _ es _ => 4 * es.length
  | .faultRecord .. => 32
  | .atomic .. => 16
  | .atomicData .. => 8
  | _ => 0

/-- Slots of a packet: its header slot and PSLOTS payload slots (R428). -/
def slotsOf (b : Body) : Nat := 1 + Nat.min 8 ((dataBytes b + 31) / 32)

/-- The module that a packet comes from. -/
def srcModule (σ : State) (k : Packet) : Nat :=
  match k.src with
  | .remote m _ => m
  | _ => moduleId σ

/-- Lane 1 of a packet that leaves by a port: it crosses here, or has crossed, the link between the last coordinate of the dimension and 0
(R429). -/
def laneOf (σ : State) (port : Nat) (k : Packet) : Bool :=
  let d := port / 8
  let here := dimHere σ d
  let start := dimOf σ (srcModule σ k) d
  if port / 4 % 2 = 0 then decide (here < start) || here + 1 == dimSize σ d else decide (start < here) || here == 0

/-- Slots that the far end can still take in a class and lane: 64 for FC0, 512 for each other class (R426). -/
def slotsFree (q : Port) (c : Nat) (l : Bool) : Nat := (if c = 0 then 64 else 512) - mget 0 q.used (2 * c + b2n l)

/-- A packet may leave: its class is not paused, and each of its slots has a credit. A packet that has begun never waits for a credit, so no
slot of another packet comes between its slots (log 42). -/
def mayBegin (lane : Packet → Bool) (q : Port) (k : Packet) : Bool :=
  let c := fcOf k.body
  (c == 0 || !q.paused.getLsbD (c - 1)) && decide (slotsOf k.body ≤ slotsFree q c (lane k))

/-- The held packet of class c that leaves next: the first of each lane is looked at. -/
def classNext (lane : Packet → Bool) (q : Port) (c : Nat) : Option Nat :=
  let first (l : Bool) : Option Nat := match q.heldPk.findIdx? (fun k => fcOf k.body == c && lane k == l) with
    | some i => if (q.heldPk[i]?).any (mayBegin lane q) then some i else none
    | none => none
  match first false, first true with
  | some i, some j => some (Nat.min i j)
  | some i, none => some i
  | none, r => r

/-- A frame takes FC0 first, then FC1, FC2 and FC3 in round robin by packet (R426). -/
def fillNext (lane : Packet → Bool) (q : Port) : Option Nat :=
  ([0, q.lastCls % 3 + 1, (q.lastCls + 1) % 3 + 1, (q.lastCls + 2) % 3 + 1]).findSome? (classNext lane q)

/-- Fills n slots of a frame: the packets that end in it, the slots left, and the port after. -/
def frameFill (lane : Packet → Bool) : Nat → Nat → Port → List Packet × Nat × Port
  | 0, n, q => ([], n, q)
  | fuel + 1, n, q =>
    match q.cut with
    | some (k, r) =>
      if r ≤ n then
        let x := frameFill lane fuel (n - r) { q with cut := none }
        (k :: x.1, x.2)
      else ([], 0, { q with cut := some (k, r - n) })
    | none =>
      match (if n = 0 then none else fillNext lane q) with
      | none => ([], n, q)
      | some i =>
        match q.heldPk[i]? with
        | none => ([], n, q)
        | some k =>
          let c := fcOf k.body
          frameFill lane fuel n { q with
            heldPk := dropAt i q.heldPk, cut := some (k, slotsOf k.body), lastCls := if c = 0 then q.lastCls else c,
            used := mmod 0 (2 * c + b2n (lane k)) (· + slotsOf k.body) q.used }

/-- Sends a frame: it carries ACK and, in CREDITS, up to 63 freed slots of each class and lane (R424). -/
def sendFrame (q : Port) (kind : BitVec 4) (seq : BitVec 12) : Port :=
  let give (k : Nat) : Nat := Nat.min 63 (mget 0 q.owed k)
  { q with
    out := q.out ++ [{ kind := kind, seq := seq, ack := q.rxNext - 1#12, credits := (List.range 8).map give }]
    owed := (List.range 8).foldl (fun m k => mput 0 k (mget 0 q.owed k - give k) m) q.owed }

/-- DATA frames leave while there is something to carry, the replay buffer has room (R425) and no report is awaited (R432). -/
def portFrames (lane : Packet → Bool) : Nat → Port → Port
  | 0, q => q
  | fuel + 1, q =>
    if 1024 ≤ q.replay.length ∨ q.lost.isEmpty = false ∨ q.holding = true ∨ ¬(q.st = 2 ∨ q.st = 3) then q else
    let x := frameFill lane 40 19 q
    if x.2.1 = 19 then q else
    portFrames lane fuel (sendFrame { x.2.2 with replay := q.replay ++ [(q.txSeq, x.1)], txSeq := q.txSeq + 1#12 } 1#4 q.txSeq)

/-- IDLE frames carry the freed slots that no DATA frame has. -/
def portIdle : Nat → Port → Port
  | 0, q => q
  | fuel + 1, q => if q.owed.isEmpty then q else portIdle fuel (sendFrame q 0#4 0#12)

/-- What a port sends now. -/
def portSend (lane : Packet → Bool) (q : Port) : Port := portIdle 20 (portFrames lane (q.heldPk.length + 2) q)

/-- A packet leaves through a port, behind those that wait there. -/
def portPush (σ : State) (p : Nat) (k : Packet) : State :=
  let q := mget Port.reset σ.fab.ports p
  { σ with fab := { σ.fab with ports := mput Port.reset p (portSend (laneOf σ p) { q with heldPk := q.heldPk ++ [k] }) σ.fab.ports } }

/-- The port of a lost group member whose flows wait for its report (R432). -/
def heldPort (σ : State) (g idx : Nat) : Option Nat :=
  let members := (groupPorts g).filter (fun p => portServes σ p || !(mget Port.reset σ.fab.ports p).lost.isEmpty ||
    (mget Port.reset σ.fab.ports p).holding)
  match members[idx % members.length]? with
  | some p => if portServes σ p then none else some p
  | none => none

/-- Puts a packet into the mesh of this module, answering at once for a logical id without a core (R412). -/
def deliver (σ : State) (k : Packet) : State :=
  match k.dst with
  | .core l =>
    if l < gradeOf σ then inject σ k else
    match k.body, k.src with
    | .message .., .core s => netDrop σ s 0
    | .signal .., .core s => netDrop σ s 1
    | .pressContrib .., .core s => netDrop σ s 2
    | b, s => match dropAnswer b s k.dst 2 with
      | some (e, r) => inject σ (pkt .io e r)
      | none => σ
  | _ => inject σ k

/-- A packet takes its port toward module m (R429, R432); none where no port leads there. -/
def fabPut (σ : State) (k : Packet) (m : Nat) : Option State :=
  (if fabricOn σ then routeGroup σ m else none).map (fun g =>
    let idx := epId k.src + epId k.dst
    match heldPort σ g idx with
    | some p =>
      let q := mget Port.reset σ.fab.ports p
      { σ with fab := { σ.fab with ports := mput Port.reset p { q with heldPk := q.heldPk ++ [k] } σ.fab.ports } }
    | none =>
      let ups := (groupPorts g).filter (portServes σ)
      portPush σ (ups.getD (idx % ups.length) (4 * g)) k)

/-- Sends a packet over the fabric, or answers it where no port leads to module m (R435). -/
def fabSend (σ : State) (k : Packet) (m : Nat) : State :=
  match fabPut σ k m with
  | some σ => σ
  | none =>
    let σ := fabDrop σ 3
    match dropAnswer k.body k.src k.dst 5 with
    | some (.remote r i, b) => (fabPut σ (pkt .io (.remote r i) b) r).getD (fabDrop σ 3)
    | some (e, b) => deliver σ (pkt .io e b)
    | none => σ

/-- Sends a packet: over the mesh, or over the fabric to another module. -/
def sendPk (σ : State) (k : Packet) : State :=
  match k.dst with
  | .remote m _ => fabSend σ k m
  | _ => deliver σ k

/-- Sends a new packet. -/
def sendTo (σ : State) (src dst : Ep) (b : Body) : State := sendPk σ (pkt src dst b)

end Sys2Proof.Machine
end

