-- ==== Sys2Proof/Machine/Units.lean ====
section
/-! DEFINITION. Stream slots and DMA channels: descriptors and their checks (R248, R387), requests, landing, credits, stops (R260,
R399), completion and write-back. -/

namespace Sys2Proof.Machine

/-! ### Counters: additions of hardware (R353, R354) -/

/-- Adds n to counter k of a core; a result above the largest value saturates and sets OVF. -/
def scAdd (c : Core) (k n : Nat) : Core :=
  let x := getSc c k
  if 0xFFFFFFFF < x.value + n then setSc c k { x with value := 0xFFFFFFFF, ovf := true }
  else setSc c k { x with value := x.value + n }

/-! ### Requests of units -/

/-- How a unit's access ends at once. -/
inductive UA where
  | data (σ : State) (d : List Byte) (bad : List Nat)
  | done (σ : State)
  | sent (σ : State)
  | wait (σ : State)
  /-- A failure, with the byte of the access that it concerns. -/
  | fail (σ : State) (w : Why) (k : Nat)

/-- Stops that a translation reason gives a unit (R310). -/
def whyOfReason (r level va : Nat) (write : Bool) : Why :=
  if r = 4 then .ue else if r ≤ 3 then .xlate r level va write else .err 7

/-- Translation for a unit's request: the entry, or none with the state of a walk that it joins, or a failure. -/
inductive UX where
  | ok (e : Tlb)
  | wait (σ : State)
  | fail (w : Why)

/-- Looks up a unit's request; a miss joins a walk. -/
def unitXlate (σ : State) (L : Nat) (u : Eng) (mode : Mode) (acc : Acc) (va : Nat) : UX :=
  let c := getCore σ L
  if c.cache.dcBusy then .wait σ else
  match tlbFind c.xlt va with
  | some e =>
    match permReason e mode acc with
    | 0 => .ok e
    | r => .fail (whyOfReason r 0 va (decide (acc = .store)))
  | none => .wait (joinWalk σ L (va / 4096) (.unit u))

/-- Reads [va, va + n), which lies in one 256-byte block, for a unit: local at once, else by a request (R172, R234, R235, R249, R388). A
request of more than one line meets no line of the caches (`cutLine`). -/
def unitRead (σ : State) (L : Nat) (u : Eng) (mode : Mode) (va n : Nat) (k : OutKind) : UA :=
  let ask (σ : State) (h : Home) : UA :=
    if winFull σ L h then .wait σ else
    let (id, σ) := newId σ
    .sent (sendRead (addOut σ L id k h) L id h n (.eng L u))
  match rangeOf σ L va n with
  | .bad => .fail σ (.err 7) 0
  | .spad j off =>
    if r53Denies σ L j off n mode false then .fail σ (.err 7) 0
    else if j = L then
      let r := spadRead σ L off n
      .data (r.2.foldl (fun σ w => noteSpadUE σ L (8 * w)) (spadMeet σ L off n)) r.1 (r.2.map (· - off / 8))
    else ask σ (.spad j off)
  | .trans =>
    match unitXlate σ L u mode .load va with
    | .wait σ => .wait σ
    | .fail w => .fail σ w 0
    | .ok e =>
      let h := homeAt e va
      if 2 ≤ e.cls then ask σ h else
      let σ := dcMeet σ L va n
      let c := getCore σ L
      if c.sup.stopped then .wait σ else
      match (if n ≤ 64 - va % 64 then findLine c.cache.d 256 va else none) with
      | some (_, l) => .data σ (lineBytes l va n) ((linePoison l va n).map (· - va % 64 / 8))
      | none =>
        match (if n ≤ 64 - va % 64 then c.cache.side.find? (fun l => l.va == lineOf va) else none) with
        | some l => .data σ (lineBytes l va n) []
        | none => if fillOut c va || inWbb c (homeLine h) then .wait σ else ask σ h

/-- Writes runs of bytes from va on, which lie in one 256-byte block, for a unit; more than one run meets no line of the caches (`cutLine`)
and no byte of the local scratchpad (`slotRequest`). -/
def unitWrite (σ : State) (L : Nat) (u : Eng) (mode : Mode) (va : Nat) (runs : List (Nat × List Byte)) (k : OutKind) : UA :=
  let n := runsEnd runs
  let data := (runs.map (·.2)).flatten
  let ask (σ : State) (h : Home) : UA :=
    if winFull σ L h then .wait σ else
    let (id, σ) := newId σ
    .sent (sendRuns (addOut σ L id k h) L id h runs [] (.eng L u))
  match rangeOf σ L va n with
  | .bad => .fail σ (.err 7) 0
  | .spad j off =>
    if r53Denies σ L j off n mode true then .fail σ (.err 7) 0
    else if j = L then
      match partBad (getCore σ L) off n with
      | [] => .done (spadWrite σ L off data)
      | k :: ks => .fail ((k :: ks).foldl (fun σ w => noteSpadUE σ L (8 * w)) (spadWrite σ L off data)) .ue (8 * k - off)
    else ask σ (.spad j off)
  | .trans =>
    match unitXlate σ L u mode .store va with
    | .wait σ => .wait σ
    | .fail w => .fail σ w 0
    | .ok e =>
      let h := homeAt e va
      if 2 ≤ e.cls then ask σ h else
      let σ := dcMeet σ L va n
      let c := getCore σ L
      if c.sup.stopped || fillOut c va || inWbb c (homeLine h) then .wait σ
      else if (findLine c.cache.d 256 va).isSome then
        if e.cls = 0 then .done (mergeAt σ L va data true) else ask (mergeAt σ L va data false) h
      else if e.cls = 1 then ask (sideDrop σ L va) h
      else match c.cache.side.any (fun l => l.va == lineOf va), sideMove σ L va with
        | false, _ => ask σ h
        | true, some σ => .done (mergeAt σ L va data true)
        | true, none => .wait σ

/-- Bytes of a request of n bytes at va: up to the end of the first line where the D-cache, the side buffer or the write-back buffer
concerns a line of it (R172). -/
def cutLine (σ : State) (L va n : Nat) : Nat :=
  let c := getCore σ L
  let held (a : Nat) : Bool := (findLine c.cache.d 256 a).isSome || c.cache.side.any (fun l => l.va == lineOf a) || fillOut c a
  if 0x10000000000 ≤ va ∧ ((pieces 6 va n).any (fun p => held p.1) = true ∨ c.cache.wbb ≠ []) then Nat.min n (64 - va % 64) else n

/-! ### Bytes read and not yet sent -/

/-- Adds bytes at a dense offset, joining the entry that ends there or starts after. -/
def gotAdd (o : Nat) (b : List Byte) : List (Nat × List Byte) → List (Nat × List Byte)
  | [] => [(o, b)]
  | (p, d) :: r =>
    if p + d.length = o then gotAdd p (d ++ b) r
    else if o + b.length = p then (o, b ++ d) :: r
    else if o < p then (o, b) :: (p, d) :: r
    else (p, d) :: gotAdd o b r

/-- The bytes [lo, hi), where one entry holds them all. -/
def gotFind (lo hi : Nat) (g : List (Nat × List Byte)) : Option (List Byte) :=
  match g.find? (fun e => decide (e.1 ≤ lo) && decide (hi ≤ e.1 + e.2.length)) with
  | some e => some ((e.2.drop (lo - e.1)).take (hi - lo))
  | none => none

/-- Removes [lo, hi) from the entry that holds it. -/
def gotTake (lo hi : Nat) : List (Nat × List Byte) → List (Nat × List Byte)
  | [] => []
  | (p, d) :: r =>
    if p ≤ lo ∧ hi ≤ p + d.length then
      (if p < lo then [(p, d.take (lo - p))] else []) ++ (if hi < p + d.length then [(hi, d.drop (hi - p))] else []) ++ r
    else (p, d) :: gotTake lo hi r

/-- A target block [lo, hi) of dense offsets, from `low` up to `len` with target offset `off`, that is read whole (R363). -/
def gotBlock (off low len : Nat) (g : List (Nat × List Byte)) : Option (Nat × Nat) :=
  let try1 (o : Nat) : Option (Nat × Nat) :=
    let a := (off + o) / 256 * 256
    let lo := Nat.max low (a - off)
    let hi := Nat.min len (a + 256 - off)
    if lo < hi ∧ (gotFind lo hi g).isSome then some (lo, hi) else none
  g.findSome? (fun e => match try1 e.1 with
    | some r => some r
    | none => try1 ((off + e.1) / 256 * 256 + 256 - off))

/-- Sends a credit request of a unit (R238). -/
def askCredit (σ : State) (L : Nat) (u : Eng) (m id win off len : Nat) : State :=
  let σ := modCore σ L (fun c => pmcEvent c 0x1B none 1)
  sendTo σ (.core L) (coreEp σ m id) (.creditReq L u (moduleId σ) id win off len (getCore σ L).sup.pair)

/-! ### Stream descriptors (R247) -/

def sdKind (d : List Word) : Nat := bits (wat d 0) 3 0
def sdE (d : List Word) : Nat := 2 ^ bits (wat d 0) 6 4
def sdTr (d : List Word) : Bool := bit (wat d 0) 7
def sdSegs (d : List Word) : Nat := bits (wat d 0) 11 8 + 1
def sdSegSize (d : List Word) : Nat := 2 ^ bits (wat d 0) 16 12
def sdCntEn (d : List Word) : Bool := bit (wat d 0) 17
def sdCnt (d : List Word) : Nat := bits (wat d 0) 23 18
def sdRsig (d : List Word) : Option RSig :=
  if bit (wat d 0) 24 then some { mode := BitVec.ofNat 2 (bits (wat d 0) 32 31), cnt := BitVec.ofNat 6 (bits (wat d 0) 30 25) }
  else none
def sdRemain (d : List Word) : Nat := bits (wat d 0) 63 34
def sdAddr (d : List Word) : Nat := bits (wat d 1) 47 0
def sdBuf (d : List Word) : Nat := bits (wat d 2) 21 0
def sdMod (d : List Word) : Nat := bits (wat d 2) 7 0
def sdId (d : List Word) : Nat := bits (wat d 2) 20 8
def sdWin (d : List Word) : Nat := bits (wat d 2) 24 21
def sdOff (d : List Word) : Nat := bits (wat d 2) 46 25
def sdCount (d : List Word) (k : Nat) : Nat := bits (wat d (3 + k)) 31 0
def sdStride (d : List Word) (k : Nat) : Int := (BitVec.ofNat 32 (bits (wat d (3 + k)) 63 32)).toInt

/-- Elements of a descriptor. -/
def sdTotal (d : List Word) : Nat := sdCount d 0 * sdCount d 1 * sdCount d 2 * sdCount d 3 * sdCount d 4

/-- Bytes of a unit of progress: an element, or a block of 64 elements with TRANSPOSE. -/
def sdUnit (d : List Word) : Nat := if sdTr d then 64 * sdE d else sdE d

/-- Units of a descriptor. -/
def sdUnits (d : List Word) : Nat := if sdTr d then sdTotal d / 64 else sdTotal d

/-- Dense bytes of a descriptor. -/
def sdBytes (d : List Word) : Nat := sdTotal d * sdE d

/-- Segments of a descriptor (R246). -/
def sdNSegs (d : List Word) : Nat := (sdBytes d + sdSegSize d - 1) / sdSegSize d

/-- Address of element i (R247). -/
def sdElem (d : List Word) (i : Nat) : Int :=
  let c := sdCount d
  let i0 := i % c 0
  let i1 := i / c 0 % c 1
  let i2 := i / c 0 / c 1 % c 2
  let i3 := i / c 0 / c 1 / c 2 % c 3
  let i4 := i / c 0 / c 1 / c 2 / c 3 % c 4
  sdAddr d + i0 * sdStride d 0 + i1 * sdStride d 1 + i2 * sdStride d 2 + i3 * sdStride d 3 + i4 * sdStride d 4

/-- Address of a unit; an address below 0 lies in no range. -/
def sdUAddr (d : List Word) (u : Nat) : Nat :=
  let a := sdElem d (if sdTr d then 64 * u else u)
  if a < 0 then 2 ^ 64 else a.toNat

/-- The checks of R248 at the start of a descriptor: 0, or the first ERR. None of them asks that a transposed read's base is a multiple of 8e
(R224; log 55). -/
def sdCheck (σ : State) (mode : Mode) (d : List Word) : Nat :=
  let w0 := wat d 0
  let k := sdKind d
  let resv := bit w0 33 || decide (2 < k) || bits w0 6 4 == 7 || bits w0 32 31 == 3 || bits (wat d 1) 63 48 != 0 ||
    (if k = 1 then bits (wat d 2) 63 47 != 0 else bits (wat d 2) 63 22 != 0) ||
    (!bit w0 17 && bits w0 23 18 != 0) || (!bit w0 24 && (bits w0 30 25 != 0 || bits w0 32 31 != 0)) ||
    (k != 1 && bit w0 24) || (k == 1 && bits w0 16 8 != 0) || (k != 0 && bits w0 63 34 != 0)
  let cs := (List.range 5).map (sdCount d)
  let low := (List.range 5).foldl (fun (a : Int) j => a + min 0 ((sdCount d j - 1 : Int) * sdStride d j)) (sdAddr d : Int)
  let high := (List.range 5).foldl (fun (a : Int) j => a + max 0 ((sdCount d j - 1 : Int) * sdStride d j)) (sdAddr d : Int)
  let e := sdE d
  if resv then 1
  else if cs.any (· == 0) then 2
  else if 2 ^ 40 ≤ sdBytes d ∨ (k = 1 ∧ (0x280000 < sdBytes d ∨ (sdMod d = moduleId σ ∧ gradeOf σ ≤ sdId d))) then 3
  else if sdAddr d % e ≠ 0 ∨ (List.range 5).any (fun j => sdStride d j % (e : Int) != 0) then 4
  else if k ≠ 1 ∧ (bits w0 16 12 < 6 ∨ 21 < bits w0 16 12 ∨ sdBuf d % 64 ≠ 0 ∨ spadSize < sdBuf d + sdSegs d * sdSegSize d ∨
      (mode = .user ∧ inLastResort (sdBuf d) (sdSegs d * sdSegSize d) = true)) then 5
  else if sdTr d = true ∧ (k = 2 ∨ ¬(e = 2 ∨ e = 4 ∨ e = 8) ∨ sdCount d 0 ≠ 8 ∨ sdCount d 1 ≠ 8 ∨ sdStride d 0 ≠ (e : Int) ∨
      sdStride d 1 % (8 * e : Int) ≠ 0 ∨ low < 0 ∨ (spadSize : Int) < high + e) then 6
  else 0

/-! ### Slots -/

/-- Changes slot s of core L. -/
def modSlot (σ : State) (L s : Nat) (f : Slot → Slot) : State := modCore σ L (fun c => setSlot c s (f (getSlot c s)))

/-- Unit ranges of a slot's outstanding requests. -/
def slotOuts (c : Core) (s : Nat) : List (Bool × Nat × Nat) :=
  c.outs.filterMap (fun o => match o.kind with
    | .stream sl e lo hi _ => if sl.toNat = s then some (e, lo, hi) else none
    | _ => none)

/-- Units [lo, hi) of the active descriptor have landed: requested, no request for them outstanding, and none failed. -/
def slotLanded (c : Core) (s lo hi : Nat) : Bool :=
  let q := getSlot c s
  let meets (r : Nat × Nat) : Bool := decide (r.1 < hi) && decide (lo < r.2)
  decide (hi ≤ q.nxt) && !(slotOuts c s).any (fun o => !o.1 && meets o.2) && !q.failed.any meets

/-- The first byte of a LOAD_REMOTE that is not sent. -/
def gotLow (g : List (Nat × List Byte)) (n : Nat) : Nat := g.foldl (fun m e => Nat.min m e.1) n

/-- Leading units of the active descriptor known written (R260). -/
def slotPos (c : Core) (s : Nat) : Nat :=
  let q := getSlot c s
  match q.queue with
  | [] => q.pos
  | d :: _ =>
    let m := (slotOuts c s).foldl (fun m o => if o.1 then m else Nat.min m o.2.1) q.nxt
    let m := if sdKind d.w = 1 then Nat.min m (gotLow q.got (m * sdUnit d.w) / sdUnit d.w) else m
    match q.stopping with
    | some (u, _) => Nat.min m u
    | none => m

/-- Units that hold the bytes of segment j: first and one past the last. -/
def segUnits (d : List Word) (j : Nat) : Nat × Nat :=
  let u := sdUnit d
  (j * sdSegSize d / u, (Nat.min ((j + 1) * sdSegSize d) (sdBytes d) + u - 1) / u)

/-- Segment j is available to threads (R254). -/
def segAvail (c : Core) (s j : Nat) : Bool :=
  match (getSlot c s).queue with
  | [] => false
  | d :: _ =>
    if sdNSegs d.w ≤ j || !(getSlot c s).started then false
    else if sdKind d.w = 0 then let r := segUnits d.w j; slotLanded c s r.1 r.2
    else if sdKind d.w = 2 then
      if j < sdSegs d.w then true
      else decide ((segUnits d.w (j - sdSegs d.w)).2 ≤ (getSlot c s).nxt)
    else false

/-- Segments available now, from the head on. -/
def slotAvail (c : Core) (s : Nat) : Nat :=
  let q := getSlot c s
  match q.queue with
  | [] => 0
  | d :: _ => ((List.range (sdSegs d.w)).takeWhile (fun i => segAvail c s (q.rel + i))).length

/-- The segment word of the head segment (Table: st.wait result). -/
def segWord (c : Core) (s : Nat) : Word :=
  let q := getSlot c s
  match q.queue with
  | [] => 0#64
  | d :: _ =>
    let j := q.rel
    let off := sdBuf d.w + (j % sdSegs d.w) * sdSegSize d.w
    let len := Nat.min (sdSegSize d.w) (sdBytes d.w - j * sdSegSize d.w)
    BitVec.ofNat 64 (off + b2n (decide (j + 1 = sdNSegs d.w)) * 2 ^ 31 + len * 2 ^ 32 + 2 ^ 63)

/-- Writes dense bytes from offset o into the segmented buffer. -/
def ringPut (σ : State) (L base size : Nat) : Nat → Nat → List Byte → State
  | 0, _, _ => σ
  | fuel + 1, o, data =>
    match data with
    | [] => σ
    | _ =>
      let k := size - o % size
      ringPut (spadWrite σ L (base + o % size) (data.take k)) L base size fuel (o + k) (data.drop k)

/-- Reads n dense bytes from offset o of the segmented buffer, with the offsets of uncorrectable words. -/
def ringGet (σ : State) (L base size o n : Nat) : List Byte × List Nat :=
  let k := Nat.min n (size - o % size)
  let a := spadRead σ L (base + o % size) k
  let b := spadRead σ L base (n - k)
  (a.1 ++ b.1, a.2 ++ b.2)

/-- The corrected words of a read of the segmented buffer are known. -/
def ringMeet (σ : State) (L base size o n : Nat) : State :=
  let k := Nat.min n (size - o % size)
  spadMeet (spadMeet σ L (base + o % size) k) L base (n - k)

/-- Marks the failure of units [u, hi); the lowest failed unit stands, and a fault takes the place of a STOP (R261). -/
def slotLose (σ : State) (L s u hi : Nat) (w : Why) : State :=
  modSlot σ L s (fun q => { q with
    failed := (u, hi) :: q.failed
    stopping := match q.stopping with
      | some (v, .stopCmd) => some (Nat.min u v, w)
      | some (v, w') => if u < v then some (u, w) else some (v, w')
      | none => some (u, w) })

/-- Marks the failure of a unit. -/
def slotFail (σ : State) (L s u : Nat) (w : Why) : State := slotLose σ L s u (u + 1) w

/-- The thread that queued the active descriptor waits on the slot and enters FAULT_WAIT (R108, R255). -/
def slotIssuerWaits (c : Core) (s : Nat) (t : Nat) : Bool :=
  let h := getThr c t
  t != 0 && decide (h.st = .wait) && (match h.wait with
    | .stream sl _ => sl.toNat == s
    | _ => false)

/-- Sends the fault record of a unit source (R310, R311). -/
def unitForward (σ : State) (L source va reason level : Nat) (write : Bool) : State :=
  let c := getCore σ L
  let seq := (mget 0 c.xlt.unitSeq source + 1) % 256
  let w1 := reason + level * 16 + b2n write * 64 + source * 256 + L * 2 ^ 16 + c.sup.pair.tag.toNat * 2 ^ 32 +
    c.sup.pair.gen.toNat * 2 ^ 44 + moduleId σ * 2 ^ 48 + seq * 2 ^ 56
  let σ := setCore σ L { c with xlt := { c.xlt with
    unitSeq := mput 0 source seq c.xlt.unitSeq, unitOut := insertNat source c.xlt.unitOut,
    unitVa := mput 0 source va c.xlt.unitVa, forwards := satAdd 0xFFFFFFFF c.xlt.forwards 1 } }
  sendTo σ (.core L) .disp (.faultRecord { w0 := BitVec.ofNat 64 (va % 2 ^ 48), w1 := BitVec.ofNat 64 w1, w2 := 0#64 } source)

/-- Enters a stopped state of a slot with its event (R259, R261). -/
def slotEnter (σ : State) (L s : Nat) (w : Why) : State :=
  let c := getCore σ L
  let t := match (getSlot c s).queue with
    | d :: _ => d.thread.toNat
    | [] => 0
  let fault (cause err : Nat) (reason : Option Nat) : State :=
    let fw := slotIssuerWaits c s t
    let c := if fw then modThr c t (fun h => { h with st := .faultWait, waitClasses := 0#6 }) else c
    let q := getSlot c s
    let c := setSlot c s { q with
      st := 3, err := if err = 0 then q.err else err,
      creditReason := match reason with
        | some r => r
        | none => q.creditReason }
    setCore σ L (queueEvent c 2 s t fw cause)
  match w with
  | .stopCmd => modSlot σ L s (fun q => { q with st := 2 })
  | .ue => fault 0x0D 0 none
  | .bus => fault 0x0D 0 none
  | .err e => fault 0x13 e none
  | .credit r => if r = 2 then fault 0x13 8 (some r) else fault 0x12 0 (some r)
  | .xlate reason level va write =>
    unitForward (modSlot σ L s (fun q => { q with st := 4 })) L (20 + s) va reason level write

/-- Ends a stop once every request in flight has landed or failed (R260). -/
def slotSettle (σ : State) (L s : Nat) : State :=
  let c := getCore σ L
  let q := getSlot c s
  match q.stopping with
  | none => σ
  | some (_, w) =>
    if !(slotOuts c s).isEmpty then σ else
    let p := slotPos c s
    let σ := setCore σ L (setSlot c s { q with
      pos := p, nxt := p, got := [], failed := [], stopping := none, early := false, nxtEarly := 0,
      earlyBad := false })
    slotEnter σ L s w

/-- Stops a slot for a command (R260). -/
def slotStop (σ : State) (L s : Nat) : State :=
  let σ := modSlot σ L s (fun q => if q.st = 1 ∧ q.stopping = none then { q with stopping := some (2 ^ 64, .stopCmd) } else q)
  slotSettle σ L s

/-- The active descriptor leaves; the next becomes active with what it has done early (R256, R258). -/
def slotNext (σ : State) (L s : Nat) : State :=
  modCore σ L (fun c =>
    let q := getSlot c s
    let q' : Slot := match q.queue.drop 1 with
      | [] => { Slot.reset with cmdIgnored := q.cmdIgnored, err := q.err, creditReason := q.creditReason }
      | r => { q with queue := r, started := q.early && !q.earlyBad, nxt := if q.earlyBad then 0 else q.nxtEarly, early := false,
                      nxtEarly := 0, earlyBad := false, pos := 0, rel := 0, counted := 0, failed := [], credit := .none, creditFrom := 0, got := [] }
    let outs := c.outs.map (fun o => match o.kind with
      | .stream sl true lo hi w => if sl.toNat = s then { o with kind := .stream sl false lo hi w } else o
      | _ => o)
    { setSlot c s q' with outs := outs })

/-- Sends one remote-write packet of a LOAD_REMOTE that is ready (R251, R363). -/
def slotSendOne (σ : State) (L s : Nat) (d : List Word) : Option State :=
  let c := getCore σ L
  let q := getSlot c s
  match q.credit with
  | .held cr =>
    match gotBlock (sdOff d) (Nat.max q.creditFrom (q.pos * sdUnit d)) (sdBytes d) q.got with
    | none => none
    | some (lo, hi) =>
      let data := (gotFind lo hi q.got).getD []
      let g := gotTake lo hi q.got
      let last := decide (q.nxt = sdUnits d) && (slotOuts c s).all (fun o => o.1) && g.isEmpty
      let σ := setCore σ L (setSlot c s { q with got := g })
      some (sendTo σ (.core L) (coreEp σ (sdMod d) (sdId d)) (.remoteWrite (sdId d) (.slot (BitVec.ofNat 3 s)) cr (sdOff d + lo)
        c.sup.pair data last (sdRsig d) lo))
  | _ => none

/-- Writes dense bytes of a LOAD_LOCAL from unit u on; a marked word of the buffer that they cover in part stops the slot at its first
byte (Table: uncorrectable scratchpad data by reader). -/
def bufPut (σ : State) (L s : Nat) (d : List Word) (early : Bool) (u : Nat) (b : List Byte) : State :=
  let size := sdSegs d * sdSegSize d
  let o := u * sdE d
  let k := Nat.min b.length (size - o % size)
  let c := getCore σ L
  let a := sdBuf d + o % size
  let ks := (partBad c a k).map (fun w => (w, o + (8 * w - a))) ++
    (partBad c (sdBuf d) (b.length - k)).map (fun w => (w, o + k + (8 * w - sdBuf d)))
  let σ := ringPut (modCore σ L (fun c => pmcEvent c 0x1E none b.length)) L (sdBuf d) size 64 o b
  ks.foldl (fun σ w =>
    let σ := noteSpadUE σ L (8 * w.1)
    if early then modSlot σ L s (fun q => { q with earlyBad := true }) else slotFail σ L s (w.2 / sdUnit d) .ue) σ

/-- Units [u, u + n) of a LOAD arrive with the bytes of their span from address a0 on: written to the buffer or made ready to send, those
before the first that holds an uncorrectable word together. Such a unit fails (R261). -/
def slotLand (σ : State) (L s : Nat) (d : List Word) (early : Bool) (a0 : Nat) (data : List Byte) (bad : List Nat) (n u : Nat) : State :=
  let e := sdE d
  let ue (v : Nat) : Bool := bad.any (fun w => (wordsTouched (sdUAddr d v) e).contains (w + a0 / 8))
  let bytes (v : Nat) : List Byte := (data.drop (sdUAddr d v - a0)).take e
  let put (σ : State) (v : Nat) (b : List Byte) : State :=
    if b.isEmpty then σ
    else if sdKind d = 1 then modSlot σ L s (fun q => { q with got := gotAdd (v * e) b q.got })
    else bufPut σ L s d early v b
  let vs := (List.range n).map (· + u)
  let first := vs.takeWhile (fun v => !ue v)
  let σ := put σ u ((first.map bytes).flatten)
  (vs.drop first.length).foldl (fun σ v =>
    if ue v then
      (if early then modSlot σ L s (fun q => { q with earlyBad := true }) else slotFail σ L s v .ue)
    else put σ v (bytes v)) σ

/-- One past the last unit of the request that starts at unit u: units of one 256-byte block (R249). -/
def runEnd (d : List Word) (u lim : Nat) : Nat → Nat → Nat
  | 0, v => v
  | fuel + 1, v =>
    if v < lim ∧ sdUAddr d v / 256 = sdUAddr d u / 256 then runEnd d u lim fuel (v + 1) else v

/-- A transposed 8 × 8 block (R224), read row by row from its base as the bytes lie: its 64·e bytes, the words it meets that are
uncorrectable, and the state in which its corrected words are known. -/
def blockRead (σ : State) (L base e : Nat) (stride : Int) : List Byte × List Nat × State :=
  let at' (r : Nat) : Nat := ((base : Int) + (r : Int) * stride).toNat
  let rows := (List.range 8).map (fun r => spadRead σ L (at' r) (8 * e))
  let out := (List.range 8).map (fun i => (rows.map (fun r => (r.1.drop (i * e)).take e)).flatten)
  (out.flatten, (rows.map (·.2)).flatten, (List.range 8).foldl (fun σ r => spadMeet σ L (at' r) (8 * e)) σ)

/-- One request of a descriptor from unit u; none where it must wait, with the state of a walk that it joins. -/
def slotRequest (σ : State) (L s : Nat) (dd : Desc) (early : Bool) (u rel : Nat) : Option State × State :=
  let d := dd.w
  let k := sdKind d
  let ub := sdUnit d
  let eng := Eng.slot (BitVec.ofNat 3 s)
  let lim := if k = 1 then sdUnits d
    else if k = 0 then Nat.min (sdUnits d) ((rel + sdSegs d) * sdSegSize d / ub)
    else if rel = sdNSegs d then sdUnits d else Nat.min (sdUnits d) (rel * sdSegSize d / ub)
  if lim ≤ u then (none, σ) else
  let adv (σ : State) (v : Nat) : State := modSlot σ L s (fun q => if early then { q with nxtEarly := v } else { q with nxt := v })
  let fail (σ : State) (w : Why) : State :=
    if early then modSlot σ L s (fun q => { q with earlyBad := true }) else slotFail σ L s u w
  if sdTr d then
    let r := blockRead σ L (sdUAddr d u) (sdE d) (sdStride d 1)
    let σ := r.2.2
    if !r.2.1.isEmpty then (some (fail (r.2.1.foldl (fun σ w => noteSpadUE σ L (8 * w)) σ) .ue), σ)
    else if k = 1 then (some (adv (modSlot σ L s (fun q => { q with got := gotAdd (u * ub) r.1 q.got })) (u + 1)), σ)
    else (some (adv (bufPut σ L s d early (64 * u) r.1) (u + 1)), σ)
  else
  let e := sdE d
  let low (v : Nat) : Nat := ((List.range (v - u)).map (fun i => sdUAddr d (u + i))).foldl Nat.min (sdUAddr d u)
  let high (v : Nat) : Nat := ((List.range (v - u)).map (fun i => sdUAddr d (u + i))).foldl Nat.max (sdUAddr d u) + e
  let local1 : Bool := match rangeOf σ L (sdUAddr d u) e with
    | .spad j _ => decide (j = L)
    | _ => false
  let far := runEnd d u lim 256 (u + 1)
  let v := if local1 = true ∨ cutLine σ L (low far) (high far - low far) ≠ high far - low far then u + 1 else far
  if k = 2 then
    let buf (j n : Nat) : List Byte × List Nat := ringGet σ L (sdBuf d) (sdSegs d * sdSegSize d) (j * e) (n * e)
    let n := ((List.range (v - u)).takeWhile (fun i => (buf (u + i) 1).2.isEmpty)).length
    if n = 0 then (some (fail ((buf u 1).2.foldl (fun σ w => noteSpadUE σ L (8 * w)) σ) .ue), σ) else
    let a0 := low (u + n)
    let runs := (List.range n).map (fun i => (sdUAddr d (u + i) - a0, (buf (u + i) 1).1))
    let σ := ringMeet σ L (sdBuf d) (sdSegs d * sdSegSize d) (u * e) (n * e)
    match unitWrite σ L eng dd.mode a0 runs (.stream (BitVec.ofNat 3 s) early u (u + n) true) with
    | .done σ => (some (adv (modCore σ L (fun c => pmcEvent c 0x1E none (n * e))) (u + n)), σ)
    | .sent σ => (some (adv σ (u + n)), σ)
    | .data σ _ _ => (some (adv σ (u + n)), σ)
    | .wait σ => (none, σ)
    | .fail σ w _ => (some (fail σ w), σ)
  else
    let a0 := low v
    match unitRead σ L eng dd.mode a0 (high v - a0) (.stream (BitVec.ofNat 3 s) early u v false) with
    | .data σ b bad => (some (adv (slotLand σ L s d early a0 b bad (v - u) u) v), σ)
    | .sent σ => (some (adv σ v), σ)
    | .done σ => (some (adv σ v), σ)
    | .wait σ => (none, σ)
    | .fail σ w _ => (some (fail σ w), σ)

/-- The second descriptor may start, or run, early (R257). -/
def earlyOk (q : Slot) : Bool :=
  match q.queue with
  | d :: e :: _ =>
    let lo (x : List Word) : Nat := sdBuf x
    let hi (x : List Word) : Nat := sdBuf x + sdSegs x * sdSegSize x
    q.started && !q.earlyBad && sdKind e.w == 0 &&
      (q.early || decide ((sdUnits d.w - q.nxt) * (if sdTr d.w then 64 else 1) ≤ sdRemain e.w)) &&
      (sdKind d.w == 1 || decide (hi d.w ≤ lo e.w) || decide (hi e.w ≤ lo d.w))
  | _ => false

/-- One action of a running slot; none when it has nothing to do now, with the state of a walk it joins. -/
def slotStep (σ : State) (L s : Nat) : Option State × State :=
  let c := getCore σ L
  let q := getSlot c s
  match q.queue with
  | [] => (none, modSlot σ L s (fun q => if q.st = 1 then { q with st := 0 } else q))
  | d :: r =>
    if q.st ≠ 1 ∨ q.stopping ≠ none then (none, σ)
    else if !q.started then (none, σ)
    else
    let k := sdKind d.w
    let rel := q.rel
    if k = 0 ∧ rel = sdNSegs d.w then (some (slotNext σ L s), σ)
    else if k = 2 ∧ rel = sdNSegs d.w ∧ slotLanded c s 0 (sdUnits d.w) = true then
      (some (slotNext (if sdCntEn d.w then modCore σ L (fun c => scAdd c (sdCnt d.w) 1) else σ) L s), σ)
    else
    let σ1 := if k = 1 ∧ q.credit = .none ∧ q.nxt < sdUnits d.w then
        let from' := q.nxt * sdUnit d.w
        askCredit (modSlot σ L s (fun q => { q with credit := .asked 0 none, creditFrom := from' })) L (.slot (BitVec.ofNat 3 s))
          (sdMod d.w) (sdId d.w) (sdWin d.w) (sdOff d.w + from') (sdBytes d.w - from')
      else σ
    match (if k = 1 then slotSendOne σ1 L s d.w else none) with
    | some σ => (some σ, σ)
    | none =>
      if 64 ≤ (slotOuts c s).length then (none, σ1) else
      let ready := decide (q.nxt < sdUnits d.w) && (k != 1 || (match q.credit with
        | .held _ => true
        | _ => false))
      match (if ready then slotRequest σ1 L s d false q.nxt rel else (none, σ1)) with
      | (some σ, _) => (some σ, σ)
      | (none, σ2) =>
        match r with
        | e :: _ =>
          if !earlyOk q || !q.early then (none, σ2)
          else if q.nxtEarly < sdUnits e.w then slotRequest σ2 L s e true q.nxtEarly 0
          else (none, σ2)
        | [] => (none, σ2)

/-- CNT counts each segment of the active LOAD_LOCAL once, when it is filled (R247, R258). -/
def slotCount (σ : State) (L s : Nat) : State :=
  let c := getCore σ L
  let q := getSlot c s
  match q.queue with
  | d :: _ =>
    if q.started = false ∨ sdKind d.w ≠ 0 then σ else
    let new := (List.range (Nat.min (sdSegs d.w) (sdNSegs d.w - q.rel))).filter (fun i =>
      let r := segUnits d.w (q.rel + i)
      !nbit q.counted i && slotLanded c s r.1 r.2)
    if new.isEmpty then σ else
    let c := setSlot c s { q with counted := q.counted + (new.map (2 ^ ·)).sum }
    setCore σ L (if sdCntEn d.w then scAdd c (sdCnt d.w) new.length else c)
  | [] => σ

/-- Runs a slot until it has nothing to do. -/
def slotPump : Nat → State → Nat → Nat → State
  | 0, σ, _, _ => σ
  | fuel + 1, σ, L, s =>
    match slotStep σ L s with
    | (some σ, _) => slotPump fuel (slotCount σ L s) L s
    | (none, σ) => slotSettle (slotCount σ L s) L s

/-- Steps that a pump of one command may take: more than the bytes of a scratchpad, so that local work never stops short of a wait. -/
def pumpFuel : Nat := 0x1000000

/-! ### DMA descriptors (R386) -/

def ddKind (d : List Word) : Nat := bits (wat d 0) 3 0
def ddSrcFix (d : List Word) : Bool := bit (wat d 0) 4
def ddDstFix (d : List Word) : Bool := bit (wat d 0) 5
def ddFix (d : List Word) : Nat := 2 ^ bits (wat d 0) 8 6
def ddTr (d : List Word) : Bool := bit (wat d 0) 9
def ddTe (d : List Word) : Nat := 2 ^ bits (wat d 0) 11 10
def ddLink (d : List Word) : Bool := bit (wat d 0) 12
def ddWb (d : List Word) : Bool := bit (wat d 0) 13
def ddCrc (d : List Word) : Bool := bit (wat d 0) 14
def ddCntEn (d : List Word) : Bool := bit (wat d 0) 15
def ddCnt (d : List Word) : Nat := bits (wat d 0) 21 16
def ddRsigEn (d : List Word) : Bool := bit (wat d 0) 22
def ddRcnt (d : List Word) : Nat := bits (wat d 0) 28 23
def ddRmode (d : List Word) : Nat := bits (wat d 0) 30 29
def ddSrc (d : List Word) : Nat := bits (wat d 1) 47 0
def ddDst (d : List Word) : Nat := bits (wat d 2) 47 0
def ddMod (d : List Word) : Nat := bits (wat d 2) 7 0
def ddId (d : List Word) : Nat := bits (wat d 2) 20 8
def ddWin (d : List Word) : Nat := bits (wat d 2) 24 21
def ddOff (d : List Word) : Nat := bits (wat d 2) 46 25
def ddLen (d : List Word) : Nat := bits (wat d 3) 31 0
def ddRstride (d : List Word) : Nat := bits (wat d 3) 63 32
def ddNext (d : List Word) : Nat := bits (wat d 4) 21 0

/-- The range test of ERR 3 and ERR 4: one row of D-space, and R53 in user mode. -/
def ddRange (σ : State) (L : Nat) (mode : Mode) (a n : Nat) : Bool :=
  if n = 0 then true else
  match rangeOf σ L a n with
  | .bad => false
  | .trans => true
  | .spad k off => !(decide (mode = .user) && (inLastResort off n || (decide (k ≠ L) && !inGroup σ L k)))

/-- A signal destination word passes the checks of R360. -/
def sigWordOk (σ : State) (L : Nat) (mode : Mode) (w : Word) : Bool :=
  let m := bits w 31 24
  let id := bits w 12 0
  bits w 63 32 == 0 && bits w 23 22 == 0 && bits w 15 13 == 0 &&
    (m != moduleId σ || (decide (id < gradeOf σ) && (decide (mode = .supervisor) || decide (id = L) || inGroup σ L id)))

/-- The checks of R387 at the start of a descriptor: 0, or the first ERR. -/
def ddCheck (σ : State) (L : Nat) (mode : Mode) (d : List Word) : Nat :=
  let w0 := wat d 0
  let k := ddKind d
  let len := ddLen d
  let fix := ddSrcFix d || ddDstFix d
  let resv := bit w0 31 || decide (1 < k) || bits w0 8 6 == 7 || (ddTr d && bits w0 11 10 == 0) || bits w0 30 29 == 3 ||
    bits (wat d 1) 63 48 != 0 || (if k = 0 then bits (wat d 2) 63 48 != 0 else bits (wat d 2) 63 47 != 0) ||
    bits (wat d 4) 63 22 != 0 || (!ddCntEn d && ddCnt d != 0) || (!ddRsigEn d && (ddRcnt d != 0 || ddRmode d != 0)) ||
    (k == 0 && ddRcnt d != 0) || (!ddLink d && ddNext d != 0) || (!ddTr d && (ddRstride d != 0 || bits w0 11 10 != 0)) ||
    (!fix && bits w0 8 6 != 0) || (k == 0 && !ddRsigEn d && wat d 7 != 0#64)
  if resv then 1
  else if (ddSrcFix d && ddDstFix d) || (fix && ddTr d) || (ddDstFix d && k == 1) ||
      (fix && (len % ddFix d != 0 || (ddSrcFix d && ddSrc d % ddFix d != 0) || (ddDstFix d && ddDst d % ddFix d != 0))) then 2
  else if !(ddRange σ L mode (ddSrc d) (if ddSrcFix d then ddFix d else len)) then 3
  else if (k == 0 && !(ddRange σ L mode (ddDst d) (if ddDstFix d then ddFix d else len))) ||
      (k == 1 && (decide (0x280000 < len) || (ddMod d == moduleId σ && decide (gradeOf σ ≤ ddId d)))) then 4
  else if ddTr d && (!decide (ddSrc d + len ≤ spadSize) || ddSrc d % (8 * ddTe d) != 0 || ddRstride d % (8 * ddTe d) != 0 ||
      len % (64 * ddTe d) != 0) then 5
  else if (k == 0 && ddRsigEn d && (ddRmode d != 0 || !sigWordOk σ L mode (wat d 7))) || (k == 1 && wat d 7 != 0#64) then 6
  else if ddLink d && ddNext d % 64 != 0 then 9
  else 0

/-! ### Channels -/

/-- Changes channel c of core L. -/
def modChan (σ : State) (L c : Nat) (f : Chan → Chan) : State := modCore σ L (fun k => setChan k c (f (getChan k c)))

/-- Outstanding requests of a channel: first byte, length, write. -/
def chanOuts (k : Core) (c : Nat) : List (Nat × Nat × Bool) :=
  k.outs.filterMap (fun o => match o.kind with
    | .dma ch lo len w _ => if ch.toNat = c then some (lo, len, w) else none
    | _ => none)

/-- One step of CRC-32C, reflected (R340). -/
def crcByte (crc : BitVec 32) (b : Byte) : BitVec 32 :=
  (List.range 8).foldl (fun c _ => if c.getLsbD 0 then (c >>> 1) ^^^ 0x82F63B78#32 else c >>> 1) (crc ^^^ b.zeroExtend 32)

/-- CRC-32C of bytes, from a running value. -/
def crcBytes (crc : BitVec 32) (l : List Byte) : BitVec 32 := l.foldl crcByte crc

/-- Leading bytes of a running descriptor known written; for a REMOTE, sent (R399, R596). -/
def chanPos (k : Core) (c : Nat) : Nat :=
  let q := getChan k c
  if !q.started then q.pos else
  let m := (chanOuts k c).foldl (fun m o => Nat.min m o.1) q.nxt
  let m := q.again.foldl (fun m o => Nat.min m o.1) m
  let m := if ddKind q.desc = 1 then gotLow q.got m else m
  let m := match q.stopping with
    | some (u, _) => Nat.min m u
    | none => m
  if ddTr q.desc then m / (64 * ddTe q.desc) * (64 * ddTe q.desc) else m

/-- The CRC over the first p bytes: bytes from `crcUpTo` on are in `crcBuf` (R392). -/
def crcAt (q : Chan) (p : Nat) : BitVec 32 :=
  if p ≤ q.crcUpTo then q.crc else
  match gotFind q.crcUpTo p q.crcBuf with
  | some b => crcBytes q.crc b
  | none => q.crc

/-- Writes back words 5 and 6 of the descriptor (R393, Table: DMA write-back results). -/
def chanWriteBack (σ : State) (L c result : Nat) (done : Bool) (crc : BitVec 32) (bytes : Nat) : State :=
  let q := getChan (getCore σ L) c
  if !ddWb q.desc then σ else
  let cr := if ddCrc q.desc then crc.toNat else 0
  let err := if result = 2 then q.err else 0
  let w5 := cr + result * 2 ^ 32 + err * 2 ^ 36 + b2n done * 2 ^ 63
  let w6 := bytes + q.descRetries * 2 ^ 32
  spadWrite σ L (q.cur + 40) (toBytes 8 w5 ++ toBytes 8 w6)

/-- Marks a failure at a byte with the address it concerns. -/
def chanFail (σ : State) (L c u : Nat) (w : Why) (addr : Nat) : State :=
  modChan σ L c (fun q => match q.stopping with
    | some (v, .stopCmd) => { q with stopping := some (Nat.min u v, w), errAddr := addr }
    | some (v, _) => if u < v then { q with stopping := some (u, w), errAddr := addr } else q
    | none => { q with stopping := some (u, w), errAddr := addr })

/-- The issuing thread waits on the channel (R385). -/
def chanIssuerWaits (k : Core) (c t : Nat) : Bool :=
  let h := getThr k t
  t != 0 && decide (h.st = .wait) && (match h.wait with
    | .dma ch => ch.toNat == c
    | _ => false)

/-- Enters FAULTED (3) or HALTED (5) with an event and a write-back. -/
def chanFault (σ : State) (L c st cause err result : Nat) : State :=
  let k := getCore σ L
  let q := getChan k c
  let t := q.issuer.toNat
  let fw := chanIssuerWaits k c t
  let k := if fw then modThr k t (fun h => { h with st := .faultWait, waitClasses := 0#6 }) else k
  let k := setChan k c { q with
    st := st, err := if err = 0 then q.err else err, errCause := cause, aborting := false,
    halts := if st = 5 then satAdd 0xFFFF q.halts 1 else q.halts }
  let σ := setCore σ L (queueEvent k 1 c t fw cause)
  if result = 16 then σ else chanWriteBack σ L c result false (crcAt q q.pos) q.pos

/-- Abandons the descriptor of a channel with its chain (R400): its credit stays held at the receiver. -/
def chanAbort (σ : State) (L c : Nat) : State :=
  let q := getChan (getCore σ L) c
  modChan (chanWriteBack σ L c 6 false (crcAt q q.pos) q.pos) L c (fun q => { q with
    st := 0, desc := [], started := false, got := [], unit := [], again := [], crcBuf := [], credit := .none, aborting := false })

/-- Enters the state that a stop gives (R310, R391, R397, R398, R399, R400). -/
def chanEnter (σ : State) (L c : Nat) (w : Why) : State :=
  let q := getChan (getCore σ L) c
  if q.aborting then chanAbort σ L c else
  match w with
  | .stopCmd => chanWriteBack (modChan σ L c (fun q => { q with st := 2 })) L c 0 false (crcAt q q.pos) q.pos
  | .ue => chanFault σ L c 3 0x0D 0 3
  | .bus => chanFault σ L c 5 0x0C 0 5
  | .err e => chanFault σ L c 3 0x14 e 2
  | .credit r =>
    let σ := modChan σ L c (fun q => { q with creditReason := r })
    if r = 2 then chanFault σ L c 3 0x14 8 2 else chanFault σ L c 3 0x12 0 4
  | .xlate reason level va write =>
    let σ := chanWriteBack (modChan σ L c (fun q => { q with st := 4 })) L c 0 false (crcAt q q.pos) q.pos
    unitForward σ L (16 + c) va reason level write

/-- Ends a stop once every request in flight has landed or failed (R399). -/
def chanSettle (σ : State) (L c : Nat) : State :=
  let k := getCore σ L
  let q := getChan k c
  match q.stopping with
  | none => σ
  | some (_, w) =>
    if !(chanOuts k c).isEmpty then σ else
    let p := chanPos k c
    let q := { q with pos := p, nxt := p, got := [], unit := [], again := [], stopping := none, crcBuf := match gotFind q.crcUpTo p q.crcBuf with
      | some b => [(q.crcUpTo, b)]
      | none => [] }
    chanEnter (setCore σ L (setChan k c q)) L c w

/-- STOP or ABORT of a running channel. An ABORT takes the place of a STOP that is under way; one that comes after a failure is ignored
(log 51). -/
def chanStop (σ : State) (L c : Nat) (abort : Bool) : State :=
  let σ := modChan σ L c (fun q => match q.stopping with
    | none => { q with stopping := some (2 ^ 64, .stopCmd), aborting := abort }
    | some (_, .stopCmd) => { q with aborting := q.aborting || abort }
    | some _ => if abort && !q.aborting then { q with cmdIgnored := true } else q)
  chanSettle σ L c

/-- Destination address, or target offset of a REMOTE, of byte b. -/
def ddDstAt (d : List Word) (b : Nat) : Nat := if ddKind d = 1 then ddOff d + b else if ddDstFix d then ddDst d else ddDst d + b

/-- One past the last byte of the request that starts at byte lo (R388, R389). -/
def chunkEnd (d : List Word) (lo : Nat) : Nat :=
  let m := Nat.min (ddLen d) (lo + 256)
  let m := if ddSrcFix d || ddTr d then m else Nat.min m (lo + 256 - (ddSrc d + lo) % 256)
  let m := if ddDstFix d then Nat.min m (lo + ddFix d) else Nat.min m (lo + 256 - (ddDstAt d lo) % 256)
  if ddTr d then Nat.min m ((lo / (64 * ddTe d) + 1) * (64 * ddTe d)) else m

/-- The same, cut where the D-cache holds a line of the source or of the destination. -/
def chunkCut (σ : State) (L : Nat) (d : List Word) (lo : Nat) : Nat :=
  let n := chunkEnd d lo - lo
  let n := if ddSrcFix d || ddTr d then n else cutLine σ L (ddSrc d + lo) n
  let n := if ddKind d = 1 then n else cutLine σ L (ddDstAt d lo) n
  lo + n

/-- The requests that bytes [lo, hi) of a descriptor take. -/
def chunksOf (d : List Word) : Nat → Nat → Nat → List (Nat × Nat)
  | 0, _, _ => []
  | fuel + 1, lo, hi =>
    if hi ≤ lo then [] else
    let m := Nat.min hi (chunkEnd d lo)
    (lo, m - lo) :: chunksOf d fuel m hi

/-- Notes bytes read, for the CRC (R392). -/
def chanRead (σ : State) (L c lo : Nat) (b : List Byte) : State :=
  modChan σ L c (fun q => if ddCrc q.desc && decide (q.crcUpTo ≤ lo) then { q with crcBuf := gotAdd lo b q.crcBuf } else q)

/-- Folds the bytes of a COPY that are known written into the CRC. -/
def chanFold (σ : State) (L c : Nat) : State :=
  let k := getCore σ L
  let q := getChan k c
  let p := chanPos k c
  if ddCrc q.desc = true ∧ ddKind q.desc = 0 ∧ q.crcUpTo < p ∧ (gotFind q.crcUpTo p q.crcBuf).isSome = true then
    setCore σ L (setChan k c { q with crc := crcAt q p, crcBuf := gotTake q.crcUpTo p q.crcBuf, crcUpTo := p })
  else σ

/-- The bytes of a COPY that land where source and destination overlap are free values (R390). -/
def chanFree (σ : State) (d : List Word) (lo : Nat) (b : List Byte) : List Byte × State :=
  let hit (i : Nat) : Bool :=
    let a := ddDstAt d (lo + i)
    ddSrc d != ddDst d && decide (ddSrc d ≤ a) && decide (a < ddSrc d + (if ddSrcFix d then ddFix d else ddLen d))
  if !(List.range b.length).any hit then (b, σ) else
  (b.zipIdx.map (fun x => if hit x.2 then (Config.freeValue (σ.freeCtr + x.2)).truncate 8 else x.1),
   { σ with freeCtr := σ.freeCtr + b.length })

/-- Writes the bytes [lo, lo + |b|) of a COPY at their destination, or makes them ready to send. -/
def chanPut (σ : State) (L c lo : Nat) (b : List Byte) : State × Bool :=
  let q := getChan (getCore σ L) c
  let d := q.desc
  if ddKind d = 1 then (modChan σ L c (fun q => { q with got := gotAdd lo b q.got }), true)
  else
    let r := chanFree σ d lo b
    match unitWrite r.2 L (.dma (BitVec.ofNat 2 c)) q.issuerMode (ddDstAt d lo) [(0, r.1)] (.dma (BitVec.ofNat 2 c) lo b.length true r.1) with
    | .done σ => (modCore σ L (fun c => pmcEvent c 0x1D none b.length), true)
    | .sent σ => (σ, true)
    | .data σ _ _ => (σ, true)
    | .wait σ => (σ, false)
    | .fail σ w k => (chanFail σ L c (lo + k) w (ddDstAt d lo + k), true)

/-- Bytes of a channel's source arrive, from dense byte lo on: those before the first uncorrectable word are written on, and the channel
stops at that word (R398); false while the destination's walk runs. -/
def chanLand (σ : State) (L c lo : Nat) (data : List Byte) (bad : List Nat) : State × Bool :=
  let d := (getChan (getCore σ L) c).desc
  if ddSrcFix d then
    if bad.isEmpty then (modChan σ L c (fun q => { q with unit := data }), true) else (chanFail σ L c lo .ue (ddSrc d), true)
  else
    let a := ddSrc d + lo
    let n := match bad with
      | [] => data.length
      | k :: _ => 8 * (k + a / 8) - a
    let good := data.take n
    match (if good.isEmpty then (σ, true) else chanPut σ L c lo good) with
    | (σ, false) => (σ, false)
    | (σ, true) =>
      let σ := if good.isEmpty then σ else chanRead σ L c lo good
      (if bad.isEmpty then σ else chanFail σ L c (lo + n) .ue (a + n), true)

/-- The bytes [lo, hi) of a SRC_FIXED descriptor, whose unit is read (R389). -/
def fixedBytes (q : Chan) (lo hi : Nat) : List Byte :=
  (List.range (hi - lo)).map (fun i => q.unit.getD ((lo + i) % ddFix q.desc) 0#8)

/-- The bytes [lo, hi) of a TRANSPOSE descriptor, which lie in one block, move on (R389); false while the destination's walk runs. -/
def chanBlockMove (σ : State) (L c lo hi : Nat) : State × Bool :=
  let d := (getChan (getCore σ L) c).desc
  let e := ddTe d
  let blk := lo / (64 * e)
  let r := blockRead σ L (ddSrc d + 8 * e * blk) e (ddRstride d : Int)
  if !r.2.1.isEmpty then
    (chanFail (r.2.1.foldl (fun σ w => noteSpadUE σ L (8 * w)) r.2.2) L c lo .ue (8 * r.2.1.headD 0), true)
  else
    let b := (r.1.drop (lo - blk * (64 * e))).take (hi - lo)
    match chanPut r.2.2 L c lo b with
    | (σ, true) => (chanRead σ L c lo b, true)
    | r => r

/-- Sends one remote-write packet of a REMOTE that is ready (R363, R391). -/
def chanSendOne (σ : State) (L c : Nat) : Option State :=
  let k := getCore σ L
  let q := getChan k c
  let d := q.desc
  match q.credit with
  | .held cr =>
    match gotBlock (ddOff d) (Nat.max q.creditFrom q.pos) (ddLen d) q.got with
    | none => none
    | some (lo, hi) =>
      let data := (gotFind lo hi q.got).getD []
      let q' := { q with got := gotTake lo hi q.got }
      let last := decide (q.nxt = ddLen d) && (chanOuts k c).isEmpty && q.again.isEmpty && q'.got.isEmpty
      let sig : Option RSig := if ddRsigEn d then
        some { mode := BitVec.ofNat 2 (ddRmode d), cnt := BitVec.ofNat 6 (ddRcnt d) } else none
      some (sendTo (setCore σ L (setChan k c q')) (.core L) (coreEp σ (ddMod d) (ddId d)) (.remoteWrite (ddId d)
        (.dma (BitVec.ofNat 2 c)) cr (ddOff d + lo) k.sup.pair data last sig lo))
  | _ => none

/-- The next request of a channel may be formed: at most 32 are outstanding (R388), and one at a time with DST_FIXED, so that the units are
written in ascending order (R389; log 51). -/
def chanReady (k : Core) (c : Nat) : Bool :=
  let q := getChan k c
  let d := q.desc
  decide (q.nxt < ddLen d) && decide ((chanOuts k c).length < 32) &&
    (!ddDstFix d || ((chanOuts k c).isEmpty && q.again.isEmpty)) && (ddKind d != 1 || (match q.credit with
    | .held _ => true
    | _ => false))

/-- One action of a running channel; none when it has nothing to do now, with the state of a walk it joins. -/
def chanStep (σ : State) (L c : Nat) : Option State × State :=
  let k := getCore σ L
  let q := getChan k c
  let d := q.desc
  let ch := BitVec.ofNat 2 c
  if q.st ≠ 1 ∨ q.stopping ≠ none ∨ q.started = false ∨ ddLen d = 0 then (none, σ) else
  let σ1 := if ddKind d = 1 ∧ q.credit = .none ∧ q.nxt < ddLen d then
      askCredit (modChan σ L c (fun q => { q with credit := .asked 0 none, creditFrom := q.nxt })) L (.dma ch)
        (ddMod d) (ddId d) (ddWin d) (ddOff d + q.nxt) (ddLen d - q.nxt)
    else σ
  match (if ddKind d = 1 then chanSendOne σ1 L c else none) with
  | some σ => (some σ, σ)
  | none =>
    if !chanReady k c then (none, σ1) else
    let hi := chunkCut σ1 L d q.nxt
    let go (hi : Nat) (r : State × Bool) : Option State × State :=
      if r.2 then (some (modChan r.1 L c (fun q => { q with nxt := hi })), r.1) else (none, r.1)
    let read (a n hi : Nat) : Option State × State :=
      match unitRead σ1 L (.dma ch) q.issuerMode a n (.dma ch q.nxt n false []) with
      | .data σ b bad => go hi (chanLand σ L c q.nxt b bad)
      | .sent σ => go hi (σ, true)
      | .done σ => go hi (σ, true)
      | .wait σ => (none, σ)
      | .fail σ w _ => (some (chanFail σ L c q.nxt w a), σ)
    if ddSrcFix d then
      if !q.unit.isEmpty then
        let b := fixedBytes q q.nxt hi
        let r := chanPut σ1 L c q.nxt b
        go hi (if r.2 then chanRead r.1 L c q.nxt b else r.1, r.2)
      else if (chanOuts k c).any (fun o => !o.2.2) || q.again.any (fun b => b.2.2.isNone) then (none, σ1)
      else read (ddSrc d) (ddFix d) q.nxt
    else if ddTr d then go hi (chanBlockMove σ1 L c q.nxt hi)
    else read (ddSrc d + q.nxt) (hi - q.nxt) hi

/-- Runs a channel until it has nothing to do. -/
def chanPump : Nat → State → Nat → Nat → State
  | 0, σ, _, _ => σ
  | fuel + 1, σ, L, c =>
    match chanStep σ L c with
    | (some σ, _) => chanPump fuel (chanFold σ L c) L c
    | (none, σ) => chanSettle (chanFold σ L c) L c

/-- Runs every slot and channel of a core that is not stopped. -/
def pumpUnits (σ : State) (L : Nat) : State :=
  if (getCore σ L).sup.stopped then σ else
  let σ := (List.range 8).foldl (fun σ s => if (getSlot (getCore σ L) s).st = 1 then slotPump pumpFuel σ L s else σ) σ
  (List.range 4).foldl (fun σ c => if (getChan (getCore σ L) c).st = 1 then chanPump pumpFuel σ L c else σ) σ

end Sys2Proof.Machine
end

