-- ==== Sys2Proof/Machine/Engine.lean ====
section
/-! DEFINITION. The matrix engine's stores: tile file, scale store, accumulators and the engine queue's `t.swap`, `t.zero` and `t.tz`
(R151–R161). -/

namespace Sys2Proof.Machine

/-- Tiles, rows per tile and row bytes of a layout (Table: tile-file layouts). -/
def layTiles (l : Nat) : Nat := if l = 0 then 8 else if l = 1 then 16 else 4
def layRows (l : Nat) : Nat := if l = 1 then 32 else 64
def layRow (l : Nat) : Nat := if l = 2 then 128 else 64

/-- First 64-byte line of tile t, row r. -/
def rowLine (l t r : Nat) : Nat := (t * layRows l + r) * (layRow l / 64)

/-- Lines of a tile. -/
def tileLines (l : Nat) : Nat := layRows l * (layRow l / 64)

/-- A line of the tile file. -/
def getLine (m : Mtx) (i : Nat) : List Byte :=
  match mget [] m.tile i with
  | [] => List.replicate 64 0#8
  | d => d

/-- Bytes of a tile row. -/
def getRow (m : Mtx) (t r : Nat) : List Byte :=
  ((List.range (layRow m.layout / 64)).map (fun k => getLine m (rowLine m.layout t r + k))).flatten

/-- Writes one line: its poison goes, and an operand-cache entry of its tile (R168). -/
def setLine (m : Mtx) (i : Nat) (d : List Byte) : Mtx :=
  let d' := if d.all (· == 0#8) then [] else d
  { m with tile := mput [] i d' m.tile, poison := eraseNat i m.poison,
           opc := m.opc.filter (fun t => t != i / tileLines m.layout) }

/-- Sets the scales of one line (R152). -/
def setScales (m : Mtx) (i : Nat) (s : List Byte) : Mtx :=
  { m with scale := mput 0x7F#8 (2 * i) (s.getD 0 0x7F#8) (mput 0x7F#8 (2 * i + 1) (s.getD 1 0x7F#8) m.scale) }

/-- Writes a whole row with its scales (0x7F where none are given), poisoned or not (R152, R175). -/
def putRow (m : Mtx) (line : Nat) (data : List Byte) (scales : List Byte) (bad : Bool) : Mtx :=
  (List.range (data.length / 64)).foldl (fun m k =>
    let m := setScales (setLine m (line + k) ((data.drop (64 * k)).take 64)) (line + k) ((scales.drop (2 * k)).take 2)
    if bad then { m with poison := insertNat (line + k) m.poison } else m) m

/-- Row r of tile t is poisoned. -/
def rowBad (m : Mtx) (t r : Nat) : Bool :=
  (List.range (layRow m.layout / 64)).any (fun k => m.poison.contains (rowLine m.layout t r + k))

/-- Element (i, j) of an accumulator. -/
def accAt (a : Accum) (i j : Nat) : BitVec 32 := mget 0#32 a.data (64 * i + j)

/-- Lines of the tile file that a queued instruction reads, as first line and count: the M rows of A and the N rows of B (R164). -/
def opReads (l : Nat) (o : MqOp) : List (Nat × Nat) :=
  let k := layRow l / 64
  match o with
  | .mma a b w => [(rowLine l a 0, (bits w 5 0 + 1) * k), (rowLine l b 0, (bits w 21 16 + 1) * k)]
  | _ => []

/-- Lines of the tile file that a queued instruction writes. -/
def opWrites (l : Nat) (o : MqOp) : List (Nat × Nat) :=
  match o with
  | .drain td ctl _ rows _ => if bit ctl 6 then [] else [(rowLine l td 0, rows * (layRow l / 64))]
  | .tz t => [(rowLine l t 0, tileLines l)]
  | .mma .. | .swap | .zero => []

/-- Two sets of lines meet. -/
def linesMeet (a b : List (Nat × Nat)) : Bool :=
  a.any (fun x => b.any (fun y => decide (x.1 < y.1 + y.2) && decide (y.1 < x.1 + x.2)))

/-- Lines of a requested row of a load, which it will write. A row of a store has been read. -/
def rowWrites (r : TileRow) : List (Nat × Nat) := if r.kind = 1 then [] else [(r.line, r.bytes / 64)]

/-- A younger access to n lines of the tile file from `line` on must wait: a read for older writes, a write for older reads and writes
(R159). -/
def lineBusy (m : Mtx) (line n : Nat) (write : Bool) : Bool :=
  let mine := [(line, n)]
  m.queue.any (fun q => linesMeet mine (opWrites m.layout q.op) || (write && linesMeet mine (opReads m.layout q.op))) ||
    m.rows.any (fun r => linesMeet mine (rowWrites r))

/-- The younger of two queued instructions must wait for the older one's rows (R159). -/
def opsMeet (l : Nat) (old new : MqOp) : Bool :=
  linesMeet (opWrites l old) (opReads l new ++ opWrites l new) || linesMeet (opReads l old) (opWrites l new)

/-- The engine holds no queued or in-flight work. -/
def mtxIdle (m : Mtx) : Bool := m.queue.isEmpty && m.rows.isEmpty

/-- Whether an older queued instruction keeps a younger one from running (R156–R159). -/
def opBlocks (l : Nat) (old new : MqOp) : Bool :=
  opsMeet l old new ||
  match new, old with
  | .swap, .tz _ => false
  | .swap, _ => true
  | .zero, .mma .. | .zero, .swap | .zero, .zero => true
  | .mma .., .mma .. | .mma .., .swap | .mma .., .zero => true
  | .drain .., .swap | .drain .., .drain .. => true
  | _, _ => false

/-- The item at place i of the queue may run: nothing older blocks it, and no older requested row touches its lines; a drain to scratchpad
waits for every older row (R160). -/
def mqReady (m : Mtx) (i : Nat) (q : MqItem) : Bool :=
  let older (r : TileRow) : Bool := decide (r.id < q.id)
  !(m.queue.take i).any (fun o => opBlocks m.layout o.op q.op) &&
    !m.rows.any (fun r => older r && linesMeet (rowWrites r) (opReads m.layout q.op ++ opWrites m.layout q.op)) &&
    (match q.op with
     | .drain _ ctl _ _ _ => !(bit ctl 6 && m.rows.any older)
     | _ => true)

/-- Zeroes tile t and its scales. -/
def zeroTile (m : Mtx) (t : Nat) : Mtx :=
  (List.range (tileLines m.layout)).foldl (fun m k =>
    setScales (setLine m (t * tileLines m.layout + k) (List.replicate 64 0#8)) (t * tileLines m.layout + k) []) m

/-- Runs the first queued `t.swap`, `t.zero` or `t.tz` that may run. -/
def mqAuto (m : Mtx) : Option Mtx :=
  let auto (q : MqItem) : Bool := match q.op with
    | .swap | .zero | .tz _ => true
    | .mma .. | .drain .. => false
  match m.queue.zipIdx.find? (fun p => auto p.1 && mqReady m p.2 p.1) with
  | none => none
  | some (q, i) =>
    let m := { m with queue := dropAt i m.queue }
    some (match q.op with
      | .swap => { m with cur := m.drn, drn := m.cur }
      | .zero => { m with cur := Accum.zero }
      | .tz t => zeroTile m t
      | .mma .. | .drain .. => m)

/-- Runs every queued `t.swap`, `t.zero` and `t.tz` that may run. -/
def mqPump : Nat → Mtx → Mtx
  | 0, m => m
  | k + 1, m => match mqAuto m with
    | some m => mqPump k m
    | none => m

/-- The first queued instruction of a kind that may run. -/
def mqFind (m : Mtx) (p : MqOp → Bool) : Option (MqItem × Nat) := m.queue.zipIdx.find? (fun e => p e.1.op && mqReady m e.2 e.1)

end Sys2Proof.Machine
end

