-- ==== Sys2Proof/Machine/Rings.lean ====
section
/-! DEFINITION. The ring interface: placing, parking and dropping messages (R327–R336), the outbound queue (R324), the head of a
ring. -/

namespace Sys2Proof.Machine

/-- The header of an empty ring: KIND 15, every other field 0. -/
def noneHeader : Word := 0xF0#64

/-- A WRAP marker: KIND 2, every other field 0. -/
def wrapHeader : Word := 0x20#64

/-- Pair of a message header. -/
def hdrPair (h : Word) : Pair := { tag := BitVec.ofNat 12 (bits h 27 16), gen := BitVec.ofNat 4 (bits h 31 28) }

/-- Bytes of a ring. -/
def ringSize (r : Ring) : Nat := 2 ^ r.sizeLog2

/-- The word at an offset of a ring. -/
def ringWord (c : Core) (r : Ring) (o : Nat) : Word := BitVec.ofNat 64 (ofBytes (readBytes c.spad.mem (r.base + o) 8))

/-- HEAD never rests on a WRAP marker (R330). -/
def ringNorm (c : Core) (r : Ring) : Ring :=
  if r.msgs ≠ 0 ∧ ringWord c r r.head = wrapHeader then { r with head := 0 } else r

/-- RING_HEAD and `ch.peek` (R331, R332). -/
def ringHead (c : Core) (r : Ring) : Word := if r.enable = true ∧ r.msgs ≠ 0 then ringWord c r r.head else noneHeader

/-- The outcome of R327 for a message. -/
inductive RingOut where
  | stale
  | cancel
  | full
  | place (at' : Nat) (wrapAt : Option Nat)
  deriving DecidableEq, Repr

/-- The decision of R327; `parked` is whether another message is parked. -/
def ringDecide (r : Ring) (m : Msg) (parked : Bool) : RingOut :=
  let need := 8 + 8 * m.words.length
  let size := ringSize r
  if !r.enable then .stale
  else if hdrPair m.header ≠ r.pair then .stale
  else if r.discard then .cancel
  else if r.pause || parked then .full
  else if r.msgs ≠ 0 ∧ r.tail = r.head then .full
  else if r.head ≤ r.tail then
    if need ≤ size - r.tail then .place r.tail none
    else if need ≤ r.head then .place 0 (some r.tail)
    else .full
  else if need ≤ r.head - r.tail then .place r.tail none
  else .full

/-- Threads waiting in `ch.recv` on a ring issue again (R331). -/
def ringWakes (c : Core) (r : Nat) : Core :=
  (List.range 16).foldl (fun c t => modThr c t (fun h =>
    if h.st = .wait ∧ h.wait = .ring (BitVec.ofNat 4 r) then { h with st := .ready, wait := .none, waitClasses := 0#6 } else h)) c

/-- Performs a decision other than full: places or drops the message (R327, R328, R333). -/
def ringTake (σ : State) (L r : Nat) (m : Msg) (o : RingOut) : State :=
  match o with
  | .full => σ
  | .stale => modCore σ L (fun c => let q := getRing c r; setRing c r { q with staleDrops := satAdd 0xFFFFFFFF q.staleDrops 1 })
  | .cancel => modCore σ L (fun c => let q := getRing c r; setRing c r { q with cancelDrops := satAdd 0xFFFF q.cancelDrops 1 })
  | .place p w =>
    let q := getRing (getCore σ L) r
    let σ := match w with
      | some o => spadWrite σ L (q.base + o) (toBytes 8 wrapHeader.toNat)
      | none => σ
    let σ := spadWriteBad σ L (q.base + p) (toBytes 8 m.header.toNat ++ bytesOf m.words) (m.bad.map (· + 1))
    modCore σ L (fun c =>
      let q := getRing c r
      let q := ringNorm c { q with tail := (p + 8 + 8 * m.words.length) % ringSize q, msgs := q.msgs + 1 }
      let c := setRing c r q
      let c := if q.arrCntEn then scAdd c q.arrCnt.toNat 1 else c
      let c := if m.bad.isEmpty then c else queueEvent c 3 r 0 false 0x0D
      ringWakes (pmcEvent c 0x1A none 1) r)

/-- Tries the parked message of a ring again (R329). -/
def ringRetry (σ : State) (L r : Nat) : State :=
  let q := getRing (getCore σ L) r
  match q.parked with
  | none => σ
  | some m =>
    match ringDecide q m false with
    | .full => σ
    | o =>
      ringTake (modCore σ L (fun c => setRing c r { getRing c r with parked := none, parkAge := 0, stalled := false })) L r m o

/-- Bytes of the overflow area in use. -/
def overBytes (c : Core) : Nat := c.sup.overflow.foldl (fun a m => a + 8 + 8 * m.2.words.length) 0

/-- A switched core writes a message of a full ring into its overflow area of 65,536 bytes, or drops and counts it (R480). -/
def overPut (c : Core) (r : Nat) (m : Msg) : Core :=
  if 65536 < overBytes c + 8 + 8 * m.words.length then { c with sup := { c.sup with overDrops := c.sup.overDrops + 1 } }
  else { c with sup := { c.sup with overflow := c.sup.overflow ++ [(r, m)] } }

/-- The interface takes one message: placed, dropped, parked or put into the overflow area; none while it must stay at the VC2 input. -/
def ringSink (σ : State) (L r : Nat) (m : Msg) : Option State :=
  let q := getRing (getCore σ L) r
  match ringDecide q m q.parked.isSome with
  | .full =>
    if (getCore σ L).sup.switching = 1 then some (modCore σ L (fun c => overPut c r m))
    else if q.parked.isSome then none
    else some (modCore σ L (fun c => setRing c r { q with parked := some m, parkAge := 0 }))
  | o => some (ringTake σ L r m o)

/-- Takes the messages held at the VC2 input, oldest first. -/
def vc2Drain : Nat → State → Nat → State
  | 0, σ, _ => σ
  | k + 1, σ, L =>
    let c := getCore σ L
    match c.vc2 with
    | [] => σ
    | p :: rest =>
      match p.body with
      | .message r m =>
        match ringSink σ L r.toNat m with
        | some σ => vc2Drain k (modCore σ L (fun c => { c with vc2 := rest })) L
        | none => σ
      | _ => vc2Drain k (setCore σ L { c with vc2 := rest }) L

/-- Ring work of a core: parked messages, then the VC2 input. -/
def ringsPump (σ : State) (L : Nat) : State :=
  let c := getCore σ L
  let σ := c.rings.foldl (fun σ p => if p.2.parked.isSome && p.2.enable then ringRetry σ L p.1 else σ) σ
  vc2Drain c.vc2.length σ L

/-- VC2 packets of core L in the mesh. -/
def vc2Out (σ : State) (L : Nat) : Nat :=
  (σ.net.filter (fun p => decide (p.src = .core L) && decide (vcOf p.body = 2))).length

/-- The outbound queue enters the mesh while fewer than 8 flits of it wait there (R324, R406). -/
def outqDrain : Nat → State → Nat → State
  | 0, σ, _ => σ
  | k + 1, σ, L =>
    let c := getCore σ L
    match c.outq with
    | [] => σ
    | p :: r => if 8 ≤ vc2Out σ L then σ else outqDrain k (sendPk (setCore σ L { c with outq := r }) p) L

/-! ### Press deliveries (R344–R346) -/

/-- A message header (Table: message header). -/
def msgHeader (len kind user : Nat) (p : Pair) (src mod thread : Nat) : Word :=
  w64 (len + fl kind 4 + fl user 8 + fl p.tag.toNat 16 + fl p.gen.toNat 28 + fl src 32 + fl mod 48 + fl thread 56)

/-- A press queue of the module. -/
def getPress (σ : State) (q : Nat) : PressQ := mget PressQ.closed σ.press q
def setPress (σ : State) (q : Nat) (x : PressQ) : State := { σ with press := mput PressQ.closed q x σ.press }

/-- Elements, destinations and contributions of a configuration word. -/
def pqElems (w : Word) : Nat := bits w 21 16 + 1
def pqFmt (w : Word) : Nat := bits w 15 14
def pqNdest (w : Word) : Nat := bits w 26 24 + 1
def pqContribs (w : Word) : Nat := bits w 47 32

/-- A delivery of the queue is under way or held. -/
def pressDelivering (σ : State) (q : Nat) : Bool :=
  let mine (p : Packet) : Bool := decide (p.src = .press q) && (match p.body with
    | .message .. => true
    | _ => false)
  σ.net.any mine || σ.cores.any (fun c => c.2.vc2.any mine)

/-- The parts of a delivery (R346): LEN, USER and words. -/
def pressParts (x : PressQ) (queue : Nat) : List (Nat × Nat × List Word) :=
  let n := pqElems x.cfg
  (List.range ((n + 15) / 16)).map (fun p =>
    let k := Nat.min 16 (n - 16 * p)
    let at' (i : Nat) : Nat := if i < k then (mget 0#32 x.cur (16 * p + i)).toNat else 0
    let len := (k + 1) / 2
    (len, p + fl (b2n x.round) 2 + fl queue 3, (List.range len).map (fun j => w64 (at' (2 * j) + fl (at' (2 * j + 1)) 32))))

/-- Delivers the current round of queue q and flips its round (R345, R346). -/
def pressDeliver (σ : State) (q : Nat) : State :=
  let x := getPress σ q
  let parts := pressParts x (q % 32)
  let σ := x.dests.foldl (fun σ d =>
    parts.foldl (fun σ p =>
      let h := msgHeader p.1 3 p.2.1 x.pair (q / 32) (moduleId σ) 0
      sendTo σ (.press q) (.core (nbits d.toNat 12 0))
        (.message (BitVec.ofNat 4 (nbits d.toNat 19 16)) { header := h, words := p.2.2, bad := [] })) σ) σ
  setPress σ q (if bit x.cfg 22 then
      { x with round := !x.round, cur := x.nxt, nxt := [], curN := x.nxtN, nxtN := 0 }
    else { PressQ.closed with drops := x.drops })

/-- Delivers the rounds of every queue that are complete; a round waits while an earlier delivery of its queue is under way (R345, R346). -/
def pressAll (σ : State) : State :=
  σ.press.foldl (fun σ e =>
    let x := getPress σ e.1
    if x.opened && !x.norm && decide (pqContribs x.cfg ≤ x.curN) && !pressDelivering σ e.1 then pressDeliver σ e.1 else σ) σ

end Sys2Proof.Machine
end

