-- ==== Sys2Proof/Machine/Ops.lean ====
section
/-! DEFINITION. Threads: finishing an instruction (R61, R70, R90), halts (R581–R589), taking an exception (R92–R101, R308), returning from
one (R97, R98, R594), the end of waits (R355–R359), fences (R376), all-wait (R112), and the issue of an instruction (R43–R44, R62, R72,
R587). -/

namespace Sys2Proof.Machine

/-! ### Results of an instruction -/

/-- Where control goes after an instruction: on, to a transfer's target after its slot (R61), to an address (R69), on with the mode
shadow (R90). -/
inductive Nx where
  | seq
  | xfer (target : Word)
  | goto (pc : Word)
  | shadow
  deriving DecidableEq, Repr

/-- What an instruction does: it completes; it waits at issue; it enters WAIT with classes; it raises a fault; it traps; or it has set
the thread's state itself. -/
inductive IRes where
  | done (σ : State) (nx : Nx)
  | hold (σ : State)
  | wait (σ : State) (w : Wait) (cls : Nat)
  | exc (σ : State) (f : FInfo)
  | trap (σ : State) (n : Nat)
  | set (σ : State)

/-- The result of an instruction from an access. -/
def ofAR {α : Type} (r : AR α) (k : State → α → IRes) : IRes :=
  match r with
  | .ok σ v => k σ v
  | .fault σ f => .exc σ f
  | .hold σ => .hold σ

/-- What the issue of an instruction needs to know of it: whether its word is legal, whether it may stand in a slot and at a loop end (R62,
R72), whether it is an illegal sequence by itself (R69), whether it is a transfer, its observer (0 scalar, 1 vector, 2 matrix, 3 DMA and streams, 4 none), whether it accesses memory, and its
port (0 ALU, 1 vector, 2 matrix, 3 memory/channel). -/
structure Att where
  legal : Bool
  seqBad : Bool
  inSlot : Bool
  atEnd : Bool
  xfer : Bool
  obs : Nat
  mem : Bool
  port : Nat

/-- A plain instruction of the ALU ports. -/
def attAlu : Att := { legal := true, seqBad := false, inSlot := true, atEnd := true, xfer := false, obs := 4, mem := false, port := 0 }

/-- A scalar memory, channel or counter instruction. -/
def attMem : Att := { attAlu with obs := 0, mem := true, port := 3 }

/-- A serializing instruction, which R62 and R72 forbid. -/
def attSys : Att := { attAlu with inSlot := false, atEnd := false }

/-! ### Conditions (R44) -/

/-- Table: condition codes. -/
def condHolds (f : Flags) (c : BitVec 4) : Bool :=
  match c.toNat with
  | 0 => true
  | 1 => f.z
  | 2 => !f.z
  | 3 => f.n != f.v
  | 4 => f.n == f.v
  | 5 => !f.z && f.n == f.v
  | 6 => f.z || f.n != f.v
  | 7 => !f.c
  | 8 => f.c
  | 9 => f.c && !f.z
  | 10 => !f.c || f.z
  | 11 => f.v
  | 12 => f.p0
  | 13 => !f.p0
  | 14 => f.p1
  | _ => !f.p1

/-! ### Halts (R581–R589) -/

/-- Nothing of the thread keeps an event from it here: no slot and no shadow is next, no request of it is in flight, and no exception
entry is in progress (R64, R90, R280). -/
def atBoundary (h : Thread) : Bool :=
  h.slot.isNone && !h.shadow && h.entry.isNone && (match h.held with
    | .access _ | .cmo => false
    | .none | .walk _ => true)

/-- PROG matches a long instruction of a major opcode at the thread's PC (R103). -/
def progAt (h : Thread) (major : Nat) : Bool :=
  bit h.prog 63 && bits h.prog 61 56 == major && bits h.prog 47 32 == bits h.pc 17 2

/-- Thread t is inside a tile load or store whose requested rows have not all landed: an event waits for them (R174). -/
def midTile (c : Core) (t : Nat) : Bool :=
  let h := getThr c t
  decide (c.mtx.lease = some t) && !c.mtx.rows.isEmpty && (progAt h 0x2E || progAt h 0x2F || progAt h 0x30)

/-- An event may be taken by thread t now. -/
def mayStop (c : Core) (t : Nat) : Bool := atBoundary (getThr c t) && !midTile c t

/-- The thread in HALTED, with nothing of the debugger's pending. -/
def haltedThread (h : Thread) (skip : Option Word) : Thread :=
  { h with st := .halted, wait := .none, waitClasses := 0#6, held := .none, acc := [], cmdIgnored := h.cmdIgnored || h.stopPend,
           stopPend := false, dbg := { pend := none, stepping := false, skip := skip, group := h.dbg.group } }

/-- Units in RUN get STOP once every thread that is not FREE is HALTED (R583). -/
def haltUnits (σ : State) (L : Nat) : State :=
  let c := getCore σ L
  let alls := (List.range 16).all (fun t => (getThr c t).st == .free || (getThr c t).st == .halted)
  if !(c.dbg.haltUnits && alls) then σ else
  let ss := (List.range 8).filter (fun s => (getSlot c s).st == 1)
  let cs := (List.range 4).filter (fun k => (getChan c k).st == 1)
  let σ := setCore σ L { c with dbg := { c.dbg with stopped := (ss ++ cs.map (· + 8)).foldl (fun l k => insertNat k l) c.dbg.stopped } }
  let σ := ss.foldl (fun σ s => slotStop σ L s) σ
  cs.foldl (fun σ k => chanStop σ L k false) σ

/-- A halt request that names no record: at once where an event may be taken, else at the next boundary. -/
def haltAsk (c : Core) (t : Nat) (r : Nat × Nat × Nat) : Core :=
  modThr c t (fun h => { h with dbg := { h.dbg with pend := match h.dbg.pend with
    | some p => some p
    | none => some r } })

/-- Halts a thread, records the hit (kind 0 records none), asks the other threads under HALT_ALL, and stops units under HALT_UNITS. -/
def haltThread (σ : State) (L t kind index addr : Nat) : State :=
  let c := getCore σ L
  let c := modThr c t (fun h => haltedThread { h with dbg := { h.dbg with group := kind == 5 || (kind == 3 && h.dbg.group) } }
    (if kind = 1 then some h.pc else h.dbg.skip))
  let c := if kind = 0 then c else
    { c with dbg := { c.dbg with hit := { valid := true, thread := t, kind := kind, index := index, addr := addr } } }
  let c := if c.dbg.haltAll && kind != 0 then
      (List.range 16).foldl (fun c u =>
        let h := getThr c u
        if u = 0 ∨ u = t ∨ ¬(h.st = .ready ∨ h.st = .wait) then c
        else if mayStop c u then modThr c u (fun h => haltedThread h h.dbg.skip)
        else haltAsk c u (0, 0, 0)) c
    else c
  haltUnits (setCore σ L c) L

/-! ### Taking an exception (R92–R101) -/

/-- The 16 words of a frame (Table: exception frame). -/
def frameWords (h : Thread) (t : Nat) (e : Entry) (lrs : Bool) : List Word :=
  let status := flagsWord h.flags + b2n (decide (h.mode = .supervisor)) * 64 + b2n h.ae * 128 + b2n h.slot.isSome * 256 +
    b2n e.async * 512 + b2n lrs * 1024 + e.int * 4096 + e.cause * 65536 + e.trap * 2 ^ 24 + t * 2 ^ 32
  [e.pc, BitVec.ofNat 64 status, h.slot.getD 0#64, BitVec.ofNat 64 e.addr, e.detail, h.prog, greg h 31,
   BitVec.ofNat 64 (h.loop0.lc.toNat + h.loop1.lc.toNat * 2 ^ 32), h.loop0.ls, h.loop0.le, h.loop1.ls, h.loop1.le,
   greg h 1, greg h 2, greg h 3, greg h 4]

/-- The vector of an entry (Table: vectors). -/
def vectorOf (vbar : Word) (e : Entry) : Word :=
  if e.int = 1 then vbar + 0x800#64 else if e.int = 2 then vbar + 0x820#64 else vbar + BitVec.ofNat 64 (32 * e.cause)

/-- Entry has succeeded: the thread's new state (R92). -/
def enterThread (h : Thread) (vbar newSp : Word) (e : Entry) : Thread :=
  setG { h with
    st := .ready, mode := .supervisor, ae := false, loop0 := { h.loop0 with lc := 0#32 }, loop1 := { h.loop1 with lc := 0#32 },
    prog := 0#64, slot := none, shadow := false, wait := .none, waitClasses := 0#6, held := .none, pc := vectorOf vbar e,
    lastCause := e.cause, nest := satAdd 0xFFFFFFFF h.nest 1, injPend := false, acc := [], entry := none } 31 newSp

/-- The last-resort path of an entry (R100, R101): the frame goes to the thread's slot, and the thread stops, thread 0 with the core. `sp`,
mode, NEST and LAST_CAUSE stay (log 47). -/
def lastResort (σ : State) (L t : Nat) (e : Entry) : State :=
  let h := thrOf σ L t
  let σ := spadWrite σ L (0x7F800 + 128 * t) (bytesOf (frameWords h t e true))
  if t = 0 then coreStop σ L 1 0 else
  modCore σ L (fun c =>
    queueEvent (modThr c t (fun h => { h with
      st := .stopped, lrs := true, wait := .none, waitClasses := 0#6, held := .none, injPend := false, stopPend := false, acc := [],
      entry := none, dbg := { h.dbg with stepping := false } })) 5 t t false 7)

/-- The entry of thread t goes on (R92): its checks, made in the mode before entry, then the frame push, which may wait for a walk, a line or
a home; then the handler's state, or the last-resort path. -/
def enterStep (σ : State) (L t : Nat) : State :=
  let h := thrOf σ L t
  match h.entry with
  | none => σ
  | some e =>
    if h.held ≠ .none then σ else
    let sp := (greg h 31).toNat
    let f := faultAt 0x0D (sp - 128) true 128
    if sp % 16 ≠ 0 ∨ sp < 128 + h.stackLimit.toNat then lastResort σ L t e else
    match resolve σ L t h.mode .store (sp - 128) 128 f with
    | .fault σ _ => lastResort σ L t e
    | .hold σ => σ
    | .ok σ ps =>
      match writePlaces σ L t f true ps (bytesOf (frameWords h t e false)) with
      | .fault σ _ => lastResort σ L t e
      | .hold σ => σ
      | .ok σ _ =>
        let σ := modCore σ L (fun c =>
          pmcEvent (modThr c t (fun h => enterThread h c.sup.vbar (BitVec.ofNat 64 (sp - 128)) e)) 0x10 (some t) 1)
        if (thrOf σ L t).dbg.stepping then
          haltThread (modT σ L t (fun h => { h with dbg := { h.dbg with stepping := false } })) L t 3 0 0
        else σ

/-- Thread t of core L takes an exception, interrupt or event (R92): its instruction, wait and requests end, and the entry begins. -/
def takeException (σ : State) (L t : Nat) (e : Entry) : State :=
  enterStep (modT σ L t (fun h => { h with
    st := .ready, wait := .none, waitClasses := 0#6, held := .none, acc := [], entry := some e })) L t

/-- A debug hit: it halts, or under ACTION it raises 0x11 (R589). -/
def debugHit (σ : State) (L t kind index addr : Nat) : State :=
  let c := getCore σ L
  if c.dbg.action && decide (1 ≤ kind) && decide (kind ≤ 3) then
    let c := modThr c t (fun h => { h with dbg := { pend := none, stepping := false, skip := if kind = 1 then some h.pc else h.dbg.skip, group := h.dbg.group } })
    let c := { c with dbg := { c.dbg with hit := { valid := true, thread := t, kind := kind, index := index, addr := addr } } }
    takeException (setCore σ L c) L t
      { cause := 0x11, int := 0, trap := 0, async := false, addr := 0, detail := 0#64, pc := (getThr c t).pc }
  else haltThread σ L t kind index addr

/-- DETAIL of a synchronous fault (Table: exception frame): SIZE is the base-2 logarithm of the access in bytes, rounded down
where it is no power of two (log 58). -/
def detailOf (f : FInfo) : Word :=
  let lg := if f.size ≤ 1 then 0 else Nat.log2 f.size
  BitVec.ofNat 64 (b2n f.write + 2 * b2n f.fetch + 4 * b2n f.io + 8 * lg)

/-- Records a translation fault in XLT_FSR (R308). -/
def noteFsr (h : Thread) (f : FInfo) : Thread :=
  if f.reason = 0 then h else
  { h with fsr := { h.fsr with
      reason := f.reason, level := f.level, write := f.write, fetch := f.fetch, replied := false, result := false,
      pc := BitVec.ofNat 48 h.pc.toNat } }

/-- A debug hit of kind 2 does not stand: the access that it was for has not taken place. -/
def dropWatch (h : Thread) : Thread :=
  { h with dbg := { h.dbg with pend := match h.dbg.pend with
      | some (2, _, _) => none
      | p => p } }

/-- Thread t raises a fault at its instruction. A halt request that may be taken now comes first (R117, R581). -/
def raise (σ : State) (L t : Nat) (f : FInfo) : State :=
  let σ := modT σ L t (fun h => dropWatch { h with held := .none })
  let h := thrOf σ L t
  let enter : State := takeException (modT σ L t (fun h => noteFsr h f)) L t
    { cause := f.cause, int := 0, trap := 0, async := false, addr := f.addr, detail := detailOf f, pc := h.pc }
  match h.dbg.pend with
  | some (k, i, a) => if mayStop (getCore σ L) t && (k == 0 || decide (4 ≤ k)) then debugHit σ L t k i a else enter
  | none => enter

/-- A request of thread t has failed: its instruction faults, or its exception entry takes the last-resort path (R92). -/
def accessFault (σ : State) (L t : Nat) (f : FInfo) : State :=
  match (thrOf σ L t).entry with
  | some e => lastResort σ L t e
  | none => raise σ L t f

/-! ### Returning from an exception (R97, R98, R594) -/

/-- The thread that a frame restores. -/
def restoreThread (h : Thread) (w : List Word) : Thread :=
  let s := wat w 1
  let h := { h with
    pc := wat w 0, flags := flagsOf (bits s 5 0), mode := if bit s 6 then .supervisor else .user, ae := bit s 7,
    slot := if bit s 8 then some (wat w 2) else none, prog := wat w 5,
    loop0 := { lc := BitVec.ofNat 32 (bits (wat w 7) 31 0), ls := wat w 8, le := wat w 9 },
    loop1 := { lc := BitVec.ofNat 32 (bits (wat w 7) 63 32), ls := wat w 10, le := wat w 11 },
    shadow := false, acc := [], nest := if h.nest = 0xFFFFFFFF then h.nest else h.nest - 1 }
  setG (setG (setG (setG (setG h 1 (wat w 12)) 2 (wat w 13)) 3 (wat w 14)) 4 (wat w 15)) 31 (wat w 6)

/-- A frame whose PC or TARGET is misaligned (R98). -/
def frameMisaligned (w : List Word) : Bool := bits (wat w 0) 1 0 != 0 || bits (wat w 2) 1 0 != 0

/-! ### Finishing an instruction -/

/-- Loop-back at the end of an active loop (R70): the next PC and the loops. -/
def loopNext (h : Thread) : Word × Loop × Loop :=
  let at1 := decide (h.loop1.lc ≠ 0#32) && decide (h.loop1.le = h.pc)
  let at0 := decide (h.loop0.lc ≠ 0#32) && decide (h.loop0.le = h.pc)
  let l1 : Loop := if at1 then { h.loop1 with lc := h.loop1.lc - 1#32 } else h.loop1
  if at1 && decide (h.loop1.lc ≠ 1#32) then (h.loop1.ls, h.loop0, l1)
  else if at0 then
    if h.loop0.lc ≠ 1#32 then (h.loop0.ls, { h.loop0 with lc := h.loop0.lc - 1#32 }, l1)
    else (h.pc + 4#64, { h.loop0 with lc := 0#32 }, l1)
  else (h.pc + 4#64, h.loop0, l1)

/-- The thread after its instruction has completed: a slot goes to the pending target, a transfer to its slot, an end of a loop back. -/
def advance (h : Thread) (nx : Nx) : Thread :=
  match h.slot with
  | some target => { h with pc := target, slot := none, shadow := false }
  | none =>
    match nx with
    | .xfer target => { h with pc := h.pc + 4#64, slot := some target, shadow := false }
    | .goto p => { h with pc := p, shadow := false }
    | .shadow => { h with pc := h.pc + 4#64, shadow := true }
    | .seq =>
      let r := loopNext h
      { h with pc := r.1, loop0 := r.2.1, loop1 := r.2.2, shadow := false }

/-- A debug hit or a STOP that waits is taken (R117, R581, R88). -/
def takeAsked (σ : State) (L t : Nat) : State :=
  let h := thrOf σ L t
  match h.dbg.pend with
  | some (k, i, a) => debugHit σ L t k i a
  | none => if h.stopPend then modT σ L t (fun h => { h with st := .stopped, stopPend := false, acc := [] }) else σ

/-- What is taken at an instruction boundary: a debug hit, the end of a step, a STOP (R117, R581, R585, R88). -/
def boundary (σ : State) (L t : Nat) : State :=
  let h := thrOf σ L t
  if !mayStop (getCore σ L) t then σ
  else if h.dbg.pend.isNone && h.dbg.stepping then debugHit σ L t 3 0 0
  else takeAsked σ L t

/-- A halt or STOP that could not be taken when it was asked for is taken once it may be, before the thread issues again (R91, R174). A
watchpoint's hit belongs to the end of its instruction. -/
def askedLater (σ : State) (L t : Nat) : State :=
  let h := thrOf σ L t
  if h.st ≠ .ready ∨ mayStop (getCore σ L) t = false ∨ h.held ≠ .none then σ
  else match h.dbg.pend with
    | some (2, _, _) => σ
    | _ => takeAsked σ L t

/-- Completes the instruction of thread t. -/
def finish (σ : State) (L t : Nat) (nx : Nx) : State :=
  boundary (modT σ L t (fun h => advance { h with held := .none, acc := [] } nx)) L t

/-! ### Ends of waits (R355–R359, R385, R254, R147) -/

/-- A waiting thread's instruction completes. -/
def wakeDone (σ : State) (L t : Nat) : State :=
  finish (modT σ L t (fun h => { h with st := .ready, wait := .none, waitClasses := 0#6 })) L t .seq

/-- Plain `sc.wait` of thread t, judged on the counter as it stands. -/
def wakePlain (σ : State) (L t : Nat) : State :=
  let c := getCore σ L
  let h := getThr c t
  match h.st, h.wait with
  | .wait, .counter k n false ord =>
    if n ≤ (getSc c k.toNat).value then wakeDone (if ord then setCore σ L (acquire c) else σ) L t else σ
  | _, _ => σ

/-- `sc.waitsub` of thread t: it subtracts where it is satisfied (R358). -/
def wakeSub (σ : State) (L t : Nat) : State :=
  let c := getCore σ L
  let h := getThr c t
  match h.st, h.wait with
  | .wait, .counter k n true ord =>
    let x := getSc c k.toNat
    if n ≤ x.value then
      let c := setSc c k.toNat { x with value := x.value - n }
      wakeDone (setCore σ L (if ord then acquire c else c)) L t
    else σ
  | _, _ => σ

/-- Threads waiting on DMA channels, stream slots and the lease. -/
def wakeUnit (σ : State) (L t : Nat) : State :=
  let c := getCore σ L
  let h := getThr c t
  match h.st, h.wait with
  | .wait, .dma ch => if (getChan c ch.toNat).st = 0 then wakeDone σ L t else σ
  | .wait, .stream s rd =>
    let q := getSlot c s.toNat
    if q.queue.isEmpty then wakeDone (modT σ L t (fun h => setG h rd.toNat 0#64)) L t
    else if segAvail c s.toNat q.rel then wakeDone (modT σ L t (fun h => setG h rd.toNat (segWord c s.toNat))) L t
    else σ
  | .wait, .lease => if c.mtx.lease = some t ∧ c.mtx.dying = false then wakeDone σ L t else σ
  | _, _ => σ

/-- The lease of a killed holder is freed once the engine is idle, and a free lease goes to the thread that has waited longest (R147,
R149). -/
def leaseNext (c : Core) : Core :=
  let m := c.mtx
  let m := if m.dying && mtxIdle m then { m with lease := none, dying := false } else m
  let ws := m.waiters.filter (fun t => (getThr c t).wait == .lease)
  match m.lease, ws with
  | none, t :: r => { c with mtx := { m with lease := some t, waiters := r } }
  | _, _ => { c with mtx := { m with waiters := ws } }

/-- Ids of requests and matrix work that are not performed. -/
def liveIds (c : Core) : List Nat := c.outs.map (·.id) ++ c.mtx.queue.map (·.id) ++ c.mtx.rows.map (·.id)

/-- Fences complete in order, acquiring with ACQ (R376). -/
def fencesSettle (c : Core) : Core :=
  let live := liveIds c
  (List.range 16).foldl (fun c t =>
    let h := getThr c t
    if h.fences.isEmpty then c else
    let ended := h.fences.takeWhile (fun f => !f.ids.any (fun i => live.contains i))
    let c := setThr c t { h with fences := h.fences.drop ended.length }
    if ended.any (·.acq) then acquire c else c) c

/-- All-wait (R112, R113): `left` is whether some thread has left WAIT or FAULT_WAIT. -/
def allWait (c : Core) (left : Bool) : Core :=
  let armed := c.sup.allwaitArmed || left
  let hs := (List.range 16).map (getThr c)
  let quiet := hs.all (fun h => h.st != .ready && h.st != .halted) && hs.any (fun h => h.st == .wait || h.st == .faultWait) &&
    hs.all (fun h => h.st != .wait || bits (h.waitClasses.zeroExtend 64) 5 1 == 0) && c.sup.evq.isEmpty
  let c := { c with sup := { c.sup with allwaitArmed := armed } }
  if armed && quiet then
    queueEvent { c with sup := { c.sup with allwaitArmed := false, allwaitCount := satAdd 0xFFFFFFFF c.sup.allwaitCount 1 } }
      6 0 0 false 0x0E
  else c

/-- Some thread of the core has left WAIT or FAULT_WAIT between two states. -/
def leftWait (a b : Core) : Bool :=
  let w (h : Thread) : Bool := h.st == .wait || h.st == .faultWait
  (List.range 16).any (fun t => w (getThr a t) && !w (getThr b t))

/-- The maintenance operation in progress goes on, and completes the `out` of its thread when it ends (R280). -/
def cmoPump (σ : State) (L : Nat) : State :=
  let σ := cmoStep σ L
  match cmoEnded (getCore σ L) with
  | none => σ
  | some x =>
    let σ := cmoEnd σ L x
    let σ := match (getCore σ L).cache.cmoWait with
      | v :: r => modCore (cmoBegin σ L .io v) L (fun c => { c with cache := { c.cache with cmoWait := r } })
      | [] => σ
    match x.who with
    | .thread t => if (thrOf σ L t.toNat).held = .cmo then finish σ L t.toNat .seq else σ
    | _ => σ

/-- f of every thread in ascending order. -/
def eachThread (f : State → Nat → Nat → State) (σ : State) (L : Nat) : State := (List.range 16).foldl (fun σ t => f σ L t) σ

/-- Inserts an event record by unit and index (Table: event sources). -/
def insertEvent (w : Word) : List Word → List Word
  | [] => [w]
  | v :: r => if bits w 15 13 * 256 + bits w 23 16 < bits v 15 13 * 256 + bits v 23 16 then w :: v :: r else v :: insertEvent w r

/-- The events of one step arrive in one cc: those queued since `old` stand by unit and then by index (R109). -/
def eventsInOrder (old : List Word) (c : Core) : Core :=
  let q := c.sup.evq
  let n := if old.isPrefixOf q then old.length else old.length - 1
  { c with sup := { c.sup with evq := q.take n ++ (q.drop n).foldr insertEvent [] } }

/-- What follows from a command at core L in the same step: entries and maintenance go on, what was asked of threads is taken, units and the
engine queue go on, the ring interface works, waits and fences end, the outbound queue drains, all-wait is judged, the step's events stand in
order, complete press rounds are delivered. -/
def tidy (s σ : State) (L : Nat) : State :=
  let σ := eachThread enterStep (cmoPump σ L) L
  let σ := pumpUnits σ L
  let σ := modCore σ L (fun c => { c with mtx := mqPump 4 c.mtx })
  let σ := ringsPump σ L
  let σ := eachThread wakePlain σ L
  let σ := eachThread wakeSub σ L
  let σ := modCore σ L leaseNext
  let σ := eachThread wakeUnit σ L
  let σ := eachThread askedLater σ L
  let σ := modCore σ L fencesSettle
  let σ := outqDrain 16 σ L
  pressAll (modCore σ L (fun c => eventsInOrder (getCore s L).sup.evq (allWait c (leftWait (getCore s L) c))))

/-! ### Issue -/

/-- Some access of the thread that REL and ORD wait for is not performed (R361, R370). -/
def relBusy (c : Core) (t : Nat) : Bool :=
  c.outs.any (fun o => match o.kind with
    | .store u _ _ _ => u.toNat == t
    | .fillStore u _ _ _ => u.toNat == t
    | .accWrite u _ _ _ _ => u.toNat == t
    | .atomic u _ _ _ _ => u.toNat == t
    | _ => false)

/-- Some earlier access or matrix work of the thread is not complete: a serializing instruction waits (R77). -/
def serialBusy (c : Core) (t : Nat) : Bool := relBusy c t || (decide (c.mtx.lease = some t) && !mtxIdle c.mtx)

/-- A fence of the thread holds the instruction back (R376). -/
def fenceHolds (h : Thread) (a : Att) : Bool := h.fences.any (fun f => f.hold.getLsbD a.obs || (f.acq && a.mem))

/-- The breakpoint that the thread's next instruction matches (R587). -/
def bpMatch (c : Core) (t : Nat) (h : Thread) : Option Nat :=
  if h.dbg.skip = some h.pc then none else
  (List.range 4).find? (fun n =>
    let b := mget Bp.off c.dbg.bp n
    b.en && decide (b.pc = h.pc) && (b.mask == 0#16 || b.mask.getLsbD t))

/-- An instruction of the thread completes without effect (R44). -/
def skipped (h : Thread) (a : Att) : Nx := if a.xfer then .xfer (h.pc + 8#64) else .seq

/-- Counts an issued instruction (R44, R591). -/
def countIssue (c : Core) (t : Nat) (a : Att) : Core :=
  let c := if frozen c then c else { c with perf := { c.perf with issued := satAdd (2 ^ 48 - 1) c.perf.issued 1 } }
  pmcEvent (pmcEvent c 0x02 (some t) 1) (0x03 + a.port) (some t) 1

/-- The thread can issue: the core runs, the thread is READY and not held inside an instruction, no fence holds it back, and the I-cache
is not being reset (R294). While the core's task is switched out, only a thread that is between a transfer and its slot goes on to its next
boundary (R480). -/
def canIssue (σ : State) (L t : Nat) (a : Att) : Bool :=
  let c := getCore σ L
  let h := getThr c t
  coreOn σ L && !c.sup.stopped && h.st == .ready && h.held == .none && h.entry.isNone && !fenceHolds h a && !c.cache.icBusy &&
    (c.sup.switching == 0 || (c.sup.switching == 1 && !atBoundary h))

/-- R62 and R72: an illegal sequence at the thread's next instruction. -/
def badSequence (h : Thread) (a : Att) : Bool :=
  let ends (l : Loop) : Bool := decide (l.lc ≠ 0#32) && decide (l.le = h.pc)
  let atEnd := ends h.loop0 || ends h.loop1
  (h.slot.isSome && (!a.inSlot || atEnd)) || (!a.atEnd && atEnd)

/-- Applies the result of an instruction's body. -/
def apply (σ : State) (L t : Nat) (r : IRes) : State :=
  match r with
  | .done σ nx => finish σ L t nx
  | .hold σ => σ
  | .wait σ w cls => modT σ L t (fun h => { h with st := .wait, wait := w, waitClasses := BitVec.ofNat 6 cls })
  | .exc σ' f => raise σ' L t f
  | .trap σ' n =>
    takeException σ' L t { cause := 0x10, int := 0, trap := n, async := false, addr := 0, detail := 0#64,
                           pc := (thrOf σ L t).pc + 4#64 }
  | .set σ => σ

/-- An error befalls a store of core L. -/
def upset (σ : State) (L : Nat) (u : Upset) : State :=
  let line (m : SMap DLine) (key : Nat) (f : DLine → DLine) : SMap DLine :=
    let l := mget DLine.empty m key
    if l.valid then mput DLine.empty key (f l) m else m
  modCore σ L (fun c => match u with
    | .context t => modThr c t.toNat (fun h => { h with ctxBad := true })
    | .control => { c with sup := { c.sup with ctrlBad := true } }
    | .tile l => if l < 512 then { c with mtx := { c.mtx with poison := insertNat l c.mtx.poison } } else c
    | .accum true => { c with mtx := { c.mtx with drn := { c.mtx.drn with bad := true } } }
    | .accum false => { c with mtx := { c.mtx with cur := { c.mtx.cur with bad := true } } }
    | .dTag key => { c with cache := { c.cache with d := line c.cache.d key (fun l => { l with tagBad := true }) } }
    | .iTag key => { c with cache := { c.cache with i := line c.cache.i key (fun l => { l with tagBad := true }) } }
    | .dWord key w fatal => { c with cache := { c.cache with
        d := line c.cache.d key (fun l => if w < 8 then { l with flips := l.flips ++ [(w, fatal)] } else l) } }
    | .iWord key w fatal => { c with cache := { c.cache with
        i := line c.cache.i key (fun l => if w < 8 then { l with flips := l.flips ++ [(w, fatal)] } else l) } }
    | .spad w true => if 8 * w < spadSize then { c with spad := { c.spad with ue := insertNat w c.spad.ue } } else c
    | .spad w false => if 8 * w < spadSize then { c with spad := { c.spad with ce := insertNat w c.spad.ce } } else c)

/-- The errors that a command brings befall core L. -/
def upsetAll (σ : State) (L : Nat) (us : List Upset) : State := us.foldl (fun σ u => upset σ L u) σ

/-- The core-stop conditions that thread t meets, which come before everything else (R114, R117). -/
def stopFirst (σ : State) (L t : Nat) : Option State :=
  if (getCore σ L).sup.ctrlBad then some (coreStop σ L 5 0)
  else if (thrOf σ L t).ctxBad then some (coreStop σ L 2 t)
  else none

/-- An instruction's body: an instruction that waits at issue is not counted (R591). -/
def runBody (σ counted : State) (L t : Nat) (body : State → Nat → Nat → IRes) : State :=
  match body σ L t with
  | .hold σ => σ
  | _ => apply counted L t (body counted L t)

/-- Thread `x.thread` of core `x.core` issues an instruction: core-stop marks, breakpoint, injection, decoding checks, condition, then
the instruction itself (R117, R44, R587). A thread that cannot issue leaves the state as it is (log 1). -/
def issue (x : Issue) (a : Att) (s0 : State) (body : State → Nat → Nat → IRes) : Host.Outcome State Fault Refusal :=
  let L := x.core.toNat
  let t := x.thread.toNat
  let s := upsetAll s0 L x.upsets
  if !canIssue s L t a then .next s else
  let c := getCore s L
  let h := getThr c t
  match stopFirst s L t with
  | some σ => .next (tidy s σ L)
  | none =>
  match bpMatch c t h, h.slot.isSome || h.shadow with
  | some n, false => .next (tidy s (debugHit s L t 1 n h.pc.toNat) L)
  | bp, _ =>
    let s1 := match bp with
      | some n => setCore s L (haltAsk c t (1, n, h.pc.toNat))
      | none => if h.dbg.skip = some h.pc then modT s L t (fun h => { h with dbg := { h.dbg with skip := none } }) else s
    if h.injPend then
      .next (if midTile c t then s else tidy s (raise s1 L t (faultOf h.injCause)) L)
    else
    let s2 := modCore s1 L (fun c => countIssue c t a)
    .next (tidy s (
      if !a.legal then raise s2 L t (faultOf 0x01)
      else if a.seqBad || badSequence h a then raise s2 L t (faultOf 0x08)
      else if !condHolds h.flags x.cond then finish s2 L t (skipped h a)
      else runBody s1 s2 L t body) L)

/-! ### Watchpoints (R588) -/

/-- An access of thread t matches a watchpoint: the hit is taken after the instruction. -/
def watch (σ : State) (L t va n : Nat) (rd wr : Bool) : State :=
  let c := getCore σ L
  let m := (List.range 4).find? (fun k =>
    let w := mget Wp.off c.dbg.wp k
    let len := 2 ^ Nat.min w.lenLog2 12
    let a := bits w.addr 47 0 / len * len
    w.en && ((w.rd && rd) || (w.wr && wr)) && (w.mask == 0#16 || w.mask.getLsbD t) && decide (a < va + n) && decide (va < a + len))
  match m with
  | some k => setCore σ L (haltAsk c t (2, k, va))
  | none => σ

/-- A watchpoint hit of the thread is pending: a long instruction stops after the matching unit. -/
def watchHit (σ : State) (L t : Nat) : Bool := (thrOf σ L t).dbg.pend.isSome

/-! ### Long instructions (R102, R103) -/

/-- The unit at which a long instruction starts. -/
def progStart (h : Thread) (major : Nat) : Nat :=
  if progAt h major then bits h.prog 31 0 else 0

/-- PROG of an instruction stopped after pos units. -/
def progWord (pc : Word) (major pos : Nat) : Word :=
  BitVec.ofNat 64 (pos + bits pc 17 2 * 2 ^ 32 + major * 2 ^ 56 + 2 ^ 63)

/-- Records progress of thread t. -/
def setProg (σ : State) (L t major pos : Nat) : State := modT σ L t (fun h => { h with prog := progWord h.pc major pos })

/-- Clears PROG. -/
def clearProg (σ : State) (L t : Nat) : State := modT σ L t (fun h => { h with prog := 0#64 })

/-- Supervisor mode of thread t. -/
def isSup (σ : State) (L t : Nat) : Bool := decide ((thrOf σ L t).mode = .supervisor)

end Sys2Proof.Machine
end

