-- ==== Sys2Proof/Machine/Flags.lean ====
section
/-! DEFINITION. The results and flags of the scalar arithmetic (R47, R81, Table: ALU functions of major 0x01). A flag computation keeps
the predicates of the thread. -/

namespace Sys2Proof.Machine

/-- A result with the flags N, Z, C, V that S = 1 writes. -/
structure Alu where
  val : Word
  c : Bool
  v : Bool
  deriving DecidableEq, Repr

/-- Flags of a result: N and Z from it, C and V as computed; P0 and P1 stay (R46). -/
def setNZCV (f : Flags) (r : Alu) : Flags :=
  { f with n := r.val.msb, z := decide (r.val = 0#64), c := r.c, v := r.v }

/-- Addition: C is the carry out of bit 63, V signed overflow (R47). -/
def aluAdd (a b : Word) : Alu :=
  { val := a + b, c := decide (2 ^ 64 ≤ a.toNat + b.toNat),
    v := decide (a.toInt + b.toInt < -2 ^ 63) || decide (2 ^ 63 ≤ a.toInt + b.toInt) }

/-- Subtraction: C is set when no borrow occurs, V on signed overflow (R47). -/
def aluSub (a b : Word) : Alu :=
  { val := a - b, c := decide (b.toNat ≤ a.toNat),
    v := decide (a.toInt - b.toInt < -2 ^ 63) || decide (2 ^ 63 ≤ a.toInt - b.toInt) }

/-- A result whose C and V are cleared. -/
def aluPlain (v : Word) : Alu := { val := v, c := false, v := false }

/-- Shifts by n = count mod 64: C is the last bit out, 0 for a count of 0; V cleared. -/
def aluShl (a : Word) (n : Nat) : Alu := { val := a <<< n, c := decide (n ≠ 0) && a.getLsbD (64 - n), v := false }
def aluShr (a : Word) (n : Nat) : Alu := { val := a >>> n, c := decide (n ≠ 0) && a.getLsbD (n - 1), v := false }
def aluSar (a : Word) (n : Nat) : Alu := { val := a.sshiftRight n, c := decide (n ≠ 0) && a.getLsbD (n - 1), v := false }

/-- Low 64 bits of the product; V on signed overflow; C cleared. -/
def aluMul (a b : Word) : Alu :=
  { val := a * b, c := false, v := decide (a.toInt * b.toInt < -2 ^ 63) || decide (2 ^ 63 ≤ a.toInt * b.toInt) }

/-- High 64 bits of the product, signed and unsigned. -/
def mulHi (a b : Word) : Word := BitVec.ofInt 64 ((a.toInt * b.toInt) / 2 ^ 64)
def mulHiU (a b : Word) : Word := BitVec.ofNat 64 (a.toNat * b.toNat / 2 ^ 64)

/-- V of a division (R81): by zero, or −2⁶³ by −1 for the signed forms. -/
def divV (a b : Word) (signed : Bool) : Bool :=
  decide (b = 0#64) || (signed && decide (a = 0x8000000000000000#64) && decide (b = 0xFFFFFFFFFFFFFFFF#64))

/-- Division and remainder (R81): by zero the quotient is all ones and the remainder rs1; −2⁶³ by −1 gives −2⁶³ and 0. -/
def aluDiv (a b : Word) : Alu :=
  { val := if b = 0#64 then 0xFFFFFFFFFFFFFFFF#64 else a.sdiv b, c := false, v := divV a b true }
def aluDivu (a b : Word) : Alu := { val := if b = 0#64 then 0xFFFFFFFFFFFFFFFF#64 else a / b, c := false, v := divV a b false }
def aluRem (a b : Word) : Alu := { val := if b = 0#64 then a else a.srem b, c := false, v := divV a b true }
def aluRemu (a b : Word) : Alu := { val := if b = 0#64 then a else a % b, c := false, v := divV a b false }

/-- Leading zeros, trailing zeros and ones of a word: 64 zeros for 0. -/
def clzW (a : Word) : Nat := ((List.range 64).takeWhile (fun i => !a.getLsbD (63 - i))).length
def ctzW (a : Word) : Nat := ((List.range 64).takeWhile (fun i => !a.getLsbD i)).length
def popW (a : Word) : Nat := ((List.range 64).filter (fun i => a.getLsbD i)).length

/-- The comparison that `pcmp` writes to a predicate: condition codes 0x1 to 0xA on the flags of rs1 − rs2. -/
def cmpHolds (cc : BitVec 4) (a b : Word) : Bool := condHolds (setNZCV Flags.zero (aluSub a b)) cc

end Sys2Proof.Machine
end

