-- ==== Sys2Proof/Machine/Operands.lean ====
section
/-! DEFINITION. Operand forms: registers and immediates of the formats A, I, M and U, the address forms of the accesses, and the shapes
of scalar instructions over them. -/

namespace Sys2Proof.Machine

/-- A sign-extended immediate. -/
def sext {n : Nat} (i : BitVec n) : Word := i.signExtend 64

/-- Address of format M: rs1 + imm9 × size (R57). -/
def addrM (base : Word) (imm : BitVec 9) (size : BitVec 2) : Word := base + sext imm * BitVec.ofNat 64 (2 ^ size.toNat)

/-- Address of `ldx` and `stx`: rs1 + rs2, or rs1 + rs2 × size. -/
def addrX (a b : Word) (size : BitVec 2) (scale : Bool) : Word :=
  a + (if scale then b * BitVec.ofNat 64 (2 ^ size.toNat) else b)

/-- IO address of `in` and `out`: (rs1 + unsigned imm12) mod 2¹⁶. -/
def addrIo (a : Word) (imm : BitVec 12) : Nat := (a.toNat + imm.toNat) % 65536

/-- Target of a branch: displacement in words from the branch (R61). -/
def branchTarget (pc : Word) (disp : BitVec 22) : Word := pc + sext disp * 4#64

/-- Writes a result to rd, and its flags with S = 1 (R46). -/
def writeAlu (σ : State) (L t : Nat) (rd : BitVec 5) (s : Bool) (r : Alu) : State :=
  modT σ L t (fun h => { setG h rd.toNat r.val with flags := if s then setNZCV h.flags r else h.flags })

/-- A register-form ALU instruction. -/
def aluR (x : Issue) (rd rs1 rs2 : BitVec 5) (s : Bool) (f : Word → Word → Alu) (σ : State) : Host.Outcome State Fault Refusal :=
  issue x attAlu σ (fun σ L t => .done (writeAlu σ L t rd s (f (rg σ L t rs1) (rg σ L t rs2))) .seq)

/-- An immediate-form ALU instruction. -/
def aluI (x : Issue) (rd rs1 : BitVec 5) (i : Word) (s : Bool) (f : Word → Word → Alu) (σ : State) : Host.Outcome State Fault Refusal :=
  issue x attAlu σ (fun σ L t => .done (writeAlu σ L t rd s (f (rg σ L t rs1) i)) .seq)

end Sys2Proof.Machine
end

