-- ==== Sys2Proof/Machine/Commands.lean ====
section
/-! DEFINITION. Commands that registers give to threads (Table: thread commands), stream slots (R262), DMA channels (R400), the caches
(R280–R290), the TLB, the forward queue (R309) and the debugger (R581–R586). -/

namespace Sys2Proof.Machine

/-! ### Threads -/

/-- A command that the thread's state does not permit (R89). -/
def cmdIgnored (σ : State) (L n : Nat) : State := modT σ L n (fun h => { h with cmdIgnored := true })

/-- The thread that START starts. -/
def startedThread (h : Thread) : Thread :=
  setG { h with
    regs := [], flags := Flags.zero, loop0 := Loop.zero, loop1 := Loop.zero, prog := 0#64, mode := h.startMode, ae := h.startAE,
    st := .ready, lrs := false, nest := 0, fsr := Fsr.reset, slot := none, shadow := false, wait := .none, waitClasses := 0#6,
    held := .none, injPend := false, stopPend := false, acc := [], entry := none } 31 h.thrSp

/-- The killed thread: staged words and the progress record discarded, XLT_FSR cleared (R149, R313). -/
def killedThread (h : Thread) : Thread :=
  { h with st := .free, wait := .none, waitClasses := 0#6, held := .none, staged := [], stagedN := 0, lrs := false,
           prog := 0#64, acc := [], entry := none, fsr := Fsr.reset, injPend := false, stopPend := false, dbg := { pend := none, stepping := false, skip := none, group := false } }

/-- KILL of thread n: the lease goes once the engine is idle (R149). -/
def killThread (σ : State) (L n : Nat) : State :=
  modCore σ L (fun c =>
    let c := modThr c n killedThread
    if c.mtx.lease = some n then { c with mtx := { c.mtx with dying := true } } else c)

/-- RESUME with LRS = 1 (R594). -/
def resumeLrs (σ : State) (L n : Nat) : State :=
  let o := 0x7F800 + 128 * n
  let σ := spadMeet σ L o 128
  let c := getCore σ L
  let w := wordsOf 16 (readBytes c.spad.mem o 128)
  let bad := badIn c.spad.ue o 128
  if !bad.isEmpty then cmdIgnored (bad.foldl (fun σ k => noteSpadUE σ L (8 * k)) σ) L n
  else if frameMisaligned w then cmdIgnored σ L n
  else modT σ L n (fun h => { restoreThread h w with st := .ready, lrs := false, nest := h.nest })

/-- Performs a thread command (Table: thread commands); thread 0 takes none (R85). INJECT with INJ_CAUSE 0x15 is performed as the THR_CTL
table lists it, although Table: cause codes says that no thread takes 0x15 (log 48). -/
def threadCmd (σ : State) (L n cmd : Nat) : State :=
  let h := thrOf σ L n
  if cmd = 0 then σ
  else if n = 0 then cmdIgnored σ L n
  else match cmd, h.st with
  | 1, .free | 1, .stopped => modT σ L n startedThread
  | 2, .ready =>
    if mayStop (getCore σ L) n && h.held != .none then modT σ L n (fun h => { h with st := .stopped, held := .none, acc := [] })
    else modT σ L n (fun h => { h with stopPend := true })
  | 2, .wait | 2, .faultWait => modT σ L n (fun h => { h with st := .stopped, wait := .none, waitClasses := 0#6 })
  | 3, .coreStopped => cmdIgnored σ L n
  | 3, _ => killThread σ L n
  | 4, .faultWait => modT σ L n (fun h => { h with st := .ready, wait := .none })
  | 5, .ready | 5, .wait | 5, .faultWait =>
    if 1 ≤ h.injCause ∧ h.injCause ≤ 0x15 then
      modT σ L n (fun h => { h with st := .ready, wait := .none, waitClasses := 0#6, injPend := true })
    else cmdIgnored σ L n
  | 6, .stopped => if h.lrs then resumeLrs σ L n else modT σ L n (fun h => { h with st := .ready })
  | _, _ => cmdIgnored σ L n

/-- An `out` to THR_CTLn by thread t: the fields, then the command. A STOP of another thread that is between instructions is taken at
once. -/
def thrCtlWrite (σ : State) (L t n : Nat) (v : Word) : State :=
  let σ := modT σ L n (fun h => { h with
    startMode := if bit v 3 then .supervisor else .user, startAE := bit v 4, ae := bit v 5, injCause := bits v 15 8,
    doorbellEn := bit v 16, timerEn := bit v 17 })
  let σ := threadCmd σ L n (bits v 2 0)
  if n ≠ t ∧ bits v 2 0 = 2 then boundary σ L n else σ

/-! ### Stream slots (R262, R313) -/

/-- Cancels the outstanding forward of a unit source (R313). -/
def cancelForward (σ : State) (L source : Nat) : State :=
  modCore σ L (fun c => { c with xlt := { c.xlt with unitOut := eraseNat source c.xlt.unitOut } })

/-- Forgets the requests of a slot in flight. -/
def dropSlotOuts (c : Core) (s : Nat) : Core :=
  { c with outs := c.outs.filter (fun o => match o.kind with
      | .stream sl _ _ _ _ => sl.toNat != s
      | _ => true) }

/-- FLUSH of a slot. -/
def slotFlush (σ : State) (L s : Nat) : State :=
  cancelForward (modCore σ L (fun c =>
    let q := getSlot c s
    dropSlotOuts (setSlot c s { Slot.reset with cmdIgnored := q.cmdIgnored, err := q.err, creditReason := q.creditReason }) s))
    L (20 + s)

/-- Performs a slot command; `sup` is supervisor mode. -/
def slotCmd (σ : State) (L s cmd : Nat) (sup : Bool) : State :=
  let ignored := modSlot σ L s (fun q => { q with cmdIgnored := true })
  let st := (getSlot (getCore σ L) s).st
  let mayGo := st == 2 || (decide (3 ≤ st) && sup)
  match cmd with
  | 0 => σ
  | 1 => if st = 1 then slotStop σ L s else ignored
  | 2 => if mayGo then modSlot σ L s (fun q => { q with st := 1 }) else ignored
  | 3 =>
    if mayGo then
      let σ := cancelForward (slotNext (modCore σ L (fun c => dropSlotOuts c s)) L s) L (20 + s)
      modSlot σ L s (fun q => { q with st := if q.queue.isEmpty then 0 else 1 })
    else ignored
  | 4 => if st = 0 then σ else slotFlush σ L s
  | _ => ignored

/-! ### DMA channels (R400) -/

/-- Starts the descriptor copy that the channel holds: the checks of R387. -/
def chanStart (σ : State) (L c : Nat) : State :=
  let q := getChan (getCore σ L) c
  match ddCheck σ L q.issuerMode q.desc with
  | 0 => modChan σ L c (fun q => { q with
      started := true, err := 0, nxt := 0, pos := 0, crc := 0xFFFFFFFF#32, crcUpTo := 0, crcBuf := [], got := [], descRetries := 0,
      unit := [], fails := [], again := [], credit := .none, creditFrom := 0 })
  | e => chanFault (modChan σ L c (fun q => { q with pos := 0, crc := 0xFFFFFFFF#32, descRetries := 0, err := e, errAddr := q.cur }))
      L c 3 0x14 e 2

/-- Leaves the running descriptor: to the next under LINK, else IDLE. -/
def chanLeave (σ : State) (L c : Nat) : State :=
  modChan σ L c (fun q =>
    let q' := { q with
      started := false, pos := 0, nxt := 0, got := [], unit := [], again := [], crcBuf := [], credit := .none, stopping := none,
      aborting := false }
    if !q.desc.isEmpty && ddLink q.desc then { q' with st := 1, cur := ddNext q.desc, desc := [] } else { q' with st := 0, desc := [] })

/-- Performs a channel command; `sup` is supervisor mode. -/
def chanCmd (σ : State) (L c cmd : Nat) (sup : Bool) : State :=
  let ignored := modChan σ L c (fun q => { q with cmdIgnored := true })
  let q := getChan (getCore σ L) c
  let mayGo := q.st == 2 || (decide (3 ≤ q.st) && sup)
  match cmd with
  | 0 => σ
  | 1 => if q.st = 1 then chanStop σ L c false else ignored
  | 2 =>
    if mayGo then
      let σ := modChan σ L c (fun q => { q with st := 1, fails := if q.st = 2 then q.fails else [] })
      if q.desc.isEmpty || q.started then σ else chanStart σ L c
    else ignored
  | 3 =>
    if mayGo then cancelForward (chanLeave (chanWriteBack σ L c 7 false (crcAt q q.pos) q.pos) L c) L (16 + c)
    else ignored
  | 4 =>
    if q.st = 1 then chanStop σ L c true
    else if mayGo then cancelForward (chanAbort σ L c) L (16 + c)
    else ignored
  | _ => ignored

/-! ### Translation (R306, R309) -/

/-- The four words of a thread's fault record (Table: fault record). -/
def threadRecord (σ : State) (L t : Nat) (f : Fsr) (seq : BitVec 8) (va : BitVec 48) : FaultRec :=
  let p := (getCore σ L).sup.pair
  { w0 := va.zeroExtend 64,
    w1 := BitVec.ofNat 64 (f.reason + f.level * 16 + b2n f.write * 64 + b2n f.fetch * 128 + t * 256 + L * 2 ^ 16 +
      p.tag.toNat * 2 ^ 32 + p.gen.toNat * 2 ^ 44 + moduleId σ * 2 ^ 48 + seq.toNat * 2 ^ 56),
    w2 := f.pc.zeroExtend 64 }

/-- Forwards the fault of thread t with a VA (R309, R314). -/
def forwardThread (σ : State) (L t : Nat) (va : BitVec 48) (cntEn : Bool) (cnt : BitVec 6) : State :=
  let f := (thrOf σ L t).fsr
  let seq := f.seq + 1#8
  let f' := { f with outstanding := true, replied := false, cntEn := cntEn, cnt := cnt, seq := seq, va := va }
  let σ := modT σ L t (fun h => { h with fsr := f' })
  let σ := modCore σ L (fun c => { c with xlt := { c.xlt with forwards := satAdd 0xFFFFFFFF c.xlt.forwards 1 } })
  sendTo σ (.core L) .disp (.faultRecord (threadRecord σ L t f seq va) t)

/-- An `out` to XLT_FWD. -/
def fwdWrite (σ : State) (L : Nat) (v : Word) : State :=
  let t := bits v 51 48
  let f := (thrOf σ L t).fsr
  if f.reason = 0 ∨ f.outstanding = true then
    modCore σ L (fun c => { c with xlt := { c.xlt with fwdIgnored := true } })
  else forwardThread σ L t (BitVec.ofNat 48 (bits v 47 0)) (bit v 52) (BitVec.ofNat 6 (bits v 58 53))

/-- An `out` to TLB_INV. -/
def tlbInvWrite (σ : State) (L : Nat) (v : Word) : State :=
  modCore σ L (fun c => { c with xlt := match bits v 1 0 with
    | 1 => tlbRemove c.xlt (bits v 47 12 * 4096) 1
    | 2 => tlbClear c.xlt
    | _ => c.xlt })

/-! ### The debugger (R581–R586, R590) -/

/-- Halt requests for threads of a mask with KIND 4 (DBG_HALT, which does not reach thread 0) or 5 (DEBUG group); `self` is the thread
that writes the request. -/
def dbgHalt (σ : State) (L mask kind : Nat) (self : Option Nat) : State :=
  (List.range 16).foldl (fun σ n =>
    if !nbit mask n || (n == 0 && kind == 4) then σ else
    let h := thrOf σ L n
    match h.st with
    | .ready => if some n = self ∨ mayStop (getCore σ L) n = false then modCore σ L (fun c => haltAsk c n (kind, 0, 0)) else haltThread σ L n kind 0 0
    | .wait => haltThread σ L n kind 0 0
    | _ => modCore σ L (fun c => { c with dbg := { c.dbg with ignored := true } })) σ

/-- RESUME to the units that R583 stopped. -/
def unitsResume (σ : State) (L : Nat) : State :=
  let us := (getCore σ L).dbg.stopped
  let σ := us.foldl (fun σ u => if u < 8 then slotCmd σ L u 2 true else chanCmd σ L (u - 8) 2 true) σ
  modCore σ L (fun c => { c with dbg := { c.dbg with stopped := [] } })

/-- Resumes, or steps, the halted threads of a mask (R585). -/
def dbgGo (σ : State) (L mask : Nat) (step group : Bool) : State :=
  (List.range 16).foldl (fun σ n =>
    if !nbit mask n || (n == 0 && !group) then σ else
    match (thrOf σ L n).st with
    | .halted => unitsResume (modT σ L n (fun h => { h with st := .ready, dbg := { h.dbg with stepping := step } })) L
    | _ => modCore σ L (fun c => { c with dbg := { c.dbg with ignored := true } })) σ

/-- An `out` to DBG_HALT by thread t. -/
def dbgHaltWrite (σ : State) (L t : Nat) (v : Word) : State :=
  let stepM := bits v 47 32
  let goM := bits v 31 16 &&& (65535 - stepM)
  dbgGo (dbgGo (dbgHalt σ L (bits v 15 0) 4 (some t)) L goM false false) L stepM true false

/-- The selected thread can be reached through DBG_DATA (R590). -/
def dbgReach (h : Thread) : Bool := h.st == .halted || h.st == .stopped || h.st == .free

/-- The register that DBG_SEL names. -/
def dbgGet (h : Thread) (r : Nat) : Word :=
  if r < 0x20 then greg h r
  else if r = 0x20 then h.pc
  else if r = 0x21 then BitVec.ofNat 64 (flagsWord h.flags)
  else if r = 0x22 then h.prog
  else if r = 0x23 then BitVec.ofNat 64 (h.loop0.lc.toNat + h.loop1.lc.toNat * 2 ^ 32)
  else if r = 0x24 then h.loop0.ls
  else if r = 0x25 then h.loop0.le
  else if r = 0x26 then h.loop1.ls
  else if r = 0x27 then h.loop1.le
  else if r < 0x30 then mget 0#64 h.staged (r - 0x28)
  else if r = 0x30 then BitVec.ofNat 64 h.stagedN
  else if 0x40 ≤ r ∧ r < 0x140 then
    BitVec.ofNat 64 ((vreg h ((r - 0x40) / 16)).toNat / 2 ^ (64 * ((r - 0x40) % 16)))
  else 0#64

/-- Writes the register that DBG_SEL names; none where the write is refused. -/
def dbgPut (h : Thread) (r : Nat) (v : Word) : Option Thread :=
  if r < 0x20 then some (setG h r v)
  else if r = 0x20 then (if bits v 1 0 = 0 then some { h with pc := v } else none)
  else if r = 0x21 then some { h with flags := flagsOf v.toNat }
  else if r = 0x22 then some { h with prog := v }
  else if r = 0x23 then some { h with loop0 := { h.loop0 with lc := BitVec.ofNat 32 (bits v 31 0) },
                                      loop1 := { h.loop1 with lc := BitVec.ofNat 32 (bits v 63 32) } }
  else if r = 0x24 then some { h with loop0 := { h.loop0 with ls := v } }
  else if r = 0x25 then some { h with loop0 := { h.loop0 with le := v } }
  else if r = 0x26 then some { h with loop1 := { h.loop1 with ls := v } }
  else if r = 0x27 then some { h with loop1 := { h.loop1 with le := v } }
  else if r < 0x30 then some { h with staged := mput 0#64 (r - 0x28) v h.staged }
  else if r = 0x30 then (if v.toNat ≤ 8 then some { h with stagedN := v.toNat } else none)
  else if 0x40 ≤ r ∧ r < 0x140 then
    let k := (r - 0x40) / 16
    let sh := 64 * ((r - 0x40) % 16)
    let old := vreg h k
    some (setV h k ((old &&& ~~~(0xFFFFFFFFFFFFFFFF#1024 <<< sh)) ||| (v.zeroExtend 1024 <<< sh)))
  else some h

/-- An `in` of DBG_DATA. -/
def dbgDataRead (σ : State) (L : Nat) : State × Word :=
  let c := getCore σ L
  let h := getThr c c.dbg.selThread
  if dbgReach h then (σ, dbgGet h c.dbg.selReg)
  else (setCore σ L { c with dbg := { c.dbg with selErr := true } }, 0#64)

/-- An `out` to DBG_DATA. -/
def dbgDataWrite (σ : State) (L : Nat) (v : Word) : State :=
  let c := getCore σ L
  let h := getThr c c.dbg.selThread
  match (if dbgReach h then dbgPut h c.dbg.selReg v else none) with
  | some h => setCore σ L (setThr c c.dbg.selThread h)
  | none => setCore σ L { c with dbg := { c.dbg with selErr := true } }

/-! ### Tally and performance counters -/

/-- Zeroes tally set s and clears its OVERFLOW (TALLY_SEL.CLEAR). -/
def tallyClear (m : Mtx) (s : Nat) : Mtx :=
  { m with tally := m.tally.filter (fun p => p.1 / 40 != s),
           tallyCfg := mmod TallyCfg.reset s (fun k => { k with ovf := false }) m.tallyCfg }

/-- Zeroes every tally set (TALLY_SEL.CLEAR_ALL). -/
def tallyClearAll (m : Mtx) : Mtx := (List.range 8).foldl tallyClear m

/-- An `out` to TALLY_SEL. -/
def tallySelWrite (m : Mtx) (v : Word) : Mtx :=
  let m := { m with tallySel := bits v 2 0 }
  let m := if bit v 8 then tallyClear m (bits v 2 0) else m
  if bit v 9 then tallyClearAll m else m

/-- An `out` to MTX_SEED (R184): new lanes under a new epoch. -/
def seedWrite (m : Mtx) (v : Word) : Mtx :=
  let s := BitVec.ofNat 32 (bits v 31 0)
  { m with seed := s, epoch := m.epoch + 1, lanes := m.lanes ++ [(m.epoch + 1, (List.range 64).map (laneSeed s))] }

/-- An `out` to PMC_CFGn. -/
def pmcCfgWrite (p : Perf) (n : Nat) (v : Word) : Perf :=
  { p with pmc := mmod Pmc.off n (fun x => { x with
      event := bits v 7 0, mask := BitVec.ofNat 16 (bits v 23 8), en := bit v 24, count := if bit v 25 then 0 else x.count }) p.pmc }

/-- An `out` to PMC_CTL. -/
def pmcCtlWrite (p : Perf) (v : Word) : Perf :=
  let p := { p with freeze := bit v 0, freezeOnHalt := bit v 1 }
  if bit v 2 then
    { p with pmc := (List.range 8).foldl (fun m n => mmod Pmc.off n (fun x => { x with count := 0 }) m) p.pmc,
             cycles := 0, issued := 0, slotw := [], spadCorr := 0, spadUe := 0, dropMsg := 0, dropSig := 0, dropPress := 0 }
  else p

end Sys2Proof.Machine
end

