-- ==== Sys2Proof/Machine/IoSpace.lean ====
section
/-! DEFINITION. IO-space (R54–R56): the register map of a core, what an `in` reads and clears, what an `out` writes. A reserved field reads
as zero, and a write to it is ignored (R11). -/

namespace Sys2Proof.Machine

/-! ### Views -/

/-- Number of a thread state (Table: thread states). -/
def tsNum (s : TState) : Nat :=
  match s with
  | .free => 0
  | .ready => 1
  | .wait => 2
  | .faultWait => 3
  | .stopped => 4
  | .halted => 5
  | .coreStopped => 6

/-- THR_STAT. -/
def thrStat (c : Core) (n : Nat) : Word :=
  let h := getThr c n
  w64 (tsNum h.st + fl (b2n (decide (h.mode = .supervisor))) 3 + fl (b2n h.ae) 4 + fl (b2n h.lrs) 5 +
    fl (b2n (decide (c.mtx.lease = some n))) 6 + fl (b2n h.cmdIgnored) 7 + fl h.lastCause 8 + fl h.waitClasses.toNat 16 +
    fl (b2n h.pendDoorbell) 24 + fl (b2n h.pendTimer) 25 + fl h.nest 32)

/-- RING_CFG. -/
def ringCfg (r : Ring) : Word :=
  w64 (r.base + fl r.sizeLog2 22 + fl (b2n r.enable) 27 + fl (b2n r.pause) 28 + fl (b2n r.discard) 29 + fl (b2n r.stallEv) 30 +
    fl (b2n r.arrCntEn) 31 + fl r.arrCnt.toNat 32)

/-- RING_PTR. -/
def ringPtr (r : Ring) : Word := w64 (r.head + fl r.tail 18 + fl r.msgs 36)

/-- RING_STAT. -/
def ringStat (r : Ring) : Word :=
  w64 (r.staleDrops + fl r.cancelDrops 32 + fl (b2n r.stalled) 48 + fl (b2n r.parked.isSome) 49 + fl r.cfgErr 50)

/-- WAITERS of counter k. -/
def scWaiters (c : Core) (k : Nat) : Nat :=
  ((List.range 16).filter (fun t =>
    let h := getThr c t
    h.st == .wait && (match h.wait with
      | .counter n _ _ _ => n.toNat == k
      | _ => false))).foldl (fun a t => a + 2 ^ t) 0

/-- SCn. -/
def scReg (c : Core) (k : Nat) : Word :=
  let x := getSc c k
  w64 (x.value + fl (scWaiters c k) 32 + fl (b2n x.loc) 48 + fl (b2n x.ovf) 49 + fl (b2n x.under) 50 + fl x.staleSig 56)

/-- ST_STAT. -/
def stStat (c : Core) (s : Nat) : Word :=
  let q := getSlot c s
  let seg := match q.queue with
    | d :: _ => if sdKind d.w = 1 then 0 else q.rel % sdSegs d.w
    | [] => 0
  let issuer := match q.queue with
    | d :: _ => d.thread.toNat
    | [] => 0
  w64 (q.st + fl q.queue.length 3 + fl (b2n q.early) 6 + fl q.err 7 + fl seg 11 + fl (slotAvail c s) 16 + fl q.creditReason 21 +
    fl issuer 25 + fl (b2n q.cmdIgnored) 29 + fl (slotOuts c s).length 32)

/-- ST_POS: elements known written; a block counts 64. -/
def stPos (c : Core) (s : Nat) : Nat :=
  match (getSlot c s).queue with
  | d :: _ => if sdTr d.w then 64 * slotPos c s else slotPos c s
  | [] => slotPos c s

/-- DMA_STAT. -/
def dmaStat (c : Core) (k : Nat) : Word :=
  let q := getChan c k
  w64 (q.st + fl q.err 3 + fl q.creditReason 7 + fl q.issuer.toNat 11 + fl (b2n (decide (q.issuerMode = .supervisor))) 15 +
    fl (b2n q.cmdIgnored) 16 + fl (chanOuts c k).length 17 + fl q.chainDone 32)

/-- Locked ways. -/
def lockedWays (k : Caches) : Nat := (k.d.filter (fun p => p.2.locked)).length

/-- XLT_FSR. -/
def fsrReg (f : Fsr) : Word :=
  w64 (f.reason + fl f.level 4 + fl (b2n f.write) 6 + fl (b2n f.fetch) 7 + fl (b2n f.outstanding) 8 + fl (b2n f.replied) 9 +
    fl (b2n f.result) 10 + fl (b2n f.cntEn) 11 + fl f.cnt.toNat 12 + fl f.seq.toNat 18)

/-- FWD_STAT.OUTSTANDING. -/
def fwdOut (c : Core) : Nat :=
  ((List.range 16).filter (fun t => (getThr c t).fsr.outstanding)).foldl (fun a t => a + 2 ^ t) 0 +
    c.xlt.unitOut.foldl (fun a u => a + 2 ^ u) 0

/-- MTX_STAT. -/
def mtxStat (m : Mtx) : Word :=
  w64 (b2n m.lease.isSome + fl (m.lease.getD 0) 1 + fl m.layout 5 + fl (b2n (!mtxIdle m)) 7 + fl m.queue.length 8 + fl m.shapeErr 12 +
    fl (m.waiters.foldl (fun a t => a + 2 ^ t) 0) 16 + fl m.poisonRows 32)

/-- A tag as MTX_ACC shows it. -/
def tagBits (t : Tag) : Nat := t.type + fl (t.m - 1) 2 + fl (t.n - 1) 8

/-- MTX_ACC, of the instructions issued so far. -/
def mtxAcc (m : Mtx) : Word := w64 (tagBits m.curI + fl (tagBits m.drnI) 16)

/-- TALLY_CFG. -/
def tallyCfgReg (t : TallyCfg) : Word := w64 (t.base.toNat + fl (b2n t.hold) 8 + fl (b2n t.ovf) 9)

/-- STAGE_STAT. -/
def stageStat (c : Core) : Word := w64 ((List.range 16).foldl (fun a t => a + fl (getThr c t).stagedN (4 * t)) 0)

/-- DBG_STAT.HALTED. -/
def haltedMask (c : Core) : Nat := ((List.range 16).filter (fun t => (getThr c t).st == .halted)).foldl (fun a t => a + 2 ^ t) 0

/-- DBG_HIT. -/
def hitReg (h : Hit) : Word := w64 (b2n h.valid + fl h.thread 1 + fl h.kind 5 + fl h.index 8 + fl (h.addr % 2 ^ 48) 16)

/-- FEAT0–FEAT7 (R82). -/
def featReg (σ : State) (L i : Nat) : Word :=
  let p := posOf σ L
  match i with
  | 0 => w64 (L + fl (p % 128) 16 + fl (p / 128) 24 + fl ((p % 128) / 16) 32 + fl (regionOf p) 35 + fl (clusterOf p) 40)
  | 1 => w64 (gradeOf σ + fl 16 16 + fl 4 24 + fl (moduleId σ % 256) 32 + fl (nbits σ.fab.dims 2 0) 40 +
      fl (nbits σ.fab.dims 5 3) 43 + fl (nbits σ.fab.dims 7 6) 46)
  | 2 => w64 (512 + fl 2048 16 + fl 16 32 + fl 32 40 + fl 3 48 + fl 8 52)
  | 3 => w64 (32 + fl 64 8 + fl 4 16 + fl 6 20 + fl 16 24 + fl 4096 32)
  | 4 => w64 (4 + fl 8 4 + fl 5 8 + fl 16 12 + fl 64 20 + fl 8 28 + fl 40 32 + fl 2 40 + fl 16 44 + fl 8 52)
  | 5 => w64 (0x3FF + fl 1 16 + fl 1 17)
  | 6 => w64 (800 + fl 1200 16 + fl 25 32)
  | _ => w64 (0x16F3 + fl 0x0D01 16 + fl 0x01 32 + fl 0x01 40)

/-! ### Reading -/

/-- An `in` of a register of 0x0000–0x02FF by thread t (none: the debug group). -/
def ioReadThr (σ : State) (L : Nat) (t : Option Nat) (a : Nat) : State × Word :=
  let c := getCore σ L
  let s := c.sup
  if a < 0x200 then
    let n := a / 32
    let h := getThr c n
    match a % 32 / 8 with
    | 0 => (σ, w64 (fl (b2n (decide (h.startMode = .supervisor))) 3 + fl (b2n h.startAE) 4 + fl (b2n h.ae) 5 + fl h.injCause 8 +
        fl (b2n h.doorbellEn) 16 + fl (b2n h.timerEn) 17))
    | 1 => (setCore σ L (setThr c n { h with cmdIgnored := false }), thrStat c n)
    | 2 => (σ, w64 (bits (if t = some n then (advance h .seq).pc else h.pc) 47 2 * 4))
    | _ => (σ, h.thrSp)
  else if a = 0x200 then (σ, s.vbar)
  else if a = 0x208 then (σ, w64 (s.wdPeriod + fl (b2n s.wdEnable) 16))
  else if a = 0x218 then (setCore σ L { c with sup := { s with coalesced := 0 } }, w64 (s.evq.length + fl s.coalesced 16))
  else if a = 0x220 then
    (setCore σ L { c with sup := { s with evq := s.evq.drop 1 } }, s.evq.headD 0#64)
  else if a = 0x228 then (σ, w64 (s.tmInterval + fl s.tmThread 32 + fl (b2n s.tmEnable) 36 + fl (b2n s.tmPeriodic) 37))
  else if a = 0x230 then (σ, w64 (s.stopSub + fl s.stopThread 4))
  else if a = 0x238 then (setCore σ L { c with sup := { s with allwaitCount := 0 } }, w64 s.allwaitCount)
  else if 0x240 ≤ a ∧ a < 0x2C0 then (σ, (getThr c ((a - 0x240) / 8)).stackLimit)
  else (σ, 0#64)

/-- An `in` of 0x0400–0x09FF. -/
def ioReadUnit (σ : State) (L a : Nat) : State × Word :=
  let c := getCore σ L
  if a < 0x580 then
    let r := (a - 0x400) / 0x18
    let q := getRing c r
    match (a - 0x400) % 0x18 / 8 with
    | 0 => (σ, ringCfg q)
    | 1 => (σ, ringPtr q)
    | _ => (setCore σ L (setRing c r { q with staleDrops := 0, cancelDrops := 0 }), ringStat q)
  else if a < 0x600 then (σ, ringHead c (getRing c ((a - 0x580) / 8)))
  else if a < 0x800 then
    let k := (a - 0x600) / 8
    (setCore σ L (setSc c k { getSc c k with staleSig := 0 }), scReg c k)
  else if a < 0x8C0 then
    let s := (a - 0x800) / 0x18
    match (a - 0x800) % 0x18 / 8 with
    | 0 => (setCore σ L (setSlot c s { getSlot c s with cmdIgnored := false }), stStat c s)
    | 1 => (σ, w64 (stPos c s))
    | _ => (σ, 0#64)
  else if a = 0x8C0 then (σ, w64 (c.stallMask.toNat + fl (b2n c.stallFreeze) 9))
  else if a < 0x900 then (σ, w64 (mget 0 c.stalls ((a - 0x8C8) / 8)))
  else
    let k := (a - 0x900) / 0x40
    let q := getChan c k
    match (a - 0x900) % 0x40 / 8 with
    | 0 => (setCore σ L (setChan c k { q with cmdIgnored := false }), dmaStat c k)
    | 1 => (σ, w64 (chanPos c k))
    | 2 => (σ, w64 q.cur)
    | 4 => (σ, w64 (q.cfgLimit + fl q.cfgGap 4))
    | 5 => (σ, w64 (q.errAddr % 2 ^ 48 + fl q.errCause 48))
    | 6 => (setCore σ L (setChan c k { q with retries := 0, halts := 0 }), w64 (q.retries + fl q.halts 32))
    | _ => (σ, 0#64)

/-- An `in` of 0x0A00–0x0BFF. -/
def ioReadXlt (σ : State) (L a : Nat) : State × Word :=
  let c := getCore σ L
  let k := c.cache
  let x := c.xlt
  if a = 0xA00 then (σ, w64 k.cmoAddr)
  else if a = 0xA08 then (σ, w64 k.cmoLen)
  else if a = 0xA18 then (σ, w64 (k.cmoResult + fl k.cmoLines 16 + fl k.cmoWb 32))
  else if a = 0xA20 then (setCore σ L { c with cache := { k with lockDrops := 0 } }, w64 (lockedWays k + fl k.lockDrops 16))
  else if a = 0xA28 then (σ, w64 (b2n k.pfEnable + fl k.pfDepthM1 1 + fl (b2n k.pfShared) 3))
  else if a = 0xA30 then (setCore σ L { c with cache := { k with dirtyDiscards := 0 } }, w64 (k.side.length + fl k.dirtyDiscards 16))
  else if a = 0xA38 then
    (setCore σ L { c with cache := { k with dcCorr := 0, dcUe := 0, tagPar := 0, icErr := 0 } },
     w64 (k.dcCorr + fl k.dcUe 16 + fl k.tagPar 32 + fl k.icErr 48))
  else if a = 0xA40 then (σ, w64 (b2n k.dcBusy + fl (b2n k.icBusy) 1))
  else if a = 0xB00 then (σ, x.root)
  else if a = 0xB10 then
    (setCore σ L { c with xlt := { x with walkCount := 0, shootdowns := 0 } },
     w64 (x.walkCount + fl x.shootdowns 32 + fl x.walks.length 48))
  else if a = 0xB20 then
    (setCore σ L { c with xlt := { x with fwdIgnored := false, forwards := 0 } },
     w64 (fwdOut c + fl (b2n x.fwdIgnored) 31 + fl x.forwards 32))
  else if 0xB80 ≤ a ∧ a < 0xC00 then (σ, fsrReg (getThr c ((a - 0xB80) / 8)).fsr)
  else (σ, 0#64)

/-- An `in` of 0x0C00–0x0EFF. -/
def ioReadMtx (σ : State) (L a : Nat) : State × Word :=
  let c := getCore σ L
  let m := c.mtx
  let p := c.perf
  if a = 0xC00 then (setCore σ L { c with mtx := { m with shapeErr := 0, poisonRows := 0 } }, mtxStat m)
  else if a = 0xC08 then (σ, mtxAcc m)
  else if a = 0xC10 then (σ, w64 m.seed.toNat)
  else if a = 0xC18 then (σ, w64 m.tallySel)
  else if 0xC20 ≤ a ∧ a < 0xC60 then (σ, tallyCfgReg (mget TallyCfg.reset m.tallyCfg ((a - 0xC20) / 8)))
  else if 0xC60 ≤ a ∧ a < 0xD00 then
    let i := (a - 0xC60) / 8
    (σ, w64 (mget 0 m.tally (40 * m.tallySel + 2 * i) + fl (mget 0 m.tally (40 * m.tallySel + 2 * i + 1)) 32))
  else if a < 0xD80 then
    let x := mget Pmc.off p.pmc ((a - 0xD00) / 16)
    (σ, if a % 16 = 0 then w64 (x.event + fl x.mask.toNat 8 + fl (b2n x.en) 24) else w64 x.count)
  else if a = 0xD80 then (σ, w64 (b2n p.freeze + fl (b2n p.freezeOnHalt) 1))
  else if a = 0xD88 then (σ, w64 p.cycles)
  else if a = 0xD90 then (σ, w64 p.issued)
  else if a < 0xDB8 then (σ, w64 (mget 0 p.slotw ((a - 0xD98) / 8)))
  else if a = 0xDB8 then
    (setCore σ L { c with perf := { p with spadCorr := 0, spadUe := 0 } }, w64 (p.spadCorr + fl p.spadUe 32))
  else if a = 0xDC0 then
    (setCore σ L { c with perf := { p with dropMsg := 0, dropSig := 0, dropPress := 0 } },
     w64 (p.dropMsg + fl p.dropSig 16 + fl p.dropPress 32))
  else if a = 0xDC8 then (σ, stageStat c)
  else if a = 0xE08 then
    (setCore σ L { c with dbg := { c.dbg with ignored := false, selErr := false } },
     w64 (haltedMask c + fl (b2n c.dbg.ignored) 16 + fl (b2n c.dbg.selErr) 17 + fl (b2n (!c.dbg.stopped.isEmpty)) 18))
  else if a = 0xE10 then (σ, w64 (b2n c.dbg.action + fl (b2n c.dbg.haltUnits) 1 + fl (b2n c.dbg.haltAll) 2))
  else if 0xE20 ≤ a ∧ a < 0xE40 then
    let b := mget Bp.off c.dbg.bp ((a - 0xE20) / 8)
    (σ, w64 (b2n b.en + b.pc.toNat + fl b.mask.toNat 48))
  else if 0xE40 ≤ a ∧ a < 0xE80 then
    let w := mget Wp.off c.dbg.wp ((a - 0xE40) / 16)
    (σ, if a % 16 = 0 then w64 (bits w.addr 47 0 + fl w.mask.toNat 48)
        else w64 (b2n w.en + fl (b2n w.rd) 1 + fl (b2n w.wr) 2 + fl w.lenLog2 3))
  else if a = 0xE80 then (setCore σ L { c with dbg := { c.dbg with hit := Hit.empty } }, hitReg c.dbg.hit)
  else if a = 0xE88 then (σ, w64 (c.dbg.selThread + fl c.dbg.selReg 8))
  else if a = 0xE90 then dbgDataRead σ L
  else (σ, 0#64)

/-- An `in` at a valid IO address by thread t of core L (none: the debug group, R592). -/
def ioRead (σ : State) (L : Nat) (t : Option Nat) (a : Nat) : State × Word :=
  if a < 0x300 then ioReadThr σ L t a
  else if a < 0xA00 then ioReadUnit σ L a
  else if a < 0xC00 then ioReadXlt σ L a
  else if a < 0xF00 then ioReadMtx σ L a
  else (σ, featReg σ L ((a - 0xF00) / 8))

/-! ### Writing -/

/-- An `out` to 0x0000–0x02FF by thread t. -/
def ioWriteThr (σ : State) (L : Nat) (t : Option Nat) (a : Nat) (v : Word) : State :=
  if a < 0x200 then
    let n := a / 32
    match a % 32 / 8 with
    | 0 => thrCtlWrite σ L (t.getD 16) n v
    | 1 => modT σ L n (fun h => { h with pendDoorbell := h.pendDoorbell && !bit v 24, pendTimer := h.pendTimer && !bit v 25 })
    | 2 => modT σ L n (fun h => if h.st = .free ∨ h.st = .stopped then { h with pc := w64 (bits v 47 2 * 4) } else h)
    | _ => modT σ L n (fun h => { h with thrSp := w64 (bits v 47 4 * 16) })
  else if 0x240 ≤ a ∧ a < 0x2C0 then modT σ L ((a - 0x240) / 8) (fun h => { h with stackLimit := w64 (bits v 47 4 * 16) })
  else modCore σ L (fun c =>
    let s := c.sup
    { c with sup :=
      if a = 0x200 then { s with vbar := w64 (bits v 47 12 * 4096) }
      else if a = 0x208 then { s with
        wdPeriod := bits v 15 0, wdEnable := bit v 16,
        wdCount := if bit v 16 && !s.wdEnable then bits v 15 0 * 1000 else s.wdCount }
      else if a = 0x210 then (if t = some 0 then { s with wdCount := s.wdPeriod * 1000 } else s)
      else if a = 0x228 then { s with
        tmInterval := bits v 31 0, tmThread := bits v 35 32, tmEnable := bit v 36, tmPeriodic := bit v 37,
        tmCount := if bit v 36 then bits v 31 0 else s.tmCount }
      else s })

/-- The range checks of R319 for ring r: 0, or the first CFG_ERR. -/
def ringCheck (c : Core) (r base lg : Nat) : Nat :=
  let size := 2 ^ lg
  let overlaps (q : Nat) : Bool :=
    let x := getRing c q
    q != r && x.enable && decide (x.base < base + size) && decide (base < x.base + ringSize x)
  if lg < 8 ∨ 18 < lg then 1
  else if base % 64 ≠ 0 then 2
  else if spadSize < base + size ∨ inLastResort base size = true then 3
  else if (List.range 16).any overlaps then 4
  else 0

/-- An `out` to RING_CFG (R319, R335): one that changes BASE or SIZE_LOG2 of an enabled ring is taken whole or not at all. -/
def ringCfgWrite (σ : State) (L r : Nat) (v : Word) : State :=
  let c := getCore σ L
  let q := getRing c r
  let base := bits v 21 0
  let lg := bits v 26 22
  let q1 := { q with
    pause := bit v 28, discard := bit v 29, stallEv := bit v 30, arrCntEn := bit v 31, arrCnt := BitVec.ofNat 6 (bits v 37 32) }
  let q2 : Ring :=
    if q.enable = true ∧ (base, lg) ≠ (q.base, q.sizeLog2) then
      if !(q.pause && bit v 28) then q else
      match ringCheck c r base lg with
      | 0 => { q1 with base := base, sizeLog2 := lg, enable := bit v 27 }
      | e => { q with cfgErr := e }
    else
      let q2 := { q1 with base := base, sizeLog2 := lg, enable := bit v 27 }
      if q.enable || !bit v 27 then q2 else
      match ringCheck c r base lg with
      | 0 => { q2 with head := 0, tail := 0, msgs := 0, cfgErr := 0, pair := c.sup.pair }
      | e => { q2 with enable := false, cfgErr := e }
  let σ := setCore σ L (setRing c r q2)
  modCore (ringRetry σ L r) L (fun c => ringWakes c r)

/-- An `out` to RING_PTR (R335). -/
def ringPtrWrite (σ : State) (L r : Nat) (v : Word) : State :=
  let c := getCore σ L
  let q := getRing c r
  if q.pause = true ∨ q.enable = false then
    let q := { q with head := bits v 17 3 * 8, tail := bits v 35 21 * 8, msgs := bits v 51 36 }
    modCore (ringRetry (setCore σ L (setRing c r (ringNorm c q))) L r) L (fun c => ringWakes c r)
  else σ

/-- An `out` to SCn (R355, R381). -/
def scRegWrite (c : Core) (k : Nat) (v : Word) : Core :=
  let x := getSc c k
  setSc c k { x with value := if bit v 62 then x.value else bits v 31 0, loc := bit v 48, ovf := x.ovf && !bit v 49,
                     under := x.under && !bit v 50 }

/-- An `out` to 0x0400–0x09FF in the given mode. -/
def ioWriteUnit (σ : State) (L : Nat) (sup : Bool) (a : Nat) (v : Word) : State :=
  if a < 0x580 then
    let r := (a - 0x400) / 0x18
    match (a - 0x400) % 0x18 / 8 with
    | 0 => ringCfgWrite σ L r v
    | 1 => ringPtrWrite σ L r v
    | _ => σ
  else if a < 0x600 then σ
  else if a < 0x800 then modCore σ L (fun c => scRegWrite c ((a - 0x600) / 8) v)
  else if a < 0x8C0 then
    if (a - 0x800) % 0x18 / 8 = 2 then slotCmd σ L ((a - 0x800) / 0x18) (bits v 2 0) sup else σ
  else if a = 0x8C0 then
    modCore σ L (fun c => { c with stallMask := BitVec.ofNat 8 (bits v 7 0), stallFreeze := bit v 9,
                                   stalls := if bit v 8 then [] else c.stalls })
  else if a < 0x900 then σ
  else
    let k := (a - 0x900) / 0x40
    match (a - 0x900) % 0x40 / 8 with
    | 3 => chanCmd σ L k (bits v 2 0) sup
    | 4 => modChan σ L k (fun q => { q with cfgLimit := bits v 3 0, cfgGap := bits v 11 4 })
    | _ => σ

/-- An `out` to 0x0A00–0x0BFF by thread t (none: the debug group): the state, and whether it is complete (R280). A maintenance operation
begins where none is in progress. -/
def ioWriteXlt (σ : State) (L : Nat) (t : Option Nat) (a : Nat) (v : Word) : State × Bool :=
  let c := getCore σ L
  if a = 0xA00 then (setCore σ L { c with cache := { c.cache with cmoAddr := bits v 47 6 * 64 } }, true)
  else if a = 0xA08 then (setCore σ L { c with cache := { c.cache with cmoLen := bits v 31 0 } }, true)
  else if a = 0xA10 then
    if c.cache.cmo.isSome then
      match t with
      | some _ => (σ, false)
      | none => (setCore σ L { c with cache := { c.cache with cmoWait := c.cache.cmoWait ++ [v] } }, false)
    else match t with
      | some n => (modT (cmoBegin σ L (.thread (BitVec.ofNat 4 n)) v) L n (fun h => { h with held := .cmo }), false)
      | none => (cmoBegin σ L .io v, false)
  else if a = 0xA28 then
    (setCore σ L { c with cache := { c.cache with pfEnable := bit v 0, pfDepthM1 := bits v 2 1, pfShared := bit v 3,
                                                  side := if bit v 4 then [] else c.cache.side } }, true)
  else if a = 0xB00 then
    (setCore σ L { c with xlt := { tlbClear c.xlt with root := w64 (bits v 39 12 * 4096 + b2n (bit v 0)) } }, true)
  else if a = 0xB08 then (tlbInvWrite σ L v, true)
  else if a = 0xB18 then (fwdWrite σ L v, true)
  else (σ, true)

/-- An `out` to 0x0C00–0x0EFF by thread t. -/
def ioWriteMtx (σ : State) (L : Nat) (t : Option Nat) (a : Nat) (v : Word) : State :=
  let c := getCore σ L
  let m := c.mtx
  let d := c.dbg
  if a = 0xC10 then setCore σ L { c with mtx := seedWrite m v }
  else if a = 0xC18 then setCore σ L { c with mtx := tallySelWrite m v }
  else if 0xC20 ≤ a ∧ a < 0xC60 then
    let cfg := mmod TallyCfg.reset ((a - 0xC20) / 8) (fun k => { k with base := BitVec.ofNat 8 (bits v 7 0), hold := bit v 8 }) m.tallyCfg
    setCore σ L { c with mtx := { m with tallyCfg := cfg } }
  else if 0xD00 ≤ a ∧ a < 0xD80 then
    let n := (a - 0xD00) / 16
    setCore σ L { c with perf := if a % 16 = 0 then pmcCfgWrite c.perf n v
      else { c.perf with pmc := mmod Pmc.off n (fun x => { x with count := bits v 47 0 }) c.perf.pmc } }
  else if a = 0xD80 then setCore σ L { c with perf := pmcCtlWrite c.perf v }
  else if a = 0xE00 then dbgHaltWrite σ L (t.getD 16) v
  else if a = 0xE10 then setCore σ L { c with dbg := { d with action := bit v 0, haltUnits := bit v 1, haltAll := bit v 2 } }
  else if 0xE20 ≤ a ∧ a < 0xE40 then
    let b : Bp := { en := bit v 0, pc := w64 (bits v 47 2 * 4), mask := BitVec.ofNat 16 (bits v 63 48) }
    setCore σ L { c with dbg := { d with bp := mput Bp.off ((a - 0xE20) / 8) b d.bp } }
  else if 0xE40 ≤ a ∧ a < 0xE80 then
    let upd (w : Wp) : Wp :=
      if a % 16 = 0 then { w with addr := w64 (bits v 47 0), mask := BitVec.ofNat 16 (bits v 63 48) }
      else { w with en := bit v 0, rd := bit v 1, wr := bit v 2, lenLog2 := bits v 6 3 }
    setCore σ L { c with dbg := { d with wp := mmod Wp.off ((a - 0xE40) / 16) upd d.wp } }
  else if a = 0xE88 then setCore σ L { c with dbg := { d with selThread := bits v 3 0, selReg := bits v 16 8 } }
  else if a = 0xE90 then dbgDataWrite σ L v
  else σ

/-- An `out` at a valid IO address by thread t (none: the debug group) in the given mode: the state, and whether the `out` is complete. -/
def ioWrite (σ : State) (L : Nat) (t : Option Nat) (sup : Bool) (a : Nat) (v : Word) : State × Bool :=
  if a < 0x300 then (ioWriteThr σ L t a v, true)
  else if a < 0xA00 then (ioWriteUnit σ L sup a v, true)
  else if a < 0xC00 then ioWriteXlt σ L t a v
  else if a < 0xF00 then (ioWriteMtx σ L t a v, true)
  else (σ, true)

/-! ### Access (R54, R55) -/

/-- An address that R54 refuses with 0x05. -/
def ioAbsent (a : Nat) : Bool := (decide (0x300 ≤ a) && decide (a < 0x400)) || decide (0xF40 ≤ a)

/-- A register marked "user-writable" by its chapter. -/
def userWritable (a : Nat) : Bool :=
  (decide (0x600 ≤ a) && decide (a < 0x800)) || (decide (0x800 ≤ a) && decide (a < 0x8C0) && (a - 0x800) % 0x18 / 8 == 2) ||
    a == 0x8C0 || (decide (0x900 ≤ a) && decide (a < 0xA00) && (a - 0x900) % 0x40 == 0x18) || a == 0xC10 || a == 0xC18 ||
    (decide (0xC20 ≤ a) && decide (a < 0xC60)) || (decide (0xD00 ≤ a) && decide (a ≤ 0xD80))

/-- A user-mode `in` that Table: IO-space access by mode permits. -/
def userReadable (a : Nat) : Bool :=
  (decide (0x400 ≤ a) && decide (a < 0xA00)) || (decide (0xC00 ≤ a) && decide (a < 0xE00)) || decide (0xF00 ≤ a)

/-- The checks of R54 and R55, in their order: none, or the cause. -/
def ioFault (sup write : Bool) (a : Nat) : Option Nat :=
  if a % 8 ≠ 0 then some 0x03
  else if ioAbsent a then some 0x05
  else if sup || (if write then userWritable a else userReadable a) then none
  else some 0x02

/-- A fault at an IO address. -/
def ioInfo (cause a : Nat) (write : Bool) : FInfo := { faultAt cause a write 8 with io := true }

/-- An `out` to this address is serializing (Table: serializing instructions). -/
def ioSerial (a : Nat) : Bool := decide (a < 0x300) || (decide (0xA00 ≤ a) && decide (a < 0xC00))

/-- Issue of an `out` to an address. -/
def attOut (a : Nat) : Att := { attAlu with inSlot := !ioSerial a, port := 3 }

/-- The body of an `out` of v to an address. -/
def outBody (a : Nat) (v : Word) (σ : State) (L t : Nat) : IRes :=
  match ioFault (isSup σ L t) true a with
  | some e => .exc σ (ioInfo e a true)
  | none =>
    if ioSerial a && serialBusy (getCore σ L) t then .hold σ else
    match ioWrite σ L (some t) (isSup σ L t) a v with
    | (σ, true) => .done σ .seq
    | (σ, false) => if (thrOf σ L t).held = .cmo then .set σ else .hold σ

/-- The body of an `in` of an address into rd. -/
def inBody (a : Nat) (rd : BitVec 5) (σ : State) (L t : Nat) : IRes :=
  match ioFault (isSup σ L t) false a with
  | some e => .exc σ (ioInfo e a false)
  | none => let r := ioRead σ L (some t) a; .done (wg r.1 L t rd r.2) .seq

/-- A thread executes an `out` of v to an IO address. -/
def outTo (x : Issue) (a : Nat) (v : Word) (σ : State) : Host.Outcome State Fault Refusal := issue x (attOut a) σ (outBody a v)

/-- v with bits [lo + n − 1 : lo] replaced by k. -/
def withField (v : Word) (lo n k : Nat) : Word :=
  w64 (v.toNat % 2 ^ lo + k * 2 ^ lo + v.toNat / 2 ^ (lo + n) * 2 ^ (lo + n))

end Sys2Proof.Machine
end

