-- ==== Sys2Proof/Machine/Matrix.lean ====
section
/-! DEFINITION. The matrix engine (R145–R189): the lease, tile transfers, `t.mma` and the array, the drain, the saved context. -/

namespace Sys2Proof.Machine

/-- A `t.` instruction. -/
def attMtx : Att := { attAlu with obs := 2, mem := true, port := 2 }

/-- Thread t holds the lease (R146); a killed holder's lease is held by no thread. -/
def holdsLease (σ : State) (L t : Nat) : Bool :=
  let m := (getCore σ L).mtx
  decide (m.lease = some t) && !m.dying

/-- Changes the engine of core L. -/
def modMtx (σ : State) (L : Nat) (f : Mtx → Mtx) : State := modCore σ L (fun c => { c with mtx := f c.mtx })

/-- A check of Table: shape checks at issue that fails. -/
def shapeFail (σ : State) (L err cause : Nat) : IRes :=
  .exc (modMtx σ L (fun m => { m with shapeErr := err })) (faultOf cause)

/-- Goes on where thread t holds the lease. -/
def withLease (σ : State) (L t : Nat) (k : IRes) : IRes := if holdsLease σ L t then k else shapeFail σ L 7 0x08

/-! ### The lease -/

/-- `t.acquire` (R147). -/
def execTAcquire (x : Issue) (σ : State) :=
  issue x attMtx σ (fun σ L t =>
    let m := (getCore σ L).mtx
    if holdsLease σ L t then .done σ .seq
    else if m.lease = none then .done (modMtx σ L (fun m => { m with lease := some t })) .seq
    else .wait (modMtx σ L (fun m => { m with waiters := m.waiters ++ [t] })) .lease 1)

/-- `t.release` (R148). -/
def execTRelease (x : Issue) (σ : State) :=
  issue x attMtx σ (fun σ L t => withLease σ L t (
    if mtxIdle (getCore σ L).mtx then .done (modMtx σ L (fun m => { m with lease := none })) .seq else .hold σ))

/-- The engine as `t.cfg` leaves it. -/
def cfgMtx (m : Mtx) (layout : Nat) : Mtx :=
  { m with tile := [], scale := [], poison := [], layout := layout, cur := Accum.zero, drn := Accum.zero,
           curI := Tag.zero, drnI := Tag.zero, opc := [] }

/-- `t.cfg` (R153). -/
def execTCfg (x : Issue) (layout : BitVec 2) (σ : State) :=
  issue x { attMtx with legal := layout != 3#2, inSlot := false } σ (fun σ L t => withLease σ L t (
    if mtxIdle (getCore σ L).mtx && !serialBusy (getCore σ L) t then .done (modMtx σ L (fun m => cfgMtx m layout.toNat)) .seq
    else .hold σ))

/-- `t.wait` (R161). -/
def execTWait (x : Issue) (σ : State) :=
  issue x attMtx σ (fun σ L t => withLease σ L t (if mtxIdle (getCore σ L).mtx then .done σ .seq else .hold σ))

/-! ### The engine queue (R158) -/

/-- Enters the queue, or waits at issue while it is full; `tags` gives the tags that the instruction leaves. -/
def enqueue (σ : State) (L : Nat) (op : MqOp) (tags : Mtx → Mtx) : IRes :=
  if 4 ≤ (getCore σ L).mtx.queue.length then .hold σ else
  let (id, σ) := newId σ
  .done (modMtx σ L (fun m => tags { m with queue := m.queue ++ [{ id := id, op := op }] })) .seq

/-- `t.swap` (R156). -/
def execTSwap (x : Issue) (σ : State) :=
  issue x attMtx σ (fun σ L t => withLease σ L t (enqueue σ L .swap (fun m => { m with curI := m.drnI, drnI := m.curI })))

/-- `t.zero` (R157). -/
def execTZero (x : Issue) (σ : State) :=
  issue x attMtx σ (fun σ L t => withLease σ L t (enqueue σ L .zero (fun m => { m with curI := Tag.zero })))

/-- `t.tz` (Table: functions of major 0x2C, R154). -/
def execTTz (x : Issue) (tile : BitVec 4) (σ : State) :=
  issue x attMtx σ (fun σ L t => withLease σ L t (
    if layTiles (getCore σ L).mtx.layout ≤ tile.toNat then shapeFail σ L 4 0x0F else enqueue σ L (.tz tile.toNat) id))

/-! ### `t.mma` (R162–R165) -/

/-- The shape operand (Table: shape operand). -/
structure Shape where
  m : Nat
  n : Nat
  k : Nat
  fa : Nat
  fb : Nat
  acc : Bool
  sloe : Bool
  deriving DecidableEq, Repr

/-- Fields of a shape word. -/
def shapeOf (w : Word) : Shape :=
  { m := bits w 5 0 + 1, n := bits w 21 16 + 1, k := bits w 14 8 + 1, fa := bits w 27 24, fb := bits w 31 28, acc := bit w 32,
    sloe := bit w 33 }

/-- Reserved fields or values of a shape word. -/
def shapeResv (w : Word) : Bool :=
  bits w 63 34 != 0 || bits w 23 22 != 0 || bit w 15 || bits w 7 6 != 0 || decide (7 ≤ bits w 27 24) || decide (7 ≤ bits w 31 28)

/-- The accumulator type of a pair (R163): 1 INT32, 2 FP32. -/
def pairType (fa fb : Nat) : Option Nat :=
  if fa = 0 ∧ fb = 0 then some 1
  else if fa = 5 ∧ fb = 0 then some 2
  else if (fa = 1 ∨ fa = 2 ∨ fa = 6) ∧ (fb = 1 ∨ fb = 2) then some 2
  else if (fa = 3 ∧ fb = 3) ∨ (fa = 4 ∧ fb = 4) then some 2
  else none

/-- The format of an operand code (Table: operand format codes). -/
def opFmt (c : Nat) : Fmt :=
  match c with
  | 0 | 5 => .int8
  | 1 | 6 => .e4m3
  | 2 => .e5m2
  | 3 => .bf16
  | _ => .fp16

/-- Bytes of an element of an operand code. -/
def opBytes (c : Nat) : Nat := (opFmt c).bits / 8

/-- The tag that a `t.mma` leaves. -/
def mmaTag (old : Tag) (s : Shape) (type : Nat) : Tag :=
  if s.acc = false ∨ old.type = 0 then { type := type, m := s.m, n := s.n } else old

/-- `t.mma` (R164, R165): its checks, then the queue. -/
def execTMma (x : Issue) (ta tb : BitVec 4) (rs : BitVec 5) (σ : State) :=
  issue x attMtx σ (fun σ L t => withLease σ L t (
    let w := rg σ L t rs
    let s := shapeOf w
    let m := (getCore σ L).mtx
    let lay := m.layout
    let tag := m.curI
    if shapeResv w then shapeFail σ L 1 0x01 else
    match pairType s.fa s.fb with
    | none => shapeFail σ L 2 0x01
    | some type =>
      if 5 ≤ s.fa ∧ s.k % 32 ≠ 0 then shapeFail σ L 3 0x01
      else if layTiles lay ≤ ta.toNat ∨ layTiles lay ≤ tb.toNat then shapeFail σ L 4 0x0F
      else if layRows lay < s.m ∨ layRows lay < s.n ∨ layRow lay < s.k * opBytes s.fa then shapeFail σ L 5 0x0F
      else if s.acc = true ∧ tag.type ≠ 0 ∧ tag ≠ { type := type, m := s.m, n := s.n } then shapeFail σ L 6 0x0F
      else enqueue σ L (.mma ta.toNat tb.toNat w) (fun m => { m with curI := mmaTag m.curI s type })))

/-! ### The array (R134, R135, R138, R164–R168) -/

/-- The first k elements of a tile row; 16-bit subnormals read as zero where `fz`. -/
def rowVals (m : Mtx) (f : Fmt) (fz : Bool) (t r k : Nat) : List Val :=
  let b := f.bits / 8
  let d := getRow m t r
  (List.range k).map (fun i =>
    let n := ofBytes ((d.drop (b * i)).take b)
    decode f (if fz && b == 2 then flushSub f n else n))

/-- Scales of row r of tile t. -/
def rowScales (m : Mtx) (t r : Nat) : List Nat :=
  (List.range (layRow m.layout / 32)).map (fun j => (mget 0x7F#8 m.scale (2 * rowLine m.layout t r + j)).toNat)

/-- The integer of a finite value of exponent 0. -/
def intOf (v : Val) : Int :=
  match v with
  | .fin s m _ => if s then -(m : Int) else m
  | _ => 0

/-- One accumulator element: `old` before, with the products of a row of A and a row of B, and the scales of the row of A. -/
def mmaElem (s : Shape) (old : BitVec 32) (as bs : List Val) (sc : List Nat) : BitVec 32 :=
  let ps := List.zipWith Val.mul as bs
  let blk := decide (5 ≤ s.fa)
  if s.fa = 0 then addInt32 (if s.acc then old else 0#32) ((ps.map intOf).foldl (· + ·) 0)
  else if s.sloe then
    BitVec.ofNat 32 ((ps.zipIdx).foldl (fun a p =>
      addSloe a (if blk then blockScale (sc.getD (p.2 / 32) 0x7F) p.1 else p.1)) (if s.acc then old.toNat else 0x80000000))
  else
    let wide := opBytes s.fa = 2
    let gs := groupsOf (if wide then 16 else 32) s.k ps
    BitVec.ofNat 32 ((gs.zipIdx).foldl (fun a g =>
      let v := groupSum (if wide then 30 else 24) g.1
      addFast a (if blk then blockScale (sc.getD g.2 0x7F) v else v)) (if s.acc then old.toNat else 0))

/-- An accumulator from its elements. -/
def accBuild (f : Nat → Nat → BitVec 32) : SMap (BitVec 32) :=
  (List.range 4096).filterMap (fun k => let v := f (k / 64) (k % 64); if v = 0#32 then none else some (k, v))

/-- The current accumulator after a `t.mma` (R164). Under the tag ZERO every element reads as zero, also where `t.crest` has restored an
image whose elements are not (log 49). -/
def mmaAcc (m : Mtx) (ta tb : Nat) (s : Shape) : Accum :=
  let old (i j : Nat) : BitVec 32 := if m.cur.tag.type = 0 then 0#32 else accAt m.cur i j
  let as := (List.range s.m).map (fun i => (rowVals m (opFmt s.fa) (!s.sloe) ta i s.k, rowScales m ta i))
  let bs := (List.range s.n).map (fun j => rowVals m (opFmt s.fb) (!s.sloe) tb j s.k)
  let one (i j : Nat) : BitVec 32 :=
    match as[i]?, bs[j]? with
    | some a, some b => mmaElem s (old i j) a.1 b a.2
    | _, _ => if s.acc then old i j else 0#32
  { data := accBuild one, tag := mmaTag m.cur.tag s ((pairType s.fa s.fb).getD 2), bad := false }

/-- k values that the array takes per cc (Table: k values per cc). -/
def mmaKpc (s : Shape) : Nat := if opBytes s.fa = 2 then (if s.sloe then 1 else 16) else if s.sloe then 4 else 64

/-- MMA_EXECUTE: the oldest queued `t.mma` that may run; a poisoned row that it reads, or an error in an accumulator that it adds to, stops
the core (R114, R175). A fill takes the operand-cache entry that is empty, else the one filled longer ago (R167; log 49). -/
def execMmaExecute (core : BitVec 13) (σ : State) : Host.Outcome State Fault Refusal :=
  let L := core.toNat
  let c := getCore σ L
  let m := c.mtx
  let isMma (o : MqOp) : Bool := match o with
    | .mma .. => true
    | _ => false
  if !(coreOn σ L && !c.sup.stopped) then .next σ else
  match mqFind m isMma with
  | some ({ op := .mma ta tb w, .. }, i) =>
    let s := shapeOf w
    if (List.range s.m).any (rowBad m ta) || (List.range s.n).any (rowBad m tb) || (s.acc && m.cur.tag.type != 0 && m.cur.bad) then .next (tidy σ (coreStop σ L 3 0) L)
    else
      let opc := if m.opc.contains ta then m.opc else (if 2 ≤ m.opc.length then m.opc.drop 1 else m.opc) ++ [ta]
      let m' := { m with queue := dropAt i m.queue, cur := mmaAcc m ta tb s, opc := opc }
      .next (tidy σ (setCore σ L (pmcEvent { c with mtx := m' } 0x07 none (s.n * ((s.k + mmaKpc s - 1) / mmaKpc s)))) L)
  | _ => .next σ

/-! ### Tile loads and stores (R169–R177) -/

/-- An outstanding part of a tile transfer meets [h, h + n), and it or the new access writes (R160). -/
def tileMeets (c : Core) (h : Home) (n : Nat) (write : Bool) : Bool :=
  c.outs.any (fun o => match o.kind with
    | .tile h' n' w => (w || write) && homeMeets h n h' n'
    | _ => false)

/-- How a part of a row is reached: at once, by a request of the mesh, or not yet. -/
inductive PartWay where
  | now
  | ask
  | wait
  deriving DecidableEq, Repr

/-- The way of a part: the local scratchpad and a line of the D-cache at once, a store also into a PRIVATE line of the side buffer; a miss
at its home (R172, R291). -/
def partWay (σ : State) (L : Nat) (write : Bool) (p : Place) : PartWay :=
  let c := getCore σ L
  let free (w : PartWay) : PartWay := if tileMeets c p.home p.n write then .wait else w
  match p.home with
  | .spad k _ => if k = L then .now else if winFull σ L p.home then .wait else .ask
  | h =>
    if 2 ≤ p.cls then .ask
    else if (findLine c.cache.d 256 p.va).isSome then (if write && p.cls == 1 then .ask else free .now)
    else if fillOut c p.va || amoOut c p.va || inWbb c (homeLine h) then .wait
    else if c.cache.side.any (fun l => l.va == lineOf p.va) then
      (if !write then free .now else if p.cls = 1 then .ask else if noRoom σ L p.va then .wait else free .now)
    else .ask

/-- Reads a part of a row: its bytes, or the request that brings them. -/
def partRead (σ : State) (L : Nat) (p : Place) : State × RowAt :=
  match partWay σ L false p with
  | .now =>
    (match p.home with
     | .spad k off =>
       let r := spadRead σ k off p.n
       (r.2.foldl (fun σ w => noteSpadUE σ k (8 * w)) (spadMeet σ k off p.n), .got r.1 (!r.2.isEmpty))
     | _ =>
       let c := getCore σ L
       match findLine c.cache.d 256 p.va with
       | some (_, l) => (setCore σ L (pmcEvent c 0x09 none 1), .got (lineBytes l p.va p.n) (!(linePoison l p.va p.n).isEmpty))
       | none => (σ, .got (((c.cache.side.find? (fun l => l.va == lineOf p.va)).map (fun l => lineBytes l p.va p.n)).getD []) false))
  | _ =>
    let (id, σ) := newId σ
    (sendRead (addOut σ L id (.tile p.home p.n false) p.home) L id p.home p.n (.tile L), .sent id p.n)

/-- Writes a part of a row, with every word marked where the row is poisoned (R175). -/
def partWrite (σ : State) (L : Nat) (bad : Bool) (p : Place) (data : List Byte) : State × RowAt :=
  let ks := if bad then List.range (p.n / 8) else []
  let mark (l : DLine) : DLine := { l with poison := addBad l.poison (ks.map (· + p.va % 64 / 8)) }
  let merge (σ : State) (dirty : Bool) : State :=
    let σ := mergeAt σ L p.va data dirty
    modCore σ L (fun c => match findLine c.cache.d 256 p.va with
      | some (key, l) => { c with cache := { c.cache with d := mput DLine.empty key (mark l) c.cache.d } }
      | none => c)
  match partWay σ L true p with
  | .now =>
    (match p.home with
     | .spad k off => (spadWriteBad σ k off data ks, .got [] false)
     | _ => (merge ((sideMove σ L p.va).getD σ) true, .got [] false))
  | _ =>
    let σ := if p.cls = 1 then merge (sideDrop σ L p.va) false else σ
    let (id, σ) := newId σ
    (sendWrite (addOut σ L id (.tile p.home p.n true) p.home) L id p.home data ks (.tile L), .sent id p.n)

/-- The parts of an access of a row, checked whole and with every error of the caches met; it waits while one of them must. -/
def rowParts (σ : State) (L t : Nat) (mode : Mode) (acc : Acc) (va n : Nat) (f : FInfo) : AR (List Place) :=
  andThen (resolve σ L t mode acc va n f) (fun σ ps =>
    let σ := ps.foldl (fun σ p => if p.cls < 2 then dcMeet σ L p.va p.n else σ) σ
    if (getCore σ L).sup.stopped || ps.any (fun p => decide (partWay σ L f.write p = .wait)) then .hold σ else .ok σ ps)

/-- Reads parts in order. -/
def partsRead (σ : State) (L : Nat) (ps : List Place) : State × List RowAt :=
  ps.foldl (fun a p => let r := partRead a.1 L p; (r.1, a.2 ++ [r.2])) (σ, [])

/-- Writes parts in order. -/
def partsWrite (L : Nat) (bad : Bool) : State → List Place → List Byte → State × List RowAt
  | σ, [], _ => (σ, [])
  | σ, p :: r, d =>
    let a := partWrite σ L bad p (d.take p.n)
    let b := partsWrite L bad a.1 r (d.drop p.n)
    (b.1, a.2 :: b.2)

/-- Adds a requested row. -/
def addRow (σ : State) (L : Nat) (r : TileRow) : State :=
  let (id, σ) := newId σ
  modMtx σ L (fun m => { m with rows := m.rows ++ [{ r with id := id }] })

/-- Requests a row of a load into tile line `line`: 0 `t.ld`, 2 and 3 `t.ldx`, whose scales come from `sva`. Nothing is requested before both
have passed their checks (R173). -/
def loadRow (σ : State) (L t : Nat) (mode : Mode) (kind line bytes va sva : Nat) : AR Unit :=
  let f := faultAt 0x0D va false 64
  if lineBusy (getCore σ L).mtx line (bytes / 64) true then .hold σ else
  andThen (rowParts σ L t mode .load va (if kind = 0 then bytes else bytes / 2) f) (fun σ ps =>
    andThen (if kind = 0 then .ok σ [] else rowParts σ L t mode .load sva (bytes / 32) f) (fun σ ss =>
      let r := partsRead σ L ps
      let sc := partsRead r.1 L ss
      .ok (addRow sc.1 L { id := 0, kind := kind, line := line, bytes := bytes, row := r.2, scl := sc.2, data := [], bad := false }) ()))

/-- Stores the row at tile line `line`. -/
def storeRow (σ : State) (L t : Nat) (mode : Mode) (line bytes va : Nat) : AR Unit :=
  let m := (getCore σ L).mtx
  let ls := (List.range (bytes / 64)).map (· + line)
  let data := (ls.map (getLine m)).flatten
  let bad := ls.any (fun l => m.poison.contains l)
  if lineBusy m line (bytes / 64) false then .hold σ else
  andThen (rowParts σ L t mode .store va bytes (faultAt 0x0D va true 64)) (fun σ ps =>
    let r := partsWrite L bad σ ps data
    .ok (if r.2.all (fun a => decide (a = .got [] false)) then r.1
      else addRow r.1 L { id := 0, kind := 1, line := line, bytes := bytes, row := r.2, scl := [], data := data, bad := bad }) ())

/-- Requests rows i to the last in ascending order: the row reached, with how it ended. -/
def rowsFrom (f : State → Nat → AR Unit) : Nat → Nat → State → State × Nat × Option (Option FInfo)
  | 0, i, σ => (σ, i, none)
  | k + 1, i, σ =>
    match f σ i with
    | .ok σ _ => rowsFrom f k (i + 1) σ
    | .fault σ e => (σ, i, some (some e))
    | .hold σ => (σ, i, some none)

/-- Reserved fields of a transfer descriptor (Table: tile transfer descriptor). -/
def descResv (w : Word) (ldx : Bool) : Bool := bit w 15 || bits w 7 6 != 0 || (!ldx && (bit w 14 || bits w 63 48 != 0))

/-- A tile load or store: kind 0 `t.ld`, 1 `t.st`, 2 `t.ldx`. Earlier queued work on a row, and drains to scratchpad, come before the row
(R159, R160). A row that fails raises its fault once the earlier rows have landed (R173, R174). -/
def tileBody (kind major : Nat) (tile : BitVec 4) (ra rscl rdesc : BitVec 5) (σ : State) (L t : Nat) : IRes :=
  withLease σ L t (
    let w := rg σ L t rdesc
    let c := getCore σ L
    let m := c.mtx
    let mode := (thrOf σ L t).mode
    let n := bits w 5 0 + 1
    let row0 := bits w 13 8
    let stride := BitVec.ofNat 32 (bits w 47 16)
    let sstride := bits w 63 48
    let bytes := layRow m.layout
    let base := rg σ L t ra
    let sbase := rg σ L t rscl
    let unit := if kind = 2 then bytes / 2 else 64
    let toSpad (q : MqItem) : Bool := match q.op with
      | .drain _ ctl _ _ _ => bit ctl 6
      | _ => false
    if descResv w (kind == 2) then shapeFail σ L 1 0x01
    else if layTiles m.layout ≤ tile.toNat then shapeFail σ L 4 0x0F
    else if layRows m.layout < row0 + n then shapeFail σ L 5 0x0F
    else if base.toNat % unit ≠ 0 ∨ stride.toNat % unit ≠ 0 then .exc σ (faultAt 0x03 base.toNat (kind == 1) 64)
    else if kind = 2 ∧ (sbase.toNat % (bytes / 32) ≠ 0 ∨ sstride % (bytes / 32) ≠ 0) then .exc σ (faultAt 0x03 sbase.toNat false 64)
    else if m.queue.any toSpad then .hold σ
    else
      let start := progStart (thrOf σ L t) major
      let va (i : Nat) : Nat := (base + BitVec.ofNat 64 i * stride.signExtend 64).toNat
      let line (i : Nat) : Nat := rowLine m.layout tile.toNat (row0 + i)
      let k := if kind = 2 then (if bit w 14 then 3 else 2) else 0
      let f (σ : State) (i : Nat) : AR Unit :=
        if kind = 1 then storeRow σ L t mode (line i) bytes (va i)
        else loadRow σ L t mode k (line i) bytes (va i) (sbase + BitVec.ofNat 64 (i * sstride)).toNat
      match rowsFrom f (n - start) start σ with
      | (σ, _, none) => .done (clearProg σ L t) .seq
      | (σ, i, some none) => .hold (if i = start then σ else setProg σ L t major i)
      | (σ, i, some (some e)) =>
        let σ := setProg σ L t major i
        if (getCore σ L).mtx.rows.isEmpty then .exc σ e else .hold σ)

def execTLd (x : Issue) (td : BitVec 4) (ra rdesc : BitVec 5) (σ : State) := issue x attMtx σ (tileBody 0 0x2E td ra 0#5 rdesc)
def execTSt (x : Issue) (ts : BitVec 4) (ra rdesc : BitVec 5) (σ : State) := issue x attMtx σ (tileBody 1 0x2F ts ra 0#5 rdesc)
def execTLdx (x : Issue) (td : BitVec 4) (ra rscl rdesc : BitVec 5) (σ : State) :=
  issue x attMtx σ (tileBody 2 0x30 td ra rscl rdesc)

/-- The place in the mesh of the response to request id of core L. -/
def answerAt (σ : State) (L id : Nat) : Option Nat :=
  (List.range σ.net.length).find? (fun i => match mayArrive σ i with
    | some p => decide (p.dst = .core L) && (match p.body with
      | .readData k .. => k == id
      | .writeAck k => k == id
      | _ => false)
    | none => false)

/-- Takes the bytes of the parts of a row: those at hand, and those of the responses, which leave the mesh; none while one is missing. -/
def rowTake (L : Nat) : State → List RowAt → Option (State × List Byte × Bool)
  | σ, [] => some (σ, [], false)
  | σ, .got d b :: r => (rowTake L σ r).map (fun x => (x.1, d ++ x.2.1, b || x.2.2))
  | σ, .sent id _ :: r =>
    match answerAt σ L id with
    | none => none
    | some i =>
      let σ' := dropOut (takePkt σ i) L id
      match σ.net[i]? with
      | some { body := .readData _ d b _, .. } => (rowTake L σ' r).map (fun x => (x.1, d ++ x.2.1, !b.isEmpty || x.2.2))
      | _ => rowTake L σ' r

/-- The requested row i of the engine lands: written into the tile with its scales, poisoned where its data carries an uncorrectable
error (R175), or acknowledged by memory. -/
def rowLand (σ : State) (L i : Nat) : Option State :=
  let m := (getCore σ L).mtx
  match m.rows[i]? with
  | none => none
  | some r =>
    match rowTake L σ r.row with
    | none => none
    | some (σ, d, b) =>
      match rowTake L σ r.scl with
      | none => none
      | some (σ, sc, b') =>
        some (modMtx σ L (fun m =>
          let m := { m with rows := dropAt i m.rows }
          if r.kind = 1 then m else
          let bad := b || b'
          let m := putRow m r.line (if r.kind = 0 then d else expand4 (r.kind == 3) d) sc bad
          if bad then { m with poisonRows := satAdd 0xFFFF m.poisonRows 1 } else m))

/-- TILE_ROW_LAND: requested row i lands. -/
def execTileRowLand (core : BitVec 13) (i : Nat) (σ : State) : Host.Outcome State Fault Refusal :=
  let L := core.toNat
  if coreOn σ L && !(getCore σ L).sup.stopped then
    match rowLand σ L i with
    | some σ1 => .next (tidy σ σ1 L)
    | none => .next σ
  else .next σ

/-! ### The drain (R178–R184) -/

/-- The output format of a drain (Table: drain output formats). -/
def drainFmt (ctl : Word) : Fmt :=
  match bits ctl 2 0 with
  | 0 => .int8
  | 1 => .e4m3
  | 2 => .e5m2
  | 3 => .bf16
  | 4 => .fp16
  | 5 => .fp32
  | _ => .int32

/-- Reserved fields and values of a drain control, and ROW_STRIDE under R178. -/
def drainResv (ctl : Word) : Bool :=
  bits ctl 63 56 != 0 || bits ctl 31 27 != 0 || bits ctl 2 0 == 7 || bits ctl 4 3 == 3 || bits ctl 55 32 % 64 != 0 ||
    (!bit ctl 6 && bits ctl 55 32 != 0)

/-- Output rows, and elements of a row, of a drain of a tag; ZERO drains 64 × 64 (R179). -/
def drainRows (ctl : Word) (g : Tag) : Nat := if g.type = 0 then 64 else if bit ctl 7 then g.n else g.m
def drainCols (ctl : Word) (g : Tag) : Nat := if g.type = 0 then 64 else if bit ctl 7 then g.m else g.n

/-- `t.drain` (R178–R180): its checks, then the queue. -/
def execTDrain (x : Issue) (td : BitVec 4) (rctl ra : BitVec 5) (σ : State) :=
  issue x attMtx σ (fun σ L t =>
    let ctl := rg σ L t rctl
    let m := (getCore σ L).mtx
    let g := m.drnI
    let rows := drainRows ctl g
    let len := drainCols ctl g * ((drainFmt ctl).bits / 8)
    let a := (rg σ L t ra).toNat
    let stride := bits ctl 55 32
    if bit ctl 6 && td != 0#4 || !bit ctl 6 && ra != 0#5 then .exc σ (faultOf 0x01) else
    withLease σ L t (
      if drainResv ctl then shapeFail σ L 1 0x01
      else if bit ctl 6 then
        if a % 64 ≠ 0 then .exc σ (faultAt 0x03 a true 64)
        else if spadSize < a + (rows - 1) * stride + len then .exc σ (faultAt 0x05 a true 64)
        else if (thrOf σ L t).mode = .user ∧ (List.range rows).any (fun r => inLastResort (a + r * stride) len) = true then
          .exc σ (faultAt 0x05 a true 64)
        else enqueue σ L (.drain 0 ctl a rows m.epoch) id
      else if layTiles m.layout ≤ td.toNat then shapeFail σ L 4 0x0F
      else if layRows m.layout < rows ∨ layRow m.layout < len then shapeFail σ L 5 0x0F
      else enqueue σ L (.drain td.toNat ctl 0 rows m.epoch) id))

/-- The value of an accumulator element under its tag, times 2^k. -/
def accVal (a : Accum) (i j : Nat) (k : Int) : Val :=
  match a.tag.type with
  | 0 => .fin false 0 0
  | 1 => (decode .int32 (accAt a i j).toNat).scale k
  | _ => (decode .fp32 (accAt a i j).toNat).scale k

/-- Converts a list of values; under SR lane l steps for element l (R183). -/
def convRow (f : Fmt) (mode : Nat) (sat : Bool) : List Val → List (BitVec 32) → List (Nat × Cls) × List (BitVec 32)
  | [], ls => ([], ls)
  | v :: r, ls =>
    let s := ls.headD 1#32
    let s' := if mode = 2 then lfsr16 s else s
    let one := convert f mode (s'.toNat % 65536) sat v
    let rest := convRow f mode sat r (ls.drop 1)
    (one :: rest.1, s' :: rest.2)

/-- Converts the rows of a drain in order. -/
def convRows (f : Fmt) (mode : Nat) (sat : Bool) : List (List Val) → List (BitVec 32) → List (List (Nat × Cls)) × List (BitVec 32)
  | [], ls => ([], ls)
  | r :: rs, ls =>
    let a := convRow f mode sat r ls
    let b := convRows f mode sat rs a.2
    (a.1 :: b.1, b.2)

/-- Adds n to a bin of a tally set (R182). -/
def tallyAdd (m : Mtx) (set bin n : Nat) : Mtx :=
  let cfg := mget TallyCfg.reset m.tallyCfg set
  if cfg.hold then m else
  let v := satAdd 0xFFFFFFFF (mget 0 m.tally (40 * set + bin)) n
  { m with tally := mput 0 (40 * set + bin) v m.tally,
           tallyCfg := if v = 0xFFFFFFFF then mput TallyCfg.reset set { cfg with ovf := true } m.tallyCfg else m.tallyCfg }

/-- Counts converted elements in a tally set. -/
def tallyRows (m : Mtx) (f : Fmt) (set : Nat) (cs : List Cls) : Mtx :=
  let base := binBase f (mget TallyCfg.reset m.tallyCfg set).base
  cs.foldl (fun m c => tallyAdd m set (clsBin base c) 1) m

/-- The generator lanes that drains still need. -/
def pruneLanes (m : Mtx) : Mtx :=
  let used (e : Nat) : Bool := e == m.epoch || m.queue.any (fun q => match q.op with
    | .drain _ _ _ _ k => k == e
    | _ => false)
  { m with lanes := m.lanes.filter (fun p => used p.1) }

/-- A drain that runs: the rows it writes, the counts it adds, its counter (R179–R182). A marked word of scratchpad that it covers in part
stays as it is and is recorded (R227, R228; log 49). -/
def drainRun (σ : State) (L td : Nat) (ctl : Word) (addr epoch : Nat) : State :=
  let c := getCore σ L
  let m := c.mtx
  let g := m.drn.tag
  let f := drainFmt ctl
  let k := (BitVec.ofNat 8 (bits ctl 15 8)).toInt
  let vals := (List.range (drainRows ctl g)).map (fun r => (List.range (drainCols ctl g)).map (fun l =>
    if bit ctl 7 then accVal m.drn l r k else accVal m.drn r l k))
  let lanes := (m.lanes.find? (fun p => p.1 == epoch)).elim [] (·.2)
  let out := convRows f (bits ctl 4 3) (bit ctl 5) vals lanes
  let row (r : List (Nat × Cls)) : List Byte := (r.map (fun p => toBytes (f.bits / 8) p.1)).flatten
  let m := { m with lanes := m.lanes.map (fun p => if p.1 = epoch then (epoch, out.2) else p) }
  let m := if bit ctl 6 then m else (out.1.zipIdx).foldl (fun m p =>
    let d := row p.1
    putRow m (rowLine m.layout td p.2) (d ++ (getRow m td p.2).drop d.length) [] false) m
  let m := if bit ctl 19 then tallyRows m f (bits ctl 18 16) ((out.1.map (·.map (·.2))).flatten) else m
  let σ := setCore σ L (pmcEvent { c with mtx := m } 0x08 none out.1.length)
  let σ := if bit ctl 6 then (out.1.zipIdx).foldl (fun σ p => netWrite σ L (addr + p.2 * bits ctl 55 32) (row p.1) []) σ else σ
  if bit ctl 26 then modCore σ L (fun c => scAdd c (bits ctl 25 20) 1) else σ

/-- DRAIN_COMPLETE: the oldest queued `t.drain` that may run writes its last row; an error in the accumulator stops the core (R114). -/
def execDrainComplete (core : BitVec 13) (σ : State) : Host.Outcome State Fault Refusal :=
  let L := core.toNat
  let c := getCore σ L
  let isDrain (o : MqOp) : Bool := match o with
    | .drain .. => true
    | _ => false
  if !(coreOn σ L && !c.sup.stopped) then .next σ else
  match mqFind c.mtx isDrain with
  | some ({ op := .drain td ctl addr _ e, .. }, i) =>
    if c.mtx.drn.bad && c.mtx.drn.tag.type != 0 then .next (tidy σ (coreStop σ L 3 0) L) else
    let σ1 := modMtx σ L (fun m => { m with queue := dropAt i m.queue })
    .next (tidy σ (modMtx (drainRun σ1 L td ctl addr e) L pruneLanes) L)
  | _ => .next σ

/-! ### Saved context (R188, R189) -/

/-- Bytes of the matrix context image. -/
def imageSize : Nat := 0x10A80

/-- Bytes of an accumulator in the image. -/
def accBytes (a : Accum) : List Byte := ((List.range 4096).map (fun k => toBytes 4 (mget 0#32 a.data k).toNat)).flatten

/-- The lanes in force. -/
def curLanes (m : Mtx) : List (BitVec 32) := (m.lanes.find? (fun p => p.1 == m.epoch)).elim [] (·.2)

/-- The image (Table: matrix context image). -/
def imageOf (m : Mtx) : List Byte :=
  ((List.range 512).map (getLine m)).flatten ++ (List.range 1024).map (fun i => mget 0x7F#8 m.scale i) ++ accBytes m.cur ++
    accBytes m.drn ++ ((List.range 320).map (fun i => toBytes 4 (mget 0 m.tally i))).flatten ++
    ((curLanes m).map (fun l => toBytes 4 l.toNat)).flatten ++ toBytes 8 (mtxAcc m).toNat ++ toBytes 8 m.layout ++
    toBytes 8 m.seed.toNat ++ toBytes 8 0 ++
    ((List.range 8).map (fun s => toBytes 8 (tallyCfgReg (mget TallyCfg.reset m.tallyCfg s)).toNat)).flatten ++ toBytes 32 0

/-- Words of the image that a poisoned row marks. -/
def imageBad (m : Mtx) : List Nat := (m.poison.map (fun l => (List.range 8).map (· + 8 * l))).flatten

/-- n little-endian numbers of w bytes. -/
def numsOf (w : Nat) : Nat → List Byte → List Nat
  | 0, _ => []
  | k + 1, l => ofBytes (l.take w) :: numsOf w k (l.drop w)

/-- A sparse map from a dense list. -/
def mapOf {α : Type} [DecidableEq α] (d : α) (l : List α) : SMap α :=
  (l.zipIdx).filterMap (fun p => if p.1 = d then none else some (p.2, p.1))

/-- A tag from its field of MTX_ACC. -/
def tagOf (n : Nat) : Tag := { type := n % 4, m := n / 4 % 64 + 1, n := n / 256 % 64 + 1 }

/-- A reserved layout value or nonzero reserved bits in the last 128 bytes of an image. -/
def imageResv (w : List Word) : Bool :=
  bits (wat w 0) 1 0 == 3 || bits (wat w 0) 17 16 == 3 || bits (wat w 0) 15 14 != 0 || bits (wat w 0) 63 30 != 0 ||
    decide (3 ≤ (wat w 1).toNat) || bits (wat w 2) 63 32 != 0 || wat w 3 != 0#64 ||
    (List.range 8).any (fun s => bits (wat w (4 + s)) 63 10 != 0) || (List.range 4).any (fun s => wat w (12 + s) != 0#64)

/-- The engine that an image restores. -/
def imageMtx (m : Mtx) (img : List Byte) : Mtx :=
  let tail := wordsOf 16 (img.drop 0x10A00)
  let lines := (List.range 512).map (fun i => let d := (img.drop (64 * i)).take 64; if d.all (· == 0#8) then [] else d)
  let cfg (s : Nat) : TallyCfg :=
    let v := wat tail (4 + s)
    { base := BitVec.ofNat 8 (bits v 7 0), hold := bit v 8, ovf := bit v 9 }
  let acc (o : Nat) (g : Tag) : Accum :=
    { data := mapOf 0#32 ((numsOf 4 4096 (img.drop o)).map (BitVec.ofNat 32)), tag := g, bad := false }
  let cur := tagOf (bits (wat tail 0) 13 0)
  let drn := tagOf (bits (wat tail 0) 29 16)
  { m with
    tile := mapOf [] lines, scale := mapOf 0x7F#8 ((img.drop 0x8000).take 1024), poison := [],
    cur := acc 0x8400 cur, drn := acc 0xC400 drn, curI := cur, drnI := drn, opc := [],
    layout := bits (wat tail 1) 1 0, seed := BitVec.ofNat 32 (bits (wat tail 2) 31 0), epoch := m.epoch + 1,
    lanes := [(m.epoch + 1, (numsOf 4 64 (img.drop 0x10900)).map (BitVec.ofNat 32))],
    tally := mapOf 0 (numsOf 4 320 (img.drop 0x10400)), tallyCfg := mapOf TallyCfg.reset ((List.range 8).map cfg) }

/-- `t.csave` and `t.crest`: their checks, then the move. -/
def ctxBody (ra : BitVec 5) (go : State → Nat → Nat → Nat → IRes) (σ : State) (L t : Nat) : IRes :=
  let a := (rg σ L t ra).toNat
  if !isSup σ L t then .exc σ (faultOf 0x02)
  else if a % 64 ≠ 0 then .exc σ (faultAt 0x03 a false 64)
  else if spadSize < a + imageSize then .exc σ (faultAt 0x05 a false 64)
  else if !mtxIdle (getCore σ L).mtx then .hold σ
  else go σ L t a

def execTCsave (x : Issue) (ra : BitVec 5) (σ : State) :=
  issue x attMtx σ (ctxBody ra (fun σ L _ a =>
    let m := (getCore σ L).mtx
    if m.cur.bad || m.drn.bad then .set (coreStop σ L 3 0) else .done (spadWriteBad σ L a (imageOf m) (imageBad m)) .seq))

def execTCrest (x : Issue) (ra : BitVec 5) (σ : State) :=
  issue x attMtx σ (ctxBody ra (fun σ L _ a =>
    let r := spadRead σ L a imageSize
    let σ := spadMeet σ L a imageSize
    if !r.2.isEmpty then .exc (noteLocalUE σ L a imageSize) (faultAt 0x0D (8 * r.2.headD 0) false 64)
    else if imageResv (wordsOf 16 (r.1.drop 0x10A00)) then .exc σ (faultOf 0x01)
    else .done (modMtx σ L (fun m => imageMtx m r.1)) .seq))

/-! ### `out` to the engine's registers -/

def execMtxSeedWrite (x : Issue) (v : Word) (σ : State) := outTo x 0xC10 v σ
def execTallyClear (x : Issue) (v : Word) (σ : State) := outTo x 0xC18 (withField v 8 1 1) σ
def execTallyClearAll (x : Issue) (v : Word) (σ : State) := outTo x 0xC18 (withField v 9 1 1) σ

end Sys2Proof.Machine
end

