-- ==== Sys2Proof/Machine/Approx.lean ====
section
/-! DEFINITION. The approximated functions of the vector unit (R201): the special results, the exact value (to 200 bits; log 6), and a
result that is free within the bound of Table: approximation bounds. -/

namespace Sys2Proof.Machine

/-- The functions of Table: approximation bounds. -/
inductive Fn where
  | div | rcp | sqrt | rsqrt | exp2 | log2 | exp | tanh | sigm | sin | cos
  deriving DecidableEq, Repr

/-- Number of a function among the free values. -/
def Fn.num (f : Fn) : Nat :=
  match f with
  | .div => 0
  | .rcp => 1
  | .sqrt => 2
  | .rsqrt => 3
  | .exp2 => 4
  | .log2 => 5
  | .exp => 6
  | .tanh => 7
  | .sigm => 8
  | .sin => 9
  | .cos => 10

/-! ### Exact values in fixed point -/

/-- One in fixed point: 200 fraction bits. -/
def fxOne : Int := 2 ^ 200

/-- ln 2 and 2π in fixed point. -/
def fxLn2 : Int := 0xb17217f7d1cf79abc9e3b39803f2f6af40f343267298b62d8a
def fxTau : Int := 0x6487ed5110b4611a62633145c06e0e68948127044533e63a010

/-- m × 2^e in fixed point, toward zero. -/
def fxOf (s : Bool) (m : Nat) (e : Int) : Int :=
  let v : Nat := if 0 ≤ e + 200 then m * 2 ^ (e + 200).toNat else m / 2 ^ (-(e + 200)).toNat
  if s then -v else v

/-- A fixed-point number times 2^k as a value. -/
def fxVal (v : Int) (k : Int) : Val := .fin (decide (v < 0)) v.natAbs (k - 200)

/-- Σ from k of term × x / k: the rest of the exponential series. -/
def expTerms (x : Int) : Nat → Int → Int → Int
  | 0, _, _ => 0
  | n + 1, t, k => let t' := t * x / fxOne / k; t' + expTerms x n t' (k + 1)

/-- e^x for 0 ≤ x ≤ 1. -/
def fxExp (x : Int) : Int := fxOne + expTerms x 64 fxOne 1

/-- e^x for any x: mantissa and power of two. -/
def fxExpAll (x : Int) : Int × Int :=
  let n := x / fxLn2
  (fxExp (x - n * fxLn2), n)

/-- Σ y^(2j+1) / (2j+1). -/
def atanhTerms (y2 : Int) : Nat → Int → Int → Int
  | 0, _, _ => 0
  | n + 1, t, k => t / k + atanhTerms y2 n (t * y2 / fxOne) (k + 2)

/-- log2 of m × 2^e, m > 0. -/
def fxLog2 (m : Nat) (e : Int) : Int :=
  let l : Int := Nat.log2 m
  let f := fxOf false m (-l)
  let y := (f - fxOne) * fxOne / (f + fxOne)
  (e + l) * fxOne + 2 * atanhTerms (y * y / fxOne) 80 y 1 * fxOne / fxLn2

/-- Alternating series of the sine (from x, k = 2) or the cosine (from 1, k = 1). -/
def trigTerms (x2 : Int) : Nat → Int → Int → Int
  | 0, _, _ => 0
  | n + 1, t, k => t + trigTerms x2 n (-(t * x2 / fxOne / (k * (k + 1)))) (k + 2)

/-- Sine and cosine of a fixed-point angle. -/
def fxSin (x : Int) : Int := let r := x % fxTau; trigTerms (r * r / fxOne) 40 r 2
def fxCos (x : Int) : Int := let r := x % fxTau; trigTerms (r * r / fxOne) 40 fxOne 1

/-- A quotient of nonzero magnitudes with a sticky last bit. -/
def quot (m : Nat) (e : Int) (n : Nat) (d : Int) : Nat × Int :=
  let q := m * 2 ^ 300 / n
  (2 * q + b2n (decide (m * 2 ^ 300 % n ≠ 0)), e - d - 301)

/-- A square root with a sticky last bit. -/
def root (m : Nat) (e : Int) : Nat × Int :=
  let odd := e % 2 = 1
  let m' := (if odd then 2 * m else m) * 2 ^ 600
  let e' := (if odd then e - 1 else e) - 600
  let r := Nat.sqrt m'
  (2 * r + b2n (decide (r * r ≠ m')), e' / 2 - 1)

/-- Not above, or above, a whole number, for x = (−1)^s × m × 2^e. -/
def above (n : Int) (s : Bool) (m : Nat) (e : Int) : Bool := Val.lt (.fin (decide (n < 0)) n.natAbs 0) (.fin s m e)

/-- The result that the table or IEEE 754 fixes, or the value to be approximated. -/
def fnExact (f : Fn) (x y : Val) : Val :=
  match f, x, y with
  | .div, .nan, _ | .div, _, .nan => .nan
  | .div, .inf _, .inf _ => .nan
  | .div, .inf s, .fin t _ _ => .inf (s != t)
  | .div, .fin s _ _, .inf t => .fin (s != t) 0 0
  | .div, .fin s m e, .fin t n d =>
    if n = 0 then (if m = 0 then .nan else .inf (s != t))
    else if m = 0 then .fin (s != t) 0 0
    else let r := quot m e n d; .fin (s != t) r.1 r.2
  | _, .nan, _ => .nan
  | .rcp, .inf s, _ => .fin s 0 0
  | .rcp, .fin s m e, _ => if m = 0 then .inf s else let r := quot 1 0 m e; .fin s r.1 r.2
  | .sqrt, .inf s, _ => if s then .nan else .inf false
  | .sqrt, .fin s m e, _ =>
    if m = 0 then .fin s 0 0 else if s then .nan else let r := root m e; .fin false r.1 r.2
  | .rsqrt, .inf s, _ => if s then .nan else .fin false 0 0
  | .rsqrt, .fin s m e, _ =>
    if m = 0 then .inf false
    else if s then .nan
    else let r := root m e; let q := quot 1 0 r.1 r.2; .fin false q.1 q.2
  | .exp2, .inf s, _ | .exp, .inf s, _ => if s then .fin false 0 0 else .inf false
  | .exp2, .fin s m e, _ =>
    if above 256 s m e then .inf false
    else if !above (-512) s m e then .fin false 1 (-512)
    else
      let v := fxOf s m e
      fxVal (fxExp ((v % fxOne) * fxLn2 / fxOne)) (v / fxOne)
  | .exp, .fin s m e, _ =>
    if above 128 s m e then .inf false
    else if !above (-256) s m e then .fin false 1 (-369)
    else let r := fxExpAll (fxOf s m e); fxVal r.1 r.2
  | .log2, .inf s, _ => if s then .nan else .inf false
  | .log2, .fin s m e, _ => if m = 0 then .inf true else if s then .nan else fxVal (fxLog2 m e) 0
  | .tanh, .inf s, _ => .fin s 1 0
  | .tanh, .fin s m e, _ =>
    if above 32 false m e then .fin s 1 0
    else
      let r := fxExpAll (2 * fxOf false m e)
      let E := r.1 * 2 ^ r.2.toNat
      .fin s ((E - fxOne) * fxOne / (E + fxOne)).toNat (-200)
  | .sigm, .inf s, _ => if s then .fin false 0 0 else .fin false 1 0
  | .sigm, .fin s m e, _ =>
    if above 64 false m e then (if s then .fin false 1 (-93) else .fin false 1 0)
    else
      let r := fxExpAll (fxOf false m e)
      let E := r.1 * 2 ^ r.2.toNat
      .fin false ((if s then fxOne * fxOne else E * fxOne) / (E + fxOne)).toNat (-200)
  | .sin, .inf _, _ | .cos, .inf _, _ => .nan
  | .sin, .fin s m e, _ => if above 65536 false m e then .nan else fxVal (fxSin (fxOf s m e)) 0
  | .cos, .fin s m e, _ => if above 65536 false m e then .nan else fxVal (fxCos (fxOf s m e)) 0

/-- Bound of a function (Table: approximation bounds): units in the last place of the result, and an absolute bound 2^a where one
applies. -/
def fnBound (f : Fn) (x : Val) : Nat × Option Int :=
  match f with
  | .div | .rsqrt | .exp2 => (2, none)
  | .rcp | .sqrt => (1, none)
  | .exp => (3, none)
  | .log2 =>
    match x with
    | .fin false m e =>
      if Val.lt (.fin false m e) (.fin false 1 (-1)) || Val.lt (.fin false 2 0) (.fin false m e) then (2, none) else (0, some (-22))
    | _ => (2, none)
  | .tanh | .sigm => (3, some (-24))
  | .sin | .cos => (0, some (-21))

/-- The FP32 number `raw` lies within k units in its last place, or within 2^a, of the value. -/
def inBound (v : Val) (k : Nat) (a : Option Int) (raw : Nat) : Bool :=
  match decode .fp32 raw, v with
  | .fin s m e, .fin t n d =>
    let diff := Val.abs (Val.add (.fin s m e) (.fin (!t) n d))
    let ok (tol : Val) : Bool := !Val.lt tol diff
    ok (.fin false k (quantum .fp32 m e)) || (match a with
      | some a => ok (.fin false 1 a)
      | none => false)
  | _, _ => false

/-- The result is one that the table or IEEE 754 fixes. -/
def fnFixed (f : Fn) (x v : Val) : Bool :=
  match x, v with
  | .inf _, _ => true
  | .nan, _ | _, .nan | _, .inf _ => true
  | _, .fin _ m _ => decide (m = 0) && (match f with
    | .div | .rcp | .sqrt | .rsqrt => true
    | .exp2 | .log2 | .exp | .tanh | .sigm | .sin | .cos => false)

/-- The FP32 result of a function: the fixed result, or a free value within the bound (log 6). -/
def fnFp32 (f : Fn) (fmt : Nat) (x y : Val) (a b : Nat) : Nat :=
  let v := fnExact f x y
  if fnFixed f x v then rnd .fp32 v else
  let k := fnBound f x
  let raw := (Config.approx f.num fmt a b).toNat
  if inBound v k.1 k.2 raw then raw else rnd .fp32 v

end Sys2Proof.Machine
end

