-- ==== Sys2Proof/Machine/Control.lean ====
section
/-! DEFINITION. Control transfers (R61–R68), hardware loops (R69–R74), traps, modes and serializing instructions (R75–R77), interrupts and
events (R110, R111), instruction fetch (R50), `in` and `out`. -/

namespace Sys2Proof.Machine

/-- A control transfer on an ALU port. -/
def attXfer : Att := { attAlu with inSlot := false, atEnd := false, xfer := true }

/-- A control transfer on the memory/channel port. -/
def attStack : Att := { attXfer with obs := 0, mem := true, port := 3 }

/-! ### Branches, calls and returns -/

/-- `b`: to pc + 4 × disp22. -/
def execB (x : Issue) (disp : BitVec 22) (σ : State) :=
  issue x attXfer σ (fun σ L t => .done σ (.xfer (branchTarget (thrOf σ L t).pc disp)))

/-- `jr` (R68). -/
def execJr (x : Issue) (rs1 : BitVec 5) (σ : State) :=
  issue x attXfer σ (fun σ L t =>
    let a := rg σ L t rs1
    if bits a 1 0 ≠ 0 then .exc σ (faultAt 0x03 a.toNat false 0) else .done σ (.xfer a))

/-- Pushes the return address and the flags word, and goes to the target (R66). -/
def callBody (target : State → Nat → Nat → Word) (σ : State) (L t : Nat) : IRes :=
  let a := target σ L t
  let h := thrOf σ L t
  let sp := (greg h 31).toNat
  if bits a 1 0 ≠ 0 then .exc σ (faultAt 0x03 a.toNat false 0)
  else if sp % 16 ≠ 0 ∨ sp < 16 + h.stackLimit.toNat then .exc σ (faultAt 0x07 sp true 16)
  else ofAR (writeNow σ L t h.mode true (sp - 16) (toBytes 8 (h.pc + 8#64).toNat ++ toBytes 8 (flagsWord h.flags))
      (faultAt 0x0D (sp - 16) true 16)) (fun σ _ =>
    .done (modT σ L t (fun h => setG h 31 (BitVec.ofNat 64 (sp - 16)))) (.xfer a))

def execCall (x : Issue) (disp : BitVec 22) (σ : State) :=
  issue x attStack σ (callBody (fun σ L t => branchTarget (thrOf σ L t).pc disp))

def execCalr (x : Issue) (rs1 : BitVec 5) (σ : State) := issue x attStack σ (callBody (fun σ L t => rg σ L t rs1))

/-- Pops the return address, and with `fl` the flags word (R67). -/
def retBody (fl : Bool) (σ : State) (L t : Nat) : IRes :=
  let h := thrOf σ L t
  let sp := (greg h 31).toNat
  let n := if fl then 16 else 8
  let f := faultAt 0x0D sp false n
  if sp % 16 ≠ 0 then .exc σ { f with cause := 0x07 }
  else ofAR (readNow σ L t h.mode true sp n f) (fun σ r =>
    let a := BitVec.ofNat 64 (ofBytes (r.1.take 8))
    if r.2 then .exc (noteLocalUE σ L sp n) f
    else if bits a 1 0 ≠ 0 then .exc σ (faultAt 0x03 a.toNat false 0)
    else .done (modT σ L t (fun h =>
      let h := setG h 31 (BitVec.ofNat 64 (sp + 16))
      if fl then { h with flags := flagsOf (ofBytes (r.1.drop 8)) } else h)) (.xfer a))

def execRet (x : Issue) (σ : State) := issue x attStack σ (retBody false)
def execRetf (x : Issue) (σ : State) := issue x attStack σ (retBody true)

/-! ### Hardware loops -/

/-- Loop level 0 or 1 of a thread. -/
def loopOf (h : Thread) (level : Bool) : Loop := if level then h.loop1 else h.loop0

/-- Sets a loop level. -/
def setLoop (h : Thread) (level : Bool) (l : Loop) : Thread := if level then { h with loop1 := l } else { h with loop0 := l }

/-- An `lp.` instruction. -/
def attLp (bad : Bool) : Att := { attSys with seqBad := bad }

/-- `lp.setup` and `lp.setupi` with count n and end offset e (R69, R71). -/
def lpSetupBody (level : Bool) (n : BitVec 32) (off : BitVec 12) (σ : State) (L t : Nat) : IRes :=
  let h := thrOf σ L t
  let ls := h.pc + 4#64
  let le := h.pc + 4#64 * off.zeroExtend 64
  let clash := if level then decide (h.loop0.lc ≠ 0#32) && (h.loop0.le.ult le || ls.ult h.loop0.ls) else decide (h.loop1.lc ≠ 0#32)
  if clash then .exc σ (faultOf 0x08)
  else .done (modT σ L t (fun h => setLoop h level { lc := n, ls := ls, le := le })) (if n = 0#32 then .goto (le + 4#64) else .seq)

def execLpSetup (x : Issue) (level : Bool) (rs : BitVec 5) (off : BitVec 12) (σ : State) :=
  issue x (attLp (off == 0#12)) σ (fun σ L t => lpSetupBody level ((rg σ L t rs).truncate 32) off σ L t)

def execLpSetupi (x : Issue) (level : Bool) (cnt : BitVec 7) (off : BitVec 12) (σ : State) :=
  issue x (attLp (off == 0#12)) σ (lpSetupBody level (cnt.zeroExtend 32) off)

/-- `lp.clr`: level 0 clears both levels (R73). -/
def execLpClr (x : Issue) (level : Bool) (σ : State) :=
  issue x (attLp false) σ (fun σ L t => .done (modT σ L t (fun h =>
    let h := setLoop h true { h.loop1 with lc := 0#32 }
    if level then h else setLoop h false { h.loop0 with lc := 0#32 })) .seq)

/-- `lp.get`: field 0 LC, 1 LS, 2 LE; 3 is reserved. -/
def execLpGet (x : Issue) (level : Bool) (reg : BitVec 5) (fld : BitVec 2) (σ : State) :=
  issue x { attLp false with legal := fld != 3#2 } σ (fun σ L t =>
    let l := loopOf (thrOf σ L t) level
    .done (wg σ L t reg (if fld = 0#2 then l.lc.zeroExtend 64 else if fld = 1#2 then l.ls else l.le)) .seq)

/-- `lp.set` (R74). -/
def execLpSet (x : Issue) (level : Bool) (reg : BitVec 5) (fld : BitVec 2) (σ : State) :=
  issue x { attLp false with legal := fld != 3#2 } σ (fun σ L t =>
    let v := rg σ L t reg
    if fld ≠ 0#2 ∧ bits v 1 0 ≠ 0 then .exc σ (faultAt 0x03 v.toNat false 0)
    else .done (modT σ L t (fun h =>
      let l := loopOf h level
      setLoop h level (if fld = 0#2 then { l with lc := v.truncate 32 } else if fld = 1#2 then { l with ls := v } else { l with le := v })))
      .seq)

/-! ### Traps, modes and serializing instructions -/

/-- `trap` completes, then raises 0x10 (R75). -/
def execTrap (x : Issue) (imm : BitVec 8) (σ : State) := issue x attSys σ (fun σ _ _ => .trap σ imm.toNat)

/-- `setmode` (R76, R90). -/
def execSetmode (x : Issue) (imm : BitVec 8) (σ : State) :=
  issue x { attSys with legal := decide (imm.toNat ≤ 1) } σ (fun σ L t =>
    if !isSup σ L t then .exc σ (faultOf 0x02)
    else if serialBusy (getCore σ L) t then .hold σ
    else .done (modT σ L t (fun h => { h with mode := if imm = 1#8 then .supervisor else .user })) .shadow)

/-- `eret` (R97, R98). -/
def execEret (x : Issue) (σ : State) :=
  issue x { attSys with obs := 0, mem := true } σ (fun σ L t =>
    let h := thrOf σ L t
    let sp := (greg h 31).toNat
    if !isSup σ L t then .exc σ (faultOf 0x02)
    else if serialBusy (getCore σ L) t then .hold σ
    else if sp % 16 ≠ 0 then .exc σ (faultAt 0x07 sp false 128)
    else ofAR (readNow σ L t h.mode true sp 128 (faultAt 0x0D sp false 128)) (fun σ r =>
      let w := wordsOf 16 r.1
      if r.2 then .exc (noteLocalUE σ L sp 128) (faultAt 0x0D sp false 128)
      else if frameMisaligned w then
        .exc σ (faultAt 0x03 (if bits (wat w 0) 1 0 ≠ 0 then (wat w 0).toNat else (wat w 2).toNat) false 0)
      else .set (boundary (modT σ L t (fun h => restoreThread h w)) L t)))

/-- `isync`: waits until the thread's earlier accesses and matrix work are complete (R77). -/
def execIsync (x : Issue) (σ : State) :=
  issue x { attSys with atEnd := true } σ (fun σ L t => if serialBusy (getCore σ L) t then .hold σ else .done σ .seq)

/-! ### Interrupts and events -/

/-- Thread t may take an asynchronous event now. -/
def mayTake (c : Core) (t : Nat) : Bool :=
  let h := getThr c t
  (h.st == .ready || h.st == .wait) && h.ae && mayStop c t && h.dbg.pend.isNone && !h.injPend && !c.sup.stopped && c.sup.switching == 0

/-- Thread t takes an event: core-stop conditions come first (R117). -/
def takeAsync (s σ : State) (L t : Nat) (e : Entry) : Host.Outcome State Fault Refusal :=
  match stopFirst s L t with
  | some σ => .next (tidy s σ L)
  | none => .next (tidy s (takeException σ L t e) L)

/-- TAKE_INTERRUPT: thread t takes a pending enabled doorbell, else timer, whose class its wait includes (R111, R117). INT_PEND clears as the
entry begins, also where the entry then ends in the last-resort path (log 47). -/
def execTakeInterrupt (core : BitVec 13) (t : BitVec 4) (σ : State) : Host.Outcome State Fault Refusal :=
  let L := core.toNat
  let n := t.toNat
  let c := getCore σ L
  let h := getThr c n
  let cls (b : Nat) : Bool := h.st == .ready || h.waitClasses.getLsbD b
  let int := if h.pendDoorbell && h.doorbellEn && cls 5 then 1 else if h.pendTimer && h.timerEn && cls 4 then 2 else 0
  if coreOn σ L && mayTake c n && int != 0 && !(n == 0 && !c.sup.evq.isEmpty) then
    takeAsync σ (modT σ L n (fun h => if int = 1 then { h with pendDoorbell := false } else { h with pendTimer := false })) L n
      { cause := 0, int := int, trap := 0, async := true, addr := 0, detail := 0#64, pc := h.pc }
  else .next σ

/-- TAKE_EVENT: thread 0 takes the oldest queued event (R110). -/
def execTakeEvent (core : BitVec 13) (σ : State) : Host.Outcome State Fault Refusal :=
  let L := core.toNat
  let c := getCore σ L
  match c.sup.evq with
  | [] => .next σ
  | r :: rest =>
    if coreOn σ L && mayTake c 0 then
      takeAsync σ (modCore σ L (fun c => { c with sup := { c.sup with evq := rest } })) L 0
        { cause := bits r 7 0, int := 0, trap := 0, async := true, addr := 0, detail := r, pc := (getThr c 0).pc }
    else .next σ

/-! ### Fetch -/

/-- A fetch of the word at va looks up the I-cache: tag parity (R293), then the errors of the word (R292). -/
def icMeet (σ : State) (L va : Nat) : State :=
  let set := (va / 64) % 128
  modCore σ L (fun c =>
    let k := (List.range 4).foldl (fun (k : Caches) w =>
      if (mget DLine.empty k.i (4 * set + w)).tagBad then
        { k with i := mput DLine.empty (4 * set + w) DLine.empty k.i, tagPar := satAdd 0xFFFF k.tagPar 1 }
      else k) c.cache
    match findLine k.i 128 va with
    | none => { c with cache := k }
    | some (key, l) =>
      let r := lineMeet l (va % 64) 4
      { c with cache := { k with
        i := mput DLine.empty key (if r.2.2 = 0 then r.1 else DLine.empty) k.i, icErr := satAdd 0xFFFF k.icErr (r.2.1 + r.2.2) } })

/-- A fill of the I-cache line of va is outstanding. -/
def fetchOut (c : Core) (va : Nat) : Bool :=
  c.outs.any (fun o => match o.kind with
    | .fetch _ l _ => l.va == lineOf va
    | _ => false)

/-- The fetch of thread t's instruction at va, translated: from the I-cache, or by a fill from the home (R50, R284); a page that is not
cacheable is read at its home. -/
def fetchLine (σ : State) (L t : Nat) (f : FInfo) (e : Tlb) (va : Nat) : AR Unit :=
  if 2 ≤ e.cls then
    andThen (homeRead σ L t f (homeAt e va) 4) (fun σ r => if r.2.isEmpty then .ok (accClear σ L t) () else .fault σ f)
  else
    let h := homeAt e (lineOf va)
    let σ := icMeet σ L va
    match findLine (getCore σ L).cache.i 128 va with
    | some _ => .ok σ ()
    | none =>
      if fetchOut (getCore σ L) va then .hold σ else
      let (id, σ) := threadAsks (modCore σ L (fun c => pmcEvent c 0x0B none 1)) L t
        (.fetch (BitVec.ofNat 4 t) (lineNew va h (decide (e.cls = 1)) []) f) h
      .hold (sendRead σ L id h 64 (.fetch L))

/-- The I-cache takes a line; among valid ways the victim is a free choice. -/
def icInstall (σ : State) (L : Nat) (l : DLine) : State :=
  let set := (l.va / 64) % 128
  let i := (getCore σ L).cache.i
  let key := 4 * set + ((List.range 4).find? (fun w => !(mget DLine.empty i (4 * set + w)).valid)).getD (Config.victim σ.freeCtr % 4)
  modCore { σ with freeCtr := σ.freeCtr + 1 } L (fun c => { c with cache := { c.cache with i := mput DLine.empty key l c.cache.i } })

/-- INSTRUCTION_FETCH: the fetch of thread t's next instruction fills the I-cache, or faults (R49, R50). A breakpoint there comes first
(R587). -/
def execInstructionFetch (core : BitVec 13) (t : BitVec 4) (σ : State) : Host.Outcome State Fault Refusal :=
  let L := core.toNat
  let n := t.toNat
  let h := thrOf σ L n
  if !canIssue σ L n attAlu then .next σ else
  match stopFirst σ L n with
  | some σ1 => .next (tidy σ σ1 L)
  | none =>
  match bpMatch (getCore σ L) n h with
  | some k => .next (if h.slot.isSome || h.shadow then σ else tidy σ (debugHit σ L n 1 k h.pc.toNat) L)
  | none =>
    let va := h.pc.toNat
    let f : FInfo := { faultAt 0x0D va false 4 with fetch := true }
    let r : AR Unit :=
      if va < 0x10000000000 ∨ 2 ^ 48 ≤ va then .fault σ { f with cause := 0x05 }
      else andThen (threadXlate σ L n h.mode .fetch va f) (fun σ e => fetchLine σ L n f e va)
    .next (tidy σ (match r with
      | .ok σ1 _ => σ1
      | .hold σ1 => σ1
      | .fault σ1 f => raise σ1 L n f) L)

/-! ### IO-space -/

/-- `in rd, imm12(rs1)`. -/
def execIoIn (x : Issue) (rd rs1 : BitVec 5) (imm : BitVec 12) (σ : State) :=
  issue x { attAlu with port := 3 } σ (fun σ L t => inBody (addrIo (rg σ L t rs1) imm) rd σ L t)

/-- `out rd, imm12(rs1)`. -/
def execIoOut (x : Issue) (rd rs1 : BitVec 5) (imm : BitVec 12) (σ : State) :=
  issue x (attOut (addrIo (rg σ x.core.toNat x.thread.toNat rs1) imm)) σ (fun σ L t =>
    outBody (addrIo (rg σ L t rs1) imm) (rg σ L t rd) σ L t)

end Sys2Proof.Machine
end

