-- ==== Sys2Proof/Machine/Threads.lean ====
section
/-! DEFINITION. Thread commands (Table: thread commands), the supervisor watchdog (R116), the core timer (TIMER) and the event queue
(EVT_NEXT). A command row is the thread's `out` of v to THR_CTLn with that command in CMD. -/

namespace Sys2Proof.Machine

/-- An `out` of a thread command. -/
def thrOut (x : Issue) (n : BitVec 4) (v : Word) (cmd : Nat) (σ : State) : Host.Outcome State Fault Refusal :=
  outTo x (32 * n.toNat) (withField v 0 3 cmd) σ

def execStart (x : Issue) (n : BitVec 4) (v : Word) (σ : State) := thrOut x n v 1 σ
def execStop (x : Issue) (n : BitVec 4) (v : Word) (σ : State) := thrOut x n v 2 σ
def execKill (x : Issue) (n : BitVec 4) (v : Word) (σ : State) := thrOut x n v 3 σ
def execRelease (x : Issue) (n : BitVec 4) (v : Word) (σ : State) := thrOut x n v 4 σ
def execInject (x : Issue) (n : BitVec 4) (v : Word) (σ : State) := thrOut x n v 5 σ
def execResume (x : Issue) (n : BitVec 4) (v : Word) (σ : State) := thrOut x n v 6 σ

/-- `out` to WDOG_KICK (R116). -/
def execWdogKick (x : Issue) (v : Word) (σ : State) := outTo x 0x210 v σ

/-- The watchdog counts: enabled, a period, thread 0 READY (R116). -/
def wdogRuns (c : Core) : Bool := c.sup.wdEnable && c.sup.wdPeriod != 0 && (getThr c 0).st == .ready && !c.sup.stopped

/-- WATCHDOG_EXPIRY: the count has reached zero (R116). -/
def execWatchdogExpiry (core : BitVec 13) (σ : State) : Host.Outcome State Fault Refusal :=
  let L := core.toNat
  let c := getCore σ L
  if coreOn σ L && wdogRuns c && c.sup.wdCount == 0 then .next (tidy σ (coreStop σ L 6 0) L) else .next σ

/-- TIMER_EXPIRY: the interval has passed; the thread's INT_PEND is set, and the timer restarts or stops (TIMER). -/
def execTimerExpiry (core : BitVec 13) (σ : State) : Host.Outcome State Fault Refusal :=
  let L := core.toNat
  let c := getCore σ L
  let s := c.sup
  if coreOn σ L && s.tmEnable && s.tmInterval != 0 && s.tmCount == 0 then
    let c := modThr c s.tmThread (fun h => { h with pendTimer := true })
    .next (setCore σ L { c with sup := { s with tmEnable := s.tmPeriodic, tmCount := if s.tmPeriodic then s.tmInterval else 0 } })
  else .next σ

/-- `in` of EVT_NEXT. -/
def execEvtNextRead (x : Issue) (rd : BitVec 5) (σ : State) := issue x { attAlu with port := 3 } σ (inBody 0x220 rd)

end Sys2Proof.Machine
end

