-- ==== Sys2Proof/Machine/LoadStore.lean ====
section
/-! DEFINITION. Scalar loads, stores and atomics (R57–R60, R234, R271–R278, R368–R370): the checks of R59, the local scratchpad at once, the
module window and misses by requests of the mesh, and the responses that complete them. -/

namespace Sys2Proof.Machine

/-- The value of a load: sign- or zero-extended (Table: load and store forms). -/
def loadVal (b : List Byte) (sext : Bool) : Word :=
  if sext then sextBytes b.length (ofBytes b) else BitVec.ofNat 64 (ofBytes b)

/-- Sends a request that holds thread t inside its instruction until the answer completes it. -/
def ask (σ : State) (L t : Nat) (k : OutKind) (h : Home) (n : Nat) : State :=
  let (id, σ) := threadAsks σ L t k h
  sendRead σ L id h n (.thread L (BitVec.ofNat 4 t))

/-- Home of the line of an address. -/
def lineHome (e : Tlb) (va : Nat) : Home := homeAt e (lineOf va)

/-- A load of n bytes at va into rd; `acq` reads at the home and acquires (R59, R274). -/
def loadBody (va n : Nat) (sext acq : Bool) (rd : BitVec 5) (σ : State) (L t : Nat) : IRes :=
  let h := thrOf σ L t
  let t4 := BitVec.ofNat 4 t
  let f := faultAt 0x0D va false n
  let out (σ : State) (b : List Byte) : IRes :=
    let σ := watch (wg σ L t rd (loadVal b sext)) L t va n true false
    .done (if acq then modCore σ L acquire else σ) .seq
  let far (σ : State) (k : OutKind) (h : Home) (n' : Nat) : IRes :=
    if winFull σ L h then .hold σ else .set (ask (watch σ L t va n true false) L t k h n')
  if va % n ≠ 0 then .exc σ { f with cause := 0x03 } else
  match rangeOf σ L va n with
  | .bad => .exc σ { f with cause := 0x05 }
  | .spad k off =>
    if r53Denies σ L k off n h.mode false then .exc σ { f with cause := 0x05 }
    else if k = L then
      let r := spadRead σ L off n
      if r.2.isEmpty then out (spadMeet σ L off n) r.1 else .exc (noteLocalUE σ L va n) f
    else far σ (.load t4 rd n sext acq va) (.spad k off) n
  | .trans =>
    if (getCore σ L).cache.dcBusy then .hold σ else
    ofAR (threadXlate σ L t h.mode .load va f) (fun σ e =>
      if acq ∨ 2 ≤ e.cls then far σ (.load t4 rd n sext acq va) (homeAt e va) n else
      let σ := dcMeet σ L va n
      let c := getCore σ L
      if c.sup.stopped then .set σ else
      match findLine c.cache.d 256 va with
      | some (_, l) =>
        if (linePoison l va n).isEmpty then out (setCore σ L (pmcEvent c 0x09 (some t) 1)) (lineBytes l va n)
        else .exc (setCore σ L { c with cache := { c.cache with dcUe := satAdd 0xFFFF c.cache.dcUe 1 } }) f
      | none =>
        if fillOut c va || amoOut c va || inWbb c (lineHome e va) || noRoom σ L va then .hold σ else
        let σ := setCore σ L (pmcEvent c 0x0A (some t) 1)
        match sideTake (getCore σ L) va with
        | some (l, c') =>
          match installLine (setCore σ L (pmcEvent c' 0x0C (some t) 1)) L l with
          | some σ => out σ (lineBytes l va n)
          | none => .hold σ
        | none =>
          let l := lineNew va (lineHome e va) (decide (e.cls = 1)) []
          .set (prefetch (ask (watch σ L t va n true false) L t (.fillLoad t4 rd n sext va l false) (lineHome e va) 64) L va))

/-- A write at a home that holds thread t until the home has acknowledged it (R234, R271); the D-cache line of va then takes `merge`. -/
def post (σ : State) (L t va : Nat) (h : Home) (data merge : List Byte) : IRes :=
  if winFull σ L h then .hold σ else
  let t4 := BitVec.ofNat 4 t
  let (id, σ) := threadAsks (watch σ L t va data.length false true) L t (.store t4 va data.length merge) h
  .set (sendWrite σ L id h data [] (.thread L t4))

/-- A store of bytes at va, by the write policy of its class (R59, Table: behaviour by cache class). A store that its home, or the fill of
its line, has to answer completes with that answer, so that a fault of it is precise (R88; log 45). -/
def storeBody (va : Nat) (data : List Byte) (σ : State) (L t : Nat) : IRes :=
  let n := data.length
  let h := thrOf σ L t
  let f := faultAt 0x0D va true n
  let out (σ : State) : IRes := .done (watch σ L t va n false true) .seq
  if va % n ≠ 0 then .exc σ { f with cause := 0x03 } else
  match rangeOf σ L va n with
  | .bad => .exc σ { f with cause := 0x05 }
  | .spad k off =>
    if r53Denies σ L k off n h.mode true then .exc σ { f with cause := 0x05 }
    else if k = L then
      if (partBad (getCore σ L) off n).isEmpty then out (spadWrite σ L off data) else .exc (noteLocalUE σ L va n) f
    else post σ L t va (.spad k off) data []
  | .trans =>
    if (getCore σ L).cache.dcBusy then .hold σ else
    ofAR (threadXlate σ L t h.mode .store va f) (fun σ e =>
      if 2 ≤ e.cls then post σ L t va (homeAt e va) data [] else
      let σ := dcMeet σ L va n
      let c := getCore σ L
      if c.sup.stopped then .set σ else
      match findLine c.cache.d 256 va with
      | some _ =>
        let σ := setCore σ L (pmcEvent c 0x09 (some t) 1)
        if e.cls = 0 then out (mergeAt σ L va data true) else post σ L t va (homeAt e va) data data
      | none =>
        if fillOut c va || amoOut c va || inWbb c (lineHome e va) || (decide (e.cls = 0) && noRoom σ L va) then .hold σ else
        let σ := setCore σ L (pmcEvent c 0x0A (some t) 1)
        if e.cls = 1 then post (sideDrop σ L va) L t va (homeAt e va) data []
        else if c.cache.side.any (fun l => l.va == lineOf va) then
          match sideMove σ L va with
          | some σ => out (mergeAt σ L va data true)
          | none => .hold σ
        else
          let l := lineNew va (lineHome e va) false []
          .set (ask (watch σ L t va n false true) L t (.fillStore (BitVec.ofNat 4 t) va data l) (lineHome e va) 64))

/-- Bytes of a size field. -/
def szBytes (size : BitVec 2) : Nat := 2 ^ size.toNat

/-- The sign bit is not set for a store or an 8-byte load (R57). -/
def loadLegal (size : BitVec 2) (sign : Bool) : Bool := !(sign && size == 3#2)

/-- Low bytes of a register. -/
def lowBytes (v : Word) (n : Nat) : List Byte := toBytes n v.toNat

def execLd (x : Issue) (rd rs1 : BitVec 5) (size : BitVec 2) (sign : Bool) (imm : BitVec 9) (σ : State) :=
  issue x { attMem with legal := loadLegal size sign } σ (fun σ L t =>
    loadBody (addrM (rg σ L t rs1) imm size).toNat (szBytes size) sign false rd σ L t)

def execLdAcq (x : Issue) (rd rs1 : BitVec 5) (size : BitVec 2) (sign : Bool) (imm : BitVec 9) (σ : State) :=
  issue x { attMem with legal := loadLegal size sign } σ (fun σ L t =>
    loadBody (addrM (rg σ L t rs1) imm size).toNat (szBytes size) sign true rd σ L t)

def execLdx (x : Issue) (rd rs1 rs2 : BitVec 5) (size : BitVec 2) (sign scale : Bool) (σ : State) :=
  issue x { attMem with legal := loadLegal size sign } σ (fun σ L t =>
    loadBody (addrX (rg σ L t rs1) (rg σ L t rs2) size scale).toNat (szBytes size) sign false rd σ L t)

def execSt (x : Issue) (rd rs1 : BitVec 5) (size : BitVec 2) (sign : Bool) (imm : BitVec 9) (σ : State) :=
  issue x { attMem with legal := !sign } σ (fun σ L t =>
    storeBody (addrM (rg σ L t rs1) imm size).toNat (lowBytes (rg σ L t rd) (szBytes size)) σ L t)

def execStx (x : Issue) (rd rs1 rs2 : BitVec 5) (size : BitVec 2) (sign scale : Bool) (σ : State) :=
  issue x { attMem with legal := !sign } σ (fun σ L t =>
    storeBody (addrX (rg σ L t rs1) (rg σ L t rs2) size scale).toNat (lowBytes (rg σ L t rd) (szBytes size)) σ L t)

/-! ### Atomics (R368–R370) -/

/-- An atomic of thread t. -/
def amoBody (op : AmoOp) (rd rs1 rs2 : BitVec 5) (eight ord : Bool) (σ : State) (L t : Nat) : IRes :=
  let h := thrOf σ L t
  let va := (rg σ L t rs1).toNat
  let n := if eight then 8 else 4
  let a := rg σ L t rs2
  let b := rg σ L t rd
  let t4 := BitVec.ofNat 4 t
  let f := faultAt 0x0D va true n
  let send' (σ : State) (home : Home) : IRes :=
    if winFull σ L home then .hold σ else
    let (id, σ) := threadAsks (watch σ L t va n true true) L t (.atomic t4 rd eight ord va) home
    .set (sendAtomic σ L id home op eight a b (.thread L t4))
  if va % n ≠ 0 then .exc σ { f with cause := 0x03 }
  else if ord && relBusy (getCore σ L) t then .hold σ else
  match rangeOf σ L va n with
  | .bad => .exc σ { f with cause := 0x05 }
  | .spad k off =>
    if r53Denies σ L k off n h.mode true then .exc σ { f with cause := 0x05 }
    else if k = L then
      let r := spadRead σ L off n
      if !r.2.isEmpty then .exc (noteLocalUE σ L va n) f else
      let old := ofBytes r.1
      let σ := spadWrite (spadMeet σ L off n) L off (toBytes n (amoNew op (8 * n) old a.toNat b.toNat))
      let σ := watch (wg σ L t rd (BitVec.ofNat 64 old)) L t va n true true
      .done (if ord then modCore σ L acquire else σ) .seq
    else send' σ (.spad k off)
  | .trans =>
    if (getCore σ L).cache.dcBusy then .hold σ else
    ofAR (threadXlate σ L t h.mode .atomic va f) (fun σ e =>
      let σ := dcMeet σ L va 0
      let c := getCore σ L
      if c.sup.stopped then .set σ
      else if fillOut c va || amoOut c va || inWbb c (lineHome e va) then .hold σ else
      match findLine c.cache.d 256 va with
      | some (key, l) =>
        if l.dirty && decide (8 ≤ c.cache.wbb.length) then .hold σ
        else
          let σ := setCore σ L { c with cache := dropWay c.cache false key l }
          if l.dirty then .hold (writeBack σ L l) else send' (sideDrop σ L va) (homeAt e va)
      | none => send' (sideDrop σ L va) (homeAt e va))

/-- Issue of an atomic. -/
def amo (op : AmoOp) (x : Issue) (rd rs1 rs2 : BitVec 5) (eight ord : Bool) (σ : State) := issue x attMem σ (amoBody op rd rs1 rs2 eight ord)

def execAmoSwap (x : Issue) (rd rs1 rs2 : BitVec 5) (eight ord : Bool) (σ : State) := amo .swap x rd rs1 rs2 eight ord σ
def execAmoCas (x : Issue) (rd rs1 rs2 : BitVec 5) (eight ord : Bool) (σ : State) := amo .cas x rd rs1 rs2 eight ord σ
def execAmoAdd (x : Issue) (rd rs1 rs2 : BitVec 5) (eight ord : Bool) (σ : State) := amo .add x rd rs1 rs2 eight ord σ
def execAmoAnd (x : Issue) (rd rs1 rs2 : BitVec 5) (eight ord : Bool) (σ : State) := amo .and x rd rs1 rs2 eight ord σ
def execAmoOr (x : Issue) (rd rs1 rs2 : BitVec 5) (eight ord : Bool) (σ : State) := amo .or x rd rs1 rs2 eight ord σ
def execAmoXor (x : Issue) (rd rs1 rs2 : BitVec 5) (eight ord : Bool) (σ : State) := amo .xor x rd rs1 rs2 eight ord σ
def execAmoMin (x : Issue) (rd rs1 rs2 : BitVec 5) (eight ord : Bool) (σ : State) := amo .min x rd rs1 rs2 eight ord σ
def execAmoMax (x : Issue) (rd rs1 rs2 : BitVec 5) (eight ord : Bool) (σ : State) := amo .max x rd rs1 rs2 eight ord σ
def execAmoMinu (x : Issue) (rd rs1 rs2 : BitVec 5) (eight ord : Bool) (σ : State) := amo .minu x rd rs1 rs2 eight ord σ
def execAmoMaxu (x : Issue) (rd rs1 rs2 : BitVec 5) (eight ord : Bool) (σ : State) := amo .maxu x rd rs1 rs2 eight ord σ

/-! ### Responses -/

/-- A response packet that may arrive: its core and its body. -/
def response (σ : State) (i : Nat) : Option (Nat × Body) :=
  match mayArrive σ i with
  | some p => (match p.dst with
    | .core L => if coreOn σ L then some (L, p.body) else none
    | _ => none)
  | none => none

/-- Thread t is held by request id. -/
def heldBy (σ : State) (L t id : Nat) : Bool := (thrOf σ L t).held == .access id

/-- A load of a thread completes with its bytes (R234, R274). -/
def loadDone (σ : State) (L id t : Nat) (rd : BitVec 5) (b : List Byte) (sext : Bool) : State :=
  if heldBy σ L t id then finish (wg σ L t rd (loadVal b sext)) L t .seq else σ

/-- An access of thread t, held by request id, fails (R421). -/
def loadFault (σ : State) (L id t : Nat) (f : FInfo) : State :=
  if heldBy σ L t id then accessFault (modT σ L t (fun h => dropWatch { h with held := .none })) L t f else σ

/-- Thread t, held by request id, goes on with its instruction or its exception entry; the access is recorded. -/
def accDone (σ : State) (L id t : Nat) (r : Option AccRec) : State :=
  if !heldBy σ L t id then σ else
  let σ := modT σ L t (fun h => { h with held := .none })
  match r with
  | some r => accKeep σ L t r
  | none => σ

/-- A store of thread t, held by request id, completes. -/
def storeDone (σ : State) (L id t : Nat) : State := if heldBy σ L t id then finish σ L t .seq else σ

/-- READ_DATA: a read of a thread answered without a line (R234, R274). -/
def execReadData (i : Nat) (σ : State) : Host.Outcome State Fault Refusal :=
  match response σ i with
  | some (L, .readData id data bad _) =>
    let σ1 := dropOut (takePkt σ i) L id
    match findOut (getCore σ L) id with
    | some { kind := .load t rd n sext acq va, .. } =>
      if !bad.isEmpty then .next (tidy σ (loadFault σ1 L id t.toNat (faultAt 0x0D va false n)) L)
      else .next (tidy σ (loadDone (if acq then modCore σ1 L acquire else σ1) L id t.toNat rd data sext) L)
    | some { kind := .accRead t h _, .. } =>
      .next (tidy σ (accDone σ1 L id t.toNat (some { home := h, data := data, bad := bad, write := false })) L)
    | none => .next (takePkt σ i)
    | _ => .next σ
  | _ => .next σ

/-- A line fill of the D-cache that a thread waits for has arrived: the state with the line installed and, for a load, the words that the
access touches; `none` while the line finds no room. A line with an uncorrectable word is not installed (R292); `noInstall` after an acquire
(R276). -/
def fillArrives (σ : State) (L : Nat) (l : DLine) (data : List Byte) (bad : List Nat) (noInstall : Bool) : Option State :=
  if !bad.isEmpty then some (noteCacheUE σ L l.va)
  else if noInstall then some σ
  else installLine σ L { l with data := data }

/-- CACHE_FILL: a fill or a prefetch arrives; it installs unless an acquire has passed (R276, R278, R291, R292). -/
def execCacheFill (i : Nat) (σ : State) : Host.Outcome State Fault Refusal :=
  match response σ i with
  | some (L, .readData id data bad _) =>
    let σ1 := dropOut (takePkt σ i) L id
    let fills (l : DLine) (no : Bool) (k : State → State) : Host.Outcome State Fault Refusal :=
      match fillArrives σ1 L l data bad no with
      | some σ2 => .next (tidy σ (k σ2) L)
      | none => .next σ
    match findOut (getCore σ L) id with
    | some { kind := .fillLoad t rd n sext va l no, .. } =>
      let hurt := bad.any (fun k => (wordsTouched (va % 64) n).contains k)
      fills l no (fun σ => if hurt then loadFault σ L id t.toNat (faultAt 0x0D va false n)
        else loadDone σ L id t.toNat rd ((data.drop (va % 64)).take n) sext)
    | some { kind := .fillStore t va d l, .. } =>
      let l' := { mergeLine { l with data := data, poison := bad } va d with dirty := true }
      (match installLine (if bad.isEmpty then σ1 else noteCacheUE σ1 L va) L l' with
       | some σ2 => .next (tidy σ (storeDone σ2 L id t.toNat) L)
       | none => .next σ)
    | some { kind := .fillAcc t l _ true _, .. } =>
      (match installLine (if bad.isEmpty then σ1 else noteCacheUE σ1 L l.va) L { l with data := data, poison := bad } with
       | some σ2 => .next (tidy σ (accDone σ2 L id t.toNat none) L)
       | none => .next σ)
    | some { kind := .fillAcc t l _ false no, .. } =>
      fills l no (fun σ => accDone σ L id t.toNat (some { home := l.home, data := data, bad := bad, write := false }))
    | some { kind := .fetch t l f, .. } =>
      let σ2 := if bad.isEmpty then icInstall σ1 L { l with data := data } else
        modCore σ1 L (fun c => { c with cache := { c.cache with icErr := satAdd 0xFFFF c.cache.icErr bad.length } })
      .next (tidy σ (if bad.contains (f.addr % 64 / 8) then loadFault σ2 L id t.toNat f else accDone σ2 L id t.toNat none) L)
    | some { kind := .lock l, .. } =>
      .next (tidy σ (if bad.isEmpty then lockFill σ1 L l (some data) else lockFill (noteCacheUE σ1 L l.va) L l none) L)
    | some { kind := .prefetch l no, .. } =>
      if no || !bad.isEmpty then .next (tidy σ σ1 L)
      else
        let side (c : Core) : List DLine := if 16 ≤ c.cache.side.length then c.cache.side.drop 1 else c.cache.side
        .next (tidy σ (modCore σ1 L (fun c => { c with cache := { c.cache with side := side c ++ [{ l with data := data }] } })) L)
    | none => .next (takePkt σ i)
    | _ => .next σ
  | _ => .next σ

/-- WRITE_ACK: a write is performed, and its instruction completes or goes on; a write-back leaves its entry (R234, R271, R272). -/
def execWriteAck (i : Nat) (σ : State) : Host.Outcome State Fault Refusal :=
  match response σ i with
  | some (L, .writeAck id) =>
    let σ1 := dropOut (takePkt σ i) L id
    match findOut (getCore σ L) id with
    | some { kind := .store t va _ merge, .. } =>
      .next (tidy σ (storeDone (if merge.isEmpty then σ1 else mergeAt σ1 L va merge false) L id t.toNat) L)
    | some { kind := .accWrite t h d _ merge, .. } =>
      let σ2 := match merge with
        | some va => mergeAt σ1 L va d false
        | none => σ1
      .next (tidy σ (accDone σ2 L id t.toNat (some { home := h, data := d, bad := [], write := true })) L)
    | some { kind := .wback, .. } =>
      .next (tidy σ (modCore σ1 L (fun c => { c with cache := { c.cache with wbb := c.cache.wbb.filter (fun p => p.1 != id) } })) L)
    | none => .next (takePkt σ i)
    | _ => .next σ
  | _ => .next σ

/-- ATOMIC_DATA: the result of a remote atomic returns (R370). -/
def execAtomicData (i : Nat) (σ : State) : Host.Outcome State Fault Refusal :=
  match response σ i with
  | some (L, .atomicData id old bad) =>
    let σ1 := dropOut (takePkt σ i) L id
    match findOut (getCore σ L) id with
    | some { kind := .atomic t rd eight ord va, .. } =>
      if bad then .next (tidy σ (loadFault σ1 L id t.toNat (faultAt 0x0D va true (if eight then 8 else 4))) L)
      else .next (tidy σ (loadDone (if ord then modCore σ1 L acquire else σ1) L id t.toNat rd (toBytes 8 old.toNat) false) L)
    | none => .next (takePkt σ i)
    | _ => .next σ
  | _ => .next σ

end Sys2Proof.Machine
end

