-- ==== Sys2Proof/Machine/Vector.lean ====
section
/-! DEFINITION. The vector unit (R190–R213): arithmetic, reductions, approximations, conversions, moves, memory, counting. -/

namespace Sys2Proof.Machine

/-- A `v.` instruction whose word is legal. -/
def attVec (legal : Bool) : Att := { attAlu with legal := legal, obs := 1, port := 1 }

/-- A `v.` memory instruction. -/
def attVmem : Att := { attVec true with mem := true }

/-- Lane formats (Table: lane format codes). -/
def laneFmt (type : Nat) : Fmt :=
  match type with
  | 0 => .fp32
  | 1 => .int32
  | 2 => .bf16
  | 3 => .fp16
  | 4 => .int8
  | 5 => .e4m3
  | _ => .e5m2

/-- Lanes of a format in a register. -/
def lanesOf (f : Fmt) : Nat := 1024 / f.bits

/-- Elements of a register in lanes of w bits. -/
def elems (w : Nat) (v : BitVec 1024) : List Nat := (List.range (1024 / w)).map (fun i => v.toNat / 2 ^ (w * i) % 2 ^ w)

/-- A register from elements of w bits; missing elements are zero. -/
def ofElems (w : Nat) (l : List Nat) : BitVec 1024 := BitVec.ofNat 1024 (l.foldr (fun n a => n % 2 ^ w + a * 2 ^ w) 0)

/-- A register from bytes. -/
def ofVBytes (l : List Byte) : BitVec 1024 := BitVec.ofNat 1024 (ofBytes l)

/-- Vector register of thread t. -/
def rv (σ : State) (L t : Nat) (r : BitVec 4) : BitVec 1024 := vreg (thrOf σ L t) r.toNat

/-- Writes a vector register of thread t. -/
def wv (σ : State) (L t : Nat) (r : BitVec 4) (v : BitVec 1024) : State := modT σ L t (fun h => setV h r.toNat v)

/-- The TYPE is one of those permitted. -/
def typeIn (type : BitVec 3) (l : List Nat) : Bool := l.contains type.toNat

/-! ### Elementwise arithmetic -/

/-- The signed value of an integer lane. -/
def laneInt (f : Fmt) (n : Nat) : Int := intOf (decode f n)

/-- Saturates to an integer lane (R196). -/
def satInt (f : Fmt) (v : Int) : Nat := (convert f 1 0 true (.fin (decide (v < 0)) v.natAbs 0)).1

/-- Reads an operand of floating-point arithmetic (deviation 6). -/
def inLane (f : Fmt) (sloe : Bool) (n : Nat) : Nat := if sloe then n else flushSub f n

/-- Writes a floating-point result: rounded once, subnormals flushed in fast mode. -/
def outLane (f : Fmt) (sloe : Bool) (v : Val) : Nat := let n := rnd f v; if sloe then n else flushSub f n

/-- Elementwise with two operands. -/
def zip2 (f : Fmt) (g : Nat → Nat → Nat) (a b : BitVec 1024) : BitVec 1024 :=
  ofElems f.bits (List.zipWith g (elems f.bits a) (elems f.bits b))

/-- Floating-point or saturating integer arithmetic of two operands. -/
def arith2 (fv : Val → Val → Val) (fi : Int → Int → Int) (sloe : Bool) (f : Fmt) (a b : BitVec 1024) : BitVec 1024 :=
  zip2 f (fun x y =>
    if f.isInt then satInt f (fi (laneInt f x) (laneInt f y))
    else outLane f sloe (fv (decode f (inLane f sloe x)) (decode f (inLane f sloe y)))) a b

/-- Arithmetic of three operands, rounded or saturated once. -/
def arith3 (fv : Val → Val → Val → Val) (fi : Int → Int → Int → Int) (sloe : Bool) (f : Fmt) (a b d : BitVec 1024) : BitVec 1024 :=
  let r (x : Nat) : Val := decode f (inLane f sloe x)
  ofElems f.bits (List.zipWith (fun p z =>
    if f.isInt then satInt f (fi (laneInt f p.1) (laneInt f p.2) (laneInt f z))
    else outLane f sloe (fv (r p.1) (r p.2) (r z))) ((elems f.bits a).zip (elems f.bits b)) (elems f.bits d))

/-- Comparison of two lanes in one order: x < y, false where either is NaN. -/
def laneLt (f : Fmt) (sloe : Bool) (x y : Nat) : Bool := Val.lt (decode f (inLane f sloe x)) (decode f (inLane f sloe y))

/-- A lane is NaN. -/
def laneNan (f : Fmt) (x : Nat) : Bool := decode f x == .nan

/-- The smaller (or larger) of two lanes: NaN if either is, the first operand where they are equal (R197). -/
def laneMin (larger : Bool) (f : Fmt) (sloe : Bool) (x y : Nat) : Nat :=
  if laneNan f x || laneNan f y then f.nan
  else
    let take := if larger then laneLt f sloe x y else laneLt f sloe y x
    let r := if take then y else x
    if f.isInt then r else inLane f sloe r

/-- All ones or zero. -/
def laneMask (f : Fmt) (b : Bool) : Nat := if b then 2 ^ f.bits - 1 else 0

/-- Issue of a two-operand function. -/
def vec2 (types : List Nat) (g : Bool → Fmt → BitVec 1024 → BitVec 1024 → BitVec 1024) (x : Issue) (vd va vb : BitVec 4) (sloe : Bool)
    (type : BitVec 3) (σ : State) : Host.Outcome State Fault Refusal :=
  issue x (attVec (typeIn type types)) σ (fun σ L t =>
    .done (wv σ L t vd (g sloe (laneFmt type.toNat) (rv σ L t va) (rv σ L t vb))) .seq)

/-- Issue of a function that also reads vd. -/
def vec3 (types : List Nat) (g : Bool → Fmt → BitVec 1024 → BitVec 1024 → BitVec 1024 → BitVec 1024) (x : Issue) (vd va vb : BitVec 4)
    (sloe : Bool) (type : BitVec 3) (σ : State) : Host.Outcome State Fault Refusal :=
  issue x (attVec (typeIn type types)) σ (fun σ L t =>
    .done (wv σ L t vd (g sloe (laneFmt type.toNat) (rv σ L t va) (rv σ L t vb) (rv σ L t vd))) .seq)

/-- Issue of a one-operand function. -/
def vec1 (types : List Nat) (g : Bool → Fmt → BitVec 1024 → BitVec 1024) (x : Issue) (vd va : BitVec 4) (sloe : Bool) (type : BitVec 3)
    (σ : State) : Host.Outcome State Fault Refusal :=
  issue x (attVec (typeIn type types)) σ (fun σ L t => .done (wv σ L t vd (g sloe (laneFmt type.toNat) (rv σ L t va))) .seq)

/-- TYPE lists of the function tables. -/
def tAll : List Nat := [0, 1, 2, 3, 4, 5, 6]
def tNum : List Nat := [0, 1, 2, 3, 4]
def tFp : List Nat := [0, 2, 3]

def execVAdd (x : Issue) (vd va vb : BitVec 4) (sloe : Bool) (type : BitVec 3) (σ : State) :=
  vec2 tNum (arith2 Val.add (· + ·)) x vd va vb sloe type σ
def execVSub (x : Issue) (vd va vb : BitVec 4) (sloe : Bool) (type : BitVec 3) (σ : State) :=
  vec2 tNum (arith2 (fun a b => Val.add a b.neg) (· - ·)) x vd va vb sloe type σ
def execVMul (x : Issue) (vd va vb : BitVec 4) (sloe : Bool) (type : BitVec 3) (σ : State) :=
  vec2 tNum (arith2 Val.mul (· * ·)) x vd va vb sloe type σ
def execVMin (x : Issue) (vd va vb : BitVec 4) (sloe : Bool) (type : BitVec 3) (σ : State) :=
  vec2 tNum (fun s f => zip2 f (laneMin false f s)) x vd va vb sloe type σ
def execVMax (x : Issue) (vd va vb : BitVec 4) (sloe : Bool) (type : BitVec 3) (σ : State) :=
  vec2 tNum (fun s f => zip2 f (laneMin true f s)) x vd va vb sloe type σ

/-- A function of R201 on one lane: correctly rounded in Sloe mode where `exactSloe`, else the FP32 result rounded to the lane. -/
def fnLane (fn : Fn) (exactSloe : Bool) (f : Fmt) (type : Nat) (sloe : Bool) (a b : Nat) : Nat :=
  let a' := inLane f sloe a
  let b' := inLane f sloe b
  let x := decode f a'
  let y := decode f b'
  if sloe && exactSloe then rnd f (fnExact fn x y)
  else
    let r := decode .fp32 (fnFp32 fn type x y a' b')
    outLane f sloe r

/-- `v.div`. -/
def execVDiv (x : Issue) (vd va vb : BitVec 4) (sloe : Bool) (type : BitVec 3) (σ : State) :=
  vec2 tFp (fun s f => zip2 f (fnLane .div true f type.toNat s)) x vd va vb sloe type σ

def execVAnd (x : Issue) (vd va vb : BitVec 4) (sloe : Bool) (type : BitVec 3) (σ : State) :=
  vec2 tAll (fun _ _ a b => a &&& b) x vd va vb sloe type σ
def execVOr (x : Issue) (vd va vb : BitVec 4) (sloe : Bool) (type : BitVec 3) (σ : State) :=
  vec2 tAll (fun _ _ a b => a ||| b) x vd va vb sloe type σ
def execVXor (x : Issue) (vd va vb : BitVec 4) (sloe : Bool) (type : BitVec 3) (σ : State) :=
  vec2 tAll (fun _ _ a b => a ^^^ b) x vd va vb sloe type σ

/-- Shifts by b mod the lane width. -/
def execVShl (x : Issue) (vd va vb : BitVec 4) (sloe : Bool) (type : BitVec 3) (σ : State) :=
  vec2 [1, 4] (fun _ f => zip2 f (fun a b => a * 2 ^ (b % f.bits) % 2 ^ f.bits)) x vd va vb sloe type σ
def execVShr (x : Issue) (vd va vb : BitVec 4) (sloe : Bool) (type : BitVec 3) (σ : State) :=
  vec2 [1, 4] (fun _ f => zip2 f (fun a b => a / 2 ^ (b % f.bits))) x vd va vb sloe type σ
def execVSar (x : Issue) (vd va vb : BitVec 4) (sloe : Bool) (type : BitVec 3) (σ : State) :=
  vec2 [1, 4] (fun _ f => zip2 f (fun a b => satInt f (laneInt f a / 2 ^ (b % f.bits)))) x vd va vb sloe type σ

def execVCmpeq (x : Issue) (vd va vb : BitVec 4) (sloe : Bool) (type : BitVec 3) (σ : State) :=
  vec2 tNum (fun s f => zip2 f (fun a b =>
    laneMask f (!laneNan f a && !laneNan f b && !laneLt f s a b && !laneLt f s b a))) x vd va vb sloe type σ
def execVCmplt (x : Issue) (vd va vb : BitVec 4) (sloe : Bool) (type : BitVec 3) (σ : State) :=
  vec2 tNum (fun s f => zip2 f (fun a b => laneMask f (laneLt f s a b))) x vd va vb sloe type σ
def execVCmple (x : Issue) (vd va vb : BitVec 4) (sloe : Bool) (type : BitVec 3) (σ : State) :=
  vec2 tNum (fun s f => zip2 f (fun a b => laneMask f (!laneNan f a && !laneNan f b && !laneLt f s b a))) x vd va vb sloe type σ

/-- `v.ldexp`: powers beyond ±1,024 overflow or underflow as ±1,024 does. -/
def execVLdexp (x : Issue) (vd va vb : BitVec 4) (sloe : Bool) (type : BitVec 3) (σ : State) :=
  vec2 tFp (fun s f => zip2 f (fun a b =>
    let k : Int := if 2 ^ (f.bits - 1) ≤ b then (b : Int) - 2 ^ f.bits else b
    outLane f s ((decode f (inLane f s a)).scale (max (-1024) (min 1024 k))))) x vd va vb sloe type σ

def execVPerm (x : Issue) (vd va vb : BitVec 4) (sloe : Bool) (type : BitVec 3) (σ : State) :=
  vec2 tAll (fun _ f a b =>
    let l := elems f.bits a
    ofElems f.bits ((elems f.bits b).map (fun i => l.getD (i % lanesOf f) 0))) x vd va vb sloe type σ

def execVFma (x : Issue) (vd va vb : BitVec 4) (sloe : Bool) (type : BitVec 3) (σ : State) :=
  vec3 [0, 1, 2, 3] (arith3 (fun a b d => Val.add (Val.mul a b) d) (fun a b d => a * b + d)) x vd va vb sloe type σ
def execVFms (x : Issue) (vd va vb : BitVec 4) (sloe : Bool) (type : BitVec 3) (σ : State) :=
  vec3 [0, 1, 2, 3] (arith3 (fun a b d => Val.add (Val.mul a b) d.neg) (fun a b d => a * b - d)) x vd va vb sloe type σ
def execVFnma (x : Issue) (vd va vb : BitVec 4) (sloe : Bool) (type : BitVec 3) (σ : State) :=
  vec3 [0, 1, 2, 3] (arith3 (fun a b d => Val.add (Val.mul a b).neg d) (fun a b d => -(a * b) + d)) x vd va vb sloe type σ

/-- `v.sel`, on bits (R196). -/
def execVSel (x : Issue) (vd va vb : BitVec 4) (sloe : Bool) (type : BitVec 3) (σ : State) :=
  vec3 tAll (fun _ f a b d => ofElems f.bits (List.zipWith (fun p z => if z ≠ 0 then p.1 else p.2)
    ((elems f.bits a).zip (elems f.bits b)) (elems f.bits d))) x vd va vb sloe type σ

/-- `v.dpa` (R198). -/
def execVDpa (x : Issue) (vd va vb : BitVec 4) (sloe : Bool) (type : BitVec 3) (σ : State) :=
  vec3 [4] (fun _ _ a b d =>
    let ps := List.zipWith (fun p q => laneInt .int8 p * laneInt .int8 q) (elems 8 a) (elems 8 b)
    let sum4 (i : Nat) : Int := ((ps.drop (4 * i)).take 4).foldl (· + ·) 0
    ofElems 32 ((elems 32 d).zipIdx.map (fun p => satInt .int32 (laneInt .int32 p.1 + sum4 p.2)))) x vd va vb sloe type σ

/-- Elementwise with one operand. -/
def map1 (f : Fmt) (g : Nat → Nat) (a : BitVec 1024) : BitVec 1024 := ofElems f.bits ((elems f.bits a).map g)

def execVNeg (x : Issue) (vd va : BitVec 4) (sloe : Bool) (type : BitVec 3) (σ : State) :=
  vec1 tAll (fun _ f => map1 f (fun n =>
    if f.isInt then satInt f (-(laneInt f n)) else (n + 2 ^ (f.bits - 1)) % 2 ^ f.bits)) x vd va sloe type σ
def execVAbs (x : Issue) (vd va : BitVec 4) (sloe : Bool) (type : BitVec 3) (σ : State) :=
  vec1 tAll (fun _ f => map1 f (fun n =>
    if f.isInt then satInt f ((laneInt f n).natAbs) else n % 2 ^ (f.bits - 1))) x vd va sloe type σ
def execVMov (x : Issue) (vd va : BitVec 4) (sloe : Bool) (type : BitVec 3) (σ : State) :=
  vec1 tAll (fun _ _ a => a) x vd va sloe type σ

/-- A one-operand function of R201. -/
def fn1 (fn : Fn) (exactSloe : Bool) (x : Issue) (vd va : BitVec 4) (sloe : Bool) (type : BitVec 3) (σ : State) :=
  vec1 tFp (fun s f => map1 f (fun n => fnLane fn exactSloe f type.toNat s n 0)) x vd va sloe type σ

def execVRcp (x : Issue) (vd va : BitVec 4) (sloe : Bool) (type : BitVec 3) (σ : State) := fn1 .rcp true x vd va sloe type σ
def execVSqrt (x : Issue) (vd va : BitVec 4) (sloe : Bool) (type : BitVec 3) (σ : State) := fn1 .sqrt true x vd va sloe type σ
def execVRsqrt (x : Issue) (vd va : BitVec 4) (sloe : Bool) (type : BitVec 3) (σ : State) := fn1 .rsqrt false x vd va sloe type σ
def execVExp2 (x : Issue) (vd va : BitVec 4) (sloe : Bool) (type : BitVec 3) (σ : State) := fn1 .exp2 false x vd va sloe type σ
def execVLog2 (x : Issue) (vd va : BitVec 4) (sloe : Bool) (type : BitVec 3) (σ : State) := fn1 .log2 false x vd va sloe type σ
def execVExp (x : Issue) (vd va : BitVec 4) (sloe : Bool) (type : BitVec 3) (σ : State) := fn1 .exp false x vd va sloe type σ
def execVTanh (x : Issue) (vd va : BitVec 4) (sloe : Bool) (type : BitVec 3) (σ : State) := fn1 .tanh false x vd va sloe type σ
def execVSigm (x : Issue) (vd va : BitVec 4) (sloe : Bool) (type : BitVec 3) (σ : State) := fn1 .sigm false x vd va sloe type σ
def execVSin (x : Issue) (vd va : BitVec 4) (sloe : Bool) (type : BitVec 3) (σ : State) := fn1 .sin false x vd va sloe type σ
def execVCos (x : Issue) (vd va : BitVec 4) (sloe : Bool) (type : BitVec 3) (σ : State) := fn1 .cos false x vd va sloe type σ

/-- Scale of a block (R205). -/
def blockScaleOf (vs : List Val) : Nat :=
  if vs.any (fun v => match v with
    | .fin .. => false
    | _ => true) then 0xFF
  else
    let tops := vs.filterMap (fun v => match v with
      | .fin _ m e => if m = 0 then none else some (e + (Nat.log2 m : Int))
      | _ => none)
    match tops with
    | [] => 0x7F
    | t :: r => (max 0 (min 254 (r.foldl max t - 2 + 127))).toNat

/-- `v.bscale` (R205). -/
def execVBscale (x : Issue) (vd va : BitVec 4) (sloe : Bool) (type : BitVec 3) (σ : State) :=
  vec1 [0, 2] (fun _ f a =>
    let vs := (elems f.bits a).map (decode f)
    ofElems 8 ((List.range (lanesOf f / 32)).map (fun b => blockScaleOf ((vs.drop (32 * b)).take 32)))) x vd va sloe type σ

/-! ### Reductions (R199, R200) -/

/-- Pairwise levels. -/
def treeAdd (f : Fmt) : Nat → List Nat → Nat
  | 0, l => l.headD 0
  | k + 1, l =>
    match l with
    | [] => 0
    | [n] => n
    | _ =>
      let next := (List.range (l.length / 2)).map (fun i =>
        rnd f (Val.add (decode f (l.getD (2 * i) 0)) (decode f (l.getD (2 * i + 1) 0))))
      treeAdd f k next

/-- A reduction: floating-point lanes by `g`, integer lanes exactly into an INT32 that saturates. -/
def reduce (types : List Nat) (g : Bool → Fmt → List Nat → Nat) (gi : List Int → Int) (x : Issue) (vd va : BitVec 4) (sloe : Bool)
    (type : BitVec 3) (σ : State) : Host.Outcome State Fault Refusal :=
  vec1 types (fun s f a =>
    let l := elems f.bits a
    if f.isInt then ofElems 32 [satInt .int32 (gi (l.map (laneInt f)))]
    else ofElems f.bits [g s f l]) x vd va sloe type σ

def execVRadd (x : Issue) (vd va : BitVec 4) (sloe : Bool) (type : BitVec 3) (σ : State) :=
  reduce tNum (fun s f l => if s then l.tail.foldl (fun a n => rnd f (Val.add (decode f a) (decode f n))) (l.headD 0) else treeAdd f 8 l)
    (fun l => l.foldl (· + ·) 0) x vd va sloe type σ
def execVRmax (x : Issue) (vd va : BitVec 4) (sloe : Bool) (type : BitVec 3) (σ : State) :=
  reduce tNum (fun _ f l => l.tail.foldl (laneMin true f true) (l.headD 0)) (fun l => l.tail.foldl max (l.headD 0)) x vd va sloe type σ
def execVRmin (x : Issue) (vd va : BitVec 4) (sloe : Bool) (type : BitVec 3) (σ : State) :=
  reduce tNum (fun _ f l => l.tail.foldl (laneMin false f true) (l.headD 0)) (fun l => l.tail.foldl min (l.headD 0)) x vd va sloe type σ

/-! ### Conversions (R202–R208) -/

/-- Fields of the conversion control that no function takes: reserved bits, RMODE 3. -/
def cvtResv (w : Word) : Bool := bits w 63 32 != 0 || bits w 15 13 != 0 || bits w 4 3 == 3

/-- Splits into chunks of 32 elements. -/
def chunks32 : Nat → List Val → List (List Val)
  | 0, _ => []
  | k + 1, l => if l.isEmpty then [] else l.take 32 :: chunks32 k (l.drop 32)

/-- Converts values under a control word, drawing from the lane generator under SR (R207) and counting under TALLY_EN (R206). -/
def vconv (σ : State) (L : Nat) (ctl : Word) (f : Fmt) (sat : Bool) (vs : List Val) : State × List Nat :=
  let c := getCore σ L
  let r := convRows f (bits ctl 4 3) sat (chunks32 4 vs) c.vlanes
  let out := r.1.flatten
  let m := if bit ctl 6 then tallyRows c.mtx f (bits ctl 9 7) (out.map (·.2)) else c.mtx
  (setCore σ L { c with mtx := m, vlanes := r.2 }, out.map (·.1))

/-- Replaces elements from place p on of the lanes of w bits of a register. -/
def putElems (w p : Nat) (l : List Nat) (old : BitVec 1024) : BitVec 1024 :=
  let e := elems w old
  ofElems w (e.take p ++ l ++ e.drop (p + l.length))

/-- The signed KSCALE. -/
def kscale (w : Word) : Int := (BitVec.ofNat 8 (bits w 23 16)).toInt

/-- `v.cvt` (R203): n is the lane count of the wider format. -/
def execVCvt (x : Issue) (vd va : BitVec 4) (rctl : BitVec 5) (type : BitVec 3) (σ : State) :=
  issue x (attVec (typeIn type tAll)) σ (fun σ L t =>
    let w := rg σ L t rctl
    let src := laneFmt type.toNat
    let dst := laneFmt (bits w 2 0)
    let part := bits w 12 10
    let n := Nat.min (lanesOf src) (lanesOf dst)
    let ratio := Nat.max (lanesOf src) (lanesOf dst) / n
    if cvtResv w || bits w 31 24 != 0 || bits w 2 0 == 7 || decide (ratio ≤ part) then .exc σ (faultOf 0x01)
    else
      let e := elems src.bits (rv σ L t va)
      let e := if lanesOf dst < lanesOf src then (e.drop (part * n)).take n else e.take n
      let r := vconv σ L w dst (bit w 5) (e.map (fun i => (decode src i).scale (kscale w)))
      let d := if lanesOf src < lanesOf dst then putElems dst.bits (part * n) r.2 (rv σ L t vd) else ofElems dst.bits r.2
      .done (wv r.1 L t vd d) .seq)

/-- The 4-bit format of DST_FMT. -/
def fmt4 (w : Word) : Fmt := if bits w 2 0 = 0 then .int4 else .e2m1

/-- A value under a block scale that is divided out or applied; the scale 0xFF is a NaN. -/
def scaled4 (s : Nat) (mul : Bool) (v : Val) : Val :=
  if s = 0xFF then .nan else v.scale (if mul then (s : Int) - 127 else 127 - (s : Int))

/-- `v.pack4` (R126, R204). -/
def execVPack4 (x : Issue) (vd va : BitVec 4) (rctl : BitVec 5) (type : BitVec 3) (σ : State) :=
  issue x (attVec (typeIn type [0, 2])) σ (fun σ L t =>
    let w := rg σ L t rctl
    let src := laneFmt type.toNat
    let nb := lanesOf src / 32
    let part := bits w 12 10
    if cvtResv w || bits w 23 16 != 0 || decide (2 ≤ bits w 2 0) || decide (8 ≤ nb * part) then .exc σ (faultOf 0x01)
    else
      let vs := (elems src.bits (rv σ L t va)).map (fun i => scaled4 (bits w 31 24) false (decode src i))
      let r := vconv σ L w (fmt4 w) true vs
      .done (wv r.1 L t vd (putElems 4 (32 * nb * part) r.2 (rv σ L t vd))) .seq)

/-- `v.unpack4` (R204). -/
def execVUnpack4 (x : Issue) (vd va : BitVec 4) (rctl : BitVec 5) (type : BitVec 3) (σ : State) :=
  issue x (attVec (typeIn type [0])) σ (fun σ L t =>
    let w := rg σ L t rctl
    if cvtResv w || bits w 23 16 != 0 || decide (2 ≤ bits w 2 0) then .exc σ (faultOf 0x01)
    else
      let e := ((elems 4 (rv σ L t va)).drop (32 * bits w 12 10)).take 32
      let r := vconv σ L w .fp32 (bit w 5) (e.map (fun i => scaled4 (bits w 31 24) true (decode (fmt4 w) i)))
      .done (wv r.1 L t vd (ofElems 32 r.2)) .seq)

/-- `v.seed` (R208). -/
def execVSeed (x : Issue) (rs : BitVec 5) (σ : State) :=
  issue x (attVec true) σ (fun σ L t =>
    let s := BitVec.ofNat 32 (bits (rg σ L t rs) 31 0)
    .done (modCore σ L (fun c => { c with vlanes := (List.range 32).map (laneSeed s) })) .seq)

/-- The class of a counted element (R212). -/
def elemCls (v : Val) : Cls :=
  match v with
  | .fin _ m e => if m = 0 then .zero else .exp (e + Nat.log2 m)
  | _ => .nonfinite

/-- `v.tally` (R212). -/
def execVTally (x : Issue) (va : BitVec 4) (set : BitVec 3) (type : BitVec 3) (σ : State) :=
  issue x (attVec (typeIn type tAll)) σ (fun σ L t =>
    let f := laneFmt type.toNat
    let cs := (elems f.bits (rv σ L t va)).map (fun i => elemCls (decode f i))
    .done (modMtx σ L (fun m => tallyRows m f set.toNat cs)) .seq)

/-! ### Moves -/

/-- LANE is below the lane count. -/
def laneOk (type : BitVec 3) (lane : BitVec 7) : Bool := typeIn type tAll && decide (lane.toNat < lanesOf (laneFmt type.toNat))

def execVSplat (x : Issue) (rg' : BitVec 5) (vr : BitVec 4) (lane : BitVec 7) (type : BitVec 3) (σ : State) :=
  issue x (attVec (typeIn type tAll && lane == 0#7)) σ (fun σ L t =>
    let f := laneFmt type.toNat
    .done (wv σ L t vr (ofElems f.bits (List.replicate (lanesOf f) ((rg σ L t rg').toNat % 2 ^ f.bits)))) .seq)

def execVGetl (x : Issue) (rg' : BitVec 5) (vr : BitVec 4) (lane : BitVec 7) (type : BitVec 3) (σ : State) :=
  issue x (attVec (laneOk type lane)) σ (fun σ L t =>
    let f := laneFmt type.toNat
    .done (wg σ L t rg' (w64 ((elems f.bits (rv σ L t vr)).getD lane.toNat 0))) .seq)

def execVSetl (x : Issue) (rg' : BitVec 5) (vr : BitVec 4) (lane : BitVec 7) (type : BitVec 3) (σ : State) :=
  issue x (attVec (laneOk type lane)) σ (fun σ L t =>
    let f := laneFmt type.toNat
    .done (wv σ L t vr (putElems f.bits lane.toNat [(rg σ L t rg').toNat % 2 ^ f.bits] (rv σ L t vr))) .seq)

/-! ### Memory (R209–R211) -/

/-- Bytes of a register. -/
def vBytes (v : BitVec 1024) : List Byte := toBytes 128 v.toNat

/-- `v.ld`. -/
def execVLd (x : Issue) (vd : BitVec 4) (rs1 rs2 : BitVec 5) (σ : State) :=
  issue x attVmem σ (fun σ L t =>
    let va := (rg σ L t rs1 + rg σ L t rs2).toNat
    let mode := (thrOf σ L t).mode
    let f (k : Nat) : FInfo := faultAt 0x0D (va + 64 * k) false 64
    if va % 64 ≠ 0 then .exc σ { f 0 with cause := 0x03 } else
    ofAR (readNow σ L t mode true va 64 (f 0)) (fun σ a =>
      if a.2 then .exc (noteLocalUE σ L va 64) (f 0) else
      ofAR (readNow σ L t mode true (va + 64) 64 (f 1)) (fun σ b =>
        if b.2 then .exc (noteLocalUE σ L (va + 64) 64) (f 1)
        else .done (watch (wv σ L t vd (ofVBytes (a.1 ++ b.1))) L t va 128 true false) .seq)))

/-- `v.st`. -/
def execVSt (x : Issue) (vs : BitVec 4) (rs1 rs2 : BitVec 5) (σ : State) :=
  issue x attVmem σ (fun σ L t =>
    let va := (rg σ L t rs1 + rg σ L t rs2).toNat
    let mode := (thrOf σ L t).mode
    let d := vBytes (rv σ L t vs)
    let f (k : Nat) : FInfo := faultAt 0x0D (va + 64 * k) true 64
    if va % 64 ≠ 0 then .exc σ { f 0 with cause := 0x03 } else
    ofAR (writeNow σ L t mode true va (d.take 64) (f 0)) (fun σ _ =>
      ofAR (writeNow σ L t mode true (va + 64) (d.drop 64) (f 1)) (fun σ _ =>
        .done (watch σ L t va 128 false true) .seq)))

/-- The checks of `v.ldt` and `v.stt` (R210), and the wait for queued work on the row (R159). -/
def tileRow (tile : BitVec 4) (rs2 : BitVec 5) (write : Bool) (k : State → Nat → IRes) (σ : State) (L t : Nat) : IRes :=
  withLease σ L t (
    let m := (getCore σ L).mtx
    let r := bits (rg σ L t rs2) 6 0
    if layTiles m.layout ≤ tile.toNat then shapeFail σ L 4 0x0F
    else if layRows m.layout ≤ r then shapeFail σ L 5 0x0F
    else if lineBusy m (rowLine m.layout tile.toNat r) (layRow m.layout / 64) write then .hold σ
    else k σ r)

/-- `v.ldt`. -/
def execVLdt (x : Issue) (vd tile : BitVec 4) (rs2 : BitVec 5) (σ : State) :=
  issue x attVmem σ (fun σ L t => tileRow tile rs2 false (fun σ r =>
    let m := (getCore σ L).mtx
    if rowBad m tile.toNat r then .set (coreStop σ L 3 0)
    else .done (wv σ L t vd (ofVBytes (getRow m tile.toNat r))) .seq) σ L t)

/-- `v.stt`. -/
def execVStt (x : Issue) (vs tile : BitVec 4) (rs2 : BitVec 5) (σ : State) :=
  issue x attVmem σ (fun σ L t => tileRow tile rs2 true (fun σ r =>
    let d := vBytes (rv σ L t vs)
    .done (modMtx σ L (fun m => putRow m (rowLine m.layout tile.toNat r) (d.take (layRow m.layout)) [] false)) .seq) σ L t)

/-- How a long instruction's units end: all done, a fault at a unit, a wait at a unit, a watchpoint hit before a unit. -/
inductive Units where
  | all (σ : State)
  | fault (σ : State) (i : Nat) (f : FInfo)
  | wait (σ : State) (i : Nat)
  | hit (σ : State) (i : Nat)

/-- Does units from i on in ascending order, stopping after a unit that a watchpoint matches (R588). A unit that is done leaves no answered
access behind. -/
def unitsFrom (f : State → Nat → AR Unit) (L t : Nat) : Nat → Nat → State → Units
  | 0, _, σ => .all σ
  | k + 1, i, σ =>
    match f σ i with
    | .ok σ _ =>
      let σ := accClear σ L t
      if watchHit σ L t && decide (k ≠ 0) then .hit σ (i + 1) else unitsFrom f L t k (i + 1) σ
    | .fault σ e => .fault σ i e
    | .hold σ => .wait σ i

/-- Ends a long instruction of a major opcode (R102, R103). -/
def unitsEnd (r : Units) (L t major : Nat) (fin : State → State) : IRes :=
  match r with
  | .all σ => .done (fin (clearProg σ L t)) .seq
  | .fault σ i f => .exc (setProg σ L t major i) f
  | .wait σ i => .hold (if i = 0 then σ else setProg σ L t major i)
  | .hit σ i => .set (boundary (setProg σ L t major i) L t)

/-- `v.gather` (load) and `v.scatter` (R211). Bits [63:3] of RS2 and the unlisted TYPE values raise 0x01 (log 50). -/
def gatherBody (load : Bool) (v vi : BitVec 4) (rs1 rs2 : BitVec 5) (σ : State) (L t : Nat) : IRes :=
  let ctl := rg σ L t rs2
  let mode := (thrOf σ L t).mode
  let w := (laneFmt (bits ctl 2 0)).bits
  let n := w / 8
  let base := rg σ L t rs1
  let idx := (elems 32 (rv σ L t vi)).map (BitVec.ofNat 32)
  let va (i : Nat) : Nat := (base + (idx.getD i 0#32).signExtend 64 * w64 n).toNat
  if bits ctl 63 3 ≠ 0 ∨ 4 < bits ctl 2 0 then .exc σ (faultOf 0x01) else
  let f (σ : State) (i : Nat) : AR Unit :=
    let a := va i
    if a % n ≠ 0 then .fault σ (faultAt 0x03 a (!load) n)
    else if load then
      andThen (readNow σ L t mode true a n (faultAt 0x0D a false n)) (fun σ r =>
        if r.2 then .fault (noteLocalUE σ L a n) (faultAt 0x0D a false n)
        else .ok (watch (wv σ L t v (putElems w i [ofBytes r.1] (rv σ L t v))) L t a n true false) ())
    else
      andThen (writeNow σ L t mode true a (toBytes n ((elems w (rv σ L t v)).getD i 0)) (faultAt 0x0D a true n)) (fun σ _ =>
        .ok (watch σ L t a n false true) ())
  let start := progStart (thrOf σ L t) 0x2A
  unitsEnd (unitsFrom f L t (32 - start) start σ) L t 0x2A (fun σ =>
    if load then wv σ L t v (ofElems w ((elems w (rv σ L t v)).take 32)) else σ)

def execVGather (x : Issue) (vd : BitVec 4) (rs1 rs2 : BitVec 5) (vi : BitVec 4) (σ : State) :=
  issue x attVmem σ (gatherBody true vd vi rs1 rs2)
def execVScatter (x : Issue) (vs : BitVec 4) (rs1 rs2 : BitVec 5) (vi : BitVec 4) (σ : State) :=
  issue x attVmem σ (gatherBody false vs vi rs1 rs2)

end Sys2Proof.Machine
end

