-- ==== Sys2Proof/Machine/Words.lean ====
section
/-! DEFINITION. Illegal instruction words (R43): reserved majors, unassigned functions, reserved fields (R11) and unlisted encodings (R12) of
every major opcode, unit by unit. Fields of format A and format Y that no rule says must be 0 are not looked at (log 54). -/

namespace Sys2Proof.Machine

/-- Bits [hi:lo] of a word are not all 0. -/
def setIn (n hi lo : Nat) : Bool := nbits n hi lo != 0

/-- ALU functions (Table: ALU functions of major 0x01). -/
def aluIllegal (n : Nat) : Bool :=
  match nbits n 6 1 with
  | 0x18 | 0x19 | 0x1A => setIn n 11 7
  | 0x20 => setIn n 21 17 || setIn n 0 0
  | 0x09 | 0x0E | 0x0F | 0x13 => true
  | f => decide (0x1A < f)

/-- Loads and stores (R57): an 8-byte or storing access has no sign. -/
def sizeIllegal (n : Nat) : Bool :=
  match nbits n 27 22 with
  | 0x11 => setIn n 9 9
  | 0x14 => setIn n 1 0 || (setIn n 5 5 && (setIn n 6 6 || nbits n 4 3 == 3))
  | _ => setIn n 9 9 && nbits n 11 10 == 3

/-- Register transfers (major 0x1E), system words (0x1F) and loops (0x20). -/
def controlIllegal (n : Nat) : Bool :=
  match nbits n 27 22 with
  | 0x1E => decide (3 < nbits n 6 1) || setIn n 21 17 || setIn n 11 7 || (decide (2 ≤ nbits n 6 1) && setIn n 16 12)
  | 0x1F => decide (5 < nbits n 21 16) || setIn n 2 0 || (nbits n 21 16 == 1 && decide (1 < nbits n 10 3))
  | _ =>
    (match nbits n 21 20 with
     | 0 => setIn n 13 12
     | 1 => false
     | 2 => setIn n 18 0
     | _ => setIn n 13 3 || nbits n 1 0 == 3)

/-- Vector words (R193, R194): the TYPE of each function, fields given as 0, LANE below the lane count. -/
def vectorIllegal (n : Nat) : Bool :=
  let f := nbits n 5 0
  let type (l : List Nat) : Bool := !l.contains (nbits n 8 6)
  match nbits n 27 22 with
  | 0x24 =>
    if f < 5 ∨ (0x0C ≤ f ∧ f < 0x0F) then type tNum
    else if f = 5 ∨ f = 0x0F then type tFp
    else if f < 9 ∨ f = 0x10 then type tAll
    else decide (0x10 < f) || type [1, 4]
  | 0x25 => if f < 3 then type [0, 1, 2, 3] else if f = 3 then type tAll else f != 4 || type [4]
  | 0x26 => setIn n 13 10 || (if f < 3 then type tAll else if f < 0x0D then type tFp else f != 0x0D || type [0, 2])
  | 0x27 => setIn n 13 10 || decide (2 < f) || type tNum
  | 0x28 => if f = 0 then type tAll else if f = 1 then type [0, 2] else f != 2 || type [0]
  | 0x29 =>
    let t := nbits n 5 3
    let lane := nbits n 12 6
    decide (2 < nbits n 2 0) || !tAll.contains t || (if nbits n 2 0 = 0 then lane != 0 else decide (lanesOf (laneFmt t) ≤ lane))
  | 0x2A => decide (5 < nbits n 3 0) || (decide (nbits n 3 0 < 2) && setIn n 7 4)
  | _ => setIn n 9 9 || (if f = 0 then setIn n 17 13 || type tAll else f != 1 || setIn n 21 18 || setIn n 12 10 || setIn n 8 6)

/-- Matrix words (Table: matrix instruction words, Table: functions of major 0x2C). -/
def matrixIllegal (n : Nat) : Bool :=
  match nbits n 27 22 with
  | 0x2C =>
    let f := nbits n 3 0
    decide (6 < f) || setIn n 15 4 || (f != 5 && setIn n 21 18) || (if f = 2 then nbits n 17 16 == 3 else setIn n 17 16)
  | 0x2D => setIn n 8 0
  | 0x30 => setIn n 2 0
  | 0x32 => setIn n 21 18 || setIn n 12 8 || setIn n 7 1
  | 0x33 => true
  | _ => setIn n 7 0

/-- Channel words (Table: channel functions): the fields that a function does not use are 0. -/
def channelIllegal (n : Nat) : Bool :=
  let f := nbits n 3 0
  match nbits n 27 22 with
  | 0x34 =>
    if f = 0 then setIn n 16 4
    else if f < 3 then setIn n 11 4
    else if f < 5 then setIn n 16 12
    else if f = 5 then setIn n 16 12 || setIn n 7 4
    else f != 6 || setIn n 21 4
  | 0x35 => decide (3 < f) || setIn n 11 4
  | _ => true

/-- Words of counters, DMA and streams (Table: counter instruction words, Table: DMA instruction word, Table: stream instruction word). -/
def unitIllegal (n : Nat) : Bool :=
  let f := nbits n 3 0
  match nbits n 27 22 with
  | 0x38 =>
    if f < 3 then setIn n 21 17 || setIn n 4 4
    else if f = 3 then setIn n 16 12 || setIn n 5 4
    else decide (5 < f) || setIn n 21 17
  | 0x39 => f != 0 || setIn n 11 6 || setIn n 4 4
  | 0x3A => decide (1 < f) || setIn n 9 4 || (f == 1 && setIn n 21 12)
  | 0x3C => decide (2 < f) || setIn n 8 4 || (f != 1 && setIn n 21 17) || (f != 0 && setIn n 16 12)
  | _ => true

/-- The word is illegal. -/
def wordIllegal (w : BitVec 32) : Bool :=
  let n := w.toNat
  let m := nbits n 27 22
  if 0x38 ≤ m then unitIllegal n
  else if 0x34 ≤ m then channelIllegal n
  else if 0x2C ≤ m then matrixIllegal n
  else if 0x24 ≤ m then vectorIllegal n
  else match m with
  | 0x01 => aluIllegal n
  | 0x02 | 0x03 | 0x04 | 0x05 | 0x08 | 0x09 | 0x0A | 0x18 | 0x19 | 0x1C | 0x1D => false
  | 0x06 => setIn n 11 9 || nbits n 2 1 == 3
  | 0x07 => setIn n 21 17 || setIn n 0 0
  | 0x0B => nbits n 21 18 == 0 || decide (0xA < nbits n 21 18) || setIn n 6 0
  | 0x0C => nbits n 21 18 == 0 || decide (0xA < nbits n 21 18)
  | 0x10 | 0x11 | 0x12 | 0x14 => sizeIllegal n
  | 0x15 => decide (9 < nbits n 6 3) || setIn n 0 0
  | 0x16 => setIn n 12 0
  | 0x17 => setIn n 0 0 || decide (3 < nbits n 6 1) || (decide (2 ≤ nbits n 6 1) && setIn n 11 7)
  | 0x1E | 0x1F | 0x20 => controlIllegal n
  | _ => true

/-- ILLEGAL_INSTRUCTION: the thread issues an illegal word and raises 0x01, whatever its condition (R43, R44). -/
def execIllegalInstruction (x : Issue) (word : BitVec 32) (σ : State) : Host.Outcome State Fault Refusal :=
  if wordIllegal word then issue x { attAlu with legal := false } σ (fun σ _ _ => .done σ .seq) else .next σ

end Sys2Proof.Machine
end

