-- ==== Sys2Proof/Machine/Scratchpad.lean ====
section
/-! DEFINITION. `memfill`, landing windows, the credit protocol at the receiver and at the sender, remote writes, the module window at the
owning core, the scrubber (R229–R243, R595). -/

namespace Sys2Proof.Machine

/-- The packet waits behind a message that the core's VC2 input holds (R329). -/
def behindMessage (c : Core) (b : Body) : Bool :=
  vcOf b == 2 && !c.vc2.isEmpty && (match b with
    | .message .. => false
    | _ => true)

/-- A packet that may arrive at core L; the network path works while the core is stopped or halted (R243). -/
def arrival (σ : State) (i : Nat) : Option (Nat × Packet) :=
  match mayArrive σ i with
  | some p => (match p.dst with
    | .core L => if coreOn σ L && !behindMessage (getCore σ L) p.body then some (L, p) else none
    | _ => none)
  | none => none

/-! ### The scratchpad instructions (R232–R237) -/

/-- Issue of `memfill`. -/
def execMemfill (x : Issue) (ra rs1 rs2 : BitVec 5) (σ : State) :=
  issue x attMem σ (fun σ L t =>
    let a := (rg σ L t ra).toNat
    let n := bits (rg σ L t rs1) 31 0
    let d := (List.range 8).flatMap (fun _ => toBytes 8 (rg σ L t rs2).toNat)
    if a % 64 ≠ 0 ∨ n % 64 ≠ 0 then .exc σ (faultAt 0x03 a true 64) else
    let mode := (thrOf σ L t).mode
    let start := progStart (thrOf σ L t) 0x17
    unitsEnd (unitsFrom (fun σ i =>
        andThen (writeNow σ L t mode false (a + 64 * i) d (faultAt 0x0D (a + 64 * i) true 64))
          (fun σ _ => .ok (watch σ L t (a + 64 * i) 64 false true) ()))
      L t (n / 64 - start) start σ) L t 0x17 id)

/-- The result code of `lwopen` (Table: lwopen results). -/
def lwResult (c : Core) (a b : Word) : Nat :=
  let base := bits a 21 0
  let size := bits a 53 32
  let w := bits b 3 0
  let meets (k : Nat) : Bool :=
    let q := getWin c k
    q.opened && decide (q.base < base + size) && decide (base < q.base + q.size)
  if (getWin c w).opened then 1
  else if base % 64 ≠ 0 ∨ size % 64 ≠ 0 ∨ size = 0 ∨ spadSize < base + size then 2
  else if (List.range 16).any meets then 3
  else if inLastResort base size then 4
  else if bits a 63 54 ≠ 0 ∨ bits a 31 22 ≠ 0 ∨ bits b 63 39 ≠ 0 ∨ bits b 31 27 ≠ 0 ∨ bits b 7 4 ≠ 0 ∨ bits b 38 32 = 0 ∨
      64 < bits b 38 32 ∨ (bit b 24 = true ∧ bits b 23 8 ≠ 0) ∨ (bit b 25 = false ∧ bit b 26 = false) then 5
  else 0

/-- The window that `lwopen` opens. -/
def lwWindow (a b : Word) : Window :=
  { opened := true, base := bits a 21 0, size := bits a 53 32, maxCredits := bits b 38 32, ownPair := bit b 24,
    pair := ⟨BitVec.ofNat 12 (bits b 19 8), BitVec.ofNat 4 (bits b 23 20)⟩, thisModule := bit b 25, otherModules := bit b 26,
    drops := 0 }

/-- An instruction of the memory/channel port that makes no memory access. -/
def attPort : Att := { attAlu with port := 3 }

def execLwopen (x : Issue) (rd rs1 rs2 : BitVec 5) (σ : State) :=
  issue x attPort σ (fun σ L t =>
    if !isSup σ L t then .exc σ (faultOf 0x02) else
    let a := rg σ L t rs1
    let b := rg σ L t rs2
    let r := lwResult (getCore σ L) a b
    let σ := if r = 0 then modCore σ L (fun c => setWin c (bits b 3 0) (lwWindow a b)) else σ
    .done (wg σ L t rd (w64 r)) .seq)

/-- Credits that window w of a core holds: entry, module, core and unit of the sender. -/
def winCredits (c : Core) (w : Nat) : List (Nat × Nat × Nat × Eng) :=
  (List.range 64).filterMap (fun e => match getCred c e with
    | .held k m s u _ _ _ _ => if k = w then some (e, m, s, u) else none
    | _ => none)

/-- Closes window w of core L (R241, R595): its credits are freed into quarantine and revoked. -/
def closeWin (σ : State) (L w : Nat) : State × Nat :=
  let cs := winCredits (getCore σ L) w
  let σ := modCore σ L (fun c => setWin c w { Window.closed with drops := (getWin c w).drops })
  (cs.foldl (fun σ e =>
    sendTo (modCore σ L (fun c => setCred c e.1 (.quarantine 0))) (.core L) (coreEp σ e.2.1 e.2.2.1) (.creditRevoke e.2.2.2 e.1)) σ,
   cs.length)

/-- Closes every window of a core (R236). -/
def closeWins (σ : State) (L : Nat) : State := (List.range 16).foldl (fun σ w => (closeWin σ L w).1) σ

def execLwclose (x : Issue) (rd rs1 : BitVec 5) (σ : State) :=
  issue x attPort σ (fun σ L t =>
    if !isSup σ L t then .exc σ (faultOf 0x02) else
    let r := closeWin σ L (bits (rg σ L t rs1) 3 0)
    .done (wg r.1 L t rd (w64 r.2)) .seq)

def execLwstat (x : Issue) (rd rs1 : BitVec 5) (σ : State) :=
  issue x attPort σ (fun σ L t =>
    let w := bits (rg σ L t rs1) 3 0
    let c := getCore σ L
    let q := getWin c w
    .done (wg σ L t rd (w64 (b2n q.opened + fl (winCredits c w).length 1 + fl q.maxCredits 8 + fl q.drops 16))) .seq)

/-! ### The receiver of a credit request (R238) -/

/-- The judgment of a credit request after its logical id: 0 to grant, else the reason. -/
def creditJudge (c : Core) (here srcMod win off len : Nat) (pair : Pair) : Nat :=
  let w := getWin c win
  if !w.opened then 1
  else if !(if srcMod = here then w.thisModule else w.otherModules) then 4
  else if pair ≠ (if w.ownPair then c.sup.pair else w.pair) then 3
  else if off < w.base ∨ w.base + w.size < off + len then 2
  else if w.maxCredits ≤ (winCredits c win).length ∨ (List.range 64).all (fun e => getCred c e != .free) = true then 5
  else 0

/-- CREDIT_REQ (R238). DESIGN CHOICE: of the free entries of the credit table a grant takes the least; the spec says only "a free credit
entry" (log 52). -/
def execCreditReq (i : Nat) (σ : State) : Host.Outcome State Fault Refusal :=
  match arrival σ i with
  | some (L, { body := .creditReq s u srcMod _ win off len pair, .. }) =>
    let σ := takePkt σ i
    let c := getCore σ L
    let back := coreEp σ srcMod s
    (match creditJudge c (moduleId σ) srcMod win off len pair with
     | 0 =>
       let e := ((List.range 64).find? (fun e => getCred c e == .free)).getD 0
       .next (sendTo (setCore σ L (setCred c e (.held win srcMod s u off len 0 pair))) (.core L) back (.creditGrant u e))
     | r => .next (sendTo σ (.core L) back (.creditRefuse u r)))
  | _ => .next σ

/-- CREDIT_QUARANTINE_END (R595). -/
def execCreditQuarantineEnd (core : BitVec 13) (entry : BitVec 6) (σ : State) : Host.Outcome State Fault Refusal :=
  match getCred (getCore σ core.toNat) entry.toNat with
  | .quarantine t => if 21000 ≤ t then .next (modCore σ core.toNat (fun c => setCred c entry.toNat .free)) else .next σ
  | _ => .next σ

/-! ### The sender (R238, R241, R251) -/

/-- Credit of a sender unit. -/
def engCredit (c : Core) (u : Eng) : CreditSt :=
  match u with
  | .slot s => (getSlot c s.toNat).credit
  | .dma k => (getChan c k.toNat).credit

/-- The core that a unit's remote write goes to. -/
def engTarget (σ : State) (c : Core) (u : Eng) : Option Ep :=
  match u with
  | .slot s => (match (getSlot c s.toNat).queue with
    | d :: _ => some (coreEp σ (sdMod d.w) (sdId d.w))
    | [] => none)
  | .dma k => let d := (getChan c k.toNat).desc; some (coreEp σ (ddMod d) (ddId d))

/-- Sets the credit of a sender unit. -/
def setEngCredit (σ : State) (L : Nat) (u : Eng) (x : CreditSt) : State :=
  match u with
  | .slot s => modSlot σ L s.toNat (fun q => { q with credit := x })
  | .dma k => modChan σ L k.toNat (fun q => { q with credit := x })

/-- Sets CREDIT_REASON of a sender unit. -/
def setEngReason (σ : State) (L : Nat) (u : Eng) (r : Nat) : State :=
  match u with
  | .slot s => modSlot σ L s.toNat (fun q => { q with creditReason := r })
  | .dma k => modChan σ L k.toNat (fun q => { q with creditReason := r })

/-- A sender unit is in RUN. -/
def engRuns (c : Core) (u : Eng) : Bool :=
  match u with
  | .slot s => (getSlot c s.toNat).st == 1
  | .dma k => (getChan c k.toNat).st == 1

/-- The remote write of a unit ends for a credit reason (R251, R391). -/
def creditFail (σ : State) (L : Nat) (u : Eng) (r : Nat) : State :=
  let σ := setEngReason (setEngCredit σ L u .none) L u r
  match u with
  | .slot s => slotSettle (slotFail σ L s.toNat (getSlot (getCore σ L) s.toNat).nxt (.credit r)) L s.toNat
  | .dma k =>
    let q := getChan (getCore σ L) k.toNat
    chanSettle (chanFail σ L k.toNat q.nxt (.credit r) (ddOff q.desc + q.nxt)) L k.toNat

/-- CREDIT_GRANT (R238), from the core that the unit asked. A unit that waits for no grant leaves the entry held at the receiver. -/
def execCreditGrant (i : Nat) (σ : State) : Host.Outcome State Fault Refusal :=
  match arrival σ i with
  | some (L, { src := src, body := .creditGrant u e, .. }) =>
    let σ1 := takePkt σ i
    if engTarget σ (getCore σ L) u ≠ some src then .next σ1 else
    (match engCredit (getCore σ L) u with
     | .asked _ _ => .next (tidy σ (setEngCredit σ1 L u (.held e)) L)
     | _ => .next σ1)
  | _ => .next σ

/-- CREDIT_REFUSE (Table: credit refusal reasons), from the core that the unit asked, or an I/O die: NO_WINDOW and BUSY are asked again for 5 ms. -/
def execCreditRefuse (i : Nat) (σ : State) : Host.Outcome State Fault Refusal :=
  match arrival σ i with
  | some (L, { src := src, body := .creditRefuse u r, .. }) =>
    let σ1 := modCore (takePkt σ i) L (fun c => pmcEvent c 0x1C none 1)
    if src ≠ .io ∧ engTarget σ (getCore σ L) u ≠ some src then .next σ1 else
    (match engCredit (getCore σ L) u with
     | .asked _ first =>
       if (r = 1 ∨ r = 5) ∧ first.getD 0 < 5000 then .next (setEngReason (setEngCredit σ1 L u (.again (first.getD 0))) L u r)
       else .next (tidy σ (creditFail σ1 L u r) L)
     | _ => .next σ1)
  | _ => .next σ

/-- CREDIT_REVOKE (R241): a unit that holds no such credit ignores it. -/
def execCreditRevoke (i : Nat) (σ : State) : Host.Outcome State Fault Refusal :=
  match arrival σ i with
  | some (L, { src := src, body := .creditRevoke u e, .. }) =>
    let σ1 := takePkt σ i
    let c := getCore σ L
    if engCredit c u = .held e ∧ engTarget σ c u = some src then .next (tidy σ (creditFail σ1 L u 7) L) else .next σ1
  | _ => .next σ

/-- Asks for the credit of a unit again (R238). -/
def creditAgain (σ : State) (L : Nat) (u : Eng) : State :=
  let c := getCore σ L
  match u with
  | .slot s =>
    let q := getSlot c s.toNat
    (match q.queue with
     | d :: _ => askCredit σ L u (sdMod d.w) (sdId d.w) (sdWin d.w) (sdOff d.w + q.creditFrom) (sdBytes d.w - q.creditFrom)
     | [] => σ)
  | .dma k =>
    let q := getChan c k.toNat
    askCredit σ L u (ddMod q.desc) (ddId q.desc) (ddWin q.desc) (ddOff q.desc + q.creditFrom) (ddLen q.desc - q.creditFrom)

/-- CREDIT_RETRY: the unit asks again, or ends once 5 ms have passed since the first refusal. -/
def execCreditRetry (core : BitVec 13) (u : Eng) (σ : State) : Host.Outcome State Fault Refusal :=
  let L := core.toNat
  let c := getCore σ L
  if !coreOn σ L || !engRuns c u || c.sup.stopped then .next σ else
  match engCredit c u with
  | .again ref =>
    if 5000 ≤ ref then
      .next (tidy σ (creditFail σ L u (match u with
        | .slot s => (getSlot c s.toNat).creditReason
        | .dma k => (getChan c k.toNat).creditReason)) L)
    else .next (creditAgain (setEngCredit σ L u (.asked 0 (some ref))) L u)
  | _ => .next σ

/-- CREDIT_TIMEOUT: no reply within 50 ms of the request (reason 8). -/
def execCreditTimeout (core : BitVec 13) (u : Eng) (σ : State) : Host.Outcome State Fault Refusal :=
  let L := core.toNat
  match engCredit (getCore σ L) u with
  | .asked since _ => if coreOn σ L = true ∧ 50000 ≤ since then .next (tidy σ (creditFail σ L u 8) L) else .next σ
  | _ => .next σ

/-! ### Remote writes (R239, R240, R363, R373) -/

/-- Bytes of a packet are written, and its riding signal counts them (R363). -/
def landPacket (σ : State) (L e off : Nat) (data : List Byte) (sig : Option RSig) (win srcMod srcCore : Nat) (u : Eng) (off' len done : Nat)
    (pair : Pair) : State :=
  let σ := netWrite σ L off data []
  let done' := done + data.length
  let full := decide (len ≤ done')
  let σ := modCore σ L (fun c => setCred c e (if full then .free else .held win srcMod srcCore u off' len done' pair))
  let add (σ : State) (k n : Nat) : State := modCore σ L (fun c => scAdd c k n)
  let σ := match sig with
    | none => σ
    | some g =>
      match g.mode.toNat with
      | 0 => if full then add σ g.cnt.toNat 1 else σ
      | 1 => add σ g.cnt.toNat data.length
      | 2 => add σ g.cnt.toNat 1
      | _ => σ
  if full then sendTo σ (.core L) (coreEp σ srcMod srcCore) (.landingAck u e) else σ

/-- REMOTE_WRITE. -/
def execRemoteWrite (i : Nat) (σ : State) : Host.Outcome State Fault Refusal :=
  match arrival σ i with
  | some (L, { body := .remoteWrite _ _ e off pair data _ sig _, .. }) =>
    let σ1 := takePkt σ i
    let c := getCore σ L
    (match getCred c e with
     | .held win srcMod srcCore u off' len done pr =>
       if pair = pr ∧ off' ≤ off ∧ off + data.length ≤ off' + len then
         .next (tidy σ (landPacket σ1 L e off data sig win srcMod srcCore u off' len done pr) L)
       else
         let w := getWin c win
         .next (modCore σ1 L (fun c => setWin c win { w with drops := satAdd 0xFFFFFFFF w.drops 1 }))
     | _ => .next σ1)
  | _ => .next σ

/-- LANDING_ACK: the whole credit of a unit has landed (R373, R393). -/
def execLandingAck (i : Nat) (σ : State) : Host.Outcome State Fault Refusal :=
  match arrival σ i with
  | some (L, { src := src, body := .landingAck u e, .. }) =>
    let σ1 := takePkt σ i
    let c := getCore σ L
    if engCredit c u ≠ .held e ∨ engTarget σ c u ≠ some src then .next σ1 else
    (match u with
     | .slot s =>
       let q := getSlot c s.toNat
       (match q.queue with
        | d :: _ =>
          if q.nxt = sdUnits d.w ∧ q.got.isEmpty = true ∧ (slotOuts c s.toNat).all (fun o => o.1) = true then
            let σ1 := modCore σ1 L (fun c => pmcEvent c 0x1E none (sdBytes d.w - q.creditFrom))
            let σ1 := if sdCntEn d.w then modCore σ1 L (fun c => scAdd c (sdCnt d.w) 1) else σ1
            .next (tidy σ (slotNext σ1 L s.toNat) L)
          else .next σ1
        | [] => .next σ1)
     | .dma k =>
       let q := getChan c k.toNat
       if q.started = true ∧ q.nxt = ddLen q.desc then
         let σ1 := modCore σ1 L (fun c => pmcEvent c 0x1D none (ddLen q.desc - q.creditFrom))
         .next (modChan σ1 L k.toNat (fun q => { q with credit := .none, pos := ddLen q.desc }))
       else .next σ1)
  | _ => .next σ

/-! ### The module window at the owning core (R234), and the scrubber (R229, R230) -/

/-- WINDOW_REQUEST: a read or a write of the scratchpad by another core. -/
def execWindowRequest (i : Nat) (σ : State) : Host.Outcome State Fault Refusal :=
  match arrival σ i with
  | some (L, { src := src, body := .read id (.spad k off) n w, .. }) =>
    if k ≠ L then .next σ else
    let r := spadRead σ L off n
    let σ := r.2.foldl (fun σ w => noteSpadUE σ L (8 * w)) (spadMeet (takePkt σ i) L off n)
    .next (sendTo σ (.core L) src (.readData id r.1 (r.2.map (· - off / 8)) (bulkWho w false)))
  | some (L, { src := src, body := .write id (.spad k off) runs bad _, .. }) =>
    if k ≠ L then .next σ else
    .next (sendTo (runs.foldl (fun σ r => netWrite σ L (off + r.1) r.2 bad) (takePkt σ i)) (.core L) src (.writeAck id))
  | _ => .next σ

/-- SCRUB_VISIT: the pending write-backs, then a check of the next beat, whose new errors the command gives as word numbers below 8 (R229,
R230). A corrected word waits for its write-back; an uncorrectable one is recorded and stays. -/
def execScrubVisit (core : BitVec 13) (ecc : Ecc) (σ : State) : Host.Outcome State Fault Refusal :=
  let L := core.toNat
  if !coreOn σ L then .next σ else
  let c := getCore σ L
  let off := c.spad.scrubPos
  let at' (ks : List Nat) : List Nat := (ks.filter (fun k => decide (k < 8))).map (· + off / 8)
  let ue := addBad c.spad.ue (at' ecc.uncorrectable)
  let ce := (addBad (c.spad.ce.filter (fun k => !c.spad.scrubFix.contains k)) (at' ecc.corrected)).filter (fun k => !ue.contains k)
  let c := pmcEvent c 0x1F none 1
  let c := { c with spad := { c.spad with ue := ue, ce := ce, scrubPos := (off + 64) % spadSize, scrubFix := [] } }
  let σ := spadMeet (setCore σ L c) L off 64
  .next ((badIn ue off 64).foldl (fun σ k => noteSpadUE σ L (8 * k)) σ)

end Sys2Proof.Machine
end

