-- ==== Sys2Proof/Machine/Streams.lean ====
section
/-! DEFINITION. The `st.` instructions, the start of a descriptor, the responses of streams and the slot commands (R252–R262). -/

namespace Sys2Proof.Machine

/-- A `sc.` or `ch.` instruction, which the scalar observer performs (R371). -/
def attUnit : Att := { attAlu with obs := 0, port := 3 }

/-- A `st.` or `dm.` instruction, of the observer of streams and DMA (R371, R376). -/
def attStream : Att := { attAlu with obs := 3, port := 3 }

/-- `st.q` (R253). -/
def execStQ (x : Issue) (slot : BitVec 3) (rs : BitVec 5) (σ : State) :=
  issue x { attStream with mem := true } σ (fun σ L t =>
    let a := (rg σ L t rs).toNat
    if a % 64 ≠ 0 then .exc σ (faultAt 0x03 a false 64)
    else if spadSize < a + 64 then .exc σ (faultAt 0x05 a false 64)
    else
      let r := spadRead σ L a 64
      let σ := spadMeet σ L a 64
      if !r.2.isEmpty then .exc (noteLocalUE σ L a 64) (faultAt 0x0D a false 64)
      else
        let q := getSlot (getCore σ L) slot.toNat
        if 4 ≤ q.queue.length then .hold σ else
        let d : Desc := { w := wordsOf 8 r.1, thread := BitVec.ofNat 4 t, mode := (thrOf σ L t).mode }
        let σ := watch σ L t a 64 true false
        .done (modSlot σ L slot.toNat (fun q => { q with queue := q.queue ++ [d], st := if q.st = 0 then 1 else q.st })) .seq)

/-- `st.wait` (R254, R255). -/
def execStWait (x : Issue) (rd : BitVec 5) (slot : BitVec 3) (σ : State) :=
  issue x attStream σ (fun σ L t =>
    let c := getCore σ L
    let q := getSlot c slot.toNat
    if q.queue.isEmpty then .done (wg σ L t rd 0#64) .seq
    else if segAvail c slot.toNat q.rel then .done (wg σ L t rd (segWord c slot.toNat)) .seq
    else .wait σ (.stream slot rd) 8)

/-- The head segment goes back; after its last segment a descriptor leaves, in RUN as the slot goes on (R256). -/
def stRelease (σ : State) (L s : Nat) : State :=
  let σ := modSlot σ L s (fun q => { q with rel := q.rel + 1, counted := q.counted / 2 })
  let q := getSlot (getCore σ L) s
  match q.queue with
  | d :: _ => if q.st ≠ 1 ∧ sdKind d.w = 0 ∧ q.rel = sdNSegs d.w then slotNext σ L s else σ
  | [] => σ

/-- `st.rel` (R256). The accesses of a thread to the local scratchpad are performed as its instructions are, in order, so the slot takes the
segment back at once. -/
def execStRel (x : Issue) (slot : BitVec 3) (σ : State) :=
  issue x attStream σ (fun σ L _ =>
    let c := getCore σ L
    if !segAvail c slot.toNat (getSlot c slot.toNat).rel then .exc σ (faultOf 0x08)
    else .done (stRelease σ L slot.toNat) .seq)

/-- STREAM_DESC_START: the active descriptor is checked and runs, or stops at element 0 (R248); a second one starts early (R257). -/
def execStreamDescStart (core : BitVec 13) (slot : BitVec 3) (σ : State) : Host.Outcome State Fault Refusal :=
  let L := core.toNat
  let s := slot.toNat
  let c := getCore σ L
  let q := getSlot c s
  if !coreOn σ L || c.sup.stopped || q.st != 1 || q.stopping.isSome then .next σ else
  match q.queue with
  | [] => .next σ
  | d :: r =>
    if !q.started then
      match sdCheck σ d.mode d.w with
      | 0 => .next (tidy σ (modSlot σ L s (fun q => { q with started := true, err := 0 })) L)
      | e => .next (tidy σ (slotEnter (modSlot σ L s (fun q => { q with pos := 0, nxt := 0 })) L s (.err e)) L)
    else
      match r with
      | e :: _ =>
        if earlyOk q && !q.early && sdCheck σ e.mode e.w == 0 then
          .next (tidy σ (modSlot σ L s (fun q => { q with early := true, nxtEarly := 0 })) L)
        else .next σ
      | [] => .next σ

/-- STREAM_RESPONSE: data for a load lands, or a store's write is acknowledged (R249, R250). -/
def execStreamResponse (core : BitVec 13) (slot : BitVec 3) (i : Nat) (σ : State) : Host.Outcome State Fault Refusal :=
  match response σ i with
  | none => .next σ
  | some (L, b) =>
    if L ≠ core.toNat then .next σ else
    let σ1 := takePkt σ i
    match b with
    | .readData id data bad _ =>
      (match findOut (getCore σ L) id with
       | some { kind := .stream s early lo hi false, .. } =>
         if s ≠ slot then .next σ else
         let q := getSlot (getCore σ L) s.toNat
         (match (if early then q.queue.drop 1 else q.queue) with
          | d :: _ =>
            let a0 := ((List.range (hi - lo)).map (fun k => sdUAddr d.w (lo + k))).foldl Nat.min (sdUAddr d.w lo)
            .next (tidy σ (slotLand (dropOut σ1 L id) L s.toNat d.w early a0 data bad (hi - lo) lo) L)
          | [] => .next (tidy σ (dropOut σ1 L id) L))
       | none => .next σ1
       | _ => .next σ)
    | .writeAck id =>
      (match findOut (getCore σ L) id with
       | some { kind := .stream s _ lo hi true, .. } =>
         if s ≠ slot then .next σ else
         let e := match (getSlot (getCore σ L) s.toNat).queue with
           | d :: _ => sdE d.w
           | [] => 0
         .next (tidy σ (modCore (dropOut σ1 L id) L (fun c => pmcEvent c 0x1E none ((hi - lo) * e))) L)
       | none => .next σ1
       | _ => .next σ)
    | _ => .next σ

/-- An `out` of a slot command to ST_CTL. -/
def stOut (x : Issue) (slot : BitVec 3) (cmd : Nat) (σ : State) := outTo x (0x810 + 0x18 * slot.toNat) (w64 cmd) σ

def execStStop (x : Issue) (slot : BitVec 3) (σ : State) := stOut x slot 1 σ
def execStResume (x : Issue) (slot : BitVec 3) (σ : State) := stOut x slot 2 σ
def execStSkip (x : Issue) (slot : BitVec 3) (σ : State) := stOut x slot 3 σ
def execStFlush (x : Issue) (slot : BitVec 3) (σ : State) := stOut x slot 4 σ

/-- `out` to STALL_CFG with CLEAR = 1. -/
def execStallClear (x : Issue) (v : Word) (σ : State) := outTo x 0x8C0 (withField v 8 1 1) σ

end Sys2Proof.Machine
end

