-- ==== Sys2Proof/Machine/Counters.lean ====
section
/-! DEFINITION. Sync counters, signals and fences (R353–R381). -/

namespace Sys2Proof.Machine

/-- n of a counter instruction: rs[31:0] (R380). -/
def scN (σ : State) (L t : Nat) (rs : BitVec 5) : Nat := bits (rg σ L t rs) 31 0

/-- An update of a counter, held by ORD until the thread's earlier writes are performed (R361). -/
def scUpdate (x : Issue) (rs : BitVec 5) (cnt : BitVec 6) (ord : Bool) (f : Core → Nat → Nat → Nat → Core) (σ : State) :=
  issue x attUnit σ (fun σ L t =>
    if ord && relBusy (getCore σ L) t then .hold σ
    else .done (modCore σ L (fun c => f c t cnt.toNat (scN σ L t rs))) .seq)

/-- `sc.set`. -/
def scSetTo (c : Core) (_t k n : Nat) : Core := setSc c k { getSc c k with value := n }

/-- `sc.sub` of thread t: an underflow changes nothing, sets UNDER and queues event 0x0B (R356, R109). -/
def scSubFrom (c : Core) (t k n : Nat) : Core :=
  let x := getSc c k
  if x.value < n then queueEvent (setSc c k { x with under := true }) 4 k t false 0x0B
  else setSc c k { x with value := x.value - n }

def execScSet (x : Issue) (rs : BitVec 5) (cnt : BitVec 6) (ord : Bool) (σ : State) := scUpdate x rs cnt ord scSetTo σ
def execScAdd (x : Issue) (rs : BitVec 5) (cnt : BitVec 6) (ord : Bool) (σ : State) := scUpdate x rs cnt ord (fun c _ => scAdd c) σ
def execScSub (x : Issue) (rs : BitVec 5) (cnt : BitVec 6) (ord : Bool) (σ : State) := scUpdate x rs cnt ord scSubFrom σ

/-- `sc.get`. -/
def execScGet (x : Issue) (rd : BitVec 5) (cnt : BitVec 6) (σ : State) :=
  issue x attUnit σ (fun σ L t => .done (wg σ L t rd (w64 (getSc (getCore σ L) cnt.toNat).value)) .seq)

/-- `sc.wait` and `sc.waitsub` (R357, R358): complete at once, or wait with the classes of R357. -/
def scWaitBody (rs : BitVec 5) (cnt : BitVec 6) (ord intr sub : Bool) (σ : State) (L t : Nat) : IRes :=
  let c := getCore σ L
  let n := scN σ L t rs
  let q := getSc c cnt.toNat
  if n ≤ q.value then
    let c := if sub then setSc c cnt.toNat { q with value := q.value - n } else c
    .done (setCore σ L (if ord then acquire c else c)) .seq
  else .wait σ (.counter cnt n sub ord) ((if q.loc then 1 else 15) + (if intr then 48 else 0))

def execScWait (x : Issue) (rs : BitVec 5) (cnt : BitVec 6) (ord intr : Bool) (σ : State) :=
  issue x attUnit σ (scWaitBody rs cnt ord intr false)
def execScWaitsub (x : Issue) (rs : BitVec 5) (cnt : BitVec 6) (ord intr : Bool) (σ : State) :=
  issue x attUnit σ (scWaitBody rs cnt ord intr true)

/-- Sends n to a counter of a core as a standalone signal of core L; a signal to L itself is applied (R360). -/
def sendSignal (σ : State) (L m id cnt n : Nat) : State :=
  if m = moduleId σ ∧ id = L then modCore σ L (fun c => scAdd c cnt n)
  else sendTo σ (.core L) (coreEp σ m id) (.signal (BitVec.ofNat 6 cnt) (BitVec.ofNat 32 n) (getCore σ L).sup.pair L)

/-- `sc.sig` (R360, R361). -/
def execScSig (x : Issue) (ra rs : BitVec 5) (rel : Bool) (σ : State) :=
  issue x attUnit σ (fun σ L t =>
    let w := rg σ L t ra
    if !sigWordOk σ L (thrOf σ L t).mode w then .exc σ (faultAt 0x05 w.toNat true 0)
    else if rel && relBusy (getCore σ L) t then .hold σ
    else .done (sendSignal σ L (bits w 31 24) (bits w 12 0) (bits w 21 16) (scN σ L t rs)) .seq)

/-- SIGNAL_ARRIVAL (R362). -/
def execSignalArrival (i : Nat) (σ : State) : Host.Outcome State Fault Refusal :=
  match arrival σ i with
  | some (L, { body := .signal cnt n pair _, .. }) =>
    let σ1 := takePkt σ i
    if pair = (getCore σ L).sup.pair then .next (tidy σ (modCore σ1 L (fun c => scAdd c cnt.toNat n.toNat)) L)
    else .next (modCore σ1 L (fun c => let q := getSc c cnt.toNat; setSc c cnt.toNat { q with staleSig := satAdd 63 q.staleSig 1 }))
  | _ => .next σ

/-- `out` to SCn (R355). -/
def execScWrite (x : Issue) (cnt : BitVec 6) (v : Word) (σ : State) := outTo x (0x600 + 8 * cnt.toNat) v σ

/-- Requests and queued work that a fence of thread t waits for (Table: what a fence waits for). The accesses of a vector instruction are
answered before the instruction completes, so none is outstanding at a fence. The engine's work is that of the thread that holds the
lease. -/
def fenceIds (c : Core) (t : Nat) (wf : BitVec 4) : List Nat :=
  let scalar := c.outs.filter (fun o => match o.kind with
    | .store u _ _ _ => u.toNat == t
    | .fillStore u _ _ _ => u.toNat == t
    | .accWrite u _ _ _ _ => u.toNat == t
    | .atomic u _ _ _ _ => u.toNat == t
    | _ => false)
  let unit := c.outs.filter (fun o => match o.kind with
    | .stream .. | .dma .. => true
    | _ => false)
  (if wf.getLsbD 0 then scalar.map (·.id) else []) ++
    (if wf.getLsbD 2 && decide (c.mtx.lease = some t) then c.mtx.queue.filterMap (fun q => match q.op with
      | .drain .. => some q.id
      | _ => none) ++ c.mtx.rows.map (·.id) else []) ++
    (if wf.getLsbD 3 then unit.map (·.id) else [])

/-- `fence` (R375, R376). -/
def execFence (x : Issue) (waitfor hold : BitVec 4) (acq : Bool) (σ : State) :=
  issue x attPort σ (fun σ L t =>
    let f : FenceRec := { ids := fenceIds (getCore σ L) t waitfor, hold := hold, acq := acq }
    .done (modT σ L t (fun h => { h with fences := h.fences ++ [f] })) .seq)

end Sys2Proof.Machine
end

