-- ==== Sys2Proof/Machine/Dma.lean ====
section
/-! DEFINITION. The `dm.` instructions and the life of a DMA descriptor (R383–R402, R596). -/

namespace Sys2Proof.Machine

/-- `dm.start` (R384). -/
def execDmStart (x : Issue) (rd : BitVec 5) (ch : BitVec 2) (rs : BitVec 5) (σ : State) :=
  issue x attStream σ (fun σ L t =>
    let a := (rg σ L t rs).toNat
    if a % 64 ≠ 0 then .exc σ (faultAt 0x03 a false 64)
    else if spadSize < a + 64 then .exc σ (faultAt 0x05 a false 64)
    else
      let q := getChan (getCore σ L) ch.toNat
      if q.st ≠ 0 then .done (wg σ L t rd 1#64) .seq
      else
        let σ := modChan σ L ch.toNat (fun q => { q with
          st := 1, issuer := BitVec.ofNat 4 t, issuerMode := (thrOf σ L t).mode, cur := a, desc := [], started := false,
          chainDone := 0, pos := 0 })
        .done (wg σ L t rd 0#64) .seq)

/-- `dm.wait` (R385). -/
def execDmWait (x : Issue) (ch : BitVec 2) (σ : State) :=
  issue x attStream σ (fun σ L _ =>
    if (getChan (getCore σ L) ch.toNat).st = 0 then .done σ .seq else .wait σ (.dma ch) 4)

/-- DMA_DESC_FETCH: the channel reads the descriptor at CUR and checks it (R387, R396). -/
def execDmaDescFetch (core : BitVec 13) (ch : BitVec 2) (σ : State) : Host.Outcome State Fault Refusal :=
  let L := core.toNat
  let c := ch.toNat
  let k := getCore σ L
  let q := getChan k c
  if !coreOn σ L || k.sup.stopped || q.st != 1 || !q.desc.isEmpty || q.stopping.isSome then .next σ else
  let bad (σ : State) (cause err : Nat) : State :=
    chanFault (modChan σ L c (fun q => { q with errAddr := q.cur })) L c 3 cause err 16
  if spadSize < q.cur + 64 then .next (tidy σ (bad σ 0x14 9) L) else
  let r := spadRead σ L q.cur 64
  let σ := spadMeet σ L q.cur 64
  if !r.2.isEmpty then .next (tidy σ (bad (noteLocalUE σ L q.cur 64) 0x0D 0) L)
  else .next (tidy σ (chanStart (modChan σ L c (fun q => { q with desc := wordsOf 8 r.1 })) L c) L)

/-- DMA_RESPONSE: read data or a write acknowledgment of a channel (R388, R389). -/
def execDmaResponse (core : BitVec 13) (ch : BitVec 2) (i : Nat) (σ : State) : Host.Outcome State Fault Refusal :=
  match response σ i with
  | none => .next σ
  | some (L, b) =>
    if L ≠ core.toNat then .next σ else
    match b with
    | .readData id data bad _ =>
      (match findOut (getCore σ L) id with
       | some { kind := .dma k lo _ false _, .. } =>
         if k ≠ ch then .next σ else
         (match chanLand σ L ch.toNat lo data bad with
          | (σ2, true) => .next (tidy σ (dropOut (takePkt σ2 i) L id) L)
          | (σ2, false) => .next σ2)
       | none => .next (takePkt σ i)
       | _ => .next σ)
    | .writeAck id =>
      (match findOut (getCore σ L) id with
       | some { kind := .dma k _ n true _, .. } =>
         if k ≠ ch then .next σ
         else .next (tidy σ (modCore (dropOut (takePkt σ i) L id) L (fun c => pmcEvent c 0x1D none n)) L)
       | none => .next (takePkt σ i)
       | _ => .next σ)
    | _ => .next σ

/-- A failed block is requested again (R397), as its bytes come from the source: the unit, a transposed block, or a read; false while a walk
runs. -/
def chanAgain (σ : State) (L c lo n : Nat) (data : Option (List Byte)) : State × Bool :=
  let q := getChan (getCore σ L) c
  let d := q.desc
  match data with
  | some b => chanPut σ L c lo b
  | none =>
    if ddTr d then chanBlockMove σ L c lo (lo + n)
    else if ddSrcFix d && !q.unit.isEmpty then
      let b := fixedBytes q lo (lo + n)
      chanPut σ L c lo b
    else
    let a := if ddSrcFix d then ddSrc d else ddSrc d + lo
    match unitRead σ L (.dma (BitVec.ofNat 2 c)) q.issuerMode a n (.dma (BitVec.ofNat 2 c) lo n false []) with
    | .data σ b bad => chanLand σ L c lo b bad
    | .sent σ => (σ, true)
    | .done σ => (σ, true)
    | .wait σ => (σ, false)
    | .fail σ w _ => (chanFail σ L c lo w a, true)

/-- DMA_RETRY_GAP: block i of those that wait is requested again while fewer than 32 requests are outstanding (R388), and the retry is
counted. -/
def execDmaRetryGap (core : BitVec 13) (ch : BitVec 2) (i : Nat) (σ : State) : Host.Outcome State Fault Refusal :=
  let L := core.toNat
  let c := ch.toNat
  let k := getCore σ L
  let q := getChan k c
  if !coreOn σ L || k.sup.stopped || q.st != 1 || q.stopping.isSome || decide (32 ≤ (chanOuts k c).length) then .next σ else
  match q.again[i]? with
  | none => .next σ
  | some (lo, n, data) =>
    match chanAgain σ L c lo n data with
    | (σ2, false) => .next σ2
    | (σ2, true) =>
      .next (tidy σ (modChan σ2 L c (fun q => { q with
        again := dropAt i q.again, retries := satAdd 0xFFFFFFFF q.retries 1, descRetries := satAdd 255 q.descRetries 1 })) L)

/-- Every write of the running descriptor has been performed (R393). -/
def chanComplete (k : Core) (c : Nat) : Bool :=
  let q := getChan k c
  q.st == 1 && q.stopping.isNone && q.started && (chanOuts k c).isEmpty && q.again.isEmpty && q.nxt == ddLen q.desc &&
    (ddLen q.desc == 0 || ddKind q.desc == 0 || (q.credit == .none && q.pos == ddLen q.desc))

/-- The signals of a completed descriptor (R394, R395). -/
def chanSignals (σ : State) (L : Nat) (d : List Word) : State :=
  if !ddRsigEn d then σ
  else if ddKind d = 0 then
    let w := wat d 7
    sendSignal σ L (bits w 31 24) (bits w 12 0) (bits w 21 16) 1
  else if ddLen d = 0 ∧ ddRmode d = 0 then sendSignal σ L (ddMod d) (ddId d) (ddRcnt d) 1
  else σ

/-- DMA_COMPLETE: write-back, signal, counter, the next descriptor or IDLE (R393). -/
def execDmaComplete (core : BitVec 13) (ch : BitVec 2) (σ : State) : Host.Outcome State Fault Refusal :=
  let L := core.toNat
  let c := ch.toNat
  let k := getCore σ L
  let q := getChan k c
  let d := q.desc
  if !coreOn σ L || k.sup.stopped || !chanComplete k c then .next σ else
  let crc := ~~~(crcAt q (ddLen d))
  let σ1 := chanWriteBack σ L c 1 true crc (ddLen d)
  let σ1 := chanSignals σ1 L d
  let σ1 := if ddCntEn d then modCore σ1 L (fun k => scAdd k (ddCnt d) 1) else σ1
  let σ1 := modChan σ1 L c (fun q => { q with chainDone := satAdd 0xFFFF q.chainDone 1 })
  .next (tidy σ (chanLeave σ1 L c) L)

/-- An `out` of a channel command to DMA_CTL. -/
def dmaOut (x : Issue) (ch : BitVec 2) (cmd : Nat) (σ : State) := outTo x (0x918 + 0x40 * ch.toNat) (w64 cmd) σ

def execDmaStop (x : Issue) (ch : BitVec 2) (σ : State) := dmaOut x ch 1 σ
def execDmaResume (x : Issue) (ch : BitVec 2) (σ : State) := dmaOut x ch 2 σ
def execDmaSkip (x : Issue) (ch : BitVec 2) (σ : State) := dmaOut x ch 3 σ
def execDmaAbort (x : Issue) (ch : BitVec 2) (σ : State) := dmaOut x ch 4 σ

end Sys2Proof.Machine
end

