-- ==== Sys2Proof/Machine/Caches.lean ====
section
/-! DEFINITION. Cache maintenance, the prefetch flush, the end of a cache's reset invalidation, and the memory-side cache's answer to an
offered victim (R279–R294). A command row is the thread's `out` of v to the register with that operation in its field. -/

namespace Sys2Proof.Machine

/-- `out` to CMO_CMD with an operation. -/
def cmoOut (x : Issue) (v : Word) (op : Nat) (σ : State) := outTo x 0xA10 (withField v 0 3 op) σ

def execCmoClean (x : Issue) (v : Word) (σ : State) := cmoOut x v 1 σ
def execCmoInv (x : Issue) (v : Word) (σ : State) := cmoOut x v 2 σ
def execCmoCleanInv (x : Issue) (v : Word) (σ : State) := cmoOut x v 3 σ
def execCmoLock (x : Issue) (v : Word) (σ : State) := cmoOut x v 4 σ
def execCmoUnlock (x : Issue) (v : Word) (σ : State) := cmoOut x v 5 σ

/-- `out` to PF_CTL with FLUSH = 1 (R291). -/
def execPfFlush (x : Issue) (v : Word) (σ : State) := outTo x 0xA28 (withField v 4 1 1) σ

/-- CACHE_INIT_DONE (R294). -/
def execCacheInitDone (core : BitVec 13) (icache : Bool) (σ : State) : Host.Outcome State Fault Refusal :=
  let L := core.toNat
  if !coreOn σ L then .next σ else
  let σ1 := modCore σ L (fun c => { c with cache :=
    if icache then { c.cache with icBusy := false } else { c.cache with dcBusy := false } })
  .next (tidy σ σ1 L)

/-- Lines of a memory-side cache (4 MiB of 64 B). -/
def mscLines : Nat := 65536

/-- Counter n of stack h: 0 hits, 1 misses, 2 offers taken, 3 declined, 4 codewords corrected, 5 uncorrectable (`0x4100+h:01`). -/
def stackCount (σ : State) (h n k : Nat) : State :=
  { σ with disp := { σ.disp with stackCnt := mmod 0 (6 * h + n) (satAdd 0xFFFFFFFF k) σ.disp.stackCnt } }

/-- Puts a line into the memory-side cache of its stack; a full cache drops its oldest line (log 6). -/
def mscPut (σ : State) (line : Nat) : State :=
  let mine := σ.disp.msc.filter (fun l => stackOf l == stackOf line)
  let m := if mscLines ≤ mine.length then σ.disp.msc.erase (mine.headD 0) else σ.disp.msc
  { σ with disp := { σ.disp with msc := m ++ [line] } }

/-- A read of a line at its stack is a hit or a miss of the memory-side cache, which takes the line (R279). -/
def mscRead (σ : State) (line : Nat) : State :=
  if σ.disp.msc.contains line then stackCount σ (stackOf line) 0 1 else mscPut (stackCount σ (stackOf line) 1 1) line

/-- The 64-byte lines, each a codeword of HBM, that a range touches. -/
def linesOf (a n : Nat) : List Nat := ((pieces (n / 64 + 2) a n).map (fun p => lineOf p.1)).eraseDups

/-- A read of a range of HBM looks up each of its lines (R279). -/
def mscReads (σ : State) (a n : Nat) : State := (linesOf a n).foldl mscRead σ

/-- A read at a home looks up the memory-side caches where the home is HBM. -/
def homeLookup (σ : State) (h : Home) (n : Nat) : State :=
  match h with
  | .hbm a => mscReads σ a n
  | _ => σ

/-- Offers that wait at a stack (R279). -/
def victimOffers (σ : State) (h : Nat) : Nat :=
  (σ.net.filter (fun p => decide (p.dst = .stack h) && (match p.body with
    | .victim _ => true
    | _ => false))).length

/-- VICTIM: the offer is declined when the line is held or more than 32 offers wait, else taken (R279). -/
def execVictim (i : Nat) (σ : State) : Host.Outcome State Fault Refusal :=
  match mayArrive σ i with
  | some { dst := .stack h, body := .victim line, .. } =>
    if !running σ then .next σ else
    let σ1 := takePkt σ i
    if σ.disp.msc.contains line || decide (32 < victimOffers σ h) || !stackUp σ h then .next (stackCount σ1 h 3 1)
    else .next (stackCount (mscPut σ1 line) h 2 1)
  | _ => .next σ

end Sys2Proof.Machine
end

