-- ==== Sys2Proof/Machine/Service.lean ====
section
/-! DEFINITION. What the dispatcher, the register window and the dictionary share: entry values, places of rings and tables in HBM or
companion memory, interrupt vectors, orders by pair. -/

namespace Sys2Proof.Machine

/-- The packet at place i, when it may arrive at an endpoint of the running module. -/
def arrivalAt (σ : State) (i : Nat) (e : Ep) : Option Packet :=
  match mayArrive σ i with
  | some p => if running σ = true ∧ p.dst = e then some p else none
  | none => none

/-- The value of a dictionary entry, with its default. -/
def dv (σ : State) (index sub d : Nat) : Nat := (mget none σ.dict.val (256 * index + sub)).getD d

/-- Sets the value of a dictionary entry. -/
def setDv (σ : State) (index sub v : Nat) : State :=
  { σ with dict := { σ.dict with val := mput none (256 * index + sub) (some v) σ.dict.val } }

/-- The register window, except the mailbox, is answered (R462): the I/O dies are powered in every state except Off (R512). -/
def windowOn (σ : State) : Bool := σ.power.st != 5 && linkUp σ && dv σ 0x5000 1 0 == 1

/-- The place of an address laid out as BASE of R468: bit 63 selects companion memory. -/
def ringPlace (base off : Nat) : Home := if nbit base 63 then .comp (base % 2 ^ 63 + off) else .hbm (base + off)

/-- The first 64-byte line of a range that must be recalled from the companion. -/
def rangeRecall (σ : State) (h : Home) (n : Nat) (write : Bool) : Option Nat := (mustRecall σ h n write).map (·.1)

/-- Reads of the module's own services: bytes with their uncorrectable words, or the state of a wait. -/
def svcRead (σ : State) (h : Home) (n : Nat) : Except State (State × List Byte × List Nat) :=
  match rangeRecall σ h n false with
  | some line => .error (startRecall σ line false [])
  | none => if homeUp σ h then .ok (homeLookup σ h n, homeBytes σ h n) else .error σ

/-- Writes of the module's own services. -/
def svcWrite (σ : State) (h : Home) (data : List Byte) : Except State State :=
  match rangeRecall σ h data.length true with
  | some line => .error (startRecall σ line true [])
  | none => if homeUp σ h then .ok (homePut σ h data []) else .error σ

/-- Nap, Hold or Parked: the traffic of a wake event is held until Run (R517). -/
def asleep (σ : State) : Bool := decide (2 ≤ σ.power.st) && decide (σ.power.st ≤ 4)

/-- The register window would be answered, but the module is asleep. -/
def windowHeld (σ : State) : Bool := asleep σ && linkUp σ && dv σ 0x5000 1 0 == 1

/-- Holds the traffic of a wake event. -/
def holdWake (σ : State) (c : Wake) : State := { σ with power := { σ.power with held := σ.power.held ++ [c], wake := true } }

/-- Bytes with free values for the words that are marked uncorrectable, numbered from the first (log 6). -/
def patchBad (σ : State) (b : List Byte) (bad : List Nat) : List Byte × State :=
  if bad.isEmpty then (b, σ) else
  (b.zipIdx.map (fun x => if bad.contains (x.2 / 8) then
      BitVec.ofNat 8 ((Config.freeValue (σ.freeCtr + x.2 / 8)).toNat / 256 ^ (x.2 % 8)) else x.1),
   { σ with freeCtr := σ.freeCtr + b.length / 8 + 1 })

/-- Raises an interrupt vector in this tick (R467). -/
def raiseVector (σ : State) (v : Nat) : State := { σ with disp := { σ.disp with raised := insertNat v σ.disp.raised } }

/-- Pair of an order. -/
def ordPair (o : Order) : Pair :=
  { tag := BitVec.ofNat 12 (bits (wat o.w 1) 11 0), gen := BitVec.ofNat 4 (bits (wat o.w 1) 15 12) }

/-- Kind and group of an order (Table: work order header). -/
def ordKind (o : Order) : Nat := bits (wat o.w 0) 7 0
def ordFirst (o : Order) : Nat := bits (wat o.w 1) 28 16
def ordCount (o : Order) : Nat := bits (wat o.w 1) 44 32 + 1

/-- The cores of an order's group. -/
def ordGroup (o : Order) : List Nat := (List.range (ordCount o)).map (· + ordFirst o)

/-- Order number k. -/
def findOrder (σ : State) (k : Nat) : Option Order := σ.disp.orders.find? (fun o => o.k == k)

/-- Replaces an order. -/
def setOrder (σ : State) (o : Order) : State :=
  { σ with disp := { σ.disp with orders := σ.disp.orders.map (fun q => if q.k = o.k then o else q) } }

/-- The live order that holds a pair (R471). -/
def liveOrder (σ : State) (p : Pair) : Option Order := σ.disp.orders.find? (fun o => o.hasPair && decide (ordPair o = p))

/-- An order enters COMPLETING with a status, a reason and a DETAIL; it releases its pair (R471, R472). -/
def complete (σ : State) (o : Order) (status reason : Nat) (detail : Word) : State :=
  let σ := setOrder σ { o with
    st := .completing, status := status, reason := reason, detail := detail, hasPair := false, preempt := none }
  if o.hasPair then { σ with disp := { σ.disp with released := σ.disp.released ++ [(ordPair o, 0)] } } else σ

end Sys2Proof.Machine
end

