-- ==== Sys2Proof/Machine/Translate.lean ====
section
/-! DEFINITION. Translation commands, the end of a walk, the fault ring and shootdowns (R296–R316, R466, R467). -/

namespace Sys2Proof.Machine

def execTlbInvVa (x : Issue) (v : Word) (σ : State) := outTo x 0xB08 (withField v 0 2 1) σ
def execTlbInvAll (x : Issue) (v : Word) (σ : State) := outTo x 0xB08 (withField v 0 2 2) σ
def execXltRootWrite (x : Issue) (v : Word) (σ : State) := outTo x 0xB00 v σ
def execXltFwd (x : Issue) (v : Word) (σ : State) := outTo x 0xB18 v σ

/-! ### Walks (R303, R304, R310) -/

/-- The table reads of a walk from a level on, which the memory-side caches see (R297, R304). -/
def walkReads (σ : State) (va : Nat) : Nat → Nat → Nat → State
  | 0, _, _ => σ
  | fuel + 1, lvl, tab =>
    let a := tab + 8 * ((va / 2 ^ (39 - 9 * lvl)) % 512)
    if !stackUp σ (stackOf a) then σ else
    let r := hbmRead σ a 8
    let σ := mscRead σ (lineOf a)
    let e := ofBytes r.1
    if r.2.isEmpty && nbit e 0 && !pteMalformed e lvl && !nbit e 1 then walkReads σ va fuel (lvl + 1) (nbits e 51 12 * 4096) else σ

/-- A walk for a slot's request has failed: the active descriptor stops at the unit it would request next, an early one starts again. A
slot that has stopped or is about to makes no request any more. -/
def slotWalkFail (σ : State) (L s page r level : Nat) : State :=
  let q := getSlot (getCore σ L) s
  if q.st ≠ 1 ∨ q.stopping ≠ none then σ else
  match q.queue with
  | [] => σ
  | d :: rest =>
    let a := sdUAddr d.w q.nxt
    if q.nxt < sdUnits d.w ∧ a / 4096 = page then slotFail σ L s q.nxt (whyOfReason r level a (decide (sdKind d.w = 2)))
    else match rest with
      | e :: _ =>
        if q.early = true ∧ sdUAddr e.w q.nxtEarly / 4096 = page then modSlot σ L s (fun q => { q with earlyBad := true }) else σ
      | [] => σ

/-- A walk for a channel's request has failed: a retried block, the next read, data that waits for its destination, or the next local
write stops the channel at its first byte. A channel that is about to stop makes no request any more, but data that has arrived fails. -/
def chanWalkFail (σ : State) (L c page r level : Nat) : State :=
  let k := getCore σ L
  let q := getChan k c
  let d := q.desc
  let src (lo : Nat) : Nat := if ddSrcFix d then ddSrc d else ddSrc d + lo
  let fail (σ : State) (lo a : Nat) (write : Bool) : State := chanFail σ L c lo (whyOfReason r level a write) a
  let dst (lo : Nat) : Nat := ddDstAt d lo
  let reads : Bool := decide (src q.nxt / 4096 = page) && !(ddSrcFix d && !q.unit.isEmpty)
  let idle := q.stopping.isNone
  if q.st ≠ 1 then σ else
  match (if idle then q.again.find? (fun b => decide ((if b.2.2.isSome then dst b.1 else src b.1) / 4096 = page)) else none) with
  | some b => fail σ b.1 (if b.2.2.isSome then dst b.1 else src b.1) b.2.2.isSome
  | none =>
    let waits (o : Out) : Option (Nat × Nat) := match o.kind with
      | .dma ch lo _ false _ => if ch.toNat = c ∧ ddKind d = 0 ∧ dst lo / 4096 = page then some (o.id, lo) else none
      | _ => none
    match (if idle = true ∧ q.nxt < ddLen d ∧ reads = true then none else k.outs.findSome? waits) with
    | some (id, lo) => fail (dropOut σ L id) lo (dst lo) true
    | none =>
      if ddLen d ≤ q.nxt ∨ idle = false then σ
      else if reads then fail σ q.nxt (src q.nxt) false
      else if dst q.nxt / 4096 = page then fail σ q.nxt (dst q.nxt) true
      else σ

/-- A waiter learns how its walk ended; with a translation a thread issues again and a unit goes on. -/
def walkWaiter (σ : State) (L page : Nat) (r : WalkR) (x : Waiter) : State :=
  match x with
  | .thread t f =>
    if (thrOf σ L t.toNat).held ≠ .walk page then σ else
    let σ := modT σ L t.toNat (fun h => { h with held := .none })
    (match r with
     | .fail n l => accessFault σ L t.toNat (xlateFault f n l)
     | _ => σ)
  | .unit (.slot s) => (match r with
    | .fail n l => slotWalkFail σ L s.toNat page n l
    | _ => σ)
  | .unit (.dma c) => (match r with
    | .fail n l => chanWalkFail σ L c.toNat page n l
    | _ => σ)
  | .cmo =>
    let k := (getCore σ L).cache
    (match r, k.cmo with
     | .fail .., some x =>
       if x.result.isNone && bits x.cmd 2 0 == 4 && k.cmoAddr / 4096 == page then cmoResult σ L 3 0 else σ
     | _, _ => σ)

/-- The walk of a page holds a thread that is inside a tile transfer, whose fault waits for its requested rows (R174). -/
def walkRowsOut (c : Core) (w : Walk) : Bool :=
  w.waiters.any (fun x => match x with
    | .thread t _ => (getThr c t.toNat).held == .walk w.page && midTile c t.toNat
    | _ => false)

/-- WALK_COMPLETE: walk i of a core ends; it installs its translation or fails (R303). -/
def execWalkComplete (core : BitVec 13) (i : Nat) (σ : State) : Host.Outcome State Fault Refusal :=
  let L := core.toNat
  let c := getCore σ L
  if !coreOn σ L then .next σ else
  match c.xlt.walks[i]? with
  | none => .next σ
  | some w =>
    let va := w.page * 4096
    let ended (x : Xlt) (r : WalkR) : Host.Outcome State Fault Refusal :=
      let σ1 := setCore { σ with freeCtr := σ.freeCtr + 1 } L { c with xlt := { x with walks := dropAt i x.walks } }
      let root := bits x.root 39 12 * 4096
      let σ1 := if bit x.root 0 && decide (root ≤ 0xBFFFFFF000) then walkReads σ1 va 4 0 root else σ1
      .next (tidy σ (w.waiters.foldl (fun σ y => walkWaiter σ L w.page r y) σ1) L)
    match walkFrom σ c.xlt.root va with
    | .recall line => .next (startRecall σ line false [])
    | .ok e => ended (tlbInstall c.xlt e σ.freeCtr) (.ok e)
    | .fail n l => if walkRowsOut c w then .next σ else ended c.xlt (.fail n l)

/-! ### The fault ring (R466) -/

/-- Slots of the fault ring. -/
def faultSlots (σ : State) : Nat := 2 ^ dv σ 0x2010 4 6

/-- The fault ring has room. -/
def faultRoom (σ : State) : Bool := (σ.disp.faultTail + 1) % faultSlots σ != σ.disp.faultHead

/-- Writes a record into the next slot and raises vector 64; the state of a wait where memory cannot take it now. -/
def faultPut (σ : State) (r : FaultRec) : Except State State :=
  match svcWrite σ (ringPlace (dv σ 0x2010 3 0) (32 * σ.disp.faultTail)) (bytesOf [r.w0, r.w1, r.w2, 0#64]) with
  | .error σ => .error σ
  | .ok σ =>
    .ok (raiseVector { σ with disp := { σ.disp with faultTail := (σ.disp.faultTail + 1) % faultSlots σ } } 64)

/-- Records that wait enter the ring while it has room. -/
def faultDrain : Nat → State → State
  | 0, σ => σ
  | k + 1, σ =>
    match σ.disp.faultWait with
    | [] => σ
    | r :: rest =>
      if !faultRoom σ then σ else
      match faultPut σ r with
      | .ok σ => faultDrain k { σ with disp := { σ.disp with faultWait := rest } }
      | .error σ => σ

/-- FAULT_RECORD: the dispatcher takes a record. -/
def execFaultRecord (i : Nat) (σ : State) : Host.Outcome State Fault Refusal :=
  match arrivalAt σ i .disp with
  | some { body := .faultRecord r _, .. } =>
    let σ := takePkt σ i
    let w := σ.disp.faultWait ++ [r]
    .next (faultDrain w.length { σ with disp := { σ.disp with faultWait := w } })
  | _ => .next σ

/-- A write of FAULT_REPLY: the reply travels to its source (R466). -/
def faultReplySend (σ : State) (v : Word) : State :=
  if bits v 55 48 ≠ moduleId σ % 256 then σ else
  let src := bits v 12 8
  let id := bits v 28 16
  let p : Pair := { tag := BitVec.ofNat 12 (bits v 43 32), gen := BitVec.ofNat 4 (bits v 47 44) }
  let b := Body.faultReply src (BitVec.ofNat 8 (bits v 63 56)) p (bit v 29)
  if src = 31 then sendTo σ .disp (.stack (id % 32)) b
  else if id < gradeOf σ then sendTo σ .disp (.core id) b else σ

/-- FAULT_REPLY_WRITE. -/
def execFaultReplyWrite (v : Word) (σ : State) : Host.Outcome State Fault Refusal :=
  if windowHeld σ then .next (holdWake σ (.faultReply v))
  else if windowOn σ && running σ then .next (faultReplySend σ v) else .next σ

/-- A reply reaches a source of core L (R312). -/
def coreFaultReply (σ : State) (L src : Nat) (seq : BitVec 8) (pair : Pair) (abort : Bool) : State :=
  let c := getCore σ L
  if pair ≠ c.sup.pair then σ
  else if src < 16 then
    let f := (getThr c src).fsr
    if f.outstanding = false ∨ f.seq ≠ seq then σ else
    let c := modThr c src (fun h => { h with fsr := { f with outstanding := false, replied := true, result := abort } })
    setCore σ L (if f.cntEn then scAdd c f.cnt.toNat 1 else c)
  else
    if c.xlt.unitOut.contains src = false ∨ mget 0 c.xlt.unitSeq src ≠ seq.toNat then σ else
    let σ := cancelForward σ L src
    if src < 20 then
      if (getChan c (src - 16)).st ≠ 4 then σ
      else if abort then chanEnter σ L (src - 16) (.err 7) else chanCmd σ L (src - 16) 2 true
    else if (getSlot c (src - 20)).st ≠ 4 then σ
    else if abort then slotEnter σ L (src - 20) (.err 7) else slotCmd σ L (src - 20) 2 true

/-! ### Shootdown (R307, R467) -/

/-- Starts the shootdown of a SHOOT_CTL value. -/
def shootStart (σ : State) (v : Word) : State :=
  let p : Pair := { tag := BitVec.ofNat 12 (bits v 11 0), gen := BitVec.ofNat 4 (bits v 15 12) }
  let lo := σ.disp.shootVa / 4096 * 4096
  let n := σ.disp.shootLen
  let seq := BitVec.ofNat 16 (bits v 31 16)
  if n = 0 then raiseVector { σ with disp := { σ.disp with shootDone := seq.toNat } } 65 else
  let cores := match liveOrder σ p with
    | some o => (ordGroup o).filter (fun l => decide (l < gradeOf σ))
    | none => []
  let eps := ((List.range 32).filter (stackUp σ)).map Ep.stack ++ cores.map Ep.core
  let σ := eps.foldl (fun σ e => sendTo σ .disp e (.shootdown lo n)) σ
  { σ with disp := { σ.disp with shoot := some { seq := seq, lo := lo, len := n, waiting := eps } } }

/-- A shootdown has ended: those that wait start in order. -/
def shootNext : Nat → State → State
  | 0, σ => σ
  | k + 1, σ =>
    match σ.disp.shoot, σ.disp.shootWait with
    | none, v :: r => shootNext k (shootStart { σ with disp := { σ.disp with shootWait := r } } v)
    | _, _ => σ

/-- A write of SHOOT_CTL. -/
def shootWrite (σ : State) (v : Word) : State :=
  shootNext (σ.disp.shootWait.length + 1) { σ with disp := { σ.disp with shootWait := σ.disp.shootWait ++ [v] } }

/-- SHOOT_CTL. -/
def execShootCtl (v : Word) (σ : State) : Host.Outcome State Fault Refusal :=
  if windowHeld σ then .next (holdWake σ (.shootCtl v))
  else if windowOn σ && running σ then .next (shootWrite σ v) else .next σ

/-- A line holds a byte of [lo, lo + n). -/
def lineIn (lo n : Nat) (l : DLine) : Bool := l.valid && decide (l.va < lo + n) && decide (lo < l.va + 64)

/-- The lines of [lo, lo + n) leave the caches of core L, a dirty one by its home, while write-back entries are free (log 53). -/
def shootLines (σ : State) (L lo n : Nat) : State :=
  let σ := modCore σ L (fun c => { c with cache := { c.cache with
    i := c.cache.i.filter (fun p => !lineIn lo n p.2), side := c.cache.side.filter (fun l => !lineIn lo n l) } })
  ((getCore σ L).cache.d.filter (fun p => lineIn lo n p.2)).foldl (fun σ p =>
    if p.2.dirty = true ∧ 8 ≤ (getCore σ L).cache.wbb.length then σ else
    let σ := if p.2.dirty then writeBack σ L p.2 else σ
    modCore σ L (fun c => { c with cache := dropWay c.cache false p.1 p.2 })) σ

/-- Requests of a core that are not performed. -/
def requestIds (c : Core) : List Nat := c.outs.map (·.id) ++ c.mtx.rows.map (·.id)

/-- A shootdown of [lo, lo + n) reaches core L (R307): its entries and lines go, and it waits for the requests that were in flight. A walk in
progress reads the tables when it ends, so it needs no new start. `true` once the core may acknowledge. -/
def coreShoot (σ : State) (L lo n : Nat) : State × Bool :=
  let σ := modCore σ L (fun c => { c with xlt := tlbRemove c.xlt lo n })
  match (getCore σ L).xlt.shoot with
  | some ids => (σ, !(requestIds (getCore σ L)).any ids.contains)
  | none =>
    let σ := shootLines σ L lo n
    let c := getCore σ L
    if c.cache.d.any (fun p => lineIn lo n p.2) then (σ, false) else
    (setCore σ L { c with xlt := { c.xlt with shoot := some (requestIds c) } }, (requestIds c).isEmpty)

/-- SHOOTDOWN at a core or an HBM controller (R307). -/
def execShootdown (i : Nat) (σ : State) : Host.Outcome State Fault Refusal :=
  match mayArrive σ i with
  | some { dst := .core L, body := .shootdown lo n, .. } =>
    if !coreOn σ L then .next σ else
    (match coreShoot σ L lo n with
     | (σ1, false) => .next (tidy σ σ1 L)
     | (σ1, true) =>
       let σ1 := modCore (takePkt σ1 i) L (fun c => { c with xlt := { c.xlt with
         shoot := none, shootdowns := satAdd 0xFFFF c.xlt.shootdowns 1 } })
       .next (tidy σ (sendTo σ1 (.core L) .disp .shootdownAck) L))
  | some { dst := .stack h, body := .shootdown lo n, .. } =>
    if !running σ then .next σ else
    let q := mget Engine.reset σ.quince.eng h
    let keep (e : Tlb) : Bool := !(decide (e.va < lo + n) && decide (lo < e.va + 2 ^ e.log2))
    let σ1 := { takePkt σ i with quince := { σ.quince with
      eng := mput Engine.reset h { q with tlb := q.tlb.filter keep } σ.quince.eng } }
    .next (sendTo σ1 (.stack h) .disp .shootdownAck)
  | _ => .next σ

/-- SHOOTDOWN_ACK: the last acknowledgment completes the shootdown. -/
def execShootdownAck (i : Nat) (σ : State) : Host.Outcome State Fault Refusal :=
  match arrivalAt σ i .disp with
  | some { src := src, body := .shootdownAck, .. } =>
    let σ := takePkt σ i
    (match σ.disp.shoot with
     | none => .next σ
     | some s =>
       match s.waiting.erase src with
       | [] =>
         .next (shootNext (σ.disp.shootWait.length + 1) (raiseVector { σ with disp := { σ.disp with
           shoot := none, shootDone := s.seq.toNat } } 65))
       | w => .next { σ with disp := { σ.disp with shoot := some { s with waiting := w } } })
  | _ => .next σ

end Sys2Proof.Machine
end

