-- ==== Sys2Proof/Machine/Channels.lean ====
section
/-! DEFINITION. Channels, rings and press queues (R317–R351). -/

namespace Sys2Proof.Machine

/-! ### Staging and sending (R322–R326) -/

def execChPut (x : Issue) (ra : BitVec 5) (σ : State) :=
  issue x attUnit σ (fun σ L t =>
    let h := thrOf σ L t
    if 8 ≤ h.stagedN then .exc σ (faultOf 0x09)
    else
      let v := rg σ L t ra
      .done (modT σ L t (fun h => { h with staged := mput 0#64 h.stagedN v h.staged, stagedN := h.stagedN + 1 })) .seq)

def execChClr (x : Issue) (σ : State) :=
  issue x attUnit σ (fun σ L t => .done (modT σ L t (fun h => { h with stagedN := 0 })) .seq)

/-- The staged words of a thread. -/
def stagedWords (h : Thread) : List Word := (List.range h.stagedN).map (fun i => mget 0#64 h.staged i)

/-- Checks 2 to 4 of R323 on a destination word: none, or the cause. -/
def destFault (σ : State) (L : Nat) (mode : Mode) (w : Word) : Option Nat :=
  let m := bits w 31 24
  let id := bits w 12 0
  if bits w 63 32 ≠ 0 ∨ bits w 23 20 ≠ 0 ∨ bits w 15 13 ≠ 0 then some 0x09
  else if m = moduleId σ ∧ gradeOf σ ≤ id then some 0x05
  else if mode = .user ∧ m = moduleId σ ∧ id ≠ L ∧ inGroup σ L id = false then some 0x05
  else none

/-- Commits a message of thread t: it enters the outbound queue, and STAGED becomes 0 (R324). -/
def commitMsg (σ : State) (L t : Nat) (dest : Word) (kind user : Nat) : State :=
  let c := getCore σ L
  let h := getThr c t
  let m : Msg := { header := msgHeader h.stagedN kind user c.sup.pair L (moduleId σ) t, words := stagedWords h, bad := [] }
  let p := pkt (.core L) (coreEp σ (bits dest 31 24) (bits dest 12 0)) (.message (BitVec.ofNat 4 (bits dest 19 16)) m)
  modCore σ L (fun c =>
    let c := modThr c t (fun h => { h with stagedN := 0 })
    pmcEvent { c with outq := c.outq ++ [p] } 0x19 none 1)

/-- The outbound queue is full (R324). -/
def outqFull (σ : State) (L : Nat) : Bool := decide (16 ≤ (getCore σ L).outq.length)

def execChSend (x : Issue) (ra rb : BitVec 5) (σ : State) :=
  issue x attUnit σ (fun σ L t =>
    let a := rg σ L t ra
    let b := rg σ L t rb
    let h := thrOf σ L t
    if 8 < bits a 3 0 ∨ bits a 3 0 ≠ h.stagedN then .exc σ (faultOf 0x09) else
    match destFault σ L h.mode b with
    | some e => .exc σ (faultOf e)
    | none => if outqFull σ L then .hold σ else .done (commitMsg σ L t b 0 (bits a 15 8)) .seq)

/-! ### Descriptor mode (R339–R341) -/

/-- Reads a chunk at its home, after a dirty line of this core that holds it has been written back (R340). -/
def homeChunk (σ : State) (L t : Nat) (mode : Mode) (va : Nat) : AR (List Byte × List Nat) :=
  let f := faultAt 0x0D va false 64
  andThen (resolve σ L t mode .load va 64 f) (fun σ ps =>
    let p := ps.headD { va := va, n := 64, home := .hbm 0, cls := 3 }
    if 2 ≤ p.cls then homeRead σ L t f p.home 64 else
    let σ := dcMeet σ L va 64
    let c := getCore σ L
    if c.sup.stopped || fillOut c va || amoOut c va || inWbb c p.home then .hold σ else
    match findLine c.cache.d 256 va with
    | some (key, l) =>
      if !l.dirty then homeRead σ L t f p.home 64
      else if 8 ≤ c.cache.wbb.length then .hold σ
      else .hold (writeBack (setCore σ L { c with cache := { c.cache with
        d := mput DLine.empty key { l with dirty := false } c.cache.d } }) L l)
    | none => homeRead σ L t f p.home 64)

/-- Folds chunk i of the described data into word 2. -/
def senddChunk (L t : Nat) (σ : State) (i : Nat) : AR Unit :=
  let h := thrOf σ L t
  let va := (mget 0#64 h.staged 0).toNat + 64 * i
  andThen (homeChunk σ L t h.mode va) (fun σ r =>
    if !r.2.isEmpty then .fault (noteLocalUE σ L va 64) (faultAt 0x0D va false 64)
    else
      let crc := crcBytes (BitVec.ofNat 32 (bits (mget 0#64 h.staged 2) 31 0)) r.1
      .ok (watch (modT σ L t (fun h => { h with staged := mput 0#64 2 (crc.zeroExtend 64) h.staged })) L t va 64 true false) ())

/-- `ch.sendd` after its checks: the chunks from `start`, then the commit. -/
def senddRun (ra rb : BitVec 5) (start : Nat) (σ : State) (L t : Nat) : IRes :=
  let n := bits (mget 0#64 (thrOf σ L t).staged 1) 31 0 / 64
  match unitsFrom (senddChunk L t) L t (n - start) start σ with
  | .fault σ i f => .exc (setProg σ L t 0x34 i) f
  | .wait σ i => .hold (setProg σ L t 0x34 i)
  | .hit σ i => .set (boundary (setProg σ L t 0x34 i) L t)
  | .all σ =>
    if outqFull σ L then .hold (setProg σ L t 0x34 n) else
    let crc := ~~~(BitVec.ofNat 32 (bits (mget 0#64 (thrOf σ L t).staged 2) 31 0))
    let σ := modT σ L t (fun h => { h with staged := mput 0#64 2 (crc.zeroExtend 64) h.staged })
    .done (clearProg (commitMsg σ L t (rg σ L t rb) 1 (bits (rg σ L t ra) 15 8)) L t) .seq

def execChSendd (x : Issue) (ra rb : BitVec 5) (σ : State) :=
  issue x attMem σ (fun σ L t =>
    let h := thrOf σ L t
    if progAt h 0x34 then senddRun ra rb (progStart h 0x34) σ L t else
    let addr := (mget 0#64 h.staged 0).toNat
    if h.stagedN ≠ 2 then .exc σ (faultOf 0x09)
    else if addr % 64 ≠ 0 ∨ bits (mget 0#64 h.staged 1) 31 0 % 64 ≠ 0 then .exc σ (faultAt 0x03 addr false 64)
    else match destFault σ L h.mode (rg σ L t rb) with
      | some e => .exc σ (faultOf e)
      | none => senddRun ra rb 0 (modT σ L t (fun h => { h with staged := mput 0#64 2 0xFFFFFFFF#64 h.staged, stagedN := 3 })) L t)

/-! ### Receiving (R331–R333) -/

/-- The head message leaves a ring (R331). -/
def ringPop (c : Core) (r : Nat) : Core :=
  let q := getRing c r
  let n := 8 + 8 * bits (ringWord c q q.head) 3 0
  let c := setRing c r (ringNorm c { q with head := (q.head + n) % ringSize q, msgs := q.msgs - 1 })
  ringWakes c r

/-- `ch.recv` and `ch.recvnb`. -/
def recvBody (ra : BitVec 5) (vd ring : BitVec 4) (nb : Bool) (σ : State) (L t : Nat) : IRes :=
  let c := getCore σ L
  let r := ring.toNat
  let q := getRing c r
  if !q.enable then .exc σ (faultOf 0x09)
  else if q.pause || q.msgs == 0 then
    if nb then .done (wg σ L t ra noneHeader) .seq else .wait σ (.ring ring) 2
  else
    let h := ringWord c q q.head
    let len := bits h 3 0
    match badIn c.spad.ue (q.base + q.head) (8 + 8 * len) with
    | k :: ks => .exc ((k :: ks).foldl (fun σ w => noteSpadUE σ L (8 * w)) σ) (faultOf 0x0D)
    | [] =>
      let d := readBytes c.spad.mem (q.base + q.head + 8) (8 * len)
      let σ := spadMeet σ L (q.base + q.head) (8 + 8 * len)
      let σ := modT (wg σ L t ra h) L t (fun h => setV h vd.toNat (BitVec.ofNat 1024 (ofBytes d)))
      .done (modCore σ L (fun c => ringPop c r)) .seq

def execChRecv (x : Issue) (ra : BitVec 5) (vd ring : BitVec 4) (σ : State) := issue x attUnit σ (recvBody ra vd ring false)
def execChRecvnb (x : Issue) (ra : BitVec 5) (vd ring : BitVec 4) (σ : State) := issue x attUnit σ (recvBody ra vd ring true)

def execChPeek (x : Issue) (ra : BitVec 5) (ring : BitVec 4) (σ : State) :=
  issue x attUnit σ (fun σ L t =>
    let c := getCore σ L
    let q := getRing c ring.toNat
    if !q.enable then .exc σ (faultOf 0x09) else .done (wg σ L t ra (ringHead c q)) .seq)

/-- MESSAGE: the interface takes the message, or it stays at the VC2 input, which holds 8 (R327, R329). -/
def execMessage (i : Nat) (σ : State) : Host.Outcome State Fault Refusal :=
  match arrival σ i with
  | some (L, p) =>
    (match p.body with
     | .message r m =>
       let σ1 := takePkt σ i
       let c := getCore σ L
       (match (if c.vc2.isEmpty then ringSink σ1 L r.toNat m else none) with
        | some σ2 => .next (tidy σ σ2 L)
        | none => if 8 ≤ c.vc2.length then .next σ else .next (modCore σ1 L (fun c => { c with vc2 := c.vc2 ++ [p] })))
     | _ => .next σ)
  | none => .next σ

/-- RING_STALL_EVENT (R334). No thread is concerned with a ring; THREAD is 0 (log 55). -/
def execRingStallEvent (core : BitVec 13) (ring : BitVec 4) (σ : State) : Host.Outcome State Fault Refusal :=
  let L := core.toNat
  let r := ring.toNat
  let c := getCore σ L
  let q := getRing c r
  if coreOn σ L && q.parked.isSome && q.enable && q.stallEv && !q.pause && !q.stalled && decide (dv σ 0x2300 2 100 ≤ q.parkAge) &&
      dv σ 0x2300 1 1 == 1 then
    .next (tidy σ (setCore σ L (queueEvent (setRing c r { q with stalled := true }) 3 r 0 false 0x0A)) L)
  else .next σ

/-- An `out` to RING_CFG. -/
def ringOut (x : Issue) (ring : BitVec 4) (v : Word) (σ : State) := outTo x (0x400 + 0x18 * ring.toNat) v σ

def execRingEnable (x : Issue) (ring : BitVec 4) (v : Word) (σ : State) := ringOut x ring (withField v 27 1 1) σ
def execRingPause (x : Issue) (ring : BitVec 4) (v : Word) (σ : State) := ringOut x ring v σ
def execRingDiscard (x : Issue) (ring : BitVec 4) (v : Word) (σ : State) := ringOut x ring v σ

/-! ### Press queues: the core's side (R342, R343, R347, R348) -/

/-- A press target word names a queue: no reserved bit, a cluster below 320. -/
def pressTargetOk (w : Word) : Bool := bits w 63 26 == 0 && !bit w 19 && bits w 15 14 == 0 && decide (bits w 8 0 < 320)

/-- The endpoint of a queue: 32·cluster + queue. -/
def pressEp (w : Word) : Ep := .press (32 * bits w 8 0 + bits w 13 9)

/-- The cause that the address of a press instruction's operand gives (R342, R343). -/
def pressAddr (a n : Nat) : Option Nat := if a % 64 ≠ 0 then some 0x03 else if spadSize < a + n then some 0x05 else none

/-- The local operand of a press instruction: its bytes, or 0x0D. -/
def pressRead (σ : State) (L a n : Nat) : AR (List Byte) :=
  let r := spadRead σ L a n
  if r.2.isEmpty then .ok (spadMeet σ L a n) r.1 else .fault (noteLocalUE σ L a n) (faultAt 0x0D a false n)

def execChPress (x : Issue) (ra rb : BitVec 5) (σ : State) :=
  issue x attMem σ (fun σ L t =>
    let a := (rg σ L t ra).toNat
    let w := rg σ L t rb
    let e := if bits w 18 17 = 2 then 2 else 4
    let n := bits w 25 20 + 1
    match pressAddr a (if pressTargetOk w then n * e else 64) with
    | some k => .exc σ (faultAt k a false (n * e))
    | none =>
      if !pressTargetOk w then .exc σ (faultOf 0x09) else
      ofAR (pressRead σ L a (n * e)) (fun σ b =>
        if outqFull σ L then .hold σ
        else
          let vs := (List.range n).map (fun i => BitVec.ofNat 32 (ofBytes ((b.drop (e * i)).take e)))
          let p := pkt (.core L) (pressEp w) (.pressContrib (getCore σ L).sup.pair (bits w 18 17) vs (bit w 16) L)
          .done (watch (modCore σ L (fun c => { c with outq := c.outq ++ [p] })) L t a (n * e) true false) .seq))

/-- Sends a press control operation; the thread waits for its reply. -/
def pressAsk (σ : State) (L t : Nat) (ra : BitVec 5) (w : Word) (op : PressOp) : IRes :=
  .wait (sendTo σ (.core L) (pressEp w) (.pressCtl op L (BitVec.ofNat 4 t) (getCore σ L).sup.pair)) (.press ra) 2

def execChPcfg (x : Issue) (ra rb : BitVec 5) (σ : State) :=
  issue x attMem σ (fun σ L t =>
    if !isSup σ L t then .exc σ (faultOf 0x02) else
    let a := (rg σ L t rb).toNat
    match pressAddr a 64 with
    | some k => .exc σ (faultAt k a false 64)
    | none =>
      ofAR (pressRead σ L a 64) (fun σ b =>
        let ws := wordsOf 8 b
        let ds := ((ws.drop 1).map (fun w => [BitVec.ofNat 32 (bits w 31 0), BitVec.ofNat 32 (bits w 63 32)])).flatten
        pressAsk (watch σ L t a 64 true false) L t ra (wat ws 0) (.cfg (wat ws 0) ds)))

/-- A word that names a queue alone. -/
def pressNameOk (w : Word) : Bool := bits w 63 14 == 0 && decide (bits w 8 0 < 320)

def execChPclose (x : Issue) (ra rb : BitVec 5) (σ : State) :=
  issue x attUnit σ (fun σ L t =>
    if !isSup σ L t then .exc σ (faultOf 0x02)
    else if !pressNameOk (rg σ L t rb) then .exc σ (faultOf 0x09)
    else pressAsk σ L t ra (rg σ L t rb) .close)

def execChPstat (x : Issue) (ra rb : BitVec 5) (σ : State) :=
  issue x attUnit σ (fun σ L t =>
    if !pressNameOk (rg σ L t rb) then .exc σ (faultOf 0x09) else pressAsk σ L t ra (rg σ L t rb) .stat)

/-- PRESS_REPLY: the waiting thread's instruction completes with the value. -/
def execPressReply (i : Nat) (σ : State) : Host.Outcome State Fault Refusal :=
  match arrival σ i with
  | some (L, { body := .pressReply t v, .. }) =>
    let σ1 := takePkt σ i
    let h := thrOf σ L t.toNat
    (match h.st, h.wait with
     | .wait, .press rd => .next (tidy σ (wakeDone (wg σ1 L t.toNat rd v) L t.toNat) L)
     | _, _ => .next σ1)
  | _ => .next σ

/-! ### Press queues: the queue's side (R342–R348) -/

/-- The result of a configuration (Table: press configuration results). -/
def pressCfgResult (σ : State) (q : PressQ) (w : Word) (ds : List (BitVec 32)) : Nat :=
  let n := pqNdest w
  let used := ds.take n
  if bits w 63 48 ≠ 0 ∨ bits w 31 27 ≠ 0 ∨ bit w 23 = true ∨ 320 ≤ bits w 8 0 ∨ pqFmt w = 3 ∨ pqContribs w = 0 ∨
      used.any (fun d => nbits d.toNat 31 20 != 0 || nbits d.toNat 15 13 != 0) = true ∨ (ds.drop n).any (· != 0#32) = true then 1
  else if used.any (fun d => decide (gradeOf σ ≤ nbits d.toNat 12 0)) then 2
  else if q.opened then 3
  else 0

/-- The status word (Table: press status word). -/
def pressStat (σ : State) (q : Nat) : Word :=
  let x := getPress σ q
  w64 (b2n x.opened + fl (b2n x.round) 1 + fl (b2n (pressDelivering σ q)) 2 + fl x.curN 3 + fl x.nxtN 19 + fl x.drops 35)

/-- PRESS_CTL: configure, close or status. -/
def execPressCtl (i : Nat) (σ : State) : Host.Outcome State Fault Refusal :=
  match mayArrive σ i with
  | some { dst := .press q, body := .pressCtl op L t pair, .. } =>
    if !running σ then .next σ else
    let σ1 := takePkt σ i
    let x := getPress σ q
    let reply (σ : State) (v : Word) : Host.Outcome State Fault Refusal := .next (sendTo σ (.press q) (.core L) (.pressReply t v))
    (match op with
     | .cfg w ds =>
       (match pressCfgResult σ x w ds with
        | 0 => reply (setPress σ1 q { PressQ.closed with opened := true, cfg := w, dests := ds.take (pqNdest w), pair := pair }) 0#64
        | r => reply σ1 (w64 r))
     | .close =>
       if !x.opened then reply σ1 2#64
       else if x.norm = true ∨ x.pair ≠ pair then reply σ1 1#64
       else reply (setPress σ1 q { PressQ.closed with drops := x.drops }) 0#64
     | .stat => reply σ1 (pressStat σ q))
  | _ => .next σ

/-- One addition of R344: INT32 saturates, FP32 and widened BF16 round to nearest even. -/
def pressAdd (fmt : Nat) (a b : BitVec 32) : BitVec 32 :=
  if fmt = 1 then addInt32 a b.toInt
  else BitVec.ofNat 32 (addSloe a.toNat (decode (if fmt = 2 then .bf16 else .fp32) b.toNat))

/-- Adds a contribution's elements to a sum. -/
def pressSum (fmt : Nat) (sum : SMap (BitVec 32)) (vs : List (BitVec 32)) : SMap (BitVec 32) :=
  vs.zipIdx.foldl (fun m v => mmod 0#32 v.2 (fun a => pressAdd fmt a v.1) m) sum

/-- PRESS_CONTRIB: a contribution is dropped or added (R344, R345). -/
def execPressContrib (i : Nat) (σ : State) : Host.Outcome State Fault Refusal :=
  match mayArrive σ i with
  | some { dst := .press q, body := .pressContrib pair fmt vs round _, .. } =>
    if !running σ then .next σ else
    let σ1 := takePkt σ i
    let x := getPress σ q
    if !x.opened || decide (pair ≠ x.pair) || fmt != pqFmt x.cfg || vs.length != pqElems x.cfg then
      .next (setPress σ1 q { x with drops := satAdd 0xFFFF x.drops 1 })
    else if round = x.round then
      .next (pressAll (setPress σ1 q { x with cur := pressSum fmt x.cur vs, curN := x.curN + 1 }))
    else .next (setPress σ1 q { x with nxt := pressSum fmt x.nxt vs, nxtN := x.nxtN + 1 })
  | _ => .next σ

/-- Closes every press queue that a pair owns (R347). -/
def closePress (σ : State) (p : Pair) : State :=
  { σ with press := σ.press.foldl (fun m e => if e.2.opened = true ∧ e.2.pair = p then
      mput PressQ.closed e.1 { PressQ.closed with drops := e.2.drops } m else m) σ.press }

end Sys2Proof.Machine
end

