-- ==== Sys2Proof/Machine/Quince.lean ====
section
/-! DEFINITION. The Quince passes (R437–R459): the shard tables, the engines' translation (R316), pass 1 and its norm, pass 2 and its
tallies, stops and resumption, and a fault reply's arrival (R312, R457). -/

namespace Sys2Proof.Machine

/-! ### binary64 (R445, R449) -/

/-- The value of a binary64 encoding. -/
def dec64 (n : Nat) : Val :=
  let s := decide (2 ^ 63 ≤ n % 2 ^ 64)
  let E := nbits n 62 52
  let F := n % 2 ^ 52
  if E = 2047 then (if F = 0 then .inf s else .nan)
  else if E = 0 then .fin s F (-1074)
  else .fin s (2 ^ 52 + F) ((E : Int) - 1075)

/-- A value rounded to nearest even in binary64. -/
def enc64 (x : Val) : Nat :=
  match x with
  | .nan => 0x7FF8000000000000
  | .inf s => 0x7FF0000000000000 + b2n s * 2 ^ 63
  | .fin s m e =>
    if m = 0 then b2n s * 2 ^ 63 else
    let qe : Int := max (e + Nat.log2 m - 52) (-1074)
    let q := roundMag m e qe 0 0
    let mag := (qe + 1074).toNat * 2 ^ 52 + q
    if 0x7FEFFFFFFFFFFFFF < mag then 0x7FF0000000000000 + b2n s * 2 ^ 63 else mag + b2n s * 2 ^ 63

/-- A value rounded once to binary64. -/
def to64 (x : Val) : Val := dec64 (enc64 x)

/-! ### FP32 operations of R444 -/

/-- The value of FP32 bits. -/
def v32 (b : BitVec 32) : Val := decode .fp32 b.toNat

/-- A value rounded once to FP32 under RNE. -/
def r32 (x : Val) : BitVec 32 := BitVec.ofNat 32 (rnd .fp32 x)

def qMul (a b : BitVec 32) : BitVec 32 := r32 (Val.mul (v32 a) (v32 b))
def qAdd (a b : BitVec 32) : BitVec 32 := r32 (Val.add (v32 a) (v32 b))
def qFma (a b c : BitVec 32) : BitVec 32 := r32 (Val.add (Val.mul (v32 a) (v32 b)) (v32 c))
def qDiv (a b : BitVec 32) : BitVec 32 := r32 (fnExact .div (v32 a) (v32 b))
def qSqrt (a : BitVec 32) : BitVec 32 := r32 (fnExact .sqrt (v32 a) (v32 a))

/-! ### The engines' memory (R316, R440, R442) -/

/-- Why an engine does not go on: it waits for a recall, its translation failed, or a record is malformed. -/
inductive EStop where
  | wait
  | xlate (reason level va : Nat) (write : Bool)
  | malformed
  deriving DecidableEq, Repr

/-- An engine's operation ends with a value, or stops. -/
inductive ER (α : Type) where
  | ok (σ : State) (v : α)
  | stop (σ : State) (w : EStop)

/-- Goes on with the value. -/
def erThen {α β : Type} (r : ER α) (f : State → α → ER β) : ER β :=
  match r with
  | .ok σ v => f σ v
  | .stop σ w => .stop σ w

def getEng (σ : State) (h : Nat) : Engine := mget Engine.reset σ.quince.eng h
def setEng (σ : State) (h : Nat) (q : Engine) : State :=
  { σ with quince := { σ.quince with eng := mput Engine.reset h q σ.quince.eng } }
def modEng (σ : State) (h : Nat) (f : Engine → Engine) : State := setEng σ h (f (getEng σ h))

/-- The level of a leaf. -/
def tlbLevel (e : Tlb) : Nat := (39 - e.log2) / 9

/-- Installs a translation in a controller's TLB of 64 entries. -/
def engInstall (σ : State) (h : Nat) (e : Tlb) : State :=
  let q := getEng σ h
  let old := if q.tlb.length < 64 then q.tlb else dropAt (Config.victim σ.freeCtr % 64) q.tlb
  { setEng σ h { q with tlb := old ++ [e] } with freeCtr := σ.freeCtr + 1 }

/-- The HBM offset of a byte for the engine of stack h, in supervisor mode; a leaf outside the stack is malformed. -/
def engXlate (σ : State) (h va : Nat) (write : Bool) : ER Nat :=
  let judge (σ : State) (e : Tlb) : ER Nat :=
    match permReason e .supervisor (if write then .store else .load) with
    | 0 => .ok σ (e.addr + (va - e.va))
    | r => .stop σ (.xlate r 0 va write)
  match (getEng σ h).tlb.find? (fun e => decide (e.va ≤ va) && decide (va < e.va + 2 ^ e.log2)) with
  | some e => judge σ e
  | none =>
    let root := bits σ.quince.root 39 12 * 4096
    let walked (σ : State) : State := if bit σ.quince.root 0 && decide (root ≤ 0xBFFFFFF000) then walkReads σ va 4 0 root else σ
    match walkFrom σ σ.quince.root va with
    | .recall line => .stop (startRecall σ line false []) .wait
    | .fail r l => .stop (walked σ) (.xlate r l va write)
    | .ok e =>
      let σ := walked σ
      if e.comp = true ∨ stackOf e.addr ≠ h then .stop σ (.xlate 3 (tlbLevel e) va write)
      else judge (engInstall σ h e) e

/-- The offsets of n lines of 64 bytes from va, with every copy that an access of their home must recall gone (R463). -/
def engLines : Nat → State → Nat → Nat → Bool → ER (List Nat)
  | 0, σ, _, _, _ => .ok σ []
  | n + 1, σ, h, va, write =>
    erThen (engXlate σ h va write) (fun σ a =>
      match mustRecall σ (.hbm a) 64 write with
      | some r => .stop (startRecall σ r.1 r.2 []) .wait
      | none => erThen (engLines n σ h (va + 64) write) (fun σ r => .ok σ (a :: r)))

/-- Bytes of HBM, with free values for what is delivered marked uncorrectable (log 6). -/
def engLoad (σ : State) (a n : Nat) : List Byte × State :=
  let r := hbmRead σ a n
  (r.1.zipIdx.map (fun b =>
    let k := (a + b.2) / 8
    if r.2.contains k then BitVec.ofNat 8 ((Config.freeValue (σ.freeCtr + k - a / 8)).toNat / 256 ^ ((a + b.2) % 8)) else b.1),
   if r.2.isEmpty then σ else { σ with freeCtr := σ.freeCtr + n / 8 + 1 })

/-- Reads of lines at their home, one after another (R442). -/
def engLoads : List Nat → State → List Byte × State
  | [], σ => ([], σ)
  | a :: r, σ => let x := engLoad (mscRead σ (lineOf a)) a 64; let y := engLoads r x.2; (x.1 ++ y.1, y.2)

/-- Writes lines. -/
def engStores : List Nat → List Byte → State → State
  | [], _, σ => σ
  | a :: r, b, σ => engStores r (b.drop 64) (hbmWrite σ a (b.take 64) [])

/-- Reads n lines from va. -/
def engRead (n : Nat) (σ : State) (h va : Nat) : ER (List Byte) :=
  erThen (engLines n σ h va false) (fun σ as => let r := engLoads as σ; .ok r.2 r.1)

/-- Writes lines from va. -/
def engWrite (σ : State) (h va : Nat) (b : List Byte) : ER Unit :=
  erThen (engLines ((b.length + 63) / 64) σ h va true) (fun σ as => .ok (engStores as b σ) ())

/-! ### The shard table (R438, R439) -/

/-- Address of the table of stack h, and of its record r. -/
def tableAt (σ : State) (h : Nat) : Nat := σ.quince.tableVa + h * σ.quince.tstride
def recordAt (σ : State) (h r : Nat) : Nat := tableAt σ h + 64 + 256 * r

/-- A layer record as words, of which the first 8 are the fields and 8 to 15 TALLY_IN. -/
abbrev LRec := List Word

/-- K, KMIN and KMAX, signed. -/
def lrK (l : LRec) : Int := (BitVec.ofNat 8 (bits (wat l 0) 15 8)).toInt
def lrKmin (l : LRec) : Int := (BitVec.ofNat 8 (bits (wat l 0) 23 16)).toInt
def lrKmax (l : LRec) : Int := (BitVec.ofNat 8 (bits (wat l 0) 31 24)).toInt
def lrSr (l : LRec) : Bool := bit (wat l 0) 4
def lrDecay (l : LRec) : Bool := bit (wat l 0) 3
def lrG16 (l : LRec) : Bool := bit (wat l 0) 2
def lrW32 (l : LRec) : Bool := bit (wat l 0) 1
def lrValid (l : LRec) : Bool := bit (wat l 0) 0
def lrBlocks (l : LRec) : Nat := bits (wat l 6) 31 0
def lrVa (l : LRec) (i : Nat) : Nat := bits (wat l i) 47 0

/-- Bin b of TALLY_IN. -/
def lrTally (l : LRec) (b : Nat) : Nat := bits (wat l (8 + b / 2)) (32 * (b % 2) + 31) (32 * (b % 2))

/-- A valid record is malformed (R439). -/
def lrMalformed (l : LRec) : Bool :=
  bits (wat l 0) 63 32 != 0 || bits (wat l 0) 7 5 != 0 || bits (wat l 6) 63 32 != 0 || wat l 7 != 0#64 ||
  decide (lrKmin l < -16) || decide (15 < lrKmax l) || decide (lrK l < lrKmin l) || decide (lrKmax l < lrK l) ||
  ([1, 2, 3, 4, 5].any (fun i => bits (wat l i) 63 48 != 0 || bits (wat l i) 5 0 != 0)) ||
  (List.range 8).any (fun i => wat l (24 + i) != 0#64)

/-- Number of layers of a table. -/
def engLayers (σ : State) (h : Nat) : ER Nat :=
  erThen (engRead 1 σ h (tableAt σ h)) (fun σ b => .ok σ (ofBytes (b.take 4)))

/-- Reads record r. -/
def engRecord (σ : State) (h r : Nat) : ER LRec :=
  erThen (engRead 4 σ h (recordAt σ h r)) (fun σ b => .ok σ (wordsOf 32 b))

/-- Block b of a record is frozen (R441). -/
def engFrozen (σ : State) (h : Nat) (l : LRec) (b : Nat) : ER Bool :=
  if lrVa l 5 = 0 then .ok σ false else
  let va := lrVa l 5 + b / 8
  erThen (engRead 1 σ h (va / 64 * 64)) (fun σ d => .ok σ (nbit (d.getD (va % 64) 0#8).toNat (b % 8)))

/-- The elements of an array block as FP32 bits; BF16 is widened exactly. -/
def elems32 (half : Bool) (d : List Byte) : List (BitVec 32) :=
  (List.range 64).map (fun i => if half then BitVec.ofNat 32 (ofBytes ((d.drop (2 * i)).take 2) * 65536)
    else BitVec.ofNat 32 (ofBytes ((d.drop (4 * i)).take 4)))

/-! ### Pass 1 (R449) -/

/-- Adds the squares of a block to a binary64 sum, in element order under RNE. -/
def sumSquares (acc : BitVec 64) (gs : List (BitVec 32)) : BitVec 64 :=
  gs.foldl (fun a g => BitVec.ofNat 64 (enc64 (Val.add (dec64 a.toNat) (Val.mul (v32 g) (v32 g))))) acc

/-- Blocks of a record from BLOCK on. -/
def eng1Blocks : Nat → State → Nat → LRec → ER Unit
  | 0, σ, _, _ => .ok σ ()
  | k + 1, σ, h, l =>
    let b := (getEng σ h).block
    if lrBlocks l ≤ b then .ok σ () else
    erThen (engFrozen σ h l b) (fun σ frozen =>
      if frozen then eng1Blocks k (modEng σ h (fun q => { q with block := b + 1 })) h l else
      let n := if lrG16 l then 2 else 4
      erThen (engRead n σ h (lrVa l 4 + b * n * 64)) (fun σ d =>
        eng1Blocks k (modEng σ h (fun q => { q with block := b + 1, acc := sumSquares q.acc (elems32 (lrG16 l) d) })) h l))

/-- Records from LAYER on. -/
def eng1Layers : Nat → State → Nat → Nat → ER Unit
  | 0, σ, _, _ => .ok σ ()
  | k + 1, σ, h, n =>
    let r := (getEng σ h).layer
    if n ≤ r then .ok σ () else
    let next (σ : State) : State := modEng σ h (fun q => { q with layer := r + 1, block := 0 })
    erThen (engRecord σ h r) (fun σ l =>
      if !lrValid l then eng1Layers k (next σ) h n
      else if lrMalformed l then .stop σ .malformed
      else erThen (eng1Blocks (lrBlocks l) σ h l) (fun σ _ => eng1Layers k (next σ) h n))

/-- Engine h reads its share of pass 1. -/
def engPass1 (σ : State) (h : Nat) : ER Unit := erThen (engLayers σ h) (fun σ n => eng1Layers n σ h n)

/-! ### Pass 2 (R444–R448) -/

/-- One element: m, v, w and the state of its lane before; after, with the bin it counts in. `free` numbers a value that R446 leaves open
(a weight that is NaN). -/
def updElem (s : Snap) (eta : BitVec 32) (decay w32 sr : Bool) (free : Nat) (g m v w lane : BitVec 32) :
    BitVec 32 × BitVec 32 × Nat × BitVec 32 × Nat :=
  let gc := qMul s.c g
  let m1 := qFma s.beta1 m (qMul s.omb1 gc)
  let v1 := qFma s.beta2 v (qMul s.omb2 (qMul gc gc))
  let q := qDiv (qDiv m1 s.bc1) (qAdd (qSqrt (qDiv v1 s.bc2)) s.eps)
  let q := if decay then qFma s.decay w q else q
  let u := qMul eta q
  let f : Fmt := if w32 then .fp32 else .bf16
  let lane1 := if sr then lfsr16 lane else lane
  let x := Val.add (v32 w) (Val.neg (v32 u))
  let r := convert f (if sr then 2 else 0) (lane1.toNat % 65536) true x
  let w0 := if w32 then w.toNat else w.toNat / 65536
  let nonfin (b : BitVec 32) : Bool := match v32 b with
    | .fin .. => false
    | .nan | .inf _ => true
  let isZero (n : Nat) : Bool := n % 2 ^ (f.bits - 1) == 0
  let ovf : Bool := match x with
    | .inf _ => true
    | .fin _ a d => Val.lt (decode f f.maxMag) (.fin false a d)
    | .nan => false
  let bin :=
    if nonfin u || nonfin m1 || nonfin v1 then 3
    else if ovf then 2
    else if u.toNat % 2 ^ 31 = 0 then 0
    else if r.1 = w0 ∨ (isZero r.1 = true ∧ isZero w0 = true) then 1
    else if isZero w0 then 15
    else match v32 u, v32 w with
      | .fin _ a d, .fin _ b e =>
        let k := (d + Nat.log2 a) - (e + Nat.log2 b) - (if w32 then -28 else -12)
        4 + Nat.min 11 k.toNat
      | _, _ => 4 + (Config.freeValue free).toNat % 12
  (m1, v1, r.1, lane1, bin)

/-- ETA_L of a layer (R445). -/
def etaOf (s : Snap) (k : Int) : BitVec 32 := r32 (Val.scale (v32 s.eta) k)

/-- One unfrozen block: read whole, updated, written whole; on a stop it is untouched. -/
def eng2Block (σ : State) (h : Nat) (l : LRec) (b : Nat) : ER Unit :=
  let nw := if lrW32 l then 4 else 2
  let ng := if lrG16 l then 2 else 4
  let wv := lrVa l 1 + b * nw * 64
  let mv := lrVa l 2 + b * 256
  let vv := lrVa l 3 + b * 256
  erThen (engRead ng σ h (lrVa l 4 + b * ng * 64)) (fun σ gd =>
  erThen (engRead nw σ h wv) (fun σ wd =>
  erThen (engRead 4 σ h mv) (fun σ md =>
  erThen (engRead 4 σ h vv) (fun σ vd =>
  erThen (engLines nw σ h wv true) (fun σ wa =>
  erThen (engLines 4 σ h mv true) (fun σ ma =>
  erThen (engLines 4 σ h vv true) (fun σ va =>
    let q := getEng σ h
    let s := σ.quince.snap
    let gs := elems32 (lrG16 l) gd
    let ws := elems32 (!lrW32 l) wd
    let ms := elems32 false md
    let vs := elems32 false vd
    let eta := etaOf s (lrK l)
    let out := (List.range 64).map (fun i => updElem s eta (lrDecay l) (lrW32 l) (lrSr l) (σ.freeCtr + i) (gs.getD i 0#32)
      (ms.getD i 0#32) (vs.getD i 0#32) (ws.getD i 0#32) (q.lanes.getD i 0#32))
    let σ := engStores wa (out.map (fun o => toBytes nw o.2.2.1)).flatten σ
    let σ := engStores ma (out.map (fun o => toBytes 4 o.1.toNat)).flatten σ
    let σ := engStores va (out.map (fun o => toBytes 4 o.2.1.toNat)).flatten σ
    let tally := out.foldl (fun t o => mmod 0 o.2.2.2.2 (fun n => satAdd 0xFFFFFFFF n 1) t) q.tally
    .ok { setEng σ h { q with lanes := out.map (fun o => o.2.2.2.1), tally := tally, block := b + 1 } with
      freeCtr := σ.freeCtr + 64 } ())))))))

/-- Blocks of a record from BLOCK on. -/
def eng2Blocks : Nat → State → Nat → LRec → ER Unit
  | 0, σ, _, _ => .ok σ ()
  | k + 1, σ, h, l =>
    let b := (getEng σ h).block
    if lrBlocks l ≤ b then .ok σ () else
    erThen (engFrozen σ h l b) (fun σ frozen =>
      if frozen then eng2Blocks k (modEng σ h (fun q => { q with block := b + 1 })) h l
      else erThen (eng2Block σ h l b) (fun σ _ => eng2Blocks k σ h l))

/-- The step-exponent rule: CONTROL after it (R447). -/
def stepRule (s : Snap) (l : LRec) : Word :=
  let n := (1 :: (List.range 12).map (· + 4)).foldl (fun a b => a + lrTally l b) 0
  let lost := lrTally l 1 * 65536
  let big := (lrTally l 14 + lrTally l 15) * 65536
  let k := lrK l
  let sr := lrSr l
  let r : Int × Bool :=
    if n = 0 then (k, sr) else
    let r : Int × Bool :=
      if s.lostHi * n < lost ∧ k < lrKmax l then (k + 1, sr)
      else if s.bigHi * n < big ∧ lrKmin l < k then (k - 1, false)
      else (k, sr)
    if r.1 = lrKmax l ∧ s.srShare * n < lost then (r.1, true) else r
  BitVec.ofNat 64 ((wat l 0).toNat - bits (wat l 0) 15 8 * 256 - b2n sr * 16 + (BitVec.ofInt 8 r.1).toNat * 256 + b2n r.2 * 16)

/-- Applies the rule to record r once in a pass: CONTROL and TALLY_IN are written; answers the record as it is afterwards. -/
def engRule (σ : State) (h r : Nat) (l : LRec) : ER LRec :=
  if (getEng σ h).ruled then .ok σ l else
  let va := recordAt σ h r
  erThen (engLines 1 σ h va true) (fun σ ca =>
  erThen (engLines 1 σ h (va + 64) true) (fun σ ta =>
    let l1 := stepRule σ.quince.snap l :: l.drop 1
    let σ := engStores ca (bytesOf (l1.take 8)) σ
    let σ := engStores ta (List.replicate 64 0#8) σ
    .ok (modEng σ h (fun q => { q with ruled := true })) l1))

/-- Records from LAYER on, with the rule before and TALLY_OUT after each. -/
def eng2Layers : Nat → State → Nat → Nat → ER Unit
  | 0, σ, _, _ => .ok σ ()
  | k + 1, σ, h, n =>
    let r := (getEng σ h).layer
    if n ≤ r then .ok σ () else
    let next (σ : State) : State := modEng σ h (fun q => { q with layer := r + 1, block := 0, ruled := false, tally := [] })
    erThen (engRecord σ h r) (fun σ l =>
      if !lrValid l then eng2Layers k (next σ) h n
      else if lrMalformed l then .stop σ .malformed
      else erThen (engRule σ h r l) (fun σ l =>
        erThen (eng2Blocks (lrBlocks l) σ h l) (fun σ _ =>
          let out := ((List.range 16).map (fun b => toBytes 4 (mget 0 (getEng σ h).tally b))).flatten
          erThen (engWrite σ h (recordAt σ h r + 128) out) (fun σ _ => eng2Layers k (next σ) h n))))

/-- Engine h does its share of pass 2. -/
def engPass2 (σ : State) (h : Nat) : ER Unit := erThen (engLayers σ h) (fun σ n => eng2Layers n σ h n)

/-! ### The norm queue (R451) -/

/-- The norm queue: queue 31 of cluster 319. -/
def normQueue : Nat := 32 * 319 + 31

/-- The norm queue open: FMT FP32, ELEMS 1, REARM 1, n contributions. -/
def normOpen (n : Nat) : PressQ :=
  { PressQ.closed with opened := true, norm := true, cfg := BitVec.ofNat 64 (319 + 31 * 2 ^ 9 + 2 ^ 22 + n * 2 ^ 32) }

/-- Discards what a pass 1 has contributed. -/
def normDiscard (σ : State) : State :=
  let q := getPress σ normQueue
  let σ := if q.norm then setPress σ normQueue { q with cur := [], curN := 0, nxt := [], nxtN := 0 } else σ
  { σ with net := σ.net.filter (fun p => !(decide (p.dst = .press normQueue) && (match p.src with
    | .stack _ => true
    | _ => false))) }

/-! ### A pass as a whole (R450, R453–R457) -/

/-- Engine h takes part in the pass (R450). -/
def takesPart (σ : State) (h : Nat) : Bool := decide (h < 32) && !σ.quince.exclude.getLsbD h

/-- Stacks that take part. -/
def passStacks (σ : State) : List Nat := (List.range 32).filter (takesPart σ)

/-- A BETA or other FP32 entry of `0x7100` and `0x7110`. -/
def dvF (σ : State) (index sub d : Nat) : BitVec 32 := BitVec.ofNat 32 (dv σ index sub d)

/-- GLOBAL_NORM_SQ. -/
def globalNorm (σ : State) : BitVec 32 := dvF σ 0x7100 4 0

/-- Writes GLOBAL_NORM_SQ and sets NORM_FRESH (R451, R452). -/
def setGlobalNorm (σ : State) (v : BitVec 32) : State :=
  { setDv σ 0x7100 4 v.toNat with quince := { σ.quince with normFresh := true } }

/-- The snapshot of a pass 2 (R445). -/
def takeSnap (σ : State) : Snap :=
  let one := Val.fin false 1 0
  let b1 := dvF σ 0x7110 2 0x3F666666
  let b2 := dvF σ 0x7110 3 0x3F733333
  let clip := dvF σ 0x7110 6 0x3F800000
  let t := Nat.min 0xFFFFFFFF (dv σ 0x7100 3 0 + 1)
  let less (x : Val) : BitVec 32 := r32 (to64 (Val.add one (Val.neg x)))
  let G := to64 (fnExact .sqrt (v32 (globalNorm σ)) one)
  { beta1 := b1, beta2 := b2, omb1 := less (v32 b1), omb2 := less (v32 b2)
    bc1 := less (dec64 (Config.pow64 b1 t).toNat), bc2 := less (dec64 (Config.pow64 b2 t).toNat)
    c := if Val.lt (.fin false 0 0) (v32 clip) && Val.lt (v32 clip) G then r32 (to64 (fnExact .div (v32 clip) G)) else r32 one
    eta := dvF σ 0x7100 2 0, eps := dvF σ 0x7110 4 0x322BCC77, decay := dvF σ 0x7110 5 0
    lostHi := dv σ 0x7110 7 655, bigHi := dv σ 0x7110 8 655, srShare := dv σ 0x7110 9 3277 }

/-- The lanes of the engine of stack h at the start of a pass 2 (R448). -/
def engLanes (σ : State) (h : Nat) : List (BitVec 32) :=
  (List.range 64).map (fun l =>
    let v := BitVec.ofNat 32 (dv σ 0x7110 10 1) ^^^ BitVec.ofNat 32 (dv σ 0x7100 3 0) ^^^
      BitVec.ofNat 32 ((64 * h + l + 1) * 0x9E3779B9)
    if v = 0#32 then 1#32 else v)

/-- Starts a pass for order o: pass 1, pass 2, or a pass 2 that goes on; an engine that is left out is IDLE again (R445, R448–R451,
R457). -/
def passStart (σ : State) (k pass : Nat) (w : List Word) (resume : Bool) : State :=
  let σ := { σ with quince := { σ.quince with
    pass := pass, order := k, exclude := BitVec.ofNat 32 (bits (wat w 6) 31 0), saved := 0
    tableVa := (wat w 2).toNat, tstride := (wat w 3).toNat, root := wat w 4
    snap := if pass = 2 ∧ resume = false then takeSnap σ else σ.quince.snap } }
  let σ := if resume then σ else (List.range 32).foldl (fun σ h =>
    if !takesPart σ h && (getEng σ h).st == 4 then modEng σ h (fun q => { q with st := 0 }) else σ) σ
  let σ := (passStacks σ).foldl (fun σ h => modEng σ h (fun q =>
    let q := { q with tlb := [], outstanding := false }
    if resume then (if q.fin then q else { q with st := pass })
    else { q with st := pass, layer := 0, block := 0, fin := false, acc := 0#64, tally := [], ruled := false,
                  lanes := if pass = 2 then engLanes σ h else q.lanes })) σ
  if pass = 1 then
    setPress σ normQueue { normOpen (passStacks σ).length with round := (getPress σ normQueue).round,
                                                               drops := (getPress σ normQueue).drops }
  else σ

/-- A preempted pass goes on under a new order; a ROOT of 0 keeps the saved root (R457). -/
def passResume (σ : State) (k : Nat) (root : Word) : State :=
  let p := σ.quince.saved
  let σ := { σ with quince := { σ.quince with
    pass := p, order := k, saved := 0, root := if root = 0#64 then σ.quince.root else root } }
  (passStacks σ).foldl (fun σ h => modEng σ h (fun q =>
    let q := { q with tlb := [], outstanding := false }
    if q.fin then q else { q with st := p })) σ

/-- The pass is no longer running: engines that are not STOPPED are IDLE. -/
def passIdle (σ : State) : State :=
  let σ := (passStacks σ).foldl (fun σ h => modEng σ h (fun q => { q with st := if q.st = 4 then 4 else 0, outstanding := false })) σ
  { σ with quince := { σ.quince with pass := 0 } }

/-- The pass ends before its end with a status: pass 1 is discarded, pass 2 leaves PASS2_PARTIAL (R457). -/
def passBreak (σ : State) (status reason : Nat) : State :=
  let pass := σ.quince.pass
  let k := σ.quince.order
  let σ := passIdle σ
  let σ := if pass = 1 then normDiscard σ else { σ with quince := { σ.quince with pass2Partial := true } }
  match findOrder σ k with
  | some o => complete σ o status reason 0#64
  | none => σ

/-- A PREEMPT stops the pass; a RESUME may continue it (R457). -/
def passPreempt (σ : State) : State :=
  let pass := σ.quince.pass
  let k := σ.quince.order
  let σ := passIdle σ
  let σ := { σ with quince := { σ.quince with saved := pass } }
  match findOrder σ k with
  | some o => complete σ o 2 0 0#64
  | none => σ

/-- The engine holds on a translation fault: STATE 3, and a fault record with source 31 (R310, R316, R457). -/
def engHold (σ : State) (h reason level va : Nat) (write : Bool) : State :=
  let q := getEng σ h
  let seq := (q.seq + 1) % 256
  let p := match findOrder σ σ.quince.order with
    | some o => ordPair o
    | none => ⟨0#12, 0#4⟩
  let w1 := reason + level * 16 + b2n write * 64 + 31 * 256 + h * 2 ^ 16 + p.tag.toNat * 2 ^ 32 + p.gen.toNat * 2 ^ 44 +
    moduleId σ * 2 ^ 48 + seq * 2 ^ 56
  sendTo (setEng σ h { q with st := 3, seq := seq, outstanding := true }) (.stack h) .disp
    (.faultRecord { w0 := BitVec.ofNat 64 (va % 2 ^ 48), w1 := BitVec.ofNat 64 w1, w2 := 0#64 } 31)

/-- The engine's run has ended with its share done, or stopped. -/
def engEnd (r : ER Unit) (h : Nat) (done : State → State) : State :=
  match r with
  | .ok σ _ => done σ
  | .stop σ .wait => σ
  | .stop σ (.xlate r l va w) => engHold σ h r l va w
  | .stop σ .malformed => modEng σ h (fun q => { q with st := 4 })

/-- A pass in which an engine is STOPPED ends FAULTED. -/
def passFaults (σ : State) : State := if (passStacks σ).any (fun h => (getEng σ h).st == 4) then passBreak σ 1 0 else σ

/-- PASS1_PARTIAL: engine h reads its share; at its end it rounds, writes PARTIAL and contributes (R449). -/
def execPass1Partial (h : BitVec 5) (σ : State) : Host.Outcome State Fault Refusal :=
  let h := h.toNat
  let q := getEng σ h
  if running σ = true ∧ σ.quince.pass = 1 ∧ takesPart σ h = true ∧ q.st = 1 ∧ q.fin = false then
    .next (passFaults (engEnd (engPass1 σ h) h (fun σ =>
      let v := r32 (dec64 (getEng σ h).acc.toNat)
      let σ := modEng σ h (fun q => { q with fin := true, partialSum := v })
      sendTo σ (.stack h) (.press normQueue) (.pressContrib ⟨0#12, 0#4⟩ 0 [v] (getPress σ normQueue).round h))))
  else .next σ

/-- NORM_DELIVERY (R451). -/
def execNormDelivery (σ : State) : Host.Outcome State Fault Refusal :=
  let x := getPress σ normQueue
  if running σ = true ∧ σ.quince.pass = 1 ∧ x.norm = true ∧ pqContribs x.cfg ≤ x.curN then
    let v := mget 0#32 x.cur 0
    let σ1 := setPress σ normQueue { x with round := !x.round, cur := x.nxt, curN := x.nxtN, nxt := [], nxtN := 0 }
    let σ1 := { σ1 with quince := { σ1.quince with localNorm := v } }
    let σ1 := if σ1.fab.dims = 0 then setGlobalNorm σ1 v else σ1
    let k := σ1.quince.order
    let σ1 := passIdle σ1
    (match findOrder σ1 k with
     | some o => .next (complete σ1 o 0 0 0#64)
     | none => .next σ1)
  else .next σ

/-- Pass 2 has ended on every engine: the counter, the flags, the completion (R454). -/
def pass2Done (σ : State) : State :=
  let k := σ.quince.order
  let σ := passIdle σ
  let σ := setDv σ 0x7100 3 (satAdd 0xFFFFFFFF (dv σ 0x7100 3 0) 1)
  let σ := { σ with quince := { σ.quince with stepWritten := false, normFresh := false, pass2Partial := false } }
  match findOrder σ k with
  | some o => complete σ o 0 0 0#64
  | none => σ

/-- PASS2_END: every engine that takes part does its share; when all have, the pass ends (R444, R454). -/
def execPass2End (σ : State) : Host.Outcome State Fault Refusal :=
  if running σ = true ∧ σ.quince.pass = 2 then
    let σ1 := (passStacks σ).foldl (fun σ h =>
      let q := getEng σ h
      if q.st = 2 ∧ q.fin = false then
        engEnd (engPass2 σ h) h (fun σ => modEng σ h (fun q => { q with fin := true }))
      else σ) σ
    .next (if (passStacks σ1).all (fun h => (getEng σ1 h).fin) then pass2Done σ1 else passFaults σ1)
  else .next σ

/-- FAULT_REPLY: a reply is applied at its core, unit or engine, or dropped (R312, R457). -/
def execFaultReply (i : Nat) (σ : State) : Host.Outcome State Fault Refusal :=
  match mayArrive σ i with
  | some { dst := .core L, body := .faultReply src seq pair abort, .. } =>
    if !coreOn σ L then .next σ else .next (tidy σ (coreFaultReply (takePkt σ i) L src seq pair abort) L)
  | some { dst := .stack h, body := .faultReply _ seq pair abort, .. } =>
    if !running σ then .next σ else
    let σ1 := takePkt σ i
    let q := getEng σ h
    let p := match findOrder σ σ.quince.order with
      | some o => ordPair o
      | none => ⟨0#12, 0#4⟩
    if σ.quince.pass = 0 ∨ q.outstanding = false ∨ q.seq ≠ seq.toNat ∨ p ≠ pair then .next σ1
    else if abort then .next (passFaults (setEng σ1 h { q with outstanding := false, st := 4 }))
    else .next (setEng σ1 h { q with outstanding := false, st := σ.quince.pass })
  | _ => .next σ

end Sys2Proof.Machine
end

