-- ==== Sys2Proof/Machine/Context.lean ====
section
/-! DEFINITION. The hardware context: places of the dispatcher's own accesses to task addresses, the context image of a core (R481), its
writing, its reading and the restored core (R482, R264, R314, R401). -/

namespace Sys2Proof.Machine

/-! ### Task addresses of the dispatcher -/

/-- Places of a range of task addresses: found, not translated, or a recall to wait for. -/
inductive VP where
  | wait (σ : State)
  | bad
  | ok (ps : List (Home × Nat))

/-- The places of [va, va + n) under a root, in supervisor mode, page by page. -/
def svcPlaces (σ : State) (root : Word) (write : Bool) : Nat → Nat → Nat → VP
  | 0, _, _ => .ok []
  | k + 1, va, n =>
    if n = 0 then .ok [] else
    match walkFrom σ root va with
    | .recall line => .wait (startRecall σ line false [])
    | .fail .. => .bad
    | .ok e =>
      if permReason e .supervisor (if write then .store else .load) ≠ 0 then .bad else
      let m := Nat.min n (4096 - va % 4096)
      let h := homeAt e va
      if !homeUp σ h then .bad else
      match rangeRecall σ h m write with
      | some line => .wait (startRecall σ line write [])
      | none =>
        match svcPlaces σ root write k (va + m) (n - m) with
        | .ok r => .ok ((h, m) :: r)
        | x => x

/-- The places of a range. -/
def vaPlaces (σ : State) (root : Word) (write : Bool) (va n : Nat) : VP := svcPlaces σ root write (n / 4096 + 2) va n

/-- Bytes at places, with uncorrectable words numbered from the first byte. -/
def placesGet (σ : State) : List (Home × Nat) → Nat → List Byte × List Nat
  | [], _ => ([], [])
  | (h, n) :: r, o =>
    let a := homeBytes σ h n
    let b := placesGet σ r (o + n)
    (a.1 ++ b.1, a.2.map (· + o / 8) ++ b.2)

/-- Lookups of the memory-side caches by a read of places (R279). -/
def placesLookup (σ : State) (ps : List (Home × Nat)) : State := ps.foldl (fun σ p => homeLookup σ p.1 p.2) σ

/-- Writes bytes at places; `bad` numbers words from the first byte. -/
def placesPut : List (Home × Nat) → Nat → List Byte → List Nat → State → State
  | [], _, _, _, σ => σ
  | (h, n) :: r, o, b, bad, σ =>
    let mine := (bad.filter (fun k => decide (o ≤ 8 * k) && decide (8 * k < o + n))).map (· - o / 8)
    placesPut r (o + n) (b.drop n) bad (homePut σ h (b.take n) mine)

/-! ### The image of a core (R481) -/

/-- Bytes of one core's area, of the image before the overflow area, and where the overflow area and the scratchpad lie. -/
def ctxArea : Nat := 0x400000
def ctxBase : Nat := 0x1C400
def ctxSpad : Nat := 0x30000

/-- A register's value, read without a side effect. -/
def ctxReg (σ : State) (L a : Nat) : Word := (ioReadThr σ L none a).2

/-- The state of a unit as it is saved: a unit that the switch stopped is saved in RUN. -/
def savedSt (c : Core) (u st : Nat) : Nat := if c.sup.swUnits.contains u ∧ st = 2 then 1 else st

/-- Words 0x100 to 0x7FF (Table: context image). -/
def coreWords (σ : State) (L : Nat) : List Word :=
  let c := getCore σ L
  let s := c.sup
  [ctxReg σ L 0x200, ctxReg σ L 0x208, w64 s.wdCount, ctxReg σ L 0x228, w64 s.tmCount, c.xlt.root, w64 (s.evq.length + fl s.coalesced 16),
   w64 (b2n c.mtx.lease.isSome + fl (c.mtx.lease.getD 0) 1)] ++
  (List.range 16).map (fun t => ctxReg σ L (32 * t)) ++ (List.range 16).map (fun t => (getThr c t).stackLimit) ++
  (List.range 16).flatMap (fun r => let q := getRing c r; [ringCfg q, ringPtr q, ringStat q]) ++ List.replicate 8 0#64 ++
  (List.range 128).map (fun i => s.evq.getD i 0#64)

/-- A thread block (Table: thread block). -/
def threadBlock (c : Core) (t : Nat) : List Byte :=
  let h := getThr c t
  (List.range 16).flatMap (fun v => toBytes 128 (vreg h v).toNat) ++
  bytesOf ((List.range 31).map (fun i => greg h (i + 1)) ++
    [w64 (flagsWord h.flags), h.pc,
     w64 (tsNum h.st + fl (b2n (decide (h.mode = .supervisor))) 3 + fl (b2n h.ae) 4 + fl (b2n h.pendDoorbell) 24 +
       fl (b2n h.pendTimer) 25 + fl h.nest 32),
     w64 (h.loop0.lc.toNat + fl h.loop1.lc.toNat 32), h.loop0.ls, h.loop0.le, h.loop1.ls, h.loop1.le, h.prog] ++
    (List.range 8).map (fun i => mget 0#64 h.staged i) ++
    [w64 h.stagedN, fsrReg h.fsr, w64 h.fsr.va.toNat] ++ List.replicate 13 0#64)

/-- 320 bytes of a stream slot: 4 descriptors and 64 B of state, whose layout is the model's (R264; log 25). -/
def slotBlock (c : Core) (s : Nat) : List Byte :=
  let q := getSlot c s
  let d (i : Nat) : List Word := match q.queue[i]? with
    | some e => (List.range 8).map (wat e.w)
    | none => List.replicate 8 0#64
  let who := q.queue.zipIdx.foldl (fun a e => a + fl (e.1.thread.toNat + 16 * b2n (decide (e.1.mode = .supervisor))) (8 * e.2)) 0
  bytesOf ((List.range 4).flatMap d ++
    [w64 (savedSt c s q.st + fl q.queue.length 4 + fl q.err 8 + fl q.creditReason 16 + fl (b2n q.cmdIgnored) 24 + fl (b2n q.started) 25),
     w64 q.pos, w64 q.rel, w64 q.counted, w64 who, 0#64, 0#64, 0#64])

/-- The failures of the 32 blocks of a channel from POS on, four bits each (R401). -/
def chanFails (q : Chan) : Nat :=
  ((chunksOf q.desc 32 q.pos (ddLen q.desc)).zipIdx.map (fun b => fl (mget 0 q.fails b.1.1 % 16) (4 * b.2))).sum

/-- The failures of blocks that `chanFails` wrote. -/
def failsOf (d : List Word) (pos n : Nat) : SMap Nat :=
  (chunksOf d 32 pos (ddLen d)).zipIdx.foldl (fun m b => mput 0 b.1.1 (nbits n (4 * b.2 + 3) (4 * b.2)) m) []

/-- 128 bytes of a DMA channel: its descriptor and 64 B of state, whose layout is the model's (R401; log 25). -/
def chanBlock (c : Core) (k : Nat) : List Byte :=
  let q := getChan c k
  bytesOf ((List.range 8).map (wat q.desc) ++
    [w64 (savedSt c (k + 8) q.st + fl q.err 4 + fl q.creditReason 8 + fl q.issuer.toNat 12 + fl (b2n (decide (q.issuerMode = .supervisor))) 16 +
       fl (b2n q.cmdIgnored) 17 + fl (b2n q.started) 18 + fl (b2n (!q.desc.isEmpty)) 19 + fl q.errCause 24 + fl q.chainDone 32),
     w64 q.pos, w64 ((crcAt q q.pos).toNat + fl q.descRetries 32), w64 (q.cur + fl q.cfgLimit 32 + fl q.cfgGap 48), w64 q.errAddr,
     w64 (chanFails q), w64 (mget 0 c.xlt.unitVa (16 + k)), w64 (chanFails q / 2 ^ 64)])

/-- 80 bytes of a parked message. -/
def parkedBlock (c : Core) (r : Nat) : List Byte :=
  match (getRing c r).parked with
  | some m => bytesOf (([1#64, m.header] ++ m.words ++ List.replicate 10 0#64).take 10)
  | none => List.replicate 80 0#8

/-- The overflow messages, stored as in a ring; [63:60] of a stored header holds its ring (log 25). -/
def overBlock (c : Core) : List Byte := c.sup.overflow.flatMap (fun m => bytesOf ((m.2.header ||| w64 (fl m.1 60)) :: m.2.words))

/-- The image of core L before the overflow area, for an order with a group, LAUNCH word 9 and a root. -/
def coreImage (σ : State) (o : Order) (L : Nat) (root : Word) (spad : Bool) : List Byte :=
  let c := getCore σ L
  bytesOf ([1#64, w64 (bits (wat o.w 1) 15 0), w64 (bits (wat o.w 1) 44 16), w64 L, w64 (b2n spad + fl (overBytes c) 32), o.word9,
    w64 (bits (wat o.w 0) 63 32), root] ++ List.replicate 24 0#64 ++ coreWords σ L) ++
  (List.range 16).flatMap (threadBlock c) ++ imageOf c.mtx ++ (List.range 8).flatMap (slotBlock c) ++ (List.range 4).flatMap (chanBlock c) ++
  c.vlanes.flatMap (fun l => toBytes 4 l.toNat) ++ (List.range 16).flatMap (parkedBlock c)

/-- Uncorrectable words of the overflow area. -/
def overBad (c : Core) : List Nat :=
  (c.sup.overflow.foldl (fun r m => (r.1 + 1 + m.2.words.length, r.2 ++ m.2.bad.map (· + r.1 + 1))) (0, ([] : List Nat))).2

/-- Words of the image that hold uncorrectable words of parked messages. -/
def parkedBad (c : Core) : List Nat :=
  (List.range 16).flatMap (fun r => (getRing c r).parked.elim [] (fun m => m.bad.map (· + (0x1BF10 + 80 * r) / 8)))

/-- What is written of a core: offset in its area, bytes and marked words. -/
def imageParts (σ : State) (o : Order) (L : Nat) (root : Word) : List (Nat × List Byte × List Nat) :=
  let c := getCore σ L
  [(0, coreImage σ o L root o.saveSpad, (imageBad c.mtx).map (· + 0xA800 / 8) ++ parkedBad c), (ctxBase, overBlock c, overBad c)] ++
    (if o.saveSpad then [(ctxSpad, readBytes c.spad.mem 0 spadSize, c.spad.ue)] else [])

/-- Writes parts of an image; the parts of an area that does not translate are left out (log 25). -/
def partsPut (root : Word) (base : Nat) : List (Nat × List Byte × List Nat) → State → Except State State
  | [], σ => .ok σ
  | (o, b, bad) :: r, σ =>
    match vaPlaces σ root true (base + o) b.length with
    | .wait σ => .error σ
    | .bad => partsPut root base r σ
    | .ok ps => partsPut root base r (placesPut ps 0 b bad σ)

/-- CTX_VA of a task's order, and the root of its addresses. -/
def ordCtx (o : Order) : Nat := if ordKind o = 1 then (wat o.w 8).toNat else (wat o.w 3).toNat

/-- The root that a saved task at an address runs under: what the model keeps beside the image (log 25). -/
def sideRoot (σ : State) (ctx : Nat) : Word := mget 0#64 σ.disp.ctxSide (32 * ctx + 16)

/-- The root of a task's order. -/
def ordRoot (σ : State) (o : Order) : Word :=
  let w := wat o.w 4
  if ordKind o = 1 ∨ w ≠ 0#64 then w else sideRoot σ (ordCtx o)

/-- Writes the image of core L of a task (R480 step 6). -/
def imageWrite (o : Order) (σ : State) (L : Nat) : Except State State :=
  let root := ordRoot σ o
  let base := ordCtx o + (L - ordFirst o) * ctxArea
  match partsPut root base (imageParts σ o L root) σ with
  | .error σ => .error σ
  | .ok σ =>
    let c := getCore σ L
    let side := (List.range 16).foldl (fun m t => mput 0#64 (32 * base + t) ((getThr c t).fsr.pc.zeroExtend 64) m) σ.disp.ctxSide
    .ok { σ with disp := { σ.disp with ctxSide := mput 0#64 (32 * ordCtx o + 16) root side } }

/-- Writes the images of a list of cores. -/
def imagesWrite (o : Order) : List Nat → State → Except State State
  | [], σ => .ok σ
  | L :: r, σ =>
    match imageWrite o σ L with
    | .error σ => .error σ
    | .ok σ => imagesWrite o r σ

/-! ### Restoring a core (R482) -/

/-- An image read back: its bytes and their uncorrectable words, the overflow area, the scratchpad with its marked words where it was
saved. -/
structure Image' where
  main : List Byte
  bad : List Nat
  ovf : List Byte × List Nat
  spad : Option (List Byte × List Nat)

/-- Reads the image of a core: the state of a wait, none where it does not translate. -/
def imageRead (σ : State) (root : Word) (base : Nat) : Except State (Option (Image' × State)) :=
  match vaPlaces σ root false base ctxBase with
  | .wait σ => .error σ
  | .bad => .ok none
  | .ok ps =>
    let r := placesGet σ ps 0
    let p := patchBad (placesLookup σ ps) r.1 r.2
    let w := BitVec.ofNat 64 (ofBytes ((p.1.drop 0x20).take 8))
    match vaPlaces σ root false (base + ctxBase) (Nat.min 65536 (bits w 63 32)) with
    | .wait σ => .error σ
    | .bad => .ok none
    | .ok qs =>
      let ovf := placesGet σ qs 0
      let σ1 := placesLookup p.2 qs
      if !bit w 0 then .ok (some (⟨p.1, r.2, ovf, none⟩, σ1)) else
      match vaPlaces σ root false (base + ctxSpad) spadSize with
      | .wait σ => .error σ
      | .bad => .ok none
      | .ok ss => .ok (some (⟨p.1, r.2, ovf, some (placesGet σ ss 0)⟩, placesLookup σ1 ss))

/-- Word at an offset of an image. -/
def imgW (i : Image') (o : Nat) : Word := BitVec.ofNat 64 (ofBytes ((i.main.drop o).take 8))

/-- The format or a reserved field of an image is wrong. -/
def imgBad (i : Image') : Bool :=
  imgW i 0 != 1#64 || bits (imgW i 0x20) 31 1 != 0 || (List.range 24).any (fun k => imgW i (0x40 + 8 * k) != 0#64) ||
    imageResv (wordsOf 16 ((i.main.drop (0xA800 + 0x10A00)).take 128))

/-- The thread that a block restores. -/
def restoreBlock (h : Thread) (i : Image') (t : Nat) (fpc : Word) : Thread :=
  let b := 0x800 + 0xA00 * t
  let w (o : Nat) : Word := imgW i (b + o)
  let s := w 0x908
  let f := w 0x988
  { h with
    vregs := mapOf 0#1024 ((List.range 16).map (fun v => BitVec.ofNat 1024 (ofBytes ((i.main.drop (b + 128 * v)).take 128))))
    regs := mapOf 0#64 (0#64 :: (List.range 31).map (fun k => w (0x800 + 8 * k)))
    flags := flagsOf (w 0x8F8).toNat, pc := w 0x900
    st := (match bits s 2 0 with
      | 1 | 2 => .ready
      | 3 => .faultWait
      | 4 | 5 => .stopped
      | _ => .free)
    mode := if bit s 3 then .supervisor else .user
    ae := bit s 4, pendDoorbell := bit s 24, pendTimer := bit s 25, nest := bits s 63 32
    loop0 := { lc := BitVec.ofNat 32 (bits (w 0x910) 31 0), ls := w 0x918, le := w 0x920 }
    loop1 := { lc := BitVec.ofNat 32 (bits (w 0x910) 63 32), ls := w 0x928, le := w 0x930 }
    prog := w 0x938, staged := mapOf 0#64 ((List.range 8).map (fun k => w (0x940 + 8 * k))), stagedN := bits (w 0x980) 3 0
    fsr := { reason := bits f 3 0, level := bits f 5 4, write := bit f 6, fetch := bit f 7, outstanding := bit f 8,
             replied := bit f 9, result := bit f 10, cntEn := bit f 11, cnt := BitVec.ofNat 6 (bits f 17 12),
             seq := BitVec.ofNat 8 (bits f 25 18), va := BitVec.ofNat 48 (bits (w 0x990) 47 0), pc := BitVec.ofNat 48 (bits fpc 47 0) }
    wait := .none, waitClasses := 0#6, held := .none, slot := none, shadow := false, fences := [], injPend := false, stopPend := false
    ctxBad := false, acc := [], entry := none
    dbg := { pend := none, stepping := false, skip := none, group := false } }

/-- The slot that a block restores; a slot that waited walks again (R264, R314). -/
def restoreSlot (i : Image') (s : Nat) : Slot :=
  let b := 0x1B280 + 320 * s
  let w (o : Nat) : Word := imgW i (b + o)
  let a := w 256
  let who := w 288
  let desc (k : Nat) : Desc :=
    { w := (List.range 8).map (fun j => w (64 * k + 8 * j)), thread := BitVec.ofNat 4 (bits who (8 * k + 3) (8 * k)),
      mode := if bit who (8 * k + 4) then .supervisor else .user }
  let st := bits a 3 0
  { Slot.reset with
    st := if st = 4 then 1 else st, queue := (List.range (Nat.min 4 (bits a 7 4))).map desc, err := bits a 15 8,
    creditReason := bits a 23 16, cmdIgnored := bit a 24, started := bit a 25, pos := (w 264).toNat, nxt := (w 264).toNat,
    creditFrom := (w 264).toNat, rel := (w 272).toNat, counted := (w 280).toNat }

/-- The channel that a block restores; DMA_RETRY stays the core's own (R401, R402). -/
def restoreChan (i : Image') (old : Chan) (c : Nat) : Chan :=
  let b := 0x1BC80 + 128 * c
  let w (o : Nat) : Word := imgW i (b + o)
  let a := w 64
  let st := bits a 3 0
  let pos := (w 72).toNat
  let d := if bit a 19 then (List.range 8).map (fun j => w (8 * j)) else []
  { Chan.reset with
    st := if st = 4 then 1 else st, err := bits a 7 4, creditReason := bits a 11 8, issuer := BitVec.ofNat 4 (bits a 15 12),
    issuerMode := if bit a 16 then .supervisor else .user, cmdIgnored := bit a 17, started := bit a 18,
    desc := d, errCause := bits a 31 24, chainDone := bits a 63 32,
    pos := pos, nxt := pos, crcUpTo := pos, creditFrom := pos, crc := BitVec.ofNat 32 (bits (w 80) 31 0), descRetries := bits (w 80) 63 32,
    cur := bits (w 88) 31 0, cfgLimit := bits (w 88) 47 32, cfgGap := bits (w 88) 63 48, errAddr := (w 96).toNat,
    fails := failsOf d pos ((w 104).toNat + (w 120).toNat * 2 ^ 64), retries := old.retries, halts := old.halts }

/-- The ring that an image restores, captured for a pair (R320). -/
def restoreRing (i : Image') (r : Nat) (p : Pair) : Ring :=
  let c := imgW i (0x240 + 24 * r)
  let q := imgW i (0x248 + 24 * r)
  let s := imgW i (0x250 + 24 * r)
  let park (o : Nat) : Word := imgW i (0x1BF00 + 80 * r + o)
  { Ring.reset with
    base := bits c 21 0, sizeLog2 := bits c 26 22, enable := bit c 27, pause := bit c 28, discard := bit c 29, stallEv := bit c 30,
    arrCntEn := bit c 31, arrCnt := BitVec.ofNat 6 (bits c 37 32), head := bits q 17 0, tail := bits q 35 18, msgs := bits q 51 36,
    staleDrops := bits s 31 0, cancelDrops := bits s 47 32, stalled := bit s 48, cfgErr := bits s 63 50, pair := p,
    parked := if bit (park 0) 0 then
        some { header := park 8, words := (List.range (bits (park 8) 3 0)).map (fun k => park (16 + 8 * k)),
               bad := (List.range 8).filter (fun k => i.bad.contains ((0x1BF10 + 80 * r) / 8 + k)) }
      else none }

/-- Whether an uncorrectable word of the image lies in its bytes [lo, lo + n). -/
def imgBadIn (i : Image') (lo n : Nat) : Bool := i.bad.any (fun k => decide (lo ≤ 8 * k) && decide (8 * k < lo + n))

/-- The engine that an image restores; what came uncorrectable stays so (log 25). -/
def restoreMtx (m : Mtx) (i : Image') : Mtx :=
  let r := imageMtx m ((i.main.drop 0xA800).take imageSize)
  { r with
    poison := (List.range 512).filter (fun l => imgBadIn i (0xA800 + 64 * l) 64)
    cur := { r.cur with bad := imgBadIn i (0xA800 + 0x8400) 0x4000 }, drn := { r.drn with bad := imgBadIn i (0xA800 + 0xC400) 0x4000 }
    lease := if bit (imgW i 0x138) 0 then some (bits (imgW i 0x138) 4 1) else none }

/-- The overflow messages of an image, with their rings; `w` words of the area lie before them. -/
def overMsgs (bad : List Nat) : Nat → Nat → List Byte → List (Nat × Msg)
  | 0, _, _ => []
  | k + 1, w, b =>
    if b.length < 8 then [] else
    let h := BitVec.ofNat 64 (ofBytes (b.take 8))
    let n := bits h 3 0
    (bits h 63 60, { header := w64 (bits h 59 0), words := wordsOf n (b.drop 8), bad := (List.range n).filter (fun j => bad.contains (w + 1 + j)) }) ::
      overMsgs bad k (w + 1 + n) (b.drop (8 + 8 * n))

/-- A message as of a restored task: the pair in force. -/
def withPair (m : Msg) (p : Pair) : Msg :=
  { m with header := w64 (bits m.header 15 0 + fl p.tag.toNat 16 + fl p.gen.toNat 28 + fl (bits m.header 63 32) 32) }

/-- Restores core L from its image in place of steps 4 to 6 of R473, under the pair and root in force: its state, then parked messages,
then overflow messages, then the forwards (R314, R320, R482). -/
def restoreCore (σ : State) (L : Nat) (i : Image') (base : Nat) (root : Word) : State :=
  let c := getCore σ L
  let p := c.sup.pair
  let σ := match i.spad with
    | some s => spadWriteBad σ L 0 s.1 s.2
    | none => σ
  let σ := [(0x200, 0x100), (0x208, 0x108), (0x228, 0x118)].foldl (fun σ r => ioWriteThr σ L none r.1 (imgW i r.2)) σ
  let σ := (List.range 16).foldl (fun σ t => ioWriteThr σ L none (32 * t) (imgW i (0x140 + 8 * t))) σ
  let σ := modCore σ L (fun c =>
    let n := bits (imgW i 0x130) 15 0
    { c with
      sup := { c.sup with
        wdCount := (imgW i 0x110).toNat, tmCount := (imgW i 0x120).toNat, coalesced := bits (imgW i 0x130) 31 16,
        evq := (List.range (Nat.min 128 n)).map (fun k => imgW i (0x400 + 8 * k)) }
      xlt := { c.xlt with root := root }
      mtx := restoreMtx c.mtx i
      vlanes := (numsOf 4 32 ((i.main.drop 0x1BE80).take 128)).map (BitVec.ofNat 32)
      slots := mapOf Slot.reset ((List.range 8).map (restoreSlot i))
      chans := mapOf Chan.reset ((List.range 4).map (fun k => restoreChan i (getChan c k) k))
      rings := mapOf Ring.reset ((List.range 16).map (fun r => restoreRing i r p)) })
  let σ := modCore σ L (fun c => (List.range 16).foldl (fun c t =>
    setThr c t { restoreBlock (getThr c t) i t (mget 0#64 σ.disp.ctxSide (32 * base + t)) with stackLimit := imgW i (0x1C0 + 8 * t) }) c)
  let σ := (List.range 16).foldl (fun σ r =>
    let q := getRing (getCore σ L) r
    match q.parked with
    | some m => (ringSink (modCore σ L (fun c => setRing c r { q with parked := none })) L r (withPair m p)).getD σ
    | none => σ) σ
  let σ := (overMsgs i.ovf.2 8192 0 i.ovf.1).foldl (fun σ m =>
    match ringSink σ L m.1 (withPair m.2 p) with
    | some σ => σ
    | none => modCore σ L (fun c => { c with vc2 := c.vc2 ++
        [pkt (.core L) (.core L) (.message (BitVec.ofNat 4 m.1) (withPair m.2 p))] })) σ
  (List.range 16).foldl (fun σ t =>
    let f := (thrOf σ L t).fsr
    if f.outstanding then forwardThread σ L t f.va f.cntEn f.cnt else σ) σ

end Sys2Proof.Machine
end

