-- ==== Sys2Proof/Machine/Mesh.lean ====
section
/-! DEFINITION. What homes do with requests (R226, R273, R369, R598), recalls (R463), errors and drops of packets (R419–R421, R596). -/

namespace Sys2Proof.Machine

/-! ### HBM (R279, R543, R544, R598) -/

/-- Marks a stack for degradation (R544). -/
def stackDegrade (σ : State) (h : Nat) : State :=
  if mget 0 σ.boot.stackState h ≠ 0 then σ else
  errRecord { σ with boot := { σ.boot with stackState := mput 0 h 2 σ.boot.stackState } } 6 1 0x1FFF 0xFFFF h 0xFF 0 0 ⟨0#12, 0#4⟩

/-- Repairs a row, or marks the stack where no repair is left (R543, R544). -/
def rowRepair (σ : State) (a row : Nat) (ue : Bool) : State :=
  let h := stackOf a
  let n := mget 0 σ.boot.rowsRepaired h
  if Config.repairRows ≤ n then stackDegrade σ h else
  errRecord { σ with boot := { σ.boot with
      rowsRepaired := mput 0 h (n + 1) σ.boot.rowsRepaired, rowErrs := σ.boot.rowErrs.filter (fun e => e.1 != row) } }
    5 (b2n ue) 0x1FFF 0xFFFF h (a / 256 % 32) 0 a ⟨0#12, 0#4⟩

/-- Ticks of 1 h. -/
def hourTicks : Nat := 3600000000

/-- The codeword of HBM at a was corrected, or found uncorrectable: counted, recorded and judged. -/
def hbmCodeword (σ : State) (a : Nat) (ue : Bool) : State :=
  let h := stackOf a
  let row := h * 2 ^ 32 + Config.hbmRow a % 2 ^ 32
  let σ := stackCount σ h (if ue then 5 else 4) 1
  let σ := if ue then errRecord σ 4 1 0x1FFF 0xFFFF h (a / 256 % 32) 0x0D a ⟨0#12, 0#4⟩ else σ
  let es : List (Nat × Bool × Nat) := σ.boot.rowErrs ++ [(row, ue, 0)]
  let σ := { σ with boot := { σ.boot with rowErrs := es } }
  let ues := (es.filter (fun e => e.1 == row && e.2.1)).length
  let recent := es.filter (fun e => !e.2.1 && decide (e.2.2 ≤ hourTicks))
  let corr := (recent.filter (fun e => e.1 == row)).length
  if (ue = true ∧ 2 ≤ ues) ∨ (ue = false ∧ 16 < corr) then rowRepair σ a row ue
  else if !ue && decide (10000 < (recent.filter (fun e => e.1 / 2 ^ 32 == h)).length) then stackDegrade σ h
  else σ

/-- The codeword at l is uncorrectable: all its words are marked (R5). -/
def hbmFatal (σ : State) (l : Nat) : State :=
  hbmCodeword { σ with hbmUE := addBad σ.hbmUE ((List.range 8).map (· + l / 8)) } l true

/-- Codewords of [a, a + n) that a list of its words, numbered from the first, stands for (R5). -/
def codewordsOf (a n : Nat) (ks : List Nat) : List Nat :=
  (linesOf a n).filter (fun l => ks.any (fun k => (k + a / 8) / 8 == l / 64 && (wordsTouched a n).contains (k + a / 8)))

/-- A read of HBM looks up the memory-side cache, which takes the lines (R279); the codewords that the ECC of the read reports are
corrected, or marked whole (R5). -/
def hbmServe (σ : State) (a n : Nat) (ecc : Ecc) : State :=
  let σ := mscReads σ a n
  let fatal := codewordsOf a n ecc.uncorrectable
  let mended := (codewordsOf a n ecc.corrected).filter (fun l => !fatal.contains l)
  let σ := mended.foldl (fun σ l => hbmCodeword σ l false) σ
  fatal.foldl hbmFatal σ

/-- A request of HBM that a recall holds leaves the mesh until the companion answers (R463). -/
def recallHold (σ : State) (i line : Nat) (inv : Bool) (p : Packet) : State := startRecall (takePkt σ i) line inv [p]

/-- HBM_READ. -/
def execHbmRead (i : Nat) (ecc : Ecc) (σ : State) : Host.Outcome State Fault Refusal :=
  match mayArrive σ i with
  | some { src := src, dst := .stack h, body := .read id (.hbm a) n w, age := g } =>
    if !running σ then .next σ else
    let σ1 := takePkt σ i
    if !stackUp σ h then .next (sendTo σ1 (.stack h) src (.errorResp id 4)) else
    (match mustRecall σ (.hbm a) n false with
     | some r => .next (recallHold σ i r.1 r.2 { src := src, dst := .stack h, body := .read id (.hbm a) n w, age := g })
     | none =>
       let σ1 := hbmServe σ1 a n ecc
       let r := homeBytes σ1 (.hbm a) n
       .next (sendTo σ1 (.stack h) src (.readData id r.1 r.2 (bulkWho w false))))
  | _ => .next σ

/-- HBM_WRITE; the memory-side cache takes a dirty victim (R278). -/
def execHbmWrite (i : Nat) (σ : State) : Host.Outcome State Fault Refusal :=
  match mayArrive σ i with
  | some { src := src, dst := .stack h, body := .write id (.hbm a) runs bad w, age := g } =>
    if !running σ then .next σ else
    let σ1 := takePkt σ i
    if !stackUp σ h then .next (sendTo σ1 (.stack h) src (.errorResp id 4)) else
    (match mustRecall σ (.hbm a) (runsEnd runs) true with
     | some r => .next (recallHold σ i r.1 r.2 { src := src, dst := .stack h, body := .write id (.hbm a) runs bad w, age := g })
     | none =>
       let σ1 := homePutRuns σ1 (.hbm a) runs bad
       let σ1 := match w with
         | .wback _ => if σ1.disp.msc.contains (lineOf a) then σ1 else mscPut σ1 (lineOf a)
         | _ => σ1
       .next (sendTo σ1 (.stack h) src (.writeAck id)))
  | _ => .next σ

/-! ### Atomics at their home (R226, R369) -/

/-- Performs an atomic at a home: the old value, and whether its word is uncorrectable, which leaves it unchanged. -/
def amoAt (σ : State) (h : Home) (op : AmoOp) (eight : Bool) (a b : Word) : State × Word × Bool :=
  let n := if eight then 8 else 4
  let r := homeBytes σ h n
  if !r.2.isEmpty then (σ, 0#64, true) else
  let old := ofBytes r.1
  (homePut σ h (toBytes n (amoNew op (8 * n) old a.toNat b.toNat)) [], w64 old, false)

/-- Corrected words of a scratchpad, or the lookup of the memory-side cache, that an atomic at a home meets (R227, R279). -/
def amoMeet (σ : State) (h : Home) (n : Nat) : State :=
  match h with
  | .spad L off => spadMeet σ L off n
  | .hbm a => mscRead σ (lineOf a)
  | .comp _ => σ

/-- ATOMIC_AT_HOME: at the owning scratchpad or at a stack. -/
def execAtomicAtHome (i : Nat) (σ : State) : Host.Outcome State Fault Refusal :=
  match mayArrive σ i with
  | some p =>
    (match p.dst, p.body with
     | .core L, .atomic id (.spad k off) op eight a b _ =>
       if !coreOn σ L || k != L || behindMessage (getCore σ L) p.body then .next σ else
       let r := amoAt (amoMeet (takePkt σ i) (.spad k off) (if eight then 8 else 4)) (.spad k off) op eight a b
       let σ1 := if r.2.2 then noteSpadUE r.1 L off else r.1
       .next (sendTo σ1 (.core L) p.src (.atomicData id r.2.1 r.2.2))
     | .stack h, .atomic id (.hbm x) op eight a b _ =>
       if !running σ then .next σ else
       if !stackUp σ h then .next (sendTo (takePkt σ i) (.stack h) p.src (.errorResp id 4)) else
       (match mustRecall σ (.hbm x) (if eight then 8 else 4) true with
        | some r => .next (recallHold σ i r.1 r.2 p)
        | none =>
          let r := amoAt (amoMeet (takePkt σ i) (.hbm x) 8) (.hbm x) op eight a b
          .next (sendTo r.1 (.stack h) p.src (.atomicData id r.2.1 r.2.2)))
     | _, _ => .next σ)
  | none => .next σ

/-! ### Recalls (R463) -/

/-- RECALL_ANSWER: the data of an owned line goes to HBM, the directory follows, and the accesses held go on. -/
def execRecallAnswer (h : BitVec 5) (line : Nat) (data : Option (List Byte)) (σ : State) : Host.Outcome State Fault Refusal :=
  match σ.disp.recalls.find? (fun r => r.h == h.toNat && r.line == line) with
  | none => .next σ
  | some r =>
    if !(running σ || asleep σ) || !linkUp σ then .next σ else
    let owned := σ.disp.dir.any (fun e => e.1 == line && e.2)
    let σ1 := match data with
      | some d => if owned then hbmWrite σ line (d.take 64) [] else σ
      | none => σ
    let dir := if r.invalidate then σ1.disp.dir.filter (fun e => e.1 != line)
      else σ1.disp.dir.map (fun e => if e.1 = line then (line, false) else e)
    .next { σ1 with
      net := r.held ++ σ1.net
      disp := { σ1.disp with dir := dir, recalls := σ1.disp.recalls.filter (fun q => !(q.h == h.toNat && q.line == line)) } }

/-! ### Errors (R397, R421) -/

/-- A block of a channel failed with a bus error (R397): it waits for its retry, or the channel halts. -/
def chanBus (σ : State) (L c lo n : Nat) (data : Option (List Byte)) (reason : Nat) : State :=
  let q := getChan (getCore σ L) c
  let k := mget 0 q.fails lo + 1
  let a := match data with
    | some _ => ddDstAt q.desc lo
    | none => if ddKind q.desc = 1 then ddOff q.desc + lo else if ddSrcFix q.desc then ddSrc q.desc else ddSrc q.desc + lo
  if reason = 3 ∨ q.cfgLimit + 1 ≤ k then chanFail σ L c lo .bus a
  else modChan σ L c (fun q => { q with fails := mput 0 lo k q.fails, again := q.again ++ [(lo, n, data)] })

/-- A part of a tile row failed: a loaded row is poisoned (R175), a part of a stored row is not written. -/
def tileBus (m : Mtx) (id : Nat) : Mtx :=
  let part (r : TileRow) (v : Byte) (a : RowAt) : RowAt := match a with
    | .sent k n => if k = id then (if r.kind = 1 then .got [] false else .got (List.replicate n v) true) else a
    | a => a
  { m with rows := m.rows.map (fun r => { r with row := r.row.map (part r 0#8), scl := r.scl.map (part r 0x7F#8) }) }

/-- An error answer to request id of core L (R397, R421). -/
def errorAnswer (σ : State) (L id reason : Nat) : State :=
  match findOut (getCore σ L) id with
  | none => σ
  | some o =>
    let σ1 := dropOut σ L id
    match o.kind with
    | .load t _ n _ _ va => loadFault σ1 L id t.toNat (faultAt 0x0D va false n)
    | .fillLoad t _ n _ va _ _ => loadFault σ1 L id t.toNat (faultAt 0x0D va false n)
    | .atomic t _ eight _ va => loadFault σ1 L id t.toNat (faultAt 0x0D va true (if eight then 8 else 4))
    | .fillStore t va d _ => loadFault σ1 L id t.toNat (faultAt 0x0D va true d.length)
    | .store t va n _ => loadFault σ1 L id t.toNat (faultAt 0x0D va true n)
    | .accRead t _ f => loadFault σ1 L id t.toNat { f with cause := 0x0D }
    | .accWrite t _ _ f _ => loadFault σ1 L id t.toNat { f with cause := 0x0D }
    | .fillAcc t _ f _ _ => loadFault σ1 L id t.toNat { f with cause := 0x0D }
    | .fetch t _ f => loadFault σ1 L id t.toNat { f with cause := 0x0D }
    | .lock l => lockFill σ1 L l none
    | .prefetch .. => σ1
    | .wback => modCore σ1 L (fun c => { c with cache := { c.cache with wbb := c.cache.wbb.filter (fun p => p.1 != id) } })
    | .tile .. => modCore σ1 L (fun c => { c with mtx := tileBus c.mtx id })
    | .stream s early lo hi _ =>
      if early then modSlot σ1 L s.toNat (fun q => { q with earlyBad := true }) else slotLose σ1 L s.toNat lo hi .bus
    | .dma ch lo n write data => chanBus σ1 L ch.toNat lo n (if write then some data else none) reason

/-- ERROR_RESP. -/
def execErrorResp (i : Nat) (σ : State) : Host.Outcome State Fault Refusal :=
  match mayArrive σ i with
  | some { dst := dst, body := .errorResp id reason, .. } =>
    if !running σ then .next σ else
    (match dst with
     | .core L => .next (tidy σ (errorAnswer (takePkt σ i) L id reason) L)
     | _ => .next (takePkt σ i))
  | _ => .next σ

/-! ### Drop notices (R421, R596) -/

/-- RESULT of the write-back that a stopped channel's state calls for. -/
def stopResult (q : Chan) : Nat :=
  if q.st = 5 then 5 else if q.st ≠ 3 then 0 else if q.errCause = 0x0D then 3 else if q.errCause = 0x12 then 4 else 2

/-- A remote-write packet of a unit was dropped at dense offset pos. -/
def dropRemote (σ : State) (L : Nat) (u : Eng) (pos reason : Nat) : State :=
  match u with
  | .slot s =>
    let q := getSlot (getCore σ L) s.toNat
    (match q.queue with
     | d :: _ =>
       let v := pos / sdUnit d.w
       if sdKind d.w ≠ 1 then σ
       else if q.st = 1 then slotFail σ L s.toNat v .bus
       else if v < q.pos then modSlot σ L s.toNat (fun q => { q with pos := v, nxt := v })
       else σ
     | [] => σ)
  | .dma ch =>
    let c := ch.toNat
    let q := getChan (getCore σ L) c
    let d := q.desc
    if !q.started || ddKind d != 1 then σ
    else if q.st = 1 then
      let hi := Nat.min (ddLen d) ((ddOff d + pos) / 256 * 256 + 256 - ddOff d)
      (match chunksOf d 256 pos hi with
       | (lo, n) :: r =>
         let σ := chanBus σ L c lo n none reason
         if (getChan (getCore σ L) c).stopping.isSome then σ
         else modChan σ L c (fun q => { q with again := q.again ++ r.map (fun b => (b.1, b.2, none)) })
       | [] => σ)
    else if pos < q.pos then
      let σ := modChan σ L c (fun q => { q with
        pos := pos, nxt := pos, crcBuf := ((gotFind q.crcUpTo pos q.crcBuf).map (fun b => [(q.crcUpTo, b)])).getD [] })
      chanWriteBack σ L c (stopResult q) false (crcAt q pos) pos
    else σ

/-- DROP_NOTICE: counted at its source, or applied to the unit whose packet it was. -/
def execDropNotice (i : Nat) (σ : State) : Host.Outcome State Fault Refusal :=
  match mayArrive σ i with
  | some { dst := dst, body := .dropNotice reason what u pos id, .. } =>
    if !running σ then .next σ else
    let σ1 := takePkt σ i
    (match dst, u with
     | .core L, some u =>
       if what = 4 then .next (tidy σ (dropRemote σ1 L u pos reason) L)
       else
         (match u with
          | .slot s => .next (tidy σ (slotFail σ1 L s.toNat (getSlot (getCore σ L) s.toNat).nxt .bus) L)
          | .dma c =>
            let q := getChan (getCore σ L) c.toNat
            .next (tidy σ (chanFail σ1 L c.toNat q.nxt .bus (ddOff q.desc + q.nxt)) L))
     | .core L, none =>
       (match id with
        | some id => .next (tidy σ (errorAnswer σ1 L id reason) L)
        | none => .next (if what ≤ 2 then netDrop σ1 L what else σ1))
     | _, _ => .next σ1)
  | _ => .next σ

/-! ### Lifetime (R419) -/

/-- A packet that ages. -/
def ages (p : Packet) : Bool :=
  vcOf p.body != 0 && (match p.body with
    | .errorResp .. | .dropNotice .. => false
    | _ => true)

/-- Answers a packet that its holder drops (R420). -/
def dropPacket (σ : State) (p : Packet) (reason : Nat) : State :=
  pressAll (match dropAnswer p.body p.src p.dst reason with
    | some (e, b) => sendTo σ .io e b
    | none => σ)

/-- Removes entry i of the packets held at the cores' VC2 inputs, cores in ascending order. -/
def vc2Take : List (Nat × Core) → Nat → Option (Nat × Nat × Packet)
  | [], _ => none
  | (L, c) :: r, i => match c.vc2[i]? with
    | some p => some (L, i, p)
    | none => vc2Take r (i - c.vc2.length)

/-- PACKET_AGED: packet i, of the mesh and then of the VC2 inputs, has AGE 999. -/
def execPacketAged (i : Nat) (σ : State) : Host.Outcome State Fault Refusal :=
  match σ.net[i]? with
  | some p =>
    let top := match p.body with
      | .reducePiece .. => 18000
      | _ => 999
    if ages p && decide (top ≤ p.age) then .next (dropPacket (takePkt σ i) p 1) else .next σ
  | none =>
    match vc2Take σ.cores (i - σ.net.length) with
    | some (L, k, p) =>
      if ages p && decide (999 ≤ p.age) then
        .next (tidy σ (dropPacket (modCore σ L (fun c => { c with vc2 := dropAt k c.vc2 })) p 1) L)
      else .next σ
    | none => .next σ

end Sys2Proof.Machine
end

