-- ==== Sys2Proof/Machine/Fabric.lean ====
section
/-! DEFINITION. The Kolid fabric's ports: frames, retry, lifetime and the loss of a port (R424–R435). Classes, slots and credits
of the sending side stand in Route. -/

namespace Sys2Proof.Machine

def getPort (σ : State) (p : Nat) : Port := mget Port.reset σ.fab.ports p
def setPort (σ : State) (p : Nat) (q : Port) : State := { σ with fab := { σ.fab with ports := mput Port.reset p q σ.fab.ports } }

/-- A port is UP, on 4 or 2 lanes. -/
def portUp (q : Port) : Bool := q.st == 2 || q.st == 3

/-! ### Retry (R425) -/

/-- The frames of a replay buffer after the acknowledged one; all of them where it is not there. -/
def afterSeq (seq : BitVec 12) (l : List (BitVec 12 × List Packet)) : List (BitVec 12 × List Packet) :=
  match l.findIdx? (fun e => e.1 == seq) with
  | some i => l.drop (i + 1)
  | none => l

/-- An acknowledgment frees frames. -/
def portAck (q : Port) (a : BitVec 12) : Port := { q with replay := afterSeq a q.replay }

/-- The sender replays from ACK + 1. -/
def portReplay (q : Port) (a : BitVec 12) : Port :=
  let q := portAck q a
  q.replay.foldl (fun q e => sendFrame q 1#4 e.1) { q with replays := satAdd 0xFFFFFFFF q.replays 1 }

/-- One NAK after a discard, until a frame is accepted. -/
def portNak (q : Port) : Port := if q.nakSent then q else sendFrame { q with nakSent := true } 2#4 0#12

/-- CREDITS and PAUSE of a frame act on what the port may send (R426). -/
def portCredits (q : Port) (f : FabFrame) : Port :=
  { q with
    paused := f.pause
    used := (List.range 8).foldl (fun m k => mput 0 k (mget 0 q.used k - (f.credits.getD k 0#6).toNat) m) q.used }

/-- The slots of a part are held until its packet is complete, and then free (R426). -/
def portTake (q : Port) (x : FabPart) : Port :=
  let k := 2 * x.cls.toNat + b2n x.lane
  let n := mget 0 q.rxHeld k + x.slots
  match x.packet with
  | none => { q with rxHeld := mput 0 k n q.rxHeld }
  | some _ => { q with rxHeld := mput 0 k 0 q.rxHeld, owed := mput 0 k (mget 0 q.owed k + n) q.owed }

/-! ### Delivery (R434, R435) -/

/-- The endpoint of this module that a fabric packet names. -/
def localEp (σ : State) (e : Ep) : Ep :=
  match e with
  | .remote m id => if m = moduleId σ then .core id else e
  | e => e

/-- Packets whose logical id or cluster does not exist at the destination: counted, and answered when they are requests (R435). -/
def fabNoCore (σ : State) (k : Packet) : State :=
  let σ := fabDrop σ 1
  match k.body with
  | .creditReq .. | .read .. | .write .. | .atomic .. =>
    (match dropAnswer k.body k.src k.dst 2 with
     | some (e, b) => sendTo σ .io e b
     | none => σ)
  | _ => σ

/-- A packet enters this module with AGE 0; a REDUCE piece waits at the station's input with its fabric age (R434, R477). -/
def fabArrive (σ : State) (k : Packet) : State :=
  match k.body with
  | .reducePiece .. => inject σ { k with dst := .io }
  | _ =>
  let k := { k with dst := localEp σ k.dst, age := 0 }
  match k.dst with
  | .core l => if l < gradeOf σ then inject σ k else fabNoCore σ k
  | .press q => if q / 32 < 320 then inject σ k else fabNoCore σ k
  | _ => inject σ k

/-- A packet is dropped at its lifetime (R434). -/
def fabAged (σ : State) (k : Packet) : State :=
  let σ := fabDrop σ 0
  match dropAnswer k.body k.src k.dst 1 with
  | some (e, b) => sendTo σ .io e b
  | none => σ

/-- A report of the far end of port p: later frames are sent again, then what was held (R432). -/
def portReport (σ : State) (p : Nat) (seq : BitVec 12) : State :=
  let q := getPort σ p
  if q.lost.isEmpty then σ else
  let again := ((afterSeq seq q.lost).flatMap (·.2)).map (fun k => { k with age := if fcOf k.body = 0 then k.age else k.age + 1000 })
  (again ++ q.heldPk).foldl sendPk (setPort σ p { q with lost := [], heldPk := [] })

/-- An accepted packet: a port report, or one that has crossed one more link, of this module or in transit (R434). -/
def fabAccept (σ : State) (x : FabPart) (k : Packet) : State :=
  match k.body with
  | .portSeq p seq => portReport σ p seq
  | _ =>
    let k := { k with age := if fcOf k.body = 0 then k.age else x.fage + 100 }
    if 18000 ≤ k.age ∧ fcOf k.body ≠ 0 then fabAged σ k
    else if x.dst = moduleId σ then fabArrive σ k
    else fabSend σ k x.dst

/-- The parts of an accepted frame, in order. -/
def fabParts (σ : State) (port : Nat) (xs : List FabPart) : State :=
  xs.foldl (fun σ x =>
    let σ := setPort σ port (portTake (getPort σ port) x)
    match x.packet with
    | some k => fabAccept σ x k
    | none => σ) σ

/-- The port sends what it may send now. -/
def portGo (σ : State) (p : Nat) : State := setPort σ p (portSend (laneOf σ p) (getPort σ p))

/-- The codeword of a frame counts where it was corrected, or could not be (Table: dictionary entries of the fabric). -/
def fecCount (q : Port) (f : FabFrame) : Port :=
  if !f.decoded then { q with fecUncorrected := satAdd 0xFFFFFFFF q.fecUncorrected 1 }
  else if f.corrected then { q with fecCorrected := satAdd 0xFFFFFFFF q.fecCorrected 1 }
  else q

/-- FABRIC_FRAME. -/
def execFabricFrame (port : Nat) (f : FabFrame) (σ : State) : Host.Outcome State Fault Refusal :=
  let q := fecCount (getPort σ port) f
  if asleep σ && portUp q && decide (port < 24) then .next (holdWake σ (.frame port f))
  else if !running σ || decide (24 ≤ port) || !portUp q then .next σ
  else if !f.decoded || !f.crcOk then .next (setPort σ port (portNak q))
  else if 3 ≤ f.kind.toNat then .next (fabDrop (setPort σ port q) 4)
  else
    let acked := match f.ack with
      | some a => portAck q a
      | none => q
    match f.kind.toNat with
    | 0 => let q := acked; .next (portGo (setPort σ port (portCredits q f)) port)
    | 1 =>
      if f.seq ≠ q.rxNext then .next (portGo (setPort σ port (portNak q)) port) else
      let q := acked
      let σ := setPort σ port { portCredits q f with rxNext := q.rxNext + 1#12, nakSent := false }
      .next (portGo (fabParts σ port f.parts) port)
    | _ => let q := acked; .next (portGo (setPort σ port (portReplay (portCredits q f) (f.ack.getD (q.txSeq - 1#12)))) port)

/-- NAK: the sender replays. -/
def execNak (port : Nat) (ack : BitVec 12) (σ : State) : Host.Outcome State Fault Refusal :=
  let q := getPort σ port
  if running σ && portUp q then .next (portGo (setPort σ port (portReplay q ack)) port) else .next σ

/-- REPLAY_TIMEOUT: no acknowledgment for 8 µs. -/
def execReplayTimeout (port : Nat) (σ : State) : Host.Outcome State Fault Refusal :=
  let q := getPort σ port
  match q.replay with
  | e :: _ => if running σ && portUp q then .next (setPort σ port (portReplay q (e.1 - 1#12))) else .next σ
  | [] => .next σ

/-- FABRIC_PACKET_AGED: packet i held at a port has FAGE 18,000. -/
def execFabricPacketAged (port : Nat) (i : Nat) (σ : State) : Host.Outcome State Fault Refusal :=
  let q := getPort σ port
  match q.heldPk[i]? with
  | some k =>
    if running σ && fcOf k.body != 0 && decide (18000 ≤ k.age) then
      .next (fabAged (setPort σ port { q with heldPk := dropAt i q.heldPk }) k)
    else .next σ
  | none => .next σ

/-! ### Loss of a port (R432) -/

/-- The report of the last SEQ accepted leaves through another UP port of the group. -/
def sendReport (σ : State) (p : Nat) : State :=
  let q := getPort σ p
  match (groupPorts (p / 4)).find? (fun x => x != p && portUp (getPort σ x)) with
  | some x => portPush σ x (pkt .io (.remote (q.peer % 256) (q.peer / 256 % 32)) (.portSeq (q.peer / 256 % 32) (q.rxNext - 1#12)))
  | none => σ

/-- A port goes DOWN: its unacknowledged packets await the far end's report. -/
def portLoss (σ : State) (p : Nat) : State :=
  let q := getPort σ p
  if !portUp q then σ else
  let σ := setPort σ p { q with
    st := 4, lanes := 0, lost := q.replay, replay := [], joinWait := false, nakSent := false, out := [],
    heldPk := (match q.cut with
      | some (k, _) => [k]
      | none => []) ++ q.heldPk,
    cut := none, used := [], paused := 0#3, lastCls := 3, rxHeld := [], owed := [] }
  let σ := sendReport σ p
  let σ := errRecord σ 7 2 0x1FFF 0xFFFF p 0xFF 0 0 ⟨0#12, 0#4⟩
  if q.replay.isEmpty then
    (getPort σ p).heldPk.foldl sendPk (setPort σ p { getPort σ p with heldPk := [] })
  else σ

/-- PORT_DOWN. -/
def execPortDown (port : Nat) (σ : State) : Host.Outcome State Fault Refusal :=
  if running σ && decide (port < 24) then .next (portLoss σ port) else .next σ

/-- PORT_SEQ. -/
def execPortSeq (port : Nat) (seq : BitVec 12) (σ : State) : Host.Outcome State Fault Refusal :=
  if running σ then .next (portReport σ port seq) else .next σ

/-- PORT_SEQ_TIMEOUT: the unreported packets are dropped with LOST, and the flows are held for 20 ms. -/
def execPortSeqTimeout (port : Nat) (σ : State) : Host.Outcome State Fault Refusal :=
  let q := getPort σ port
  if !running σ || q.lost.isEmpty then .next σ else
  let drop (σ : State) (k : Packet) : State :=
    let σ := fabDrop σ 2
    match dropAnswer k.body k.src k.dst 3 with
    | some (x, b) => sendTo σ .io x b
    | none => σ
  .next ((q.lost.flatMap (·.2)).foldl drop (setPort σ port { q with lost := [], holding := true }))

/-- FLOW_HOLD_END: the held flows are routed anew. -/
def execFlowHoldEnd (port : Nat) (σ : State) : Host.Outcome State Fault Refusal :=
  let q := getPort σ port
  if !running σ || !q.holding then .next σ else
  .next (q.heldPk.foldl sendPk (setPort σ port { q with holding := false, heldPk := [] }))

end Sys2Proof.Machine
end

