-- ==== Sys2Proof/Machine/HostDispatch.lean ====
section
/-! DEFINITION. The dispatcher (R465–R482): the register window's commands, fetching, checking and starting orders, the stop of a task on
its cores, pre-emption and resumption, REDUCE, scrubs, completions and interrupts; retests and retirements at a task (R536–R539). -/

namespace Sys2Proof.Machine

/-! ### The register window (R465, R468, R469) -/

/-- Entries of submission ring r: ENABLE, BASE, CONFIG. -/
def sqOn (σ : State) (r : Nat) : Bool := dv σ (0x2200 + r) 1 0 == 1
def sqCfg (σ : State) (r : Nat) : Nat := dv σ (0x2200 + r) 3 0
def sqLog (σ : State) (r : Nat) : Nat := nbits (sqCfg σ r) 3 0

/-- SIZE_LOG2 of completion ring c. -/
def cqLog (σ : State) (c : Nat) : Nat := nbits (dv σ (0x2400 + c) 3 0) 4 0

/-- A write of SQ_TAILr. -/
def sqTailWrite (σ : State) (r : Nat) (v : Word) : State :=
  if v.toNat < 2 ^ sqLog σ r then { σ with disp := { σ.disp with sqTail := mput 0 r v.toNat σ.disp.sqTail } } else σ

/-- SQ_TAIL. -/
def execSqTail (r : BitVec 8) (v : Word) (σ : State) : Host.Outcome State Fault Refusal :=
  if windowHeld σ then .next (holdWake σ (.sqTail r v))
  else if windowOn σ then .next (sqTailWrite σ r.toNat v) else .next σ

/-- A write of CQ_HEADc. -/
def cqHeadWrite (σ : State) (c : Nat) (v : Word) : State :=
  if bits v 15 0 < 2 ^ cqLog σ c then { σ with disp := { σ.disp with cqHead := mput 0 c (bits v 16 0) σ.disp.cqHead } } else σ

/-- CQ_HEAD. -/
def execCqHead (c : BitVec 6) (v : Word) (σ : State) : Host.Outcome State Fault Refusal :=
  if windowOn σ then .next (cqHeadWrite σ c.toNat v) else .next σ

/-- A write of DOORBELL sets the doorbell INT_PEND of a thread (R111). -/
def doorbellWrite (σ : State) (v : Word) : State :=
  let L := bits v 12 0
  if L < gradeOf σ then tidy σ (modT σ L (bits v 19 16) (fun h => { h with pendDoorbell := true })) L else σ

/-- DOORBELL. -/
def execDoorbell (v : Word) (σ : State) : Host.Outcome State Fault Refusal :=
  if windowHeld σ then .next (holdWake σ (.doorbell v))
  else if windowOn σ && running σ then .next (doorbellWrite σ v) else .next σ

/-! ### Fetching orders (R469) -/

/-- Ring r has an order to fetch. -/
def sqWork (σ : State) (r : Nat) : Bool := sqOn σ r && mget 0 σ.disp.sqTail r != mget 0 σ.disp.sqHead r

/-- The ring served next: PRIORITY first, then round robin after the ring served last. -/
def nextRing (σ : State) : Option Nat :=
  let rs := ((List.range 256).map (fun i => (σ.disp.lastRing + 1 + i) % 256)).filter (sqWork σ)
  let top := rs.foldl (fun m r => Nat.max m (nbits (sqCfg σ r) 5 4)) 0
  rs.find? (fun r => nbits (sqCfg σ r) 5 4 == top)

/-- ORDER_FETCH. -/
def execOrderFetch (r : BitVec 8) (σ : State) : Host.Outcome State Fault Refusal :=
  let r := r.toNat
  if !running σ || dv σ 0x2010 1 0 != 1 || decide (512 ≤ σ.disp.orders.length) || nextRing σ != some r then .next σ else
  let head := mget 0 σ.disp.sqHead r
  match svcRead σ (ringPlace (dv σ (0x2200 + r) 2 0) (128 * head)) 128 with
  | .error σ => .next σ
  | .ok (σ, b, bad) =>
    let p := patchBad σ b bad
    let d := p.2.disp
    let w := wordsOf 16 p.1
    let o : Order := {
      k := d.nextOrder, ring := r, w := w, st := .queued, status := 0, reason := 0, detail := 0#64, ticks := 0,
      hasPair := false, done := [], acks := [], dead := [], preempt := none, saveSpad := false, word9 := wat w 9, pieces := [],
      started := false, prev := mget none d.lastOf r }
    .next { p.2 with disp := { d with
      orders := d.orders ++ [o], nextOrder := d.nextOrder + 1, lastRing := r, lastOf := mput none r (some d.nextOrder) d.lastOf
      sqHead := mput 0 r ((head + 1) % 2 ^ sqLog σ r) d.sqHead } }

/-! ### The start checks (R470, R471, R453) -/

/-- The order is a task's: a LAUNCH, or a RESUME of a task. -/
def isTask (o : Order) : Bool := ordKind o == 1 || (ordKind o == 7 && !bit (wat o.w 2) 0)

/-- The order is a Quince pass: an UPDATE, or a RESUME of a pass. -/
def isPass (o : Order) : Bool := ordKind o == 3 || ordKind o == 4 || (ordKind o == 7 && bit (wat o.w 2) 0)

/-- Words of an order from i on are 0. -/
def zeroFrom (o : Order) (i : Nat) : Bool := (List.range (16 - i)).all (fun k => wat o.w (i + k) == 0#64)

/-- Check 1: the kind, the reserved fields, the pair. -/
def ordFormed (o : Order) : Bool :=
  let w := wat o.w
  let kind := ordKind o
  let tag := bits (w 1) 11 0
  let usesGroup := isTask o || (kind == 9 && bit (w 2) 32)
  let head := bits (w 0) 15 10 == 0 && bits (w 1) 63 45 == 0 && bits (w 1) 31 29 == 0 &&
    (usesGroup || (bits (w 1) 28 16 == 0 && bits (w 1) 44 32 == 0))
  let pairKind := kind == 1 || kind == 3 || kind == 4 || kind == 6 || kind == 7 || kind == 0xA
  let body : Bool := match kind with
    | 1 => zeroFrom o 10 && bits (w 9) 7 6 == 0 && bits (w 9) 31 9 == 0
    | 2 => zeroFrom o 5 && bits (w 2) 62 52 == 0 && bits (w 3) 62 52 == 0 && bits (w 4) 63 41 == 0
    | 3 => zeroFrom o 7 && w 5 == 0#64 && bits (w 6) 63 32 == 0
    | 4 => zeroFrom o 7 && bits (w 5) 63 1 == 0 && bits (w 6) 63 32 == 0
    | 5 => zeroFrom o 2
    | 6 | 8 => zeroFrom o 3 && bits (w 2) 63 1 == 0
    | 7 => zeroFrom o 5 && bits (w 2) 63 1 == 0
    | 9 => zeroFrom o 3 && bits (w 2) 63 33 == 0
    | 0xA => zeroFrom o 7 && bits (w 2) 15 11 == 0 && bits (w 2) 63 32 == 0 && bits (w 3) 63 24 == 0
    | _ => false
  head && body && (tag != 0) == pairKind && (tag != 0 || bits (w 1) 15 12 == 0)

/-- A word is an address below 2^48 that is a multiple of n. -/
def vaOk (v : Word) (n : Nat) : Bool := decide (v.toNat < 2 ^ 48) && v.toNat % n == 0

/-- An XLT_ROOT value with its reserved bits 0. -/
def rootOk (v : Word) : Bool := bits v 11 1 == 0 && bits v 63 40 == 0

/-- Check 3: group, alignments, ranges. -/
def ordRanges (σ : State) (o : Order) : Bool :=
  let w := wat o.w
  let group := decide (ordFirst o + ordCount o ≤ gradeOf σ)
  match ordKind o with
  | 1 => group && vaOk (w 2) 4 && vaOk (w 3) 4096 && rootOk (w 4) && vaOk (w 6) 16 && vaOk (w 7) 16 && vaOk (w 8) 4096 &&
      bits (w 9) 63 32 != 0
  | 2 =>
    let ok (v : Word) : Bool := bit v 63 || decide (bits v 51 0 + bits (w 4) 39 0 ≤ hbmSize)
    ok (w 2) && ok (w 3)
  | 3 | 4 => (w 2).toNat % 4096 == 0 && (w 3).toNat % 4096 == 0 && rootOk (w 4)
  | 7 => rootOk (w 4) && (bit (w 2) 0 || (group && vaOk (w 3) 4096))
  | 9 => !bit (w 2) 32 || group
  | 0xA =>
    decide (bits (w 2) 7 0 < 128) && bits (w 3) 23 0 != 0 && bits (w 2) 10 9 != 3 && rootOk (w 6) &&
      (!bit (w 2) 8 || (bits (w 3) 23 0 == 1 && bits (w 2) 10 9 == 0 && w 4 == 0#64 && w 5 == 0#64 && w 6 == 0#64))
  | _ => true

/-- Every stack out of service is excluded (R453 check 6). -/
def stacksOk (σ : State) (o : Order) : Bool := (List.range 32).all (fun h => stackUp σ h || bit (wat o.w 6) h)

/-- The checks of R453 in their order: 0, or the reason. -/
def pass2Check (σ : State) (o : Order) : Nat :=
  let resume := bit (wat o.w 5) 0
  let q := σ.quince
  let finite (b : BitVec 32) : Bool := b.toNat / 2 ^ 23 % 256 != 255
  if dv σ 0x7100 1 0 ≠ 1 then 4
  else if resume = false ∧ q.stepWritten = false then 8
  else if resume = true ∧ q.pass2Partial = false then 2
  else if (if resume then bits (wat o.w 6) 31 0 != q.exclude.toNat else q.pass2Partial) then 2
  else if dv σ 0x7110 6 0x3F800000 % 2 ^ 31 ≠ 0 ∧ q.normFresh = false then 2
  else if q.normFresh = true ∧ finite (globalNorm σ) = false then 1
  else if !stacksOk σ o then 3
  else 0

/-- The target of a PREEMPT: an order with its pair, QUEUED or RUNNING, that may be stopped. -/
def preemptTarget (σ : State) (o : Order) : Option Order :=
  σ.disp.orders.find? (fun q => q.k != o.k && ordKind q != 6 && decide (ordPair q = ordPair o) &&
    (q.st == .queued || (q.st == .running && (!isTask q || ordCtx q != 0))))

/-- Ticks for which a released pair rests (R471). -/
def pairRest : Nat := 100000

/-- Check 7: 0 where the pair is free, else 0x0A with its DETAIL. -/
def pairCheck (σ : State) (o : Order) : Nat × Word :=
  let p := ordPair o
  if σ.disp.orders.any (fun q => q.hasPair && q.k != o.k && decide (ordPair q = p)) then (0xA, 0xFFFFFFFFFFFFFFFF#64)
  else match σ.disp.released.find? (fun r => decide (r.1 = p) && decide (r.2 < pairRest)) with
    | some r => (0xA, w64 (pairRest - r.2))
    | none => (0, 0#64)

/-- The checks of R471 in their order: reason 0 where they pass. `group` is the group word of the image that a RESUME names. -/
def startCheck (σ : State) (o : Order) (group : Option Nat) : Nat × Word :=
  let kind := ordKind o
  let upd := kind == 3 || kind == 4
  let c4 : Nat :=
    if !upd then 0
    else if bits (wat o.w 6) 31 0 = 0xFFFFFFFF then 1
    else if kind = 3 then (if stacksOk σ o then 0 else 3)
    else pass2Check σ o
  let c6 : Nat :=
    if kind = 6 then (if (preemptTarget σ o).isSome then 0 else 3)
    else if kind = 7 then
      (if bit (wat o.w 2) 0 then (if σ.quince.saved ≠ 0 then 0 else 2)
       else if group = some (bits (wat o.w 1) 44 16) then 0 else 2)
    else 0
  if !ordFormed o then (1, 0#64)
  else if dv σ 0x2000 1 0 ≠ 1 then (4, 0#64)
  else if !ordRanges σ o then (1, 0#64)
  else if c4 ≠ 0 then (c4, 0#64)
  else if upd = true ∧ dv σ 0x7100 1 0 ≠ 1 then (4, 0#64)
  else if c6 ≠ 0 then (c6, 0#64)
  else if kind = 1 ∨ upd = true ∨ kind = 7 ∨ kind = 0xA then pairCheck σ o
  else (0, 0#64)

/-! ### When an order may start (R472) -/

/-- The order is in force on its resources. -/
def inForce (o : Order) : Bool := o.st == .running || o.st == .stopping

/-- Two groups share a core. -/
def groupsMeet (a b : Order) : Bool :=
  decide (ordFirst a < ordFirst b + ordCount b) && decide (ordFirst b < ordFirst a + ordCount a)

/-- Two orders need one resource. -/
def ordConflict (σ : State) (a b : Order) : Bool :=
  (isTask a && isTask b && groupsMeet a b) || (isPass a && isPass b) ||
    (ordKind a == 0xA && ordKind b == 0xA && bits (wat a.w 2) 7 0 == bits (wat b.w 2) 7 0 &&
      bits (wat a.w 2) 23 16 == moduleId σ && bits (wat b.w 2) 23 16 == moduleId σ)

/-- The order is QUEUED with its predecessors satisfied and its resources free. -/
def ordReady (σ : State) (o : Order) : Bool :=
  o.st == .queued &&
    (!bit (wat o.w 0) 8 || (match o.prev with
      | some k => (findOrder σ k).isNone
      | none => true)) &&
    !σ.disp.orders.any (fun q => ordKind q == 8 && decide (q.k < o.k)) &&
    !σ.disp.orders.any (fun q => inForce q && ordConflict σ q o) && !(isPass o && σ.quince.pass != 0)

/-- The order may start now: it is ready, and no order fetched earlier that is ready needs one of its resources. -/
def mayStart (σ : State) (o : Order) : Bool :=
  ordReady σ o && !σ.disp.orders.any (fun q => decide (q.k < o.k) && ordReady σ q && ordConflict σ q o)

/-! ### Retirement at a task (R537–R539, R547, R531) -/

/-- Adds a journal record (R531). -/
def journalRec (σ : State) (step kind comp attempt result : Nat) (detail : Word) (dur : Nat) : State :=
  let n := σ.boot.journalHead + 1
  let r := le 4 n ++ le 4 σ.boot.bootCount ++ le 4 σ.tick ++ le 1 step ++ le 1 kind ++ le 2 comp ++ le 1 attempt ++ le 1 result ++ le 2 0 ++
    le 8 detail.toNat ++ le 4 (Nat.min 0xFFFFFFFF dur)
  { σ with boot := { σ.boot with journalHead := n, journal := (r :: σ.boot.journal).take 8192 } }

/-- The words of a position's scratchpad are replaced whole (R599). -/
def wordsReplaced (σ : State) (p : Nat) : State :=
  { σ with boot := { σ.boot with spadWords := σ.boot.spadWords.map (fun e => if e.1 / 4194304 = p then (e.1, true, e.2.2) else e) } }

/-- Core L is reset, with B10 and B11 on its position: its windows close (R236), credits stay in quarantine (R595), CORE_STOP_INFO keeps its
value, and the invalidation of the caches begins (R294). -/
def resetCore (σ : State) (L : Nat) : State :=
  let σ := wordsReplaced (closeWins σ L) (posOf σ L)
  modCore σ L (fun c => { Core.reset with
    spad := { Spad.reset with credits := c.spad.credits }
    sup := { Sup.reset with stopSub := c.sup.stopSub, stopThread := c.sup.stopThread } })

/-- A retirement marked before this tick takes effect for logical id L (R539). -/
def retireEffect (σ : State) (L : Nat) : State :=
  let p := posOf σ L
  if (mapAt σ p).1 ≠ 3 ∨ σ.boot.markedNow.contains L = true then σ else
  match (List.range 5120).find? (fun q => mapAt σ q == (2, L)) with
  | none => σ
  | some q =>
    let σ := mapCommit (setMap (setMap σ q 0 L) p 4 0x1FFF)
    let σ := { σ with boot := { σ.boot with idPos := mput none L (if q = L then none else some q) σ.boot.idPos, mapGen := σ.boot.mapGen + 1 } }
    errRecord (modCore (resetCore σ L) L (fun c => { c with sup := Sup.reset })) 10 2 L p 0xFF 0xFF 0 0 ⟨0#12, 0#4⟩

/-- The end of a stopped core's retest: `pass` is its result (R537). -/
def retestEnd (σ : State) (L : Nat) (pass : Bool) : State :=
  let σ := resetCore σ L
  if pass then σ else
  let p := posOf σ L
  let σ := journalRec σ 10 4 ((p % 128) / 16) 1 2 (w64 (1 + fl p 16)) 61
  if autoRetire σ then markRetire σ L else σ

/-- A core stop with subcode 2–5 counts; the second in the window marks the core (R536). -/
def noteStop (σ : State) (L sub : Nat) : State :=
  let p := posOf σ L
  let σ := errRecord σ 2 1 L p 0xFF 0xFF sub 0 (getCore σ L).sup.pair
  if sub < 2 ∨ 5 < sub then σ else
  let s := σ.boot.stops ++ [(p, 0, 0)]
  let σ := { σ with boot := { σ.boot with stops := s } }
  if 2 ≤ (s.filter (fun e => e.1 == p && e.2.1 == 0)).length ∧ autoRetire σ = true then markRetire σ L else σ

/-! ### A task starts on its cores (R473, R482) -/

/-- Steps 1 to 3 on core L, and the task in force. -/
def taskCore (σ : State) (o : Order) (L : Nat) : State :=
  let σ := closeWins (retireEffect σ L) L
  modCore σ L (fun c => { c with
    cache := { c.cache with d := [], i := [], side := [] }, xlt := { tlbClear c.xlt with walks := [], unitOut := [] }, sc := []
    rings := c.rings.map (fun r => (r.1, { r.2 with enable := false, parked := none, parkAge := 0, stalled := false }))
    mtx := Mtx.reset, vlanes := Core.reset.vlanes, slots := [], chans := [], outq := []
    thr := c.thr.map (fun t => (t.1, { killedThread t.2 with stackLimit := 0#64, fences := [] }))
    sup := { c.sup with
      pair := ordPair o, groupFirst := ordFirst o, groupCount := ordCount o, order := some o.k, endCnt := BitVec.ofNat 6 (bits o.word9 5 0),
      endValue := bits o.word9 63 32, doneSent := false, endHit := false, switching := 0, swUnits := [], overflow := [], overDrops := 0 } })

/-- Zeroes the scratchpad of core L (R473 step 5): every word is replaced whole. -/
def spadClear (σ : State) (L : Nat) : State :=
  let σ := modCore σ L (fun c => { c with spad := { c.spad with mem := [], ue := [], ce := [], scrubFix := [] } })
  wordsReplaced σ (posOf σ L)

/-- A LAUNCH starts on core L (R473). -/
def launchCore (o : Order) (σ : State) (L : Nat) : State :=
  let σ := taskCore σ o L
  let σ := if bit (wat o.w 9) 8 then spadClear σ L else σ
  modCore σ L (fun c =>
    let h := startedThread (getThr c 0)
    let h := { h with
      mode := .supervisor, ae := true, pc := wat o.w 2, vregs := [], staged := [], stagedN := 0, fences := [], stackLimit := wat o.w 7 }
    let h := setG (setG (setG (setG (setG h 31 (wat o.w 6)) 1 (wat o.w 5)) 2 (w64 (bits (wat o.w 1) 44 16)))
      3 (w64 (L - ordFirst o))) 4 (w64 ((ordPair o).tag.toNat + 4096 * (ordPair o).gen.toNat))
    setThr { c with sup := { c.sup with vbar := wat o.w 3 }, xlt := { c.xlt with root := wat o.w 4 } } 0 h)

/-- Reads the images of the cores of a group. -/
def imagesRead (root : Word) (ctx : Nat) : List Nat → State → Except State (Option (List Image') × State)
  | [], σ => .ok (some [], σ)
  | j :: r, σ =>
    match imageRead σ root (ctx + j * ctxArea) with
    | .error σ => .error σ
    | .ok none => .ok (none, σ)
    | .ok (some (i, σ)) =>
      match imagesRead root ctx r σ with
      | .error σ => .error σ
      | .ok (some is, σ) => .ok (some (i :: is), σ)
      | .ok (none, σ) => .ok (none, σ)

/-! ### The dispatcher's commands to cores (R414, R475, R480) -/

/-- Sends a command to the cores of an order that have not stopped, and waits for their acknowledgments. -/
def commandCores (σ : State) (o : Order) (cmd : CoreCmd) : State :=
  let ls := (ordGroup o).filter (fun L => decide (L < gradeOf σ) && !(getCore σ L).sup.stopped && !o.dead.any (fun d => d % 8192 == L))
  let σ := setOrder σ { o with acks := ls }
  ls.foldl (fun σ L => sendTo σ .disp (.core L) (.command cmd)) σ

/-- Ends of the cores' resets, each with its retest (R537). -/
def retests (σ : State) (o : Order) : State := o.dead.foldl (fun σ d => retestEnd σ (d % 8192) (decide (8192 ≤ d))) σ

/-- The PREEMPT that asked for the stop completes OK; a QUIESCE waits on. -/
def preemptDone (σ : State) (o : Order) : State :=
  match o.preempt with
  | some k => (match findOrder σ k with
    | some p => if ordKind p = 6 ∧ p.st = .running then complete σ p 0 0 0#64 else σ
    | none => σ)
  | none => σ

/-- The task has left a core. -/
def coreFree (c : Core) : Core :=
  { c with
    thr := c.thr.map (fun t => (t.1, killedThread t.2))
    sup := { c.sup with order := none, switching := 0, swUnits := [], overflow := [], overDrops := 0 } }

/-- Every core has acknowledged: images of a preempted task are written, the press queues close, the order completes, stopped cores are
retested; the state of a wait where memory cannot take an image now. -/
def finishStop (σ : State) (o : Order) : Except State State :=
  let ls := ordGroup o
  let free (σ : State) : State := ls.foldl (fun σ L => if L < gradeOf σ then modCore σ L coreFree else σ) σ
  if o.status = 2 then
    let drops := ls.foldl (fun a L => a + (getCore σ L).sup.overDrops) 0
    match imagesWrite o ls σ with
    | .error σ => .error σ
    | .ok σ => .ok (preemptDone (complete (free (closePress σ (ordPair o))) o 2 0 (w64 (Nat.min 0xFFFFFFFF drops))) o)
  else .ok (retests (preemptDone (complete (free (closePress σ (ordPair o))) o o.status o.reason o.detail) o) o)

/-- An order goes to STOPPING for its end steps (R475). -/
def stopOrder (σ : State) (o : Order) (status reason : Nat) (detail : Word) : State :=
  let o := { o with st := .stopping, status := status, reason := reason, detail := detail }
  let σ := commandCores (setOrder σ o) o (.endSteps o.k)
  match findOrder σ o.k with
  | some q => if q.acks.isEmpty then (match finishStop σ q with
      | .ok σ => σ
      | .error σ => σ) else σ
  | none => σ

/-- A task is switched out for order p (R480): its press queues close, its cores are commanded. -/
def preemptTask (σ : State) (o : Order) (p : Nat) (save : Bool) : State :=
  let o := { o with st := .stopping, status := 2, reason := 0, detail := 0#64, preempt := some p, saveSpad := save }
  commandCores (closePress (setOrder σ o) (ordPair o)) o (.stopAll o.k)

/-! ### REDUCE (R477) -/

def getStation (σ : State) (s : Nat) : Station := mget Station.closed σ.stations s
def setStation (σ : State) (s : Nat) (x : Station) : State := { σ with stations := mput Station.closed s x σ.stations }

/-- Fields of a REDUCE. -/
def rdStation (o : Order) : Nat := bits (wat o.w 2) 7 0
def rdNorm (o : Order) : Bool := bit (wat o.w 2) 8
def rdFmt (o : Order) : Nat := bits (wat o.w 2) 10 9
def rdRoot (o : Order) : Nat := bits (wat o.w 2) 23 16
def rdParts (o : Order) : Nat := bits (wat o.w 2) 31 24 + 1
def rdElems (o : Order) : Nat := bits (wat o.w 3) 23 0
def rdPieces (o : Order) : Nat := (rdElems o + 63) / 64

/-- Sends a piece to module m. -/
def sendPiece (σ : State) (m station : Nat) (p : Pair) (piece : Nat) (vs : List (BitVec 32)) (sum : Bool) : State :=
  sendTo σ .io (if m = moduleId σ then .io else .remote m station) (.reducePiece station p piece vs sum)

/-- A REDUCE ends; the station closes on the root. -/
def reduceEnd (σ : State) (o : Order) (status : Nat) : State :=
  let σ := if rdRoot o = moduleId σ then setStation σ (rdStation o) Station.closed else σ
  complete σ o status 0 0#64

/-- A REDUCE starts: its station opens on the root, and its elements are read and sent; the state of a wait. -/
def reduceStart (σ : State) (o : Order) : Except State State :=
  let open' (σ : State) : State := if rdRoot o = moduleId σ then
    setStation σ (rdStation o) { Station.closed with opened := true, pair := ordPair o, fmt := rdFmt o, parts := rdParts o } else σ
  let sendAll (σ : State) (vs : List (BitVec 32)) : State :=
    (List.range (rdPieces o)).foldl (fun σ i =>
      sendPiece σ (rdRoot o) (rdStation o) (ordPair o) i ((vs.drop (64 * i)).take 64) false) (open' σ)
  if rdNorm o then .ok (sendAll σ [σ.quince.localNorm]) else
  let e := if rdFmt o = 2 then 2 else 4
  match vaPlaces σ (wat o.w 6) false (wat o.w 4).toNat (rdElems o * e) with
  | .wait σ => .error σ
  | .bad => .ok (reduceEnd σ o 1)
  | .ok ps =>
    let r := placesGet σ ps 0
    let q := patchBad (placesLookup σ ps) r.1 r.2
    .ok (sendAll q.2 ((numsOf e (rdElems o) q.1).map (fun n => BitVec.ofNat 32 (if e = 2 then n * 65536 else n))))

/-- A contribution of module m arrives at a station open under its pair; a complete piece returns to every contributor. -/
def stationAdd (σ : State) (s m piece : Nat) (p : Pair) (vs : List (BitVec 32)) : State :=
  let x := getStation σ s
  let fmt := if x.fmt = 1 then 1 else 0
  let have' := mget [] x.srcs piece
  if have'.contains m then σ else
  let old := mget [] x.sums piece
  let sum := if have'.isEmpty then vs.map (fun v => pressAdd fmt 0#32 v) else (old.zip vs).map (fun v => pressAdd fmt v.1 v.2)
  let have' := have' ++ [m]
  let σ := setStation σ s { x with sums := mput [] piece sum x.sums, srcs := mput [] piece have' x.srcs }
  if have'.length < x.parts then σ else have'.foldl (fun σ m => sendPiece σ m s p piece sum true) σ

/-- A sum arrives for order o: it is written; the last one completes the order; the state of a wait. -/
def reduceSum (σ : State) (o : Order) (piece : Nat) (vs : List (BitVec 32)) : Except State State :=
  if o.pieces.contains piece then .ok σ else
  let fin (σ : State) : State :=
    let o := { o with pieces := insertNat piece o.pieces }
    if o.pieces.length < rdPieces o then setOrder σ o else reduceEnd σ o 0
  if rdNorm o then .ok (fin (setGlobalNorm σ (vs.headD 0#32))) else
  match vaPlaces σ (wat o.w 6) true ((wat o.w 5).toNat + 256 * piece) (4 * vs.length) with
  | .wait σ => .error σ
  | .bad => .ok (reduceEnd σ o 1)
  | .ok ps => .ok (fin (placesPut ps 0 (vs.flatMap (fun v => toBytes 4 v.toNat)) [] σ))

/-- REDUCE_PIECE: the oldest waiting piece with these contents arrives at the station, or at the participant that gets its sum. -/
def execReducePiece (k piece src : Nat) (elems : List (BitVec 32)) (sum : Bool) (σ : State) : Host.Outcome State Fault Refusal :=
  match findOrder σ k with
  | none => .next σ
  | some o =>
    let s := rdStation o
    let from' (p : Packet) : Nat := match p.src with
      | .remote m _ => m
      | _ => moduleId σ
    let hit (p : Packet) : Bool := decide (p.dst = .io) && decide (p.body = .reducePiece s (ordPair o) piece elems sum) && from' p == src
    match (if running σ = true ∧ ordKind o = 0xA ∧ o.st = .running then σ.net.findIdx? hit else none) with
    | none => .next σ
    | some i =>
      let σ1 := takePkt σ i
      if sum then
        (match reduceSum σ o piece elems with
         | .error σ => .next σ
         | .ok _ => .next (match reduceSum σ1 o piece elems with
           | .ok σ => σ
           | .error σ => σ))
      else
        let x := getStation σ s
        if x.opened = true ∧ x.pair = ordPair o then .next (stationAdd σ1 s src piece (ordPair o) elems) else .next σ

/-! ### COPY (R476) -/

/-- Every stack of a range is in service, or a link is UP. -/
def rangeUp (σ : State) (v : Word) (n : Nat) : Bool :=
  if bit v 63 then linkUp σ
  else (List.range ((bits v 51 0 + n - 1) / 0x600000000 + 1 - stackOf (bits v 51 0))).all (fun i => stackUp σ (stackOf (bits v 51 0) + i))

/-- Ranges of one space that share a byte. -/
def rangesMeet (a b : Word) (n : Nat) : Bool :=
  bit a 63 == bit b 63 && decide (bits a 51 0 < bits b 51 0 + n) && decide (bits b 51 0 < bits a 51 0 + n)

/-- A COPY moves its range; the state of a wait. Overlapping ranges receive free values (R476; log 6). One whose range is out of service
(HOME_DOWN, R544) ends FAULTED (log 19). -/
def copyRun (σ : State) (o : Order) : Except State State :=
  let n := bits (wat o.w 4) 39 0
  let crcEn := bit (wat o.w 4) 40
  let src := wat o.w 2
  let dst := wat o.w 3
  if n = 0 then .ok (complete σ o 0 0 0#64)
  else if !(rangeUp σ src n && rangeUp σ dst n) then .ok (complete σ o 1 0 0#64)
  else
    let at' (v : Word) : Home := if bit v 63 then .comp (bits v 51 0) else .hbm (bits v 51 0)
    match svcRead σ (at' src) n with
    | .error σ => .error σ
    | .ok (σ, b, bad) =>
      match rangeRecall σ (at' dst) n true with
      | some line => .error (startRecall σ line true [])
      | none =>
        let meets := rangesMeet src dst n
        let b' := if meets then (List.range n).map (fun i => (Config.freeValue (σ.freeCtr + i)).truncate 8) else b
        let σ := if meets then { σ with freeCtr := σ.freeCtr + n } else σ
        let badBytes := fun i => bad.contains ((bits src 51 0 + i) / 8 - bits src 51 0 / 8)
        let dbad := ((wordsTouched (bits dst 51 0) n).filter (fun k =>
          (List.range 8).any (fun j => let a := 8 * k + j
            decide (bits dst 51 0 ≤ a) && decide (a < bits dst 51 0 + n) && badBytes (a - bits dst 51 0)))).map (· - bits dst 51 0 / 8)
        let σ := homePut σ (at' dst) b' dbad
        let codewords := (bad.map (fun k => lineOf (8 * (k + bits src 51 0 / 8)))).eraseDups
        let σ := codewords.foldl (fun σ a =>
          if bit src 63 then σ else errRecord σ 4 1 0x1FFF 0xFFFF (stackOf a) (a / 256 % 32) 0x0D a ⟨0#12, 0#4⟩) σ
        let crc := if crcEn then (~~~(crcBytes 0xFFFFFFFF#32 b')).toNat else 0
        .ok (complete σ o (if bad.isEmpty then 0 else 5) 0 (w64 crc))

/-! ### Starting an order (R472) -/

/-- An order enters RUNNING with its pair (R471). -/
def enterRunning (σ : State) (o : Order) : State × Order :=
  let o := { o with st := .running, started := true, ticks := 0, hasPair := bits (wat o.w 1) 11 0 != 0 && ordKind o != 6 }
  (setOrder σ o, o)

/-- A PREEMPT acts on its target. -/
def preemptStart (σ : State) (o : Order) : State :=
  match preemptTarget σ o with
  | none => complete σ o 0 0 0#64
  | some q =>
    if q.st = .queued then complete (complete σ q 3 0 0#64) o 0 0 0#64
    else if isTask q then preemptTask σ q o.k (bit (wat o.w 2) 0)
    else if isPass q then complete (passPreempt σ) o 0 0 0#64
    else complete (reduceEnd σ q 3) o 0 0 0#64

/-- A QUIESCE with PREEMPT_ALL preempts tasks that have a CTX_VA, and the pass. -/
def quiesceStart (σ : State) (o : Order) : State :=
  if !bit (wat o.w 2) 0 then σ else
  let σ := σ.disp.orders.foldl (fun σ q => if q.st = .running ∧ isTask q = true ∧ ordCtx q ≠ 0 then preemptTask σ q o.k true else σ) σ
  if σ.quince.pass ≠ 0 then passPreempt σ else σ

/-- A RESUME of a task with its images: each core is restored, or the order ends FAULTED (R482). -/
def resumeStart (σ : State) (o : Order) (is : List Image') : State :=
  let root := ordRoot σ o
  let o := { o with word9 := imgW (is.headD ⟨[], [], ([], []), none⟩) 0x28 }
  let σ := setOrder σ o
  let σ := (ordGroup o).foldl (fun σ L => taskCore σ o L) σ
  if is.any imgBad then stopOrder σ o 1 0 0#64
  else is.zipIdx.foldl (fun σ i =>
    let L := ordFirst o + i.2
    tidy σ (restoreCore σ L i.1 (ordCtx o + i.2 * ctxArea) root) L) σ

/-- The group word and the images that a RESUME of a task finds. -/
def resumeImages (σ : State) (o : Order) : Except State (Option (List Image') × State) :=
  if isTask o = true ∧ ordKind o = 7 ∧ ordFormed o = true ∧ ordRanges σ o = true then
    imagesRead (ordRoot σ o) (ordCtx o) (List.range (ordCount o)) σ
  else .ok (none, σ)

/-- Packets of the module in the mesh or the fabric. -/
def trafficFree (σ : State) : Bool :=
  σ.net.isEmpty && σ.cores.all (fun c => c.2.vc2.isEmpty && c.2.outq.isEmpty) &&
    σ.fab.ports.all (fun p => p.2.replay.isEmpty && p.2.heldPk.isEmpty && p.2.lost.isEmpty)

/-- A stack that is marked retrains under conservative timing (R544); whether it trains is open (log 6). A stack out of service has lost its
contents. -/
def stackRetrain (σ : State) (h : Nat) : State :=
  if mget 0 σ.boot.stackState h ≠ 2 then σ else
  let f := fresh σ
  if f.1.getLsbD 0 then { f.2 with boot := { f.2.boot with stackState := mput 0 h 1 f.2.boot.stackState } }
  else
    let mine (a : Nat) : Bool := stackOf a == h
    errRecord { f.2 with
      boot := { f.2.boot with stackState := mput 0 h 3 f.2.boot.stackState }
      hbm := f.2.hbm.filter (fun c => !mine c.1), hbmUE := f.2.hbmUE.filter (fun k => !mine (8 * k))
      disp := { f.2.disp with dir := f.2.disp.dir.filter (fun e => !mine e.1), msc := f.2.disp.msc.filter (fun l => !mine l) } }
      6 2 0x1FFF 0xFFFF h 0xFF 0 0 ⟨0#12, 0#4⟩

/-- A QUIESCE that nothing holds any more: marked stacks retrain, retrained ports join (R433, R544), it completes. -/
def quiesceEnd (σ : State) (o : Order) : State :=
  let σ := (List.range 32).foldl stackRetrain σ
  let σ := { σ with fab := { σ.fab with ports := σ.fab.ports.map (fun p => (p.1, { p.2 with joinWait := false })) } }
  complete σ o 0 0 0#64

/-- Barriers and quiesces that are satisfied end (R472, R478). -/
def settleOrders (σ : State) : State :=
  σ.disp.orders.foldl (fun σ o =>
    if o.st ≠ .running then σ
    else if ordKind o = 5 then
      (if σ.disp.orders.any (fun q => q.ring == o.ring && decide (q.k < o.k)) then σ else complete σ o 0 0 0#64)
    else if ordKind o = 8 then
      (if σ.disp.orders.any (fun q => inForce q && q.k != o.k) || !trafficFree σ then σ else quiesceEnd σ o)
    else σ) σ

/-- The start actions of an order that has passed its checks; the state of a wait. -/
def orderGo (σ : State) (o : Order) (is : List Image') : Except State State :=
  let r := enterRunning σ o
  match ordKind o with
  | 1 => .ok ((ordGroup o).foldl (launchCore r.2) r.1)
  | 2 => copyRun r.1 r.2
  | 3 => .ok (passStart r.1 o.k 1 o.w false)
  | 4 => .ok (passStart r.1 o.k 2 o.w (bit (wat o.w 5) 0))
  | 6 => .ok (preemptStart r.1 r.2)
  | 7 => .ok (if bit (wat o.w 2) 0 then passResume r.1 o.k (wat o.w 4) else resumeStart r.1 r.2 is)
  | 8 => .ok (quiesceStart r.1 r.2)
  | 0xA => reduceStart r.1 r.2
  | _ => .ok r.1

/-- ORDER_START: a QUEUED order whose resources are free is judged, and refused or started (R471, R472). -/
def execOrderStart (k : Nat) (σ : State) : Host.Outcome State Fault Refusal :=
  match findOrder σ k with
  | none => .next σ
  | some o =>
    if !(running σ && mayStart σ o) then .next σ else
    match resumeImages σ o with
    | .error σ => .next σ
    | .ok (is, σ1) =>
      let group := match is with
        | some (i :: _) => some (imgW i 0x10).toNat
        | _ => none
      (match startCheck σ o group with
       | (0, _) => (match orderGo σ1 o (is.getD []) with
         | .ok σ => .next (settleOrders σ)
         | .error σ => (match findOrder σ k with
           | some _ => .next (setOrder σ o)
           | none => .next σ))
       | (r, d) => .next (complete σ o 4 r d))

/-! ### Ends of orders (R472, R475, R478, R479) -/

/-- ORDER_TIMEOUT. -/
def execOrderTimeout (k : Nat) (σ : State) : Host.Outcome State Fault Refusal :=
  match findOrder σ k with
  | none => .next σ
  | some o =>
    let ms := bits (wat o.w 0) 31 16
    if !running σ || o.st != .running || ms == 0 || decide (o.ticks < ms * 1000) then .next σ
    else if isTask o then .next (settleOrders (stopOrder σ o 3 0 0#64))
    else if isPass o then .next (passBreak σ 3 0)
    else if ordKind o = 0xA then .next (reduceEnd σ o 1)
    else .next (complete σ o 3 0 0#64)

/-- CORE_STOP_REPORT: the report reaches the dispatcher; `retest` is the result of the retest that follows the order's end (R115, R472,
R536, R537). -/
def execCoreStopReport (i : Nat) (retest : Bool) (σ : State) : Host.Outcome State Fault Refusal :=
  match arrivalAt σ i .disp with
  | some { body := .coreStop L sub, .. } =>
    let σ1 := noteStop (takePkt σ i) L sub
    let d := L + 8192 * b2n retest
    (match ((getCore σ1 L).sup.order.bind (findOrder σ1)) with
     | none => .next (retestEnd σ1 L retest)
     | some o =>
       let o := { o with dead := o.dead ++ [d], acks := o.acks.filter (· != L) }
       if o.st = .running then .next (stopOrder σ1 o 1 0x15 (w64 (L + fl sub 16)))
       else if o.st = .stopping then
         let o := if o.status = 1 then o else { o with status := 1, reason := 0x15, detail := w64 (L + fl sub 16) }
         let σ2 := setOrder σ1 o
         .next (if o.acks.isEmpty then (match finishStop σ2 o with
           | .ok σ => σ
           | .error σ => σ) else σ2)
       else .next (retestEnd σ1 L retest))
  | _ => .next σ

/-- CORE_DONE: core L of order k, whose counter END_CNT has held END_VALUE, reports its part done; after the last report the end steps run (R475). -/
def execCoreDone (k : Nat) (core : BitVec 13) (σ : State) : Host.Outcome State Fault Refusal :=
  let L := core.toNat
  let s := (getCore σ L).sup
  match findOrder σ k with
  | none => .next σ
  | some o =>
    if coreOn σ L && s.order == some k && !s.doneSent && !s.stopped && o.st == .running && isTask o &&
        (s.endHit || decide (s.endValue ≤ (getSc (getCore σ L) s.endCnt.toNat).value)) then
      let σ1 := modCore σ L (fun c => { c with sup := { c.sup with doneSent := true } })
      let o := { o with done := insertNat L o.done }
      if (ordGroup o).all (fun l => o.done.contains l) then .next (stopOrder σ1 o 0 0 0#64) else .next (setOrder σ1 o)
    else .next σ

/-- A scrub of the stacks of a mask: the codewords that it corrects or finds uncorrectable, and those marked before, which it records
again. A codeword of HBM counts as one word found (log 56). -/
def scrubStacks (σ : State) (mask : Nat) (corrected uncorrectable : List Nat) : State × Nat × Nat :=
  let mine (l : Nat) : Bool := nbit mask (stackOf l) && stackUp σ (stackOf l)
  let fatal := (uncorrectable.map lineOf).eraseDups.filter mine
  let known := (σ.hbmUE.map (fun w => lineOf (8 * w))).eraseDups.filter (fun l => mine l && !fatal.contains l)
  let mended := (corrected.map lineOf).eraseDups.filter (fun l => mine l && !fatal.contains l && !known.contains l)
  let σ := mended.foldl (fun σ l => hbmCodeword σ l false) σ
  let σ := fatal.foldl (fun σ l => hbmFatal σ l) σ
  (known.foldl (fun σ l => errRecord σ 4 1 0x1FFF 0xFFFF (stackOf l) (l / 256 % 32) 0x0D l ⟨0#12, 0#4⟩) σ,
   mended.length, known.length + fatal.length)

/-- A scrub of the scratchpads of cores (R227, R228). -/
def scrubSpads (ls : List Nat) (r : State × Nat × Nat) : State × Nat × Nat :=
  ls.foldl (fun r L =>
    let s := (getCore r.1 L).spad
    (s.ue.foldl (fun σ w => noteSpadUE σ L (8 * w)) (spadMeet r.1 L 0 spadSize), r.2.1 + s.ce.length, r.2.2 + s.ue.length)) r

/-- SCRUB_PASS_END: the order completes with the words found; uncorrectable words are recorded (R478). The lists are the HBM codewords in
error that the pass meets for the first time. -/
def execScrubPassEnd (k : Nat) (corrected uncorrectable : List Nat) (σ : State) : Host.Outcome State Fault Refusal :=
  match findOrder σ k with
  | none => .next σ
  | some o =>
    if running σ && ordKind o == 9 && o.st == .running then
      let r := scrubStacks σ (bits (wat o.w 2) 31 0) corrected uncorrectable
      let r := if bit (wat o.w 2) 32 then scrubSpads (ordGroup o) r else r
      .next (complete r.1 o (if r.2.2 = 0 then 0 else 5) 0 (w64 (r.2.1 % 2 ^ 32 + fl (r.2.2 % 2 ^ 32) 32)))
    else .next σ

/-- The completion record of an order (Table: completion record). -/
def completionRecord (σ : State) (o : Order) (phase : Nat) : List Word :=
  let h := wat o.w 0
  [w64 (o.status + fl o.reason 8 + fl (ordKind o) 16 + fl (bits h 63 32) 32),
   w64 (o.ring + fl (bits (wat o.w 1) 11 0) 16 + fl (bits (wat o.w 1) 15 12) 28 + fl (mget 0 σ.disp.sqHead o.ring) 32),
   o.detail, w64 (phase + fl (σ.tick % 2 ^ 32) 32)]

/-- MODULE_ENABLE fell for want of a spare, and the last order has ended (R541). -/
def gradeLost (σ : State) : Bool := σ.disp.orders.isEmpty && σ.boot.modState == 1 && noSpare σ

/-- The module enters the service state: orders end ABORTED, the dies and HBM are switched off (R532). -/
def enterService (σ : State) : State :=
  let σ := σ.disp.orders.foldl (fun σ o => if o.st = .completing then σ else complete σ o 3 0 0#64) σ
  let σ := errRecord σ 11 3 0x1FFF 0xFFFF 0xFF 0xFF 0 0 ⟨0#12, 0#4⟩
  { setDv σ 0x2000 1 0 with
    cores := [], net := [], press := [], stations := [], hbm := [], hbmUE := [], quince := Quince.reset
    disp := { σ.disp with dir := [], recalls := [], msc := [] }, boot := { σ.boot with modState := 3, run := none } }

/-- The place is in companion memory. -/
def inComp (h : Home) : Bool := match h with
  | .comp _ => true
  | _ => false

/-- COMPLETION_WRITE: an order in COMPLETING writes its record where its ring has a free slot, and is DONE (R468, R472, R479). -/
def execCompletionWrite (k : Nat) (σ : State) : Host.Outcome State Fault Refusal :=
  match findOrder σ k with
  | none => .next σ
  | some o =>
    let c := nbits (sqCfg σ o.ring) 11 6
    let tail := mget 0 σ.disp.cqTail c
    let head := mget 0 σ.disp.cqHead c
    let idx := tail % 65536
    let wrap := tail / 65536
    let place := ringPlace (dv σ (0x2400 + c) 2 0) (32 * idx)
    let up := running σ || ((σ.boot.modState == 3 || asleep σ) && linkUp σ && inComp place)
    if !up || o.st != .completing || dv σ (0x2400 + c) 1 0 != 1 || (idx == head % 65536 && wrap != head / 65536) then .next σ else
    match svcWrite σ place (bytesOf (completionRecord σ o (1 - wrap))) with
    | .error σ => .next σ
    | .ok σ1 =>
      let next := if idx + 1 = 2 ^ cqLog σ c then (1 - wrap) * 65536 else tail + 1
      let σ1 := { σ1 with disp := { σ1.disp with
        cqTail := mput 0 c next σ1.disp.cqTail, orders := σ1.disp.orders.filter (fun q => q.k != k) } }
      let σ1 := if bit (wat o.w 0) 9 && nbit (dv σ (0x2400 + c) 3 0) 5 then raiseVector σ1 c else σ1
      let σ1 := settleOrders σ1
      .next (if gradeLost σ1 then enterService σ1 else σ1)

/-- INTERRUPT_SEND: one message for each vector raised in the tick and not yet sent (R467). -/
def execInterruptSend (σ : State) : Host.Outcome State Fault Refusal :=
  let d := σ.disp
  .next { σ with disp := { d with sent := d.raised.foldl (fun s v => insertNat v s) d.sent } }

/-! ### A command at a core (R378, R414, R475, R480) -/

/-- Committed traffic of the core is placed, performed or dropped (R378 step 2), and no notice of a drop is under way to it (R596). -/
def coreDrained (σ : State) (L : Nat) : Bool :=
  let c := getCore σ L
  let mine (p : Packet) : Bool := decide (p.src = .core L)
  let notice (p : Packet) : Bool := decide (p.dst = .core L) && (match p.body with
    | .dropNotice .. => true
    | _ => false)
  c.outs.isEmpty && c.outq.isEmpty && !σ.net.any (fun p => mine p || notice p) && !σ.cores.any (fun k => k.2.vc2.any mine) &&
    !σ.fab.ports.any (fun p =>
      p.2.heldPk.any mine || p.2.lost.any (fun e => e.2.any mine) || p.2.replay.any (fun e => e.2.any mine))

/-- Every thread is at an instruction boundary. -/
def coreAtBoundary (c : Core) : Bool := (List.range 16).all (fun t => (getThr c t).st != .ready || mayStop c t)

/-- The command takes hold of the core: units stop and no longer hold credits (R264, R401); at the end steps threads are killed and what the engines hold is discarded. -/
def switchBegin (σ : State) (L mode : Nat) : State :=
  let c := getCore σ L
  let us := ((List.range 8).filter (fun s => (getSlot c s).st == 1)) ++ ((List.range 4).filter (fun k => (getChan c k).st == 1)).map (· + 8)
  let σ := modCore σ L (fun c => { c with sup := { c.sup with switching := mode, swUnits := us } })
  if mode = 1 then
    us.foldl (fun σ u =>
      if u < 8 then slotStop (modSlot σ L u (fun q => { q with credit := .none })) L u
      else chanStop (modChan σ L (u - 8) (fun q => { q with credit := .none })) L (u - 8) false) σ
  else
    let busy := !us.isEmpty || !mtxIdle c.mtx
    let σ := (List.range 16).foldl (fun σ t => killThread σ L t) σ
    let keep (o : Out) : Bool := match o.kind with
      | .wback | .store .. => true
      | _ => false
    let σ := modCore σ L (fun c => { c with
      slots := [], chans := [], outs := c.outs.filter keep, mtx := { c.mtx with queue := [], rows := [], waiters := [] } })
    match c.sup.order.bind (findOrder σ) with
    | some o => if busy && o.status == 0 then setOrder σ { o with detail := 1#64 } else σ
    | none => σ

/-- Steps 1 and 2 of R378 are done on the core. -/
def switchReady (σ : State) (L mode : Nat) : Bool :=
  let c := getCore σ L
  c.sup.switching == mode && coreDrained σ L && c.cache.cmo.isNone && (mode == 2 || (coreAtBoundary c && mtxIdle c.mtx))

/-- The core's pair is replaced: it has passed step 3 of R378. -/
def switchPassed (σ : State) (L : Nat) : Bool := (getCore σ L).sup.pair.tag == 0#12

/-- Every core of the order's group has drained (R378): none goes on to step 3 before. -/
def groupReady (σ : State) (k L mode : Nat) : Bool :=
  (match findOrder σ k with
   | some o => L :: ordGroup o
   | none => [L]).all (fun l =>
    decide (gradeOf σ ≤ l) || (getCore σ l).sup.stopped || switchPassed σ l || switchReady σ l mode)

/-- Steps 3 to 5 of the switch: the pair is replaced, windows close, counters reset, the TLB is invalidated, forwards are cancelled, and the
caches begin to be cleaned and invalidated (R270, R305, R314). -/
def switchSwap (σ : State) (L : Nat) : State :=
  let σ := closeWins (modCore σ L (fun c => { c with sup := { c.sup with pair := ⟨0#12, 0#4⟩, groupFirst := 0, groupCount := 0 } })) L
  let σ := modCore σ L (fun c => { c with
    sc := [], xlt := { tlbClear c.xlt with walks := [], unitOut := [] }
    rings := c.rings.map (fun r => (r.1, { r.2 with pair := ⟨0#12, 0#4⟩ }))
    thr := c.thr.map (fun t => (t.1, { t.2 with held := .none })) })
  cmoBegin σ L .switch 0x1B#64

/-- A STOP or end-steps command at core L: it stays in the mesh until the core has done its part, and is then acknowledged. -/
def switchCommand (σ : State) (i L k mode : Nat) : State :=
  let c := getCore σ L
  if c.sup.stopped then takePkt σ i else
  let σ1 := tidy σ (if c.sup.switching = mode then σ else switchBegin σ L mode) L
  let σ2 := if switchPassed σ1 L || !groupReady σ1 k L mode then σ1 else tidy σ1 (switchSwap σ1 L) L
  let c := getCore σ2 L
  if switchPassed σ2 L && c.cache.cmo.isNone && c.outs.isEmpty then sendTo (takePkt σ2 i) (.core L) .disp (.commandAck k L)
  else σ2

/-- COMMAND: a dispatcher or dictionary command reaches a core (R414). -/
def execCommand (i : Nat) (σ : State) : Host.Outcome State Fault Refusal :=
  match mayArrive σ i with
  | some { dst := .core L, body := .command cmd, .. } =>
    if !coreOn σ L then .next σ else
    (match cmd with
     | .halt m => .next (tidy σ (dbgHalt (takePkt σ i) L m.toNat 5 none) L)
     | .resume m => .next (tidy σ (dbgGo (takePkt σ i) L m.toNat false true) L)
     | .step m => .next (tidy σ (dbgGo (takePkt σ i) L m.toNat true true) L)
     | .stopAll k => .next (switchCommand σ i L k 1)
     | .endSteps k => .next (switchCommand σ i L k 2))
  | _ => .next σ

/-- COMMAND_ACK: after the last acknowledgment the switch, or the end steps, go on (R418, R475, R480). -/
def execCommandAck (i : Nat) (σ : State) : Host.Outcome State Fault Refusal :=
  match arrivalAt σ i .disp with
  | some { body := .commandAck k L, .. } =>
    let σ1 := takePkt σ i
    (match findOrder σ1 k with
     | none => .next σ1
     | some o =>
       if o.st ≠ .stopping then .next σ1 else
       let o := { o with acks := o.acks.filter (· != L) }
       let σ2 := setOrder σ1 o
       if !o.acks.isEmpty then .next σ2 else
       match finishStop σ o with
       | .error σ => .next σ
       | .ok _ => (match finishStop σ2 o with
         | .ok σ => .next (settleOrders σ)
         | .error σ => .next σ))
  | _ => .next σ

end Sys2Proof.Machine
end

