-- ==== Sys2Proof/Machine/PowerOps.lean ====
section
/-! DEFINITION. What the power states, start-up and the dictionary share: Doze, switching the dies off, the defaults that a restart brings
back, the start of a boot (R29, R486, R512–R528, R572, R576). -/

namespace Sys2Proof.Machine

/-! ### Doze (R29, R513) -/

/-- A core permits Doze: no thread READY or HALTED, no DMA, stream or matrix work. -/
def coreDozes (c : Core) : Bool :=
  c.thr.all (fun t => t.2.st != .ready && t.2.st != .halted) && c.chans.all (fun q => q.2.st != 1) && c.slots.all (fun q => q.2.st != 1) &&
    mtxIdle c.mtx && c.mtx.rows.isEmpty

/-- Every cluster with an enabled core dozes. -/
def dozing (σ : State) : Bool := σ.cores.all (fun c => decide (gradeOf σ ≤ c.1) || coreDozes c.2)

/-- STATE of `0x3000:04`. -/
def powerState (σ : State) : Nat := if running σ && dozing σ then 1 else σ.power.st

/-- The rind firmware runs: the rind is out of power-on reset, and B1 and B2 have passed. -/
def rindUp (σ : State) : Bool :=
  σ.boot.rom == 0 && (match σ.boot.run with
    | some r => decide (3 ≤ r.step)
    | none => true)

/-- Exit latency of a state in µs (Table: power states). -/
def exitLatency (st : Nat) : Nat :=
  match st with
  | 2 => 50
  | 3 => 3000
  | 4 => 250000
  | _ => 0

/-! ### Switching off and starting -/

/-- The stored entries that a restart keeps: `0x1010` and `0x5100:02`–`:04` (R486). -/
def keepsKey (k : Nat) : Bool := k / 256 == 0x1010 || (decide (0x510002 ≤ k) && decide (k ≤ 0x510004))

/-- Every volatile entry takes its default (R486). -/
def volatileReset (σ : State) : State :=
  { σ with
    dict := { σ.dict with val := σ.dict.val.filter (fun e => keepsKey e.1) }
    sec := { σ.sec with stage := [], nonce := 0, opKeys := [] }
    power := { σ.power with dt := [], dp := 16, duty := [] }
    quince := Quince.reset }

/-- Every die and stack is switched off: cores, mesh, HBM, dispatcher, links and ports lose what they hold, the mailbox with them. -/
def diesOff (σ : State) : State :=
  { σ with
    cores := [], net := [], hbm := [], hbmUE := [], press := [], stations := [], disp := Disp.reset, quince := Quince.reset
    fab := Fabric.reset
    power := { σ.power with held := [], wake := false, target := 0, since := σ.tick }
    dict := { σ.dict with
      mbReq := [], mbResp := [], mbSeq := 0, mbNewSeq := 0, mbBusy := false, mbDone := false, mbOverrun := false, mbRespLen := 0
      mbIntr := false, mbJudged := none, waiting := σ.dict.waiting.filter (fun r => r.path != 0)
      flashHeld := σ.dict.flashHeld.filter (fun r => r.path != 0) } }

/-- The module enters Off: 1 by OFF_REQ, 2 by a power fail, 3 by a coolant loss, 4 by the auxiliary input's over-voltage (R514, R519). -/
def enterOff (σ : State) (why : Nat) : State :=
  let σ := diesOff σ
  { σ with
    power := { σ.power with st := 5, offWhy := why }
    boot := { σ.boot with
      modState := if σ.boot.rom = 0 then 0 else σ.boot.modState, resetReq := false
      run := match σ.boot.run with
        | some r => if r.step < 3 then some r else none
        | none => none } }

/-- A start of a kind begins at a step (R527). -/
def startBoot (σ : State) (kind step : Nat) : State :=
  let fresh := decide (kind ≤ 1)
  { σ with boot := { σ.boot with
    run := some { kind := kind, step := step, ended := [], fails := [], variant := [], retire := [] }
    bootCount := if fresh then satAdd 0xFFFFFFFF σ.boot.bootCount 1 else σ.boot.bootCount
    modState := if fresh then 0 else σ.boot.modState, rom := 0 } }

/-- The dies are held off by a reset request: sessions end, the dies and the volatile entries are reset (R486, R560, R572). -/
def resetHold (σ : State) : State :=
  let σ := volatileReset (diesOff σ)
  { σ with
    dict := { σ.dict with sessions := [] }
    boot := { σ.boot with modState := if σ.boot.rom = 0 then 0 else σ.boot.modState, resetReq := false
                          run := match σ.boot.run with
                            | some r => if r.step < 3 then some r else none
                            | none => none } }

/-- A reset request is taken: a start of kind 1. From the recovery service it begins with B2 (R533, R558). -/
def resetStart (σ : State) : State :=
  let from2 := σ.boot.rom == 2
  let σ := resetHold σ
  startBoot { σ with power := { σ.power with st := 0 } } 1 (if from2 then 2 else 3)

end Sys2Proof.Machine
end

