-- ==== Sys2Proof/Machine/Dictionary.lean ====
section
/-! DEFINITION. The object dictionary's entries (R484–R486): their types, access and values; the judging of a write item (R490–R493) with the
checks of the owning chapters; the effect of an accepted write. -/

namespace Sys2Proof.Machine

/-! ### Entries (R484, R485, R489) -/

/-- An entry: type (Table: entry types), bytes of its value (0 for STR and BLOB), access: bit 2r reads and bit 2r + 1 writes, with r = 0 for
OWNER, 1 for OPERATOR, 2 for OBSERVER. -/
structure DictEntry where
  ty : Nat
  size : Nat
  acc : Nat
  deriving DecidableEq, Repr

/-- Bytes of a fixed type. -/
def tySize (t : Nat) : Nat :=
  match t with
  | 1 => 1
  | 2 => 1
  | 3 => 2
  | 4 => 4
  | 5 => 8
  | 6 => 4
  | 7 => 4
  | _ => 0

/-- "all roles RO". -/
def eRo (t : Nat) : DictEntry := ⟨t, tySize t, 0b010101⟩
/-- A RECORD, "all roles RO". -/
def eRec (n : Nat) : DictEntry := ⟨10, n, 0b010101⟩
/-- "owner RW, operator RO". -/
def eOwn (t : Nat) : DictEntry := ⟨t, tySize t, 0b000111⟩
/-- "owner RW, operator RW". -/
def eBoth (t : Nat) : DictEntry := ⟨t, tySize t, 0b001111⟩
/-- "owner RW, operator RO, observer RO". -/
def eOwnObs (t : Nat) : DictEntry := ⟨t, tySize t, 0b010111⟩

/-- The subentries of a group from 01 on, and NUM (R14). -/
def groupEntries (ix : Nat) : Option (List DictEntry) :=
  if ix = 0x1000 then some [eRo 3, eRo 3, eRo 2, eRo 8, eRo 8, eRo 4, eRo 5]
  else if ix = 0x1010 then some [eOwnObs 1, eRo 2, eOwnObs 2, eOwnObs 2, eOwnObs 2, eRo 1, eRo 4, eRo 2]
  else if ix = 0x1020 then some [eRo 5, eRo 4, eRo 4, eRo 4, eRo 4]
  else if ix = 0x2000 then some [eOwnObs 1, eRo 2, eOwn 1, eRo 5]
  else if ix = 0x2010 then some [eOwn 1, eRo 3, eOwn 5, eOwn 2]
  else if ix = 0x2020 then some [eRo 2, eRo 2, eRo 4]
  else if ix = 0x2100 then some [eOwn 4, eOwn 4, eOwn 4]
  else if 0x2200 ≤ ix ∧ ix < 0x2300 then some [eOwn 1, eOwn 5, eOwn 3, eRo 3]
  else if ix = 0x2300 then some [eOwn 1, eOwn 4, ⟨4, 4, 0b011111⟩, eRec 32]
  else if 0x2400 ≤ ix ∧ ix < 0x2440 then some [eOwn 1, eOwn 5, eOwn 3, eRo 4]
  else if ix = 0x3000 then some [eOwn 1, eOwn 2, eOwn 4, eRo 2, eBoth 1, eRec 48]
  else if ix = 0x3010 then some [eOwn 1, eBoth 4, eRo 7, eRo 7, eRo 7, eRo 7, eRo 4]
  else if ix = 0x3020 then some [eOwn 1, eOwn 2, eRec 32, eRec 128, eRec 8, eRec 64, eRo 4]
  else if ix = 0x3030 then some [eOwn 1, eBoth 7, eRo 7, eRo 7, eRo 7, eRo 7, eRo 1]
  else if ix = 0x4000 then some [eRec 32, eRec 64]
  else if 0x4100 ≤ ix ∧ ix < 0x4120 then some [eRec 24]
  else if ix = 0x5000 then some [eOwn 1, eOwn 5, eOwn 5, eRo 4]
  else if 0x5010 ≤ ix ∧ ix < 0x5014 then some [eRo 2]
  else if ix = 0x5100 then some [eOwn 1, eOwn 3, eOwn 3, eOwn 2, eRec 20]
  else if 0x5110 ≤ ix ∧ ix < 0x5128 then some [eOwn 1, eRo 2, eRo 3, eRo 4, eRo 4, eRo 4, eRo 2]
  else if ix = 0x6000 then some [eRo 3, eRec 16, eRo 3, eRo 3]
  else if ix = 0x6010 then some [eRo 9, eRo 9, eRo 4]
  else if ix = 0x6020 then some [eOwn 1, eOwn 3, eOwn 3]
  else if ix = 0x7100 then some [eOwn 1, eOwn 7, eOwn 4, eOwn 7, eRo 7, eRo 7, eRo 2]
  else if ix = 0x7110 then some [eOwn 1, eOwn 7, eOwn 7, eOwn 7, eOwn 7, eOwn 7, eOwn 3, eOwn 3, eOwn 3, eOwn 4]
  else if 0x7120 ≤ ix ∧ ix < 0x7140 then some [eRo 2, eRo 4, eRo 4, eRo 7]
  else if ix = 0x8100 then some [eRo 4, eRo 9, eRo 4]
  else if ix = 0x8200 then some [eRo 4, eRo 9]
  else if ix = 0x8300 then some [eOwn 1, eBoth 3, eBoth 3, eBoth 2, eBoth 3, eBoth 5, eRo 3]
  else if ix = 0x9000 then some [eRec 64, eRo 9]
  else if ix = 0x9010 then some [⟨10, 32, 0b111111⟩, eRec 320]
  else if ix = 0x9020 then some [⟨9, 0, 0b000111⟩, eOwn 2, eRo 2, eRec 16]
  else if ix = 0x9030 then some [eRo 4, eRo 4]
  else if ix = 0x9040 then some (eOwn 1 :: List.replicate 8 ⟨10, 64, 0b000111⟩)
  else if ix = 0xA000 then some [eRo 4, ⟨9, 0, 0b000101⟩]
  else none

/-- The entry an index and subindex name; the length of VIEW follows VIEW_SELECT. -/
def entryOf (σ : State) (ix sub : Nat) : Option DictEntry :=
  match groupEntries ix with
  | none => none
  | some es =>
    if sub = 0 then some (eRo 2)
    else if ix = 0x2300 ∧ sub = 4 then some (eRec (if nbit (dv σ 0x2300 3 0) 20 then 24 else 32))
    else es[sub - 1]?

/-- Role number r may read, or write, an entry. -/
def roleMay (e : DictEntry) (r : Nat) (write : Bool) : Bool := nbit e.acc (2 * r + b2n write)

/-- The design power of the grade in W (R1, Table: figures that differ between grades). -/
def designPower (σ : State) : Nat := if gradeOf σ = 4608 then 14000 else if gradeOf σ = 4352 then 13300 else 12600

/-- Defaults of the stored entries. -/
def entryDefault (σ : State) (ix sub : Nat) : Nat :=
  match ix, sub with
  | 0x1010, 1 => 1
  | 0x1010, 3 => 0x20
  | 0x1010, 5 => 0x80
  | 0x2010, 4 => 6
  | 0x2100, 1 => 0xFFFFFFFF
  | 0x2100, 2 => 100
  | 0x2100, 3 => 1
  | 0x2300, 1 => 1
  | 0x2300, 2 => 100
  | 0x3000, 1 => 1
  | 0x3000, 2 => 2
  | 0x3000, 3 => 1000
  | 0x3010, 1 => 1
  | 0x3010, 2 => designPower σ
  | 0x3020, 1 => 1
  | 0x3020, 2 => 95
  | 0x3030, 1 => 1
  | 0x3030, 2 => 0x41200000
  | 0x6020, 1 => 1
  | 0x7110, 2 => 0x3F666666
  | 0x7110, 3 => 0x3F733333
  | 0x7110, 4 => 0x322BCC77
  | 0x7110, 6 => 0x3F800000
  | 0x7110, 7 => 655
  | 0x7110, 8 => 655
  | 0x7110, 9 => 3277
  | 0x7110, 10 => 1
  | _, _ => if 0x5110 ≤ ix ∧ ix < 0x5128 ∧ sub = 1 then 1 else 0

/-- The stored value of an entry. -/
def sv (σ : State) (ix sub : Nat) : Nat := dv σ ix sub (entryDefault σ ix sub)

/-- STRAPS give a node ID, and ENABLE of `0x1010` is 1: the rind port is in use (R501). -/
def rindPortOn (σ : State) : Bool := σ.pins.straps != 0 && sv σ 0x1010 1 == 1

/-! ### Values that hardware shows -/

/-- ALERT_CAUSE (R574). -/
def alertCause (σ : State) : Nat :=
  b2n (decide (σ.boot.modState = 3)) + 2 * b2n σ.power.trip + 4 * b2n ((σ.power.st == 5 && σ.power.offWhy == 3) || σ.pins.leak) + 8 * b2n σ.pins.powerFail

/-- ALERT_L is asserted (R574). After a failed B1 the boot ROM holds it asserted. -/
def alertL (σ : State) : Bool := σ.boot.rom != 3 && (alertCause σ != 0 || σ.boot.rom == 1)

/-- Positions of a state. -/
def posCount (σ : State) (st : Nat) : Nat := ((List.range 5120).filter (fun p => (mapAt σ p).1 == st)).length

/-- SPARE positions of a die. -/
def sparesOf (σ : State) (d : Nat) : Nat :=
  ((List.range 5120).filter (fun p => (mapAt σ p).1 == 1 && (p % 128) / 16 == d)).length

/-- STATUS of `0x7100:07`. -/
def quinceStatus (σ : State) : Nat :=
  let q := σ.quince
  b2n q.stepWritten + 2 * b2n q.normFresh + 4 * b2n (decide (q.pass = 1)) + 8 * b2n (decide (q.pass = 2)) + 16 * b2n q.pass2Partial

/-- A sensor entry's reading. -/
def sense (σ : State) (ix sub i : Nat) : Nat := (Config.sensor (256 * ix + sub) i σ.tick).toNat

/-- The image of a slot or record copy. -/
def imgAt (m : SMap Image) (k : Nat) : Image := mget Image.zero m k

/-- A STR of n bytes at an offset of the body of the record in use, without its padding (Table: configuration record body); `d` for the record
that is installed at reset, which has no body. -/
def recordStr (σ : State) (lo n : Nat) (d : List Byte) : List Byte :=
  match (imgAt σ.sec.recs σ.sec.recRun).body with
  | [] => d
  | b => (((b.drop lo).take n).reverse.dropWhile (· == 0#8)).reverse

/-- SERIAL (`0x1000:04`). -/
def serialOf (σ : State) : List Byte := recordStr σ 32 32 Config.serial

/-- MAC (`0x1000:07`). -/
def macOf (σ : State) : Nat :=
  let n := Config.serialNumber (serialOf σ)
  ofBytes [0x02#8, 0x16#8, 0xF3#8, BitVec.ofNat 8 (n / 65536), BitVec.ofNat 8 (n / 256), BitVec.ofNat 8 n]

/-- The value of an entry of a fixed type other than a RECORD. -/
def entryNum (σ : State) (ix sub : Nat) : Nat :=
  if sub = 0 then (match groupEntries ix with
    | some es => es.length
    | none => 0)
  else if 0x2200 ≤ ix ∧ ix < 0x2300 ∧ sub = 4 then mget 0 σ.disp.sqHead (ix - 0x2200)
  else if 0x2400 ≤ ix ∧ ix < 0x2440 ∧ sub = 4 then mget 0 σ.disp.cqTail (ix - 0x2400)
  else if 0x5010 ≤ ix ∧ ix < 0x5014 then mget 0 σ.fab.ljl (ix - 0x5010)
  else if 0x5110 ≤ ix ∧ ix < 0x5128 ∧ sub ≠ 1 then
    let q := getPort σ (ix - 0x5110)
    (match sub with
     | 2 => q.st
     | 3 => q.peer
     | 4 => q.replays
     | 5 => q.fecCorrected
     | 6 => q.fecUncorrected
     | _ => q.lanes)
  else if 0x7120 ≤ ix ∧ ix < 0x7140 then
    let e := getEng σ (ix - 0x7120)
    (match sub with
     | 1 => if stackUp σ (ix - 0x7120) then e.st else 5
     | 2 => e.layer
     | 3 => e.block
     | _ => e.partialSum.toNat)
  else match ix, sub with
  | 0x1000, 1 => 0x16F3
  | 0x1000, 2 => 0x0D01
  | 0x1000, 3 => 0x01
  | 0x1000, 6 => (imgAt σ.sec.fw σ.sec.fwRun).version
  | 0x1000, 7 => macOf σ
  | 0x1010, 1 => b2n (rindPortOn σ)
  | 0x1010, 2 => σ.pins.straps
  | 0x1010, 6 => b2n σ.dict.plcaOk
  | 0x1010, 7 => σ.dict.beaconLoss
  | 0x1010, 8 => σ.dict.sessions.length
  | 0x1020, 1 => σ.dict.gen
  | 0x1020, 2 => σ.dict.rxFrames
  | 0x1020, 3 => σ.dict.rxDiscard
  | 0x1020, 4 => σ.dict.authFail
  | 0x1020, 5 => σ.dict.mailboxReqs
  | 0x2000, 2 => σ.boot.modState
  | 0x2000, 3 => 0
  | 0x2000, 4 => σ.tick
  | 0x2010, 2 => σ.disp.orders.length
  | 0x2020, 1 => σ.pins.straps
  | 0x2020, 2 => alertCause σ
  | 0x2020, 3 => σ.pins.pinResets
  | 0x3000, 4 => powerState σ
  | 0x3000, 5 => b2n σ.power.offReq
  | 0x3010, 7 => σ.power.powerFails
  | 0x3010, s => if s ≤ 2 then sv σ 0x3010 s else sense σ 0x3010 s 0
  | 0x3020, 7 => σ.power.trips
  | 0x3030, 7 => b2n σ.pins.leak
  | 0x3030, s => if s ≤ 2 then sv σ 0x3030 s else sense σ 0x3030 s 0
  | 0x5000, 4 => σ.disp.recallCount
  | 0x6000, 1 => gradeOf σ
  | 0x6000, 3 => posCount σ 4
  | 0x6000, 4 => posCount σ 3
  | 0x6010, 3 => σ.boot.mapGen
  | 0x6020, 2 => 0x1FFF
  | 0x6020, 3 => 0xFFFF
  | 0x7100, 5 => (qSqrt (globalNorm σ)).toNat
  | 0x7100, 6 => σ.quince.localNorm.toNat
  | 0x7100, 7 => quinceStatus σ
  | 0x8100, 1 => σ.boot.journalHead
  | 0x8100, 3 => σ.boot.bootCount
  | 0x8200, 1 => σ.boot.errHead
  | 0x8300, 4 => 0
  | 0x8300, 7 => haltedMask (getCore σ (nbits (sv σ 0x8300 2) 12 0))
  | 0x9020, 2 => 0
  | 0x9020, 3 => σ.sec.fwRun + 2 * σ.sec.recRun
  | 0x9030, 1 => σ.sec.fwFloor
  | 0x9030, 2 => σ.sec.recFloor
  | 0xA000, 1 => σ.dict.logHead
  | i, s => sv σ i s

/-- VIEW of `0x2300:04` (R351). -/
def viewBytes (σ : State) : List Byte :=
  let s := sv σ 0x2300 3
  if nbit s 20 then
    let q := 32 * nbits s 8 0 + nbits s 13 9
    let x := getPress σ q
    bytesOf [pressStat σ q, x.cfg, w64 (x.pair.tag.toNat + 4096 * x.pair.gen.toNat)]
  else
    let c := getCore σ (nbits s 12 0)
    let r := getRing c (nbits s 19 16)
    bytesOf [ringCfg r, ringPtr r, ringStat r, ringHead c r]

/-- MAP: two bytes of each position (`0x6010:01`). -/
def mapWord (σ : State) (p : Nat) : Nat := let m := mapAt σ p; m.2 % 8192 + 8192 * m.1

/-- The order code of a grade (R1). -/
def orderCode (n : Nat) : List Byte :=
  ([0x4B, 0x4C, 0x44, 0x2D, 0x30 + n / 1000, 0x30 + n / 100 % 10, 0x30 + n / 10 % 10, 0x30 + n % 10, 0x2D, 0x4C, 0x51] : List Nat).map
    (BitVec.ofNat 8)

/-- The attestation report without its signature (Table: attestation report). -/
def reportBody (σ : State) : List Byte :=
  let fw := imgAt σ.sec.fw σ.sec.fwRun
  let rc := imgAt σ.sec.recs σ.sec.recRun
  le 2 1 ++ le 2 320 ++ le 4 σ.boot.bootCount ++ le 8 σ.tick ++ le 32 σ.sec.nonce ++
    le 32 (Config.sha256 (le 64 Config.identityPub)) ++ (serialOf σ ++ List.replicate 32 0#8).take 32 ++
    le 32 fw.hash ++ le 4 fw.version ++ le 4 fw.svn ++ le 32 rc.hash ++ le 4 rc.svn ++ le 2 (gradeOf σ) ++ le 1 σ.boot.modState ++
    le 1 (σ.sec.fwRun + 2 * σ.sec.recRun + 4 * b2n (!σ.sec.floorFail.isEmpty)) ++ le 4 σ.boot.mapGen ++ le 4 0 ++ le 8 σ.dict.gen ++
    le 32 (Config.sha256 (((List.range 5120).map (fun p => le 2 (mapWord σ p))).flatten)) ++ le 16 0

/-- The value of a RECORD or STR entry. -/
def recordBytes (σ : State) (ix sub : Nat) : List Byte :=
  if 0x4100 ≤ ix ∧ ix < 0x4120 then ((List.range 6).map (fun i => le 4 (mget 0 σ.disp.stackCnt (6 * (ix - 0x4100) + i)))).flatten
  else match ix, sub with
  | 0x1000, 4 => serialOf σ
  | 0x1000, 5 => recordStr σ 64 16 (orderCode (gradeOf σ))
  | 0x2300, 4 => viewBytes σ
  | 0x3000, 6 => ((List.range 6).map (fun i => le 8 (mget 0 σ.power.residency i))).flatten
  | 0x3020, 3 => ((List.range 8).map (fun d => le 4 (sense σ 0x3020 3 d))).flatten
  | 0x3020, 4 => ((List.range 32).map (fun h => le 4 (sense σ 0x3020 4 h))).flatten
  | 0x3020, 5 => ((List.range 8).map (fun d => le 1 (mget 16 σ.power.duty d))).flatten
  | 0x3020, 6 => ((List.range 8).map (fun d => le 8 (mget 0 σ.power.throttleTicks d))).flatten
  | 0x4000, 1 => ((List.range 32).map (fun h => le 1 (mget 0 σ.boot.stackState h))).flatten
  | 0x4000, 2 => ((List.range 32).map (fun h => le 2 (mget 0 σ.boot.rowsRepaired h))).flatten
  | 0x5100, 5 => ((List.range 5).map (fun i => le 4 (mget 0 σ.fab.drops i))).flatten
  | 0x6000, 2 => ((List.range 8).map (fun d => le 2 (sparesOf σ d))).flatten
  | 0x9000, 1 => le 64 Config.identityPub
  | 0x9010, 1 => le 32 σ.sec.nonce
  | 0x9010, 2 => let b := reportBody σ; b ++ le 64 (Config.identitySign b)
  | 0x9020, 4 => ((List.range 2).map (fun k => le 4 (imgAt σ.sec.fw k).version ++ le 4 (imgAt σ.sec.fw k).svn)).flatten
  | 0x9040, s => le 64 (mget 0 σ.sec.opKeys (s - 2))
  | _, _ => []

/-- A byte of a record store: n records of `size` bytes, record k at size × (k mod n), newest first in the list; a place without a record reads
0. -/
def storeByte (l : List (List Byte)) (head size n o : Nat) : Byte :=
  let back := (head + n - o / size % n) % n
  if back < head then (l.getD back []).getD (o % size) 0#8 else 0#8

/-- Bytes of a BLOB entry. -/
def blobLen (σ : State) (ix sub : Nat) : Nat :=
  match ix, sub with
  | 0x6010, 1 => 10240
  | 0x6010, 2 => 2 * gradeOf σ
  | 0x8100, _ => 262144
  | 0x8200, _ => 262144
  | 0x9000, _ => Config.certChain.length
  | 0x9020, _ => 4194560
  | 0xA000, _ => 8192
  | _, _ => 0

/-- Byte o of a BLOB entry. -/
def blobByte (σ : State) (ix sub o : Nat) : Byte :=
  match ix, sub with
  | 0x6010, 1 => (le 2 (mapWord σ (o / 2))).getD (o % 2) 0#8
  | 0x6010, 2 => (le 2 (posOf σ (o / 2))).getD (o % 2) 0#8
  | 0x8100, _ => storeByte σ.boot.journal σ.boot.journalHead 32 8192 o
  | 0x8200, _ => storeByte σ.boot.errors σ.boot.errHead 64 4096 o
  | 0x9000, _ => Config.certChain.getD o 0#8
  | 0x9020, _ => mget 0#8 σ.sec.stage o
  | 0xA000, _ => storeByte σ.dict.log σ.dict.logHead 32 256 o
  | _, _ => 0#8

/-- n bytes of a BLOB from an offset, as far as it reaches. -/
def blobRead (σ : State) (ix sub off n : Nat) : List Byte :=
  (List.range (Nat.min n (blobLen σ ix sub - off))).map (fun i => blobByte σ ix sub (off + i))

/-- The whole value of an entry that is no BLOB. -/
def entryBytes (σ : State) (ix sub : Nat) (e : DictEntry) : List Byte :=
  if e.ty ≤ 7 then le e.size (entryNum σ ix sub) else recordBytes σ ix sub

/-- The first 8 bytes of an entry's value, for the event log; a read of IO_DATA would clear fields and counts as 0. -/
def entryFirst (σ : State) (ix sub : Nat) : Nat :=
  if ix = 0x8300 ∧ sub = 6 then 0 else
  match entryOf σ ix sub with
  | none => 0
  | some e => ofBytes ((if e.ty = 9 then blobRead σ ix sub 0 8 else entryBytes σ ix sub e).take 8)

/-! ### Ranges (R490 order 6) -/

/-- A binary32 is a NaN; is finite; is below zero. -/
def f32Nan (v : Nat) : Bool := nbits v 30 23 == 255 && nbits v 22 0 != 0
def f32Fin (v : Nat) : Bool := nbits v 30 23 != 255
def f32Neg (v : Nat) : Bool := nbit v 31 && nbits v 30 0 != 0

/-- A binary32 that is not below zero, by magnitude. -/
def f32Mag (v : Nat) : Nat := nbits v 30 0

/-- The place of a ring of n bytes exists: a multiple of 4,096, in HBM below its end or in companion memory. -/
def ringBaseOk (base n : Nat) : Bool :=
  base % 4096 == 0 && nbits base 62 52 == 0 && (nbit base 63 || decide (base + n ≤ hbmSize))

/-- A value lies within its entry's range; `v` is the value as a number, little-endian. -/
def inRange (σ : State) (ix sub v : Nat) : Bool :=
  if 0x2200 ≤ ix ∧ ix < 0x2300 then (match sub with
    | 2 => v % 4096 == 0
    | 3 => decide (4 ≤ nbits v 3 0) && decide (nbits v 3 0 ≤ 12)
    | _ => true)
  else if 0x2400 ≤ ix ∧ ix < 0x2440 then (match sub with
    | 2 => v % 4096 == 0
    | 3 => decide (4 ≤ nbits v 4 0) && decide (nbits v 4 0 ≤ 16)
    | _ => true)
  else match ix, sub with
  | 0x1010, 3 => v != 0
  | 0x2010, 3 => v % 4096 == 0
  | 0x2010, 4 => decide (4 ≤ v) && decide (v ≤ 12)
  | 0x2300, 2 => decide (10 ≤ v) && decide (v ≤ 500)
  | 0x2300, 3 =>
    if nbit v 20 then decide (nbits v 8 0 < 320) && nbits v 19 14 == 0 && nbits v 31 21 == 0
    else decide (nbits v 12 0 < gradeOf σ) && nbits v 15 13 == 0 && nbits v 31 21 == 0
  | 0x3000, 2 => decide (2 ≤ v) && decide (v ≤ 4)
  | 0x3000, 3 => decide (10 ≤ v) && decide (v ≤ 10000000)
  | 0x3010, 2 => decide (2000 ≤ v) && decide (v ≤ designPower σ)
  | 0x3020, 2 => decide (70 ≤ v) && decide (v ≤ 100)
  | 0x3030, 2 => decide (0x40E00000 ≤ v) && decide (v ≤ 0x41600000)
  | 0x5000, 2 => v % 2 ^ 40 == 0
  | 0x5000, 3 => v % 2 ^ 16 == 0
  | 0x5100, 4 => decide (v ≤ 1)
  | 0x6020, 2 => decide (v < gradeOf σ)
  | 0x6020, 3 => decide (v < 5120)
  | 0x7100, 2 => f32Fin v && !f32Neg v
  | 0x7110, 2 => f32Mag v == 0 || (!f32Neg v && decide (v < 0x3F800000))
  | 0x7110, 3 => f32Mag v == 0 || (!f32Neg v && decide (v < 0x3F800000))
  | 0x7110, 4 => f32Fin v && !nbit v 31 && f32Mag v != 0
  | 0x7110, 5 => f32Fin v && !f32Neg v
  | 0x7110, 6 => f32Fin v && !f32Neg v
  | 0x8300, 4 => decide (1 ≤ v) && decide (v ≤ 3)
  | 0x9020, 2 => decide (1 ≤ v) && decide (v ≤ 2)
  | _, _ => true

/-- A value with the reserved bits of its entry at 0 (R11). -/
def maskValue (ix sub v : Nat) : Nat :=
  if 0x2200 ≤ ix ∧ ix < 0x2300 ∧ sub = 3 then v % 4096
  else if 0x2400 ≤ ix ∧ ix < 0x2440 ∧ sub = 3 then v % 64
  else if ix = 0x5100 ∧ (sub = 2 ∨ sub = 3) then v % 256
  else if ix = 0x8300 ∧ sub = 2 then v % 16384
  else v

/-! ### The checks of groups (R14, R491–R493 and the owning chapters) -/

/-- Subindex 01 of the group is ENABLE (R14). -/
def hasEnable (ix : Nat) : Bool :=
  [0x1010, 0x2010, 0x3000, 0x3010, 0x3020, 0x3030, 0x5000, 0x5100, 0x7100, 0x7110, 0x8300, 0x9040].contains ix ||
    (decide (0x2200 ≤ ix) && decide (ix < 0x2300)) || (decide (0x2400 ≤ ix) && decide (ix < 0x2440)) ||
    (decide (0x5110 ≤ ix) && decide (ix < 0x5128))

/-- The group's check on the stored values: 0, or the reason. -/
def groupCheck (σ : State) (ix : Nat) : Nat :=
  if 0x2200 ≤ ix ∧ ix < 0x2300 then
    let cfg := sv σ ix 3
    if !inRange σ ix 3 cfg || !ringBaseOk (sv σ ix 2) (128 * 2 ^ nbits cfg 3 0) then 1
    else if sv σ (0x2400 + nbits cfg 11 6) 1 != 1 then 4 else 0
  else if 0x2400 ≤ ix ∧ ix < 0x2440 then
    let cfg := sv σ ix 3
    if !inRange σ ix 3 cfg || !ringBaseOk (sv σ ix 2) (32 * 2 ^ nbits cfg 4 0) then 1 else 0
  else match ix with
  | 0x1010 => if σ.pins.straps = 0 then 3 else 0
  | 0x2010 => if ringBaseOk (sv σ ix 3) (32 * 2 ^ sv σ ix 4) then 0 else 1
  | 0x5000 =>
    let hb := sv σ ix 2
    let rb := sv σ ix 3
    if hb < rb + 65536 ∧ rb < hb + hbmSize then 2 else 0
  | 0x5100 =>
    let d := sv σ ix 2
    let c := sv σ ix 3
    let dim (i : Nat) : Nat × Nat := if i = 2 then (nbits d 7 6, nbits c 7 6) else (nbits d (3 * i + 2) (3 * i), nbits c (3 * i + 2) (3 * i))
    if (List.range 3).any (fun i => decide ((dim i).1 < (dim i).2)) then 1
    else if (List.range 3).any (fun i => (dim i).1 != 0 &&
      !(List.range 8).any (fun p => portUp (getPort σ (8 * i + p)))) then 3 else 0
  | 0x7100 => if sv σ 0x7110 1 = 1 then 0 else 4
  | 0x7110 => if (List.range 9).all (fun i => inRange σ ix (i + 2) (sv σ ix (i + 2))) then 0 else 1
  | 0x9040 => if (List.range 8).any (fun k => mget 0 σ.sec.opKeys k != 0) then 0 else 2
  | _ => 0

/-- Disabling the group: 0, or the reason (R493, `0x2400+c:01`). -/
def disableCheck (σ : State) (ix : Nat) : Nat :=
  if 0x2400 ≤ ix ∧ ix < 0x2440 then
    (if (List.range 256).any (fun r => sv σ (0x2200 + r) 1 == 1 && nbits (sv σ (0x2200 + r) 3) 11 6 == ix - 0x2400) then 2 else 0)
  else match ix with
  | 0x5000 => if sv σ 0x2000 1 = 1 then 2 else 0
  | 0x7110 => if sv σ 0x7100 1 = 1 then 2 else 0
  | _ => 0

/-- The group is enabled. -/
def groupOn (σ : State) (ix : Nat) : Bool := if ix = 0x1010 then rindPortOn σ else sv σ ix 1 == 1

/-! ### A staged image (R554, R557) -/

/-- Bytes [lo, lo + n) of the staging area as a number. -/
def stageNum (σ : State) (lo n : Nat) : Nat := ofBytes ((List.range n).map (fun i => mget 0#8 σ.sec.stage (lo + i)))

/-- The staged image: header and body. -/
def stageImage (σ : State) : List Byte := (List.range (256 + stageNum σ 16 4)).map (fun i => mget 0#8 σ.sec.stage i)

/-- Both copies of the floor of a KIND failed their MAC: every image of it is invalid (R556). -/
def floorDead (σ : State) (kind : Nat) : Bool := σ.sec.floorFail.contains (2 * kind - 2) && σ.sec.floorFail.contains (2 * kind - 1)

/-- The first check of R554 that the staged image fails, 0 for none; `crypto` is the first that fails of checks 2, 4 and 5. -/
def stageCheck (σ : State) (crypto : Nat) : Nat :=
  let kind := stageNum σ 4 1
  let use := stageNum σ 116 1
  let formed := stageNum σ 0 4 == 0x4D495753 && (kind == 1 || kind == 2) && stageNum σ 5 3 == 0 && stageNum σ 117 3 == 0 &&
    stageNum σ 248 8 == 0 && decide (use < 4) && decide (stageNum σ 16 4 ≤ (if kind = 1 then 4194304 else 16384))
  let floor := if kind = 1 then σ.sec.fwFloor else σ.sec.recFloor
  if !formed then 1
  else if crypto = 2 then 2
  else if !nbit use (kind - 1) then 3
  else if crypto ≠ 0 then crypto
  else if floorDead σ kind = true ∨ stageNum σ 12 4 < floor then 6
  else 0

/-! ### Judging (R490, R496, R518) -/

/-- The hardware that an entry reads is not clocked or not powered (R518, R533, R592). -/
def readsOff (σ : State) (ix sub : Nat) : Bool :=
  !running σ && (sub != 0) && ((ix == 0x2300 && sub == 4) || (decide (0x4100 ≤ ix) && decide (ix < 0x4120)) ||
    (decide (0x7120 ≤ ix) && decide (ix < 0x7140)) || (ix == 0x8300 && (sub == 6 || sub == 7)))

/-- A group whose hardware a module reset resets (R496). -/
def resetGroup (ix : Nat) : Bool :=
  [0x2010, 0x2300, 0x5000, 0x5100, 0x7100, 0x7110, 0x8300].contains ix || (decide (0x2200 ≤ ix) && decide (ix < 0x2300)) ||
    (decide (0x2400 ≤ ix) && decide (ix < 0x2440)) || (decide (0x5110 ≤ ix) && decide (ix < 0x5128))

/-- A reset request is in force: its boot has not reached B12 or the service state. -/
def resetting (σ : State) : Bool :=
  σ.boot.modState != 3 && (σ.pins.resetLow || (match σ.boot.run with
    | some r => r.kind == 1 && decide (r.step < 12)
    | none => false))

/-- A pass 2 holds `0x7100:01`–`:04` and `0x7110` (R456). -/
def pass2Busy (σ : State) : Bool := σ.quince.pass == 2 || σ.disp.orders.any (fun o => o.started && ordKind o == 4)

/-- Ticks for which an entry is held busy (R456, R487, R557): none where it is not. A pass 2's length is not stated. -/
def busyTicks (σ : State) (ix sub : Nat) : Option Nat :=
  let flash := (ix == 0x1010 && decide (3 ≤ sub) && decide (sub ≤ 5)) || (ix == 0x5100 && decide (2 ≤ sub) && decide (sub ≤ 4)) ||
    (ix == 0x9020 && sub == 2)
  match σ.dict.flash with
  | some n => if flash || (ix == 0x9020 && sub == 1 && σ.sec.inst.isSome) then some n else
      if pass2Busy σ && ((ix == 0x7100 && decide (sub ≤ 4)) || ix == 0x7110) then some ((Config.freeValue σ.freeCtr).toNat % 2 ^ 32) else none
  | none =>
    if pass2Busy σ && ((ix == 0x7100 && decide (sub ≤ 4)) || ix == 0x7110) then some ((Config.freeValue σ.freeCtr).toNat % 2 ^ 32) else none

/-- The checks of the owning chapter of an entry that is no ENABLE and belongs to no enabled group: 0, or the reason (order 7). -/
def ownCheck (σ : State) (ix sub v : Nat) : Nat :=
  match ix, sub with
  | 0x2000, 1 =>
    if v = 0 then 0
    else if σ.boot.modState = 0 ∨ σ.power.trip = true then 5
    else if σ.boot.modState = 3 ∨ noSpare σ = true then 9
    else if sv σ 0x5000 1 ≠ 1 then 4 else 0
  | 0x6020, 2 =>
    if (mapAt σ (posOf σ v)).1 ≠ 0 then 0
    else if (List.range 5120).any (fun q => (mapAt σ q).1 == 1) then 0 else 9
  | 0x6020, 3 => if (mapAt σ v).1 = 4 then 0 else 2
  | 0x8300, 4 => if sv σ 0x8300 1 ≠ 1 then 4 else
    let t := sv σ 0x8300 2
    if nbit t 13 = true then 0 else if nbits t 12 0 < gradeOf σ ∧ (mapAt σ (posOf σ (nbits t 12 0))).1 = 0 then 0 else 1
  | 0x8300, 5 => if sv σ 0x8300 1 ≠ 1 then 4 else if v % 8 ≠ 0 ∨ ioAbsent v = true then 1 else 0
  | 0x8300, 6 => if sv σ 0x8300 1 ≠ 1 then 4 else
    let t := sv σ 0x8300 2
    if nbit t 13 = true then 2 else if nbits t 12 0 < gradeOf σ ∧ (mapAt σ (posOf σ (nbits t 12 0))).1 = 0 then 0 else 1
  | _, _ => 0

/-! ### The effect of an accepted write -/

/-- A command of the DEBUG group leaves for its target cores (R593). -/
def debugCommand (σ : State) (cmd : Nat) : State :=
  let t := sv σ 0x8300 2
  let m := BitVec.ofNat 16 (sv σ 0x8300 3)
  let c : CoreCmd := match cmd with
    | 1 => .halt m
    | 2 => .resume m
    | _ => .step m
  let ls := if nbit t 13 then List.range (gradeOf σ) else [nbits t 12 0]
  ls.foldl (fun σ L => sendTo σ .io (.core L) (.command c)) σ

/-- The start of the norm queue's life, and its end (R451). -/
def normEnable (σ : State) (on : Bool) : State :=
  let n := ((List.range 32).filter (stackUp σ)).length
  setPress σ normQueue (if on then normOpen n else PressQ.closed)

/-- PORT_ENABLE of port p (R432, R433): 0 takes the port DOWN; with 1 a DOWN port trains. -/
def portEnableSet (σ : State) (p : Nat) (on : Bool) : State :=
  if on then σ else
  let σ := portLoss σ p
  setPort σ p { getPort σ p with st := 4, lanes := 0 }

/-- A wake event: a write lowers a tolerance below the exit latency of the current state (R517). -/
def toleranceWake (σ : State) (old v : Nat) : State :=
  if asleep σ = true ∧ v < old ∧ v < exitLatency σ.power.st then { σ with power := { σ.power with wake := true } } else σ

/-- An accepted COMMIT: the image goes to flash (R557). -/
def commitImage (σ : State) (v : Nat) : State :=
  let i : Image := { version := stageNum σ 8 4, svn := stageNum σ 12 4, hash := Config.sha256 (stageImage σ),
                     body := if v = 2 then (stageImage σ).drop 256 else [] }
  mapCommit { σ with sec := { σ.sec with inst := some (v, i) } }

/-- Ends the sessions of a key (R560). -/
def endSessions (σ : State) (p : Session → Bool) : State :=
  { σ with dict := { σ.dict with sessions := σ.dict.sessions.filter (fun s => !p s) } }

/-- What an accepted write of v to a fixed entry does. -/
def entryEffect (σ : State) (ix sub v : Nat) : State :=
  let old := sv σ ix sub
  let σ1 := { σ with dict := { σ.dict with
    val := mput none (256 * ix + sub) (if v = entryDefault σ ix sub then none else some v) σ.dict.val } }
  if 0x5110 ≤ ix ∧ ix < 0x5128 then portEnableSet σ1 (ix - 0x5110) (v = 1)
  else match ix, sub with
  | 0x1010, s => if 3 ≤ s then mapCommit σ1 else σ1
  | 0x2000, 1 => { σ1 with boot := { σ1.boot with
      modState := if v = 1 ∧ σ.boot.modState = 1 then 2 else if v = 0 ∧ σ.boot.modState = 2 then 1 else σ.boot.modState } }
  | 0x2000, 3 => if v = 1 then { σ with boot := { σ.boot with resetReq := true } } else σ
  | 0x2100, _ => toleranceWake σ1 old v
  | 0x3000, 2 => if asleep σ = true ∧ v < σ.power.st then { σ1 with power := { σ1.power with wake := true } } else σ1
  | 0x3000, 5 =>
    if v = 1 then
      let σ := if σ.power.st = 5 then σ else enterOff σ 1
      { σ with power := { σ.power with offReq := true } }
    else
      let flow := sense σ 0x3030 3 0
      let least := if sv σ 0x3030 1 = 1 then sv σ 0x3030 2 else 0x41200000
      let ok := !f32Nan flow && !nbit flow 31 && decide (least ≤ flow)
      { σ with power := { σ.power with offReq := false }, pins := { σ.pins with coolant := σ.pins.coolant && !ok } }
  | 0x5100, 1 => if v = 1 then { σ1 with fab := { σ1.fab with dims := sv σ 0x5100 2, coord := sv σ 0x5100 3 } } else σ1
  | 0x5100, _ => mapCommit σ1
  | 0x6020, 2 => markRetire σ v
  | 0x6020, 3 => { σ with boot := { σ.boot with
      reinstate := insertNat v σ.boot.reinstate
      sticky := σ.boot.sticky.filter (fun k => k != 65536 * 10 + v && k != 65536 * 11 + v && k != 65536 * 8 + v % 128 / 16) } }
  | 0x7100, 1 => normEnable σ1 (v = 1)
  | 0x7100, 2 => { σ1 with quince := { σ1.quince with stepWritten := true } }
  | 0x7100, 3 => { σ1 with quince := { σ1.quince with pass2Partial := false } }
  | 0x7100, 4 => { σ1 with quince := { σ1.quince with normFresh := true } }
  | 0x8300, 4 => debugCommand σ v
  | 0x8300, 6 =>
    let L := nbits (sv σ 0x8300 2) 12 0
    tidy σ (ioWrite σ L none true (sv σ 0x8300 5) (w64 v)).1 L
  | 0x9020, 2 => commitImage σ v
  | 0x9040, 1 => if v = 0 then endSessions σ1 (fun _ => true) else σ1
  | _, _ => σ1

/-- What an accepted write of bytes to a RECORD or BLOB entry does. -/
def bytesEffect (σ : State) (ix sub off : Nat) (b : List Byte) : State :=
  match ix, sub with
  | 0x9010, 1 => { σ with sec := { σ.sec with nonce := ofBytes b } }
  | 0x9020, 1 => { σ with sec := { σ.sec with stage := writeBytes σ.sec.stage off b } }
  | 0x9040, s =>
    let σ := { σ with sec := { σ.sec with opKeys := mput 0 (s - 2) (ofBytes b) σ.sec.opKeys } }
    endSessions σ (fun x => x.key == s - 2)
  | _, _ => σ

/-- The judgment of an ENABLE (R491, R493): the reason. -/
def enableJudge (σ : State) (ix v : Nat) : Nat :=
  if v = 1 then (if groupOn σ ix then 0 else groupCheck σ ix)
  else if groupOn σ ix then disableCheck σ ix else 0

/-- The judgment of a write to another entry of an enabled group, whose check must still pass (R436, R492). -/
def memberJudge (σ : State) (ix sub v : Nat) : Nat :=
  if ix = 0x5100 ∧ 2 ≤ sub then 2
  else if ix = 0x8300 then ownCheck σ ix sub v
  else groupCheck { σ with dict := { σ.dict with val := mput none (256 * ix + sub) (some v) σ.dict.val } } ix

/-- Orders 4 to 7 of a write of v to a fixed entry: the reason and the ticks to wait; `crypto` as in `stageCheck`. -/
def fixedJudge (σ : State) (ix sub ty v crypto : Nat) : Nat × Nat :=
  let signed := ix == 0x9020 && sub == 2
  let sc := if signed then stageCheck σ crypto else 0
  if signed && decide (1 ≤ v) && decide (v ≤ 2) && ((sc != 0 && sc != 6) || stageNum σ 4 1 != v) then (7, 0)
  else match busyTicks σ ix sub with
  | some n => (0x0A, n)
  | none =>
    if resetting σ = true ∧ resetGroup ix = true ∧ keepsKey (256 * ix + sub) = false then (5, 0)
    else if ix = 0x8300 ∧ (sub = 4 ∨ sub = 6) ∧ running σ = false then (5, 0)
    else if (ty = 1 ∧ 1 < v) ∨ (ty = 7 ∧ f32Nan v = true) ∨ inRange σ ix sub v = false then (1, 0)
    else if signed ∧ sc = 6 then (1, 0)
    else if hasEnable ix = true ∧ sub = 1 then (enableJudge σ ix v, 0)
    else if hasEnable ix = true ∧ groupOn σ ix = true then (memberJudge σ ix sub v, 0)
    else (ownCheck σ ix sub v, 0)

end Sys2Proof.Machine
end

