-- ==== Sys2Proof/Machine/Requests.lean ====
section
/-! DEFINITION. Requests to the dictionary: the judging of items (R484–R500, R597), the mailbox (R506), the rind port and its sessions
(R501–R505, R559, R560), the test access port's DICT register (R580), the event log (R508), flash commits (R487). -/

namespace Sys2Proof.Machine

/-! ### Items (R488–R500, R597) -/

/-- Number of a role (Table: roles). -/
def roleNum (r : Role) : Nat :=
  match r with
  | .owner => 1
  | .operator => 2
  | .observer => 3
  | .reserved v => v.toNat

/-- Number of a path: 0 mailbox, 1 rind port, 2 test access port. -/
def pathNum (p : Path) : Nat :=
  match p with
  | .mailbox => 0
  | .rind .. => 1
  | .tap => 2

/-- Every item of such a request carries 0x06: a reserved role, or OWNER on the rind port (R488). -/
def badRole (path rc : Nat) : Bool := rc == 0 || decide (3 < rc) || (path == 1 && rc == 1)

/-- What the recovery service answers (R533, R558). -/
def recoveryMay (rc : Nat) (it : Item) : Bool :=
  (it.write && it.index == 0x9020 && (it.sub == 1 || (it.sub == 2 && ofBytes it.value == 1))) ||
    (!it.write && rc == 3 && (it.index == 0x1000 || it.index == 0x8100))

/-- LEN of a write item fits the type (R490 order 1). -/
def lenFits (e : DictEntry) (it : Item) : Bool :=
  it.value.length == it.len && (if e.ty = 8 then decide (it.len ≤ 64) else if e.ty = 9 then true else it.len == e.size)

/-- The judgment of a write item: the reason, and the ticks to wait (R490). -/
def writeJudge (σ : State) (path rc : Nat) (it : Item) (crypto : Nat) : Nat × Nat :=
  let rom := σ.boot.rom == 2
  if badRole path rc && !rom then (6, 0)
  else if it.hold || it.holdId != 0 then (1, 0)
  else match entryOf σ it.index it.sub with
  | none => (1, 0)
  | some e =>
    if it.type ≠ e.ty ∨ lenFits e it = false then (1, 0)
    else if rom then (if recoveryMay rc it then (if e.ty = 9 then
        (if it.offset + it.len ≤ blobLen σ it.index it.sub then (0, 0) else (1, 0)) else fixedJudge σ it.index it.sub e.ty (ofBytes it.value) crypto)
      else (5, 0))
    else if roleMay e (rc - 1) true = false then (6, 0)
    else if e.ty ≤ 7 then fixedJudge σ it.index it.sub e.ty (maskValue it.index it.sub (ofBytes it.value)) crypto
    else match busyTicks σ it.index it.sub with
      | some n => (0x0A, n)
      | none =>
        if e.ty = 9 then (if it.offset + it.len ≤ blobLen σ it.index it.sub then (0, 0) else (1, 0))
        else if it.index = 0x9040 ∧ groupOn σ it.index = true then
          (groupCheck { σ with sec := { σ.sec with opKeys := mput 0 (it.sub - 2) (ofBytes it.value) σ.sec.opKeys } } it.index, 0)
        else (0, 0)

/-- The response to an item. -/
def itemResp (it : Item) (reason holdId offset : Nat) (v : List Byte) : RItem :=
  { index := it.index, sub := it.sub, type := it.type, reason := reason, holdId := holdId, len := v.length, offset := offset, value := v }

/-- Adds an event log record (R508). -/
def logItem (σ : State) (path rc : Nat) (it : Item) (reason old : Nat) : State :=
  let n := σ.dict.logHead + 1
  let r := le 4 n ++ le 4 σ.tick ++ le 2 it.index ++ le 1 it.sub ++ le 1 reason ++
    le 1 (rc % 4 + 4 * (path % 2) + 8 * σ.pins.straps) ++ le 3 0 ++ le 8 (ofBytes (it.value.take 8)) ++ le 8 old
  { σ with dict := { σ.dict with logHead := n, log := (r :: σ.dict.log).take 256 } }

/-- The effect of an accepted write item. -/
def writeEffect (σ : State) (it : Item) : State :=
  match entryOf σ it.index it.sub with
  | none => σ
  | some e =>
    if 7 < e.ty then bytesEffect σ it.index it.sub it.offset it.value
    else
      let v := maskValue it.index it.sub (ofBytes it.value)
      if hasEnable it.index = true ∧ it.sub = 1 ∧ it.index ≠ 0x5100 ∧ (v = 1 ↔ groupOn σ it.index = true) then σ
      else entryEffect σ it.index it.sub v

/-- A write item is judged, applied where it is accepted, and logged. -/
def writeItem (σ : State) (path rc : Nat) (it : Item) (crypto : Nat) : State × RItem :=
  let j := writeJudge σ path rc it crypto
  let old := entryFirst σ it.index it.sub
  let σ1 := if j.1 = 0 then
      let σ := writeEffect σ it
      { σ with dict := { σ.dict with gen := satAdd (2 ^ 64 - 1) σ.dict.gen 1 } }
    else if j.1 = 0x0A then { σ with freeCtr := σ.freeCtr + 1 } else σ
  (logItem σ1 path rc it j.1 old, itemResp it j.1 it.holdId j.2 [])

/-- A hold that has not ended: its last read is less than 1 s ago. -/
def holdLive (h : HoldRec) : Bool := decide (h.age < 1000000)

/-- A read of a BLOB (R499, R500, R597). -/
def blobItem (σ : State) (path rc : Nat) (it : Item) : State × RItem :=
  let err (r : Nat) : State × RItem := (σ, itemResp it r it.holdId it.offset [])
  let live := σ.dict.holds.filter holdLive
  if !it.hold then (σ, itemResp it 0 0 it.offset (blobRead σ it.index it.sub it.offset it.len))
  else if it.holdId = 0 then
    if 4 ≤ live.length then err 3 else
    let n := ((List.range 15).map (· + 1)).find? (fun n => !live.any (fun h => h.n == n))
    let data := blobRead σ it.index it.sub 0 (blobLen σ it.index it.sub)
    let h : HoldRec := { n := n.getD 1, path := path, role := rc, index := it.index, sub := it.sub, data := data, age := 0 }
    ({ σ with dict := { σ.dict with holds := live ++ [h] } }, itemResp it 0 h.n it.offset ((data.drop it.offset).take it.len))
  else match live.find? (fun h => h.n == it.holdId) with
  | none => err 3
  | some h =>
    if h.index ≠ it.index ∨ h.sub ≠ it.sub then err 1
    else if h.path ≠ path ∨ h.role ≠ rc then err 6
    else ({ σ with dict := { σ.dict with holds := live.map (fun g => if g.n = h.n then { g with age := 0 } else g) } },
      itemResp it 0 h.n it.offset ((h.data.drop it.offset).take it.len))

/-- The check of a DEBUG item that reads its target: 0, or the reason (R592). -/
def debugRead (σ : State) (sub : Nat) : Nat :=
  let t := sv σ 0x8300 2
  let L := nbits t 12 0
  if sub = 6 ∧ sv σ 0x8300 1 ≠ 1 then 4
  else if sub = 6 ∧ nbit t 13 = true then 2
  else if L < gradeOf σ ∧ (mapAt σ (posOf σ L)).1 = 0 then 0 else 1

/-- A read item (R498, R499). -/
def readItem (σ : State) (path rc : Nat) (it : Item) : State × RItem :=
  let err (r : Nat) : State × RItem := (σ, itemResp it r it.holdId it.offset [])
  let rom := σ.boot.rom == 2
  if badRole path rc && !rom then err 6 else
  match entryOf σ it.index it.sub with
  | none => err 1
  | some e =>
    if it.type ≠ e.ty ∨ (it.hold = true ∧ e.ty ≠ 9) ∨ (it.hold = false ∧ it.holdId ≠ 0) then err 1
    else if rom && !recoveryMay rc it then err 5
    else if roleMay e (rc - 1) false = false then err 6
    else if readsOff σ it.index it.sub then err 5
    else if e.ty = 9 then blobItem σ path rc it
    else if e.ty = 8 then (σ, itemResp it 0 0 it.offset (((entryBytes σ it.index it.sub e).drop it.offset).take it.len))
    else if it.len < e.size then err 1
    else if it.index = 0x8300 ∧ 6 ≤ it.sub then
      (match debugRead σ it.sub with
       | 0 =>
         if it.sub = 6 then
           let r := ioRead σ (nbits (sv σ 0x8300 2) 12 0) none (sv σ 0x8300 5)
           (r.1, itemResp it 0 0 it.offset (le 8 r.2.toNat))
         else (σ, itemResp it 0 0 it.offset (entryBytes σ it.index it.sub e))
       | r => err r)
    else (σ, itemResp it 0 0 it.offset (entryBytes σ it.index it.sub e))

/-! ### A request (R494, R498, R499) -/

/-- The writes of a request, in item order: the response of each write item. -/
def requestWrites (path rc : Nat) : List Item → State → State × List (Item × Option RItem)
  | [], σ => (σ, [])
  | it :: r, σ =>
    if it.write then
      let x := writeItem σ path rc it (Config.imageCheck (stageImage σ))
      let y := requestWrites path rc r x.1
      (y.1, (it, some x.2) :: y.2)
    else
      let y := requestWrites path rc r σ
      (y.1, (it, none) :: y.2)

/-- Bytes of an item in a message. -/
def itemSize (n : Nat) : Nat := 12 + (n + 3) / 4 * 4

/-- The reads of a request, after its writes; `left` bytes remain for values and items. From the first value that does not fit, read items
carry 0x03. -/
def requestReads (path rc : Nat) : List (Item × Option RItem) → Nat → State → State × List RItem
  | [], _, σ => (σ, [])
  | (_, some x) :: r, left, σ =>
    let y := requestReads path rc r (left - 12) σ
    (y.1, x :: y.2)
  | (it, none) :: r, left, σ =>
    let x := readItem σ path rc it
    if itemSize x.2.len + 12 * r.length ≤ left then
      let y := requestReads path rc r (left - itemSize x.2.len) x.1
      (y.1, x.2 :: y.2)
    else
      let y := requestReads path rc r 0 σ
      (y.1, itemResp it 3 it.holdId it.offset [] :: y.2)

/-- Bytes of items that a response holds (R503, R506, R579). -/
def respRoom (path : Nat) : Nat := if path = 1 then 1468 else 2032

/-- Judges a request: its response (R498). -/
def judgeRequest (σ : State) (q : Req) : State × Resp :=
  let σ := if q.path = 0 then { σ with dict := { σ.dict with mailboxReqs := satAdd 0xFFFFFFFF σ.dict.mailboxReqs 1 } } else σ
  let mk (items : List RItem) : Resp :=
    { path := q.path, source := q.source, session := q.session, seq := q.seq, role := q.role, tick := σ.tick % 2 ^ 32, items := items, age := 0
      op := 2, body := [] }
  if !q.wellFormed then (σ, mk []) else
  let w := requestWrites q.path q.role q.items σ
  let r := requestReads q.path q.role w.2 (respRoom q.path) w.1
  (r.1, mk r.2)

/-- A response goes to its path: the mailbox, the rind port's queue of 8 frames with the kept response of the source, the test access port. -/
def deliverResp (σ : State) (p : Resp) : State :=
  match p.path with
  | 0 => { σ with dict := { σ.dict with mbJudged := some p } }
  | 1 =>
    let l := σ.dict.txq ++ [p]
    { σ with dict := { σ.dict with
      txq := l.drop (l.length - 8), kept := (p :: σ.dict.kept.filter (fun k => k.source != p.source)).take 32 } }
  | _ => { σ with pins := { σ.pins with tapResp := some p } }

/-- Judges a request and delivers its response, which waits where the request began a flash commit (R487). -/
def takeRequest (σ : State) (q : Req) : State :=
  let r := judgeRequest σ q
  if σ.dict.flash.isNone && r.1.dict.flash.isSome then
    { r.1 with dict := { r.1.dict with flashHeld := r.1.dict.flashHeld ++ [r.2] } }
  else deliverResp r.1 r.2

/-- Place of a request in a tick: role before path (R494, R580). -/
def reqRank (q : Req) : Nat := 3 * (if q.role = 0 ∨ 3 < q.role then 4 else q.role) + q.path

/-- Inserts a request after those of equal or lower rank. -/
def reqInsert (q : Req) : List Req → List Req
  | [] => [q]
  | p :: r => if reqRank q < reqRank p then q :: p :: r else p :: reqInsert q r

/-- The requests of a tick in their order. -/
def reqSort (l : List Req) : List Req := l.foldl (fun acc q => reqInsert q acc) []

/-- The dictionary requests of a rind tick (R494 item 6). -/
def takeRequests (σ : State) : State :=
  (reqSort σ.dict.waiting).foldl takeRequest { σ with dict := { σ.dict with waiting := [] } }

/-! ### Single items -/

/-- The mailbox, the rind port or the test access port reaches the dictionary. -/
def pathOn (σ : State) (path : Nat) : Bool :=
  match path with
  | 0 => rindUp σ && linkUp σ
  | 1 => (rindUp σ && rindPortOn σ) || (σ.boot.rom == 2 && σ.pins.straps != 0)
  | _ => rindUp σ || σ.boot.rom == 2

/-- A session of the rind port. -/
def findSession (σ : State) (n : Nat) : Option Session := σ.dict.sessions.find? (fun s => s.n == n)

/-- A frame is discarded under R504. -/
def authFail (σ : State) : State := { σ with dict := { σ.dict with authFail := satAdd 0xFFFFFFFF σ.dict.authFail 1 } }

/-- The rind port discards a frame of this role, session and tag: a tag that does not verify, a session that is not open, OPERATOR without a
session (R504, R560). -/
def frameBad (σ : State) (rc session : Nat) (tagOk : Bool) : Bool :=
  σ.boot.rom != 2 && ((session != 0 && (!tagOk || (findSession σ session).isNone)) || (session == 0 && rc == 2))

/-- One item, judged as the one item of its request in its tick; its response is `answer`. -/
def dictItem (σ : State) (role : Role) (path : Path) (it : Item) (crypto : Nat) : State :=
  let p := pathNum path
  let rc := if p = 2 then 3 else roleNum role
  let bad := match path with
    | .rind s ok => frameBad σ rc s ok
    | _ => false
  if !pathOn σ p then σ
  else if bad then authFail σ
  else
    let r := if it.write then writeItem σ p rc it crypto else readItem σ p rc it
    { r.1 with dict := { r.1.dict with answer := some r.2 } }

/-- A write item of a number. -/
def wItem (ix sub ty size v : Nat) : Item :=
  { index := ix, sub := sub, type := ty, write := true, hold := false, holdId := 0, len := size, offset := 0, value := le size v }

/-- A read item of n bytes. -/
def rItem (ix sub ty n : Nat) : Item :=
  { index := ix, sub := sub, type := ty, write := false, hold := false, holdId := 0, len := n, offset := 0, value := [] }

/-- DICT_WRITE. -/
def execDictWrite (role : Role) (path : Path) (it : Item) (σ : State) : Host.Outcome State Fault Refusal :=
  .next (dictItem σ role path { it with write := true } (Config.imageCheck (stageImage σ)))

/-- DICT_READ. -/
def execDictRead (role : Role) (path : Path) (it : Item) (σ : State) : Host.Outcome State Fault Refusal :=
  .next (dictItem σ role path { it with write := false } 0)

/-- GROUP_ENABLE: a write of a group's ENABLE (R491). -/
def execGroupEnable (role : Role) (path : Path) (index : Nat) (v : Bool) (σ : State) : Host.Outcome State Fault Refusal :=
  .next (dictItem σ role path (wItem index 1 1 1 (b2n v)) 0)

/-- HOLD_READ. -/
def execHoldRead (role : Role) (path : Path) (it : Item) (σ : State) : Host.Outcome State Fault Refusal :=
  .next (dictItem σ role path { it with write := false, hold := true } 0)

/-- HOLD_EXPIRY. -/
def execHoldExpiry (n : BitVec 4) (σ : State) : Host.Outcome State Fault Refusal :=
  .next { σ with dict := { σ.dict with holds := σ.dict.holds.filter (fun h => h.n != n.toNat || holdLive h) } }

/-- RESET_REQ. -/
def execResetReq (role : Role) (path : Path) (v : Bool) (σ : State) : Host.Outcome State Fault Refusal :=
  .next (dictItem σ role path (wItem 0x2000 3 1 1 (b2n v)) 0)

/-- OFF_REQ. -/
def execOffReq (role : Role) (path : Path) (v : Bool) (σ : State) : Host.Outcome State Fault Refusal :=
  .next (dictItem σ role path (wItem 0x3000 5 1 1 (b2n v)) 0)

/-- RETIRE_REQ. -/
def execRetireReq (role : Role) (path : Path) (id : Nat) (σ : State) : Host.Outcome State Fault Refusal :=
  .next (dictItem σ role path (wItem 0x6020 2 3 2 id) 0)

/-- REINSTATE. -/
def execReinstate (role : Role) (path : Path) (pos : Nat) (σ : State) : Host.Outcome State Fault Refusal :=
  .next (dictItem σ role path (wItem 0x6020 3 3 2 pos) 0)

/-- STAGE. -/
def execStage (role : Role) (path : Path) (off : Nat) (data : List Byte) (σ : State) : Host.Outcome State Fault Refusal :=
  .next (dictItem σ role path { wItem 0x9020 1 9 0 0 with len := data.length, offset := off, value := data } 0)

/-- COMMIT; `check` is the first of checks 2, 4 and 5 of R554 that the staged image fails, 0 for none. -/
def execCommit (role : Role) (path : Path) (v check : Nat) (σ : State) : Host.Outcome State Fault Refusal :=
  .next (dictItem σ role path (wItem 0x9020 2 2 1 v) check)

/-- NONCE. -/
def execNonce (role : Role) (path : Path) (data : List Byte) (σ : State) : Host.Outcome State Fault Refusal :=
  .next (dictItem σ role path { wItem 0x9010 1 10 0 0 with len := data.length, value := data } 0)

/-- REPORT. -/
def execReport (role : Role) (path : Path) (σ : State) : Host.Outcome State Fault Refusal :=
  .next (dictItem σ role path (rItem 0x9010 2 10 320) 0)

/-- FABRIC_ENABLE. -/
def execFabricEnable (role : Role) (path : Path) (v : Bool) (σ : State) : Host.Outcome State Fault Refusal :=
  .next (dictItem σ role path (wItem 0x5100 1 1 1 (b2n v)) 0)

/-- PORT_ENABLE. -/
def execPortEnable (role : Role) (path : Path) (port : Nat) (v : Bool) (σ : State) : Host.Outcome State Fault Refusal :=
  if port < 24 then .next (dictItem σ role path (wItem (0x5110 + port) 1 1 1 (b2n v)) 0) else .next σ

/-- STEP_SIZE. -/
def execStepSize (role : Role) (path : Path) (v : BitVec 32) (σ : State) : Host.Outcome State Fault Refusal :=
  .next (dictItem σ role path (wItem 0x7100 2 7 4 v.toNat) 0)

/-- STEP_COUNTER. -/
def execStepCounter (role : Role) (path : Path) (v : BitVec 32) (σ : State) : Host.Outcome State Fault Refusal :=
  .next (dictItem σ role path (wItem 0x7100 3 4 4 v.toNat) 0)

/-- GLOBAL_NORM_SQ. -/
def execGlobalNormSq (role : Role) (path : Path) (v : BitVec 32) (σ : State) : Host.Outcome State Fault Refusal :=
  .next (dictItem σ role path (wItem 0x7100 4 7 4 v.toNat) 0)

/-- DEBUG_HALT. -/
def execDebugHalt (role : Role) (path : Path) (σ : State) : Host.Outcome State Fault Refusal :=
  .next (dictItem σ role path (wItem 0x8300 4 2 1 1) 0)

/-- DEBUG_RESUME. -/
def execDebugResume (role : Role) (path : Path) (σ : State) : Host.Outcome State Fault Refusal :=
  .next (dictItem σ role path (wItem 0x8300 4 2 1 2) 0)

/-- DEBUG_STEP. -/
def execDebugStep (role : Role) (path : Path) (σ : State) : Host.Outcome State Fault Refusal :=
  .next (dictItem σ role path (wItem 0x8300 4 2 1 3) 0)

/-- IO_DATA_READ. -/
def execIoDataRead (role : Role) (path : Path) (σ : State) : Host.Outcome State Fault Refusal :=
  .next (dictItem σ role path (rItem 0x8300 6 5 8) 0)

/-- IO_DATA_WRITE. -/
def execIoDataWrite (role : Role) (path : Path) (v : Word) (σ : State) : Host.Outcome State Fault Refusal :=
  .next (dictItem σ role path (wItem 0x8300 6 5 8 v.toNat) 0)

/-! ### Flash commits (R487) -/

/-- FLASH_COMMIT_DONE: persistent values, the map and an installed image are in flash; the responses that waited are sent. -/
def execFlashCommitDone (σ : State) : Host.Outcome State Fault Refusal :=
  match σ.dict.flash with
  | none => .next σ
  | some _ =>
    let s := σ.sec
    let s := match s.inst with
      | some (1, i) => { s with fw := mput Image.zero (1 - s.fwActive) i s.fw, fwActive := 1 - s.fwActive, inst := none }
      | some (_, i) => { s with recs := mput Image.zero (1 - s.recRun) i s.recs, recNext := 1 - s.recRun, inst := none }
      | none => s
    let d := { σ.dict with flash := none, flashHeld := [], committed := σ.dict.val.filter (fun e => keepsKey e.1 && e.1 != 0x101001) }
    let σ1 := { σ with
      sec := s, dict := d, boot := { σ.boot with mapSaved := (σ.boot.cmap, σ.boot.idPos, σ.boot.mapGen) } }
    .next (σ.dict.flashHeld.foldl deliverResp σ1)

/-! ### The mailbox (R506) -/

/-- Byte o of MB_REQ. -/
def mbByte (σ : State) (o : Nat) : Byte := mget 0#8 σ.dict.mbReq o

/-- A number of n bytes in MB_REQ. -/
def mbNum (σ : State) (o n : Nat) : Nat := ofBytes ((List.range n).map (fun i => mbByte σ (o + i)))

/-- Reads COUNT items from byte o of MB_REQ: none where they run past its end (Table: item). -/
def mbItems (σ : State) : Nat → Nat → Option (List Item)
  | 0, _ => some []
  | n + 1, o =>
    let fl := mbNum σ (o + 5) 1
    let len := mbNum σ (o + 6) 2
    let next := o + (if nbit fl 0 then itemSize len else 12)
    if 2032 < next then none else
    let it : Item :=
      { index := mbNum σ o 2, sub := mbNum σ (o + 2) 1, type := mbNum σ (o + 3) 1, write := nbit fl 0, hold := nbit fl 1, holdId := fl / 16
        len := len, offset := mbNum σ (o + 8) 4
        value := if nbit fl 0 then (List.range len).map (fun i => mbByte σ (o + 12 + i)) else [] }
    (mbItems σ n next).map (it :: ·)

/-- The request in MB_REQ (Table: message header). -/
def mbRequest (σ : State) : Req :=
  let count := mbNum σ 6 2
  let items := if mbNum σ 0 1 = 1 ∧ mbNum σ 1 1 = 1 ∧ 1 ≤ count ∧ count ≤ 64 then mbItems σ count 16 else none
  { path := 0, source := 0, session := 0, seq := mbNum σ 2 2, role := mbNum σ 4 1, wellFormed := items.isSome, items := items.getD [] }

/-- A write of MB_CTL. -/
def mbCtlWrite (σ : State) (v : Word) : State :=
  let d := σ.dict
  if !bit v 16 then σ
  else if d.mbBusy then { σ with dict := { d with mbOverrun := true } }
  else { σ with dict := { d with
    mbBusy := true, mbDone := false, mbNewSeq := bits v 15 0, mbIntr := bit v 17, waiting := d.waiting ++ [mbRequest σ] } }

/-- GO. -/
def execGo (v : Word) (σ : State) : Host.Outcome State Fault Refusal :=
  if pathOn σ 0 then .next (mbCtlWrite σ (v ||| 0x10000#64)) else .next σ

/-- The bytes of a response (Table: message header, Table: item). -/
def respBytes (p : Resp) : List Byte :=
  le 1 1 ++ le 1 p.op ++ le 2 p.seq ++ le 1 p.role ++ le 1 0 ++ le 2 p.items.length ++ le 4 p.session ++ le 4 p.tick ++
    (p.items.map (fun r => le 2 r.index ++ le 1 r.sub ++ le 1 r.type ++ le 1 r.reason ++ le 1 (16 * r.holdId) ++ le 2 r.len ++
      le 4 r.offset ++ r.value ++ List.replicate ((r.len + 3) / 4 * 4 - r.len) 0#8)).flatten ++ p.body

/-- MAILBOX_RESPONSE. -/
def execMailboxResponse (σ : State) : Host.Outcome State Fault Refusal :=
  match σ.dict.mbJudged with
  | none => .next σ
  | some p =>
    if !pathOn σ 0 then .next σ else
    let b := respBytes p
    let σ1 := { σ with dict := { σ.dict with
      mbResp := b, mbRespLen := b.length, mbSeq := σ.dict.mbNewSeq, mbBusy := false, mbDone := true, mbJudged := none } }
    .next (if σ.dict.mbIntr then raiseVector σ1 66 else σ1)

/-! ### The rind port (R501–R505) -/

/-- The kept response that a repeated request gets again (R505). -/
def keptFor (σ : State) (f : RindFrame) : Option Resp :=
  σ.dict.kept.find? (fun k => k.source == f.source && k.seq == f.seq.toNat && k.role == roleNum f.role && decide (k.age ≤ 1000000))

/-- SEQ is acceptable within a session (R560). -/
def seqNew (s : Session) (seq : BitVec 16) : Bool :=
  match s.lastSeq with
  | none => true
  | some l => let d := (seq - l).toNat; decide (1 ≤ d) && decide (d ≤ 32767)

/-- A frame accepted under R503. -/
def rxFrame (σ : State) : State := { σ with dict := { σ.dict with rxFrames := satAdd 0xFFFFFFFF σ.dict.rxFrames 1 } }

/-- A frame discarded under R503. -/
def rxDiscard (σ : State) : State := { σ with dict := { σ.dict with rxDiscard := satAdd 0xFFFFFFFF σ.dict.rxDiscard 1 } }

/-- Queues a response frame: at most 8, the oldest discarded (R502). -/
def queueFrame (σ : State) (p : Resp) : State :=
  let l := σ.dict.txq ++ [p]
  { σ with dict := { σ.dict with txq := l.drop (l.length - 8) } }

/-- REQUEST. -/
def execRequest (f : RindFrame) (σ : State) : Host.Outcome State Fault Refusal :=
  let rc := roleNum f.role
  if !pathOn σ 1 then .next σ
  else if !f.wellFormed || f.items.isEmpty || decide (64 < f.items.length) then .next (rxDiscard σ)
  else
    let σ := rxFrame σ
    if (f.tagged && !f.tagOk) || frameBad σ rc f.session f.tagged then .next (authFail σ)
    else match keptFor σ f with
    | some k => .next (queueFrame σ { k with age := 0 })
    | none =>
      let old := match findSession σ f.session with
        | some s => !seqNew s f.seq
        | none => false
      if old then .next (authFail σ)
      else if 4 ≤ (σ.dict.waiting.filter (fun q => q.path == 1)).length then
        .next (queueFrame σ
          { path := 1, source := f.source, session := f.session, seq := f.seq.toNat, role := rc, tick := σ.tick % 2 ^ 32,
            items := f.items.map (fun it => itemResp it 0x0A it.holdId 1000 []), age := 0, op := 2, body := [] })
      else
        let q : Req := { path := 1, source := f.source, session := f.session, seq := f.seq.toNat, role := rc, wellFormed := true, items := f.items }
        .next { σ with dict := { σ.dict with
          waiting := σ.dict.waiting ++ [q]
          sessions := σ.dict.sessions.map (fun s => if s.n = f.session then { s with lastSeq := some f.seq, age := 0 } else s) } }

/-- DISCOVER: `0x1000:01`–`:07` and `0x2000:02` (Table: message operations). -/
def execDiscover (f : RindFrame) (σ : State) : Host.Outcome State Fault Refusal :=
  if !pathOn σ 1 then .next σ
  else if !f.wellFormed then .next (rxDiscard σ)
  else
    let σ := rxFrame σ
    if (f.tagged && !f.tagOk) || frameBad σ (roleNum f.role) f.session f.tagged then .next (authFail σ) else
    let its := (List.range 7).map (fun i => (0x1000, i + 1)) ++ [(0x2000, 2)]
    let item (p : Nat × Nat) : RItem :=
      match entryOf σ p.1 p.2 with
      | some e => let v := entryBytes σ p.1 p.2 e; itemResp (rItem p.1 p.2 e.ty v.length) 0 0 0 v
      | none => itemResp (rItem p.1 p.2 0 0) 1 0 0 []
    .next (queueFrame σ
      { path := 1, source := f.source, session := 0, seq := f.seq.toNat, role := 3, tick := σ.tick % 2 ^ 32, items := its.map item, age := 0,
        op := 4, body := [] })

/-- PLCA_STATUS_CHANGE: a loss is counted; at the return, held responses older than 100 ms are discarded (R502). -/
def execPlcaStatusChange (ok : Bool) (σ : State) : Host.Outcome State Fault Refusal :=
  if !pathOn σ 1 || σ.dict.plcaOk == ok then .next σ
  else if ok then .next { σ with dict := { σ.dict with plcaOk := true, txq := σ.dict.txq.filter (fun p => decide (p.age ≤ 100000)) } }
  else .next { σ with dict := { σ.dict with plcaOk := false, beaconLoss := satAdd 0xFFFFFFFF σ.dict.beaconLoss 1 } }

/-- TRANSMIT_OPPORTUNITY: the oldest response frame, and up to BURST_COUNT more, are sent while the PLCA status is OK. -/
def execTransmitOpportunity (σ : State) : Host.Outcome State Fault Refusal :=
  if !pathOn σ 1 || !σ.dict.plcaOk then .next σ else
  let n := 1 + sv σ 0x1010 4
  .next { σ with dict := { σ.dict with
    txq := σ.dict.txq.drop n, sentFrames := (σ.dict.txq.take n).reverse ++ σ.dict.sentFrames } }

/-! ### Sessions (R559, R560) -/

/-- OPEN_REQ: RESULT of Table: session messages; on 0 a session opens. -/
def execOpenReq (key : Nat) (fieldsOk sigOk : Bool) (sessionKey : Nat) (σ : State) : Host.Outcome State Fault Refusal :=
  if !(rindUp σ && rindPortOn σ) then .next σ
  else if !fieldsOk then .next (rxDiscard σ)
  else
    let σ := rxFrame σ
    let result :=
      if sv σ 0x9040 1 ≠ 1 then 4
      else if 8 ≤ key ∨ mget 0 σ.sec.opKeys key = 0 then 1
      else if !sigOk then 2
      else if 4 ≤ σ.dict.sessions.length then 3
      else 0
    let n := σ.dict.nextSession
    let body := if result = 0 then le 4 0 ++ le 4 n ++ (Config.openProof n ++ List.replicate 128 0#8).take 128
      else le 4 result ++ List.replicate 132 0#8
    let σ1 := queueFrame σ
      { path := 1, source := 0, session := if result = 0 then n else 0, seq := 0, role := 2, tick := σ.tick % 2 ^ 32, items := [], age := 0,
        op := 0x11, body := body }
    if result = 0 then
      .next { σ1 with dict := { σ1.dict with
        nextSession := n + 1
        sessions := σ1.dict.sessions ++ [{ n := n, key := key, ks := sessionKey, lastSeq := none, age := 0 }] } }
    else .next σ1

/-- CLOSE: a tagged frame of the session ends it. -/
def execClose (session : Nat) (tagOk : Bool) (σ : State) : Host.Outcome State Fault Refusal :=
  if !(rindUp σ && rindPortOn σ) then .next σ
  else
    let σ := rxFrame σ
    if session = 0 ∨ tagOk = false ∨ (findSession σ session).isNone = true then .next (authFail σ)
    else .next (endSessions σ (fun s => s.n == session))

/-- SESSION_TIMEOUT: 600 s without an accepted request. -/
def execSessionTimeout (session : Nat) (σ : State) : Host.Outcome State Fault Refusal :=
  .next (endSessions σ (fun s => s.n == session && decide (600000000 ≤ s.age)))

/-! ### The test access port (R579, R580) -/

/-- The instruction register takes a value. -/
def tapSelect (σ : State) (ir : Nat) : State := { σ with pins := { σ.pins with tapIr := ir, driven := none } }

/-- EXTEST drives and samples the pins in SERVICE and in Off; elsewhere it acts as BYPASS. -/
def execExtest (pins : Nat) (σ : State) : Host.Outcome State Fault Refusal :=
  let σ1 := tapSelect σ 0
  if σ.boot.modState = 3 ∨ σ.power.st = 5 then
    .next { σ1 with pins := { σ1.pins with driven := some σ.pins.boundary, boundary := pins } }
  else .next σ1

/-- IDCODE. -/
def execIdcode (σ : State) : Host.Outcome State Fault Refusal := .next (tapSelect σ 1)

/-- SAMPLE/PRELOAD. -/
def execSamplePreload (pins : Nat) (σ : State) : Host.Outcome State Fault Refusal :=
  let σ1 := tapSelect σ 2
  .next { σ1 with pins := { σ1.pins with boundary := pins } }

/-- BYPASS. -/
def execBypass (σ : State) : Host.Outcome State Fault Refusal := .next (tapSelect σ 15)

/-- TRST_L low resets the TAP controller and nothing else. -/
def execTrst (σ : State) : Host.Outcome State Fault Refusal := .next (tapSelect σ 1)

/-- The 32-bit register of IDCODE. -/
def idcodeValue : Nat := 0x10D012E7

/-- DICT: Update-DR submits a request as OBSERVER; one that is submitted while an earlier one is unanswered is ignored. -/
def execDict (data : RindFrame) (σ : State) : Host.Outcome State Fault Refusal :=
  let σ := tapSelect σ 8
  let waits := σ.dict.waiting.any (fun q => q.path == 2) || σ.dict.flashHeld.any (fun p => p.path == 2)
  if !pathOn σ 2 || waits then .next σ else
  let ok := data.wellFormed && !data.items.isEmpty && decide (data.items.length ≤ 64)
  let q : Req := { path := 2, source := 0, session := 0, seq := data.seq.toNat, role := 3, wellFormed := ok, items := if ok then data.items else [] }
  .next { σ with dict := { σ.dict with waiting := σ.dict.waiting ++ [q] }, pins := { σ.pins with tapResp := none } }

end Sys2Proof.Machine
end

