-- ==== Sys2Proof/Machine/Boot.lean ====
section
/-! DEFINITION. Start-up (R527–R532): attempts of boot steps and their journal, retirement at boot (R530, R535, R539), module resets (R497,
R572), the exit from Hold and Parked, retraining of ports and links (R433, R545), the failure of a seam (R546). -/

namespace Sys2Proof.Machine

/-! ### Steps (Table: boot steps, Table: steps by kind of start) -/

/-- Components of a step: 1 module, 4 links, 24 ports, 32 stacks, 8 dies; at B10 and B11 the dies whose positions are tested. -/
def stepParts (step : Nat) : Nat :=
  match step with
  | 5 => 4
  | 6 => 24
  | 7 => 32
  | 8 => 8
  | 10 => 8
  | 11 => 8
  | _ => 1

/-- Variants of a step's alternative. -/
def stepVariants (step : Nat) : Nat :=
  match step with
  | 1 => 0
  | 5 => 2
  | 6 => 2
  | 11 => 0
  | 12 => 0
  | _ => 1

/-- The step after a step in a start of a kind. -/
def stepAfter (kind step : Nat) : Option Nat :=
  if step = 11 ∧ 2 ≤ kind then none
  else if step = 8 ∧ kind = 2 then some 11
  else if step = 12 then none
  else some (step + 1)

/-- Budget of a step in µs. -/
def stepBudget (step : Nat) : Nat :=
  match step with
  | 1 => 300000
  | 2 => 800000
  | 3 => 100000
  | 4 => 500000
  | 5 => 4000000
  | 6 => 6000000
  | 7 => 8000000
  | 8 => 180000
  | 9 => 40000
  | 10 => 60
  | 11 => 1
  | _ => 100000

/-- Key of a STICKY mark. -/
def stickyKey (step comp : Nat) : Nat := 65536 * step + comp

/-- Positions of a die that are marked STICKY at B10. -/
def stickyPositions (σ : State) (d : Nat) : List Nat :=
  (σ.boot.sticky.filter (fun k => k / 65536 == 10 && (k % 128) / 16 == d)).map (· % 65536)

/-- The component is tried by its alternative (R529). -/
def inAlternative (σ : State) (r : BootRun) (c : Nat) : Bool :=
  if r.step = 10 then mget 0 r.variant c != 0 else σ.boot.sticky.contains (stickyKey r.step c)

/-! ### Retirement at boot (R530, R535, R539) -/

/-- The pending id L takes its reserved position, or a spare where it has none; its old position becomes RETIRED. What the old position's
store die keeps does not move with the id (R19). -/
def retireNow (σ : State) (L : Nat) : State :=
  let p := posOf σ L
  let σ := if (List.range 5120).any (fun q => mapAt σ q == (2, L)) then σ else
    match pickSpare σ p with
    | some q => setMap σ q 2 L
    | none => σ
  match (List.range 5120).find? (fun q => mapAt σ q == (2, L)) with
  | none => σ
  | some q =>
    let σ := mapCommit (setMap (setMap σ q 0 L) p 4 0x1FFF)
    let σ := { σ with boot := { σ.boot with idPos := mput none L (if q = L then none else some q) σ.boot.idPos, mapGen := σ.boot.mapGen + 1 } }
    errRecord (setCore σ L Core.reset) 10 2 L p 0xFF 0xFF 0 0 ⟨0#12, 0#4⟩

/-- Every pending retirement takes effect (R535, R539). -/
def retirePending (σ : State) : State :=
  ((List.range 5120).filter (fun p => (mapAt σ p).1 == 3)).foldl (fun σ p => retireNow σ (mapAt σ p).2) σ

/-- A change of the map counts in MAP_GEN and is committed (R538, R548). -/
def mapChange (σ : State) : State := mapCommit { σ with boot := { σ.boot with mapGen := σ.boot.mapGen + 1 } }

/-- Failing positions are retired: SPARE and RESERVED ones first, whose pending id chooses again; then those that hold an id, which takes a
spare. -/
def retirePositions (σ : State) (ps : List Nat) : State :=
  let free := ps.filter (fun p => (mapAt σ p).1 == 1 || (mapAt σ p).1 == 2)
  let lost := (free.filter (fun p => (mapAt σ p).1 == 2)).map (fun p => (mapAt σ p).2)
  let held := (ps.filter (fun p => (mapAt σ p).1 == 0 || (mapAt σ p).1 == 3)).map (fun p => (mapAt σ p).2)
  let σ := free.foldl (fun σ p => mapChange (setMap σ p 4 0x1FFF)) σ
  let σ := held.foldl (fun σ L => setMap σ (posOf σ L) 3 L) σ
  let σ := held.foldl retireNow σ
  let σ := (lost.filter (fun L => !held.contains L)).foldl reserveSpare σ
  { σ with boot := { σ.boot with reinstate := σ.boot.reinstate.filter (fun p => !ps.contains p) } }

/-! ### The ends of steps and starts -/

/-- A core after B10 and B11: fresh, its scratchpad zero; at the exit from Hold its far banks kept (R217). -/
def coresFresh (σ : State) (keepFar : Bool) : State :=
  let core (L : Nat) : Nat × Core :=
    let s := (getCore σ L).spad
    (L, if keepFar then { Core.reset with spad := { Spad.reset with
          mem := s.mem.filter (fun c => 0x80000 ≤ c.1), ue := s.ue.filter (0x10000 ≤ ·), ce := s.ce.filter (0x10000 ≤ ·) } }
        else Core.reset)
  let near (e : Nat) : Bool := !keepFar || decide (e % 4194304 < 0x80000)
  { σ with
    cores := (List.range (gradeOf σ)).map core
    boot := { σ.boot with spadWords := σ.boot.spadWords.map (fun e => (e.1, e.2.1 || near e.1, e.2.2)) } }

/-- Reinstated positions that passed become SPARE (R542). -/
def reinstateEnd (σ : State) : State :=
  let σ1 := σ.boot.reinstate.foldl (fun σ p => if (mapAt σ p).1 = 4 then mapChange (setMap σ p 1 0x1FFF) else σ) σ
  { σ1 with boot := { σ1.boot with reinstate := [] } }

/-- The floors rise to the SVN of what runs; a floor that rises has both its copies written (R556). -/
def raiseFloors (σ : State) : State :=
  let s := σ.sec
  let fw := (imgAt s.fw s.fwRun).svn
  let rc := (imgAt s.recs s.recRun).svn
  { σ with sec := { s with
    fwFloor := Nat.max s.fwFloor fw, recFloor := Nat.max s.recFloor rc
    floorFail := s.floorFail.filter (fun k => if k < 2 then decide (fw ≤ s.fwFloor) else decide (rc ≤ s.recFloor)) } }

/-- The press queues come back closed, the norm queue open while `0x7100:01` = 1 (R451). -/
def pressAgain (σ : State) : State := if sv σ 0x7100 1 = 1 then normEnable σ true else σ

/-- A start has ended: MODULE_STATE READY with the torus values taken up (R436), or Run again after Hold or Parked, where
marked stacks retrain (R544). -/
def bootDone (σ : State) (kind : Nat) : State :=
  let σ := { σ with boot := { σ.boot with run := none } }
  if 2 ≤ kind then
    (List.range 32).foldl stackRetrain
      (pressAgain { σ with power := { σ.power with st := 0, wake := false, target := 0, since := σ.tick } })
  else raiseFloors { σ with
    boot := { σ.boot with modState := 1 }
    fab := { σ.fab with dims := sv σ 0x5100 2, coord := sv σ 0x5100 3 } }

/-- The service state is entered from a start; B1 and B2 leave the boot ROM (R532, R533). -/
def bootStop (σ : State) (step : Nat) : State :=
  if step ≤ 2 then { σ with boot := { σ.boot with run := none, rom := step, modState := 3 } }
  else enterService { σ with power := { σ.power with st := 0, wake := false, held := [] } }

/-- The next step begins, or the start has ended. -/
def stepNext (σ : State) (r : BootRun) : State :=
  match stepAfter r.kind r.step with
  | none => bootDone σ r.kind
  | some s => { σ with boot := { σ.boot with
      run := some { kind := r.kind, step := s, ended := [], fails := [], variant := [], retire := [] } } }

/-- Every component of the step has ended. -/
def stepEnd (σ : State) (r : BootRun) : State :=
  match r.step with
  | 5 => if (List.range 4).any (fun l => mget 0 σ.fab.ljl l == 2 || mget 0 σ.fab.ljl l == 3) then stepNext σ r else bootStop σ 5
  | 9 =>
    let σ := retirePending σ
    if noSpare σ then bootStop σ 9 else stepNext σ r
  | 8 =>
    let σ := retirePositions σ r.retire
    if noSpare σ then bootStop σ 8 else stepNext σ r
  | 10 =>
    let σ := retirePositions σ r.retire
    if noSpare σ then bootStop σ 10 else stepNext σ r
  | 11 =>
    let σ := retirePositions σ r.retire
    if noSpare σ then bootStop σ 11 else stepNext (coresFresh (if r.kind = 2 then σ else reinstateEnd σ) (r.kind = 2)) r
  | _ => stepNext σ r

/-! ### Attempts (R529, R531) -/

/-- The record copy that B3 tries. -/
def recordTried (σ : State) (alt : Bool) : Nat := if alt then 1 - σ.sec.recNext else σ.sec.recNext

/-- GRADE_CORES of a record (R2); the record installed at reset has no body (log 3). -/
def recordGrade (i : Image) : Nat := if i.body.isEmpty then Config.firstGrade else ofBytes ((i.body.drop 80).take 2)

/-- A record passes B3 as its body goes (R555): its identity, its grade, and its DEFECTIVE and SPARE positions. -/
def recordOk (i : Image) : Bool :=
  let bit (lo p : Nat) : Bool := (i.body.getD (lo + p / 8) 0#8).getLsbD (p % 8)
  let used := (List.range 5120).filter (fun p => !bit 96 p && !bit 736 p)
  i.body.isEmpty ||
    (ofBytes (i.body.take 32) == Config.sha256 (le 64 Config.identityPub) && [4608, 4352, 4096].contains (recordGrade i) &&
      !(List.range 5120).any (fun p => bit 96 p && bit 736 p) && used.length == recordGrade i &&
      (List.range 8).all (fun d => decide ((used.filter (fun p => (p % 128) / 16 == d)).length ≤ 576)))

/-- The firmware slot that B2 tries. -/
def slotTried (σ : State) (alt : Bool) : Nat := if alt then 1 - σ.sec.fwActive else σ.sec.fwActive

/-- The copies of a step's floor whose MAC fails in an attempt of B2 or B3 (R556). -/
def macSeen (σ : State) (step : Nat) (e : BootEnd) : State :=
  let mine (k : Nat) : Bool := (step == 2 && decide (k < 2)) || (step == 3 && decide (2 ≤ k))
  { σ with sec := { σ.sec with
    floorFail := (σ.sec.floorFail.filter (fun k => !mine k)) ++ (List.range 4).filter (fun k => mine k && e.macs.contains k) } }

/-- What an attempt checks in the state: B2 and B3 the floor of the image that they try (R554 check 6, R556), B3 the record's body, B12 that
the ACTIVE positions equal the grade count. -/
def imageOk (σ : State) (step : Nat) (alt : Bool) : Bool :=
  match step with
  | 2 => !floorDead σ 1 && decide (σ.sec.fwFloor ≤ (imgAt σ.sec.fw (slotTried σ alt)).svn)
  | 3 =>
    let i := imgAt σ.sec.recs (recordTried σ alt)
    !floorDead σ 2 && decide (σ.sec.recFloor ≤ i.svn) && recordOk i
  | 12 => posCount σ 0 == gradeOf σ
  | _ => true

/-- A component has passed: by its normal method or by a variant of its alternative. -/
def stepPass (σ : State) (step c : Nat) (alt : Bool) (e : BootEnd) : State :=
  let none4 : Pair := ⟨0#12, 0#4⟩
  match step with
  | 2 => { σ with sec := { σ.sec with fwRun := slotTried σ alt } }
  | 3 =>
    let k := recordTried σ alt
    { σ with sec := { σ.sec with recRun := k, grade := recordGrade (imgAt σ.sec.recs k) } }
  | 5 =>
    let σ := { σ with fab := { σ.fab with ljl := mput 0 c (if alt then 3 else 2) σ.fab.ljl } }
    if alt then errRecord σ 8 1 0x1FFF 0xFFFF c 0xFF 0 0 none4 else σ
  | 6 =>
    let σ := setPort σ c { Port.reset with st := if alt then 3 else 2, lanes := if alt then 2 else 4, peer := e.peer }
    if alt then errRecord σ 7 1 0x1FFF 0xFFFF c 0xFF 0 0 none4 else σ
  | 7 =>
    let σ := { σ with boot := { σ.boot with stackState := mput 0 c (b2n alt) σ.boot.stackState } }
    if alt then errRecord σ 6 1 0x1FFF 0xFFFF c 0xFF 0 0 none4 else σ
  | 9 => if alt then errRecord σ 9 0 0x1FFF 0xFFFF 0xFF 0xFF 0 0 none4 else σ
  | _ => σ

/-- A component has failed its last attempt and the boot goes on: link and port DOWN, stack out of service. -/
def stepLost (σ : State) (step c : Nat) : State :=
  let none4 : Pair := ⟨0#12, 0#4⟩
  match step with
  | 5 => errRecord { σ with fab := { σ.fab with ljl := mput 0 c 4 σ.fab.ljl } } 8 2 0x1FFF 0xFFFF c 0xFF 0 0 none4
  | 6 => errRecord (setPort σ c { Port.reset with st := 4 }) 7 2 0x1FFF 0xFFFF c 0xFF 0 0 none4
  | 7 => errRecord { σ with boot := { σ.boot with stackState := mput 0 c 3 σ.boot.stackState } } 6 2 0x1FFF 0xFFFF c 0xFF 0 0 none4
  | _ => σ

/-- A component's last failure stops the boot. -/
def stepStops (step : Nat) : Bool := [1, 2, 3, 4, 8, 9, 12].contains step

/-- A component of the step has ended; with the last one the step ends. B8 keeps the positions that it fenced. -/
def partEnd (σ : State) (r : BootRun) (c : Nat) (retire : List Nat) : State :=
  let r := { r with ended := insertNat c r.ended, retire := retire.foldl (fun l p => insertNat p l) r.retire }
  let σ := { σ with boot := { σ.boot with run := some r } }
  if r.ended.length = stepParts r.step then stepEnd σ r else σ

/-- An attempt of component c has ended with `pass` (R529); `failed` is the RESULT of a failure. -/
def bootAttempt (σ : State) (r : BootRun) (e : BootEnd) (failed : Nat) : State :=
  let c := e.component
  let alt := inAlternative σ r c
  let fails := mget 0 r.fails c
  let v := mget 0 r.variant c
  let vs := stepVariants r.step
  let attempt := if alt then (if r.step = 10 then 4 else 4 + v) else fails + 1
  let last := if alt then decide (r.step = 10) || decide (vs ≤ v + 1) else decide (fails = 2) && decide (vs = 0)
  let result := if e.pass then 0 else if !last then failed else if failed = 4 then 4 else if stepStops r.step then 3 else 2
  let σ := journalRec σ r.step r.kind c attempt result e.detail e.duration
  let put (r : BootRun) : State := { σ with boot := { σ.boot with run := some r } }
  if e.pass then
    let σ := stepPass σ r.step c alt e
    if r.step = 10 ∧ alt = false ∧ (stickyPositions σ c).isEmpty = false then
      { σ with boot := { σ.boot with run := some { r with variant := mput 0 c 1 r.variant } } }
    else partEnd σ r c (if r.step = 8 then e.failing else [])
  else if last then
    if r.step = 10 ∨ r.step = 11 then partEnd σ r c e.failing
    else if stepStops r.step then bootStop σ r.step
    else partEnd (stepLost σ r.step c) r c []
  else if alt then put { r with variant := mput 0 c (v + 1) r.variant }
  else if fails = 2 then
    let marks := if r.step = 10 then e.failing.map (stickyKey 10) else [stickyKey r.step c]
    let σ := { σ with boot := { σ.boot with sticky := marks.foldl (fun l k => insertNat k l) σ.boot.sticky } }
    { σ with boot := { σ.boot with run := some { r with
      fails := mput 0 c 3 r.fails, variant := if r.step = 10 then mput 0 c 1 r.variant else r.variant } } }
  else put { r with fails := mput 0 c (fails + 1) r.fails }

/-- An attempt of the step may end: its component takes part and has not ended, dies at B8 in ascending order, and the step's hardware is
supplied and not held by RESET_L. -/
def attemptOk (σ : State) (r : BootRun) (c : Nat) : Bool :=
  decide (c < stepParts r.step) && !r.ended.contains c && (r.step != 8 || c == r.ended.length) &&
    (decide (r.step < 3) || (σ.power.st != 5 && !σ.pins.resetLow))

/-- Retraining of a Limjo link that has gone DOWN while the module runs: one attempt with KIND 4 (R545). -/
def linkRetrain (σ : State) (e : BootEnd) : State :=
  if !(running σ || asleep σ) || decide (4 ≤ e.component) || mget 0 σ.fab.ljl e.component != 4 then σ
  else if !e.pass then σ
  else
    let lanes := nbits e.detail.toNat 15 0
    let σ := journalRec σ 5 4 e.component 1 0 e.detail e.duration
    let σ := { σ with fab := { σ.fab with ljl := mput 0 e.component (if lanes = 0xFFFF then 2 else 3) σ.fab.ljl } }
    if lanes = 0xFFFF then σ else errRecord σ 8 1 0x1FFF 0xFFFF e.component 0xFF 0 0 ⟨0#12, 0#4⟩

/-- BOOT_STEP_ATTEMPT. -/
def execBootStepAttempt (e : BootEnd) (σ : State) : Host.Outcome State Fault Refusal :=
  match σ.boot.run with
  | some r =>
    let σ1 := macSeen σ r.step e
    if attemptOk σ r e.component then
      .next (bootAttempt σ1 r { e with pass := e.pass && imageOk σ1 r.step (inAlternative σ r e.component) } 1)
    else .next σ
  | none => .next (linkRetrain σ e)

/-- BOOT_STEP_TIMEOUT: the attempt exceeded its budget (R528). -/
def execBootStepTimeout (component : Nat) (σ : State) : Host.Outcome State Fault Refusal :=
  match σ.boot.run with
  | some r =>
    if attemptOk σ r component then
      .next (bootAttempt σ r
        { component := component, pass := false, detail := 0#64, duration := stepBudget r.step, failing := [], peer := 0 } 4)
    else .next σ
  | none => .next σ

/-! ### Reset requests and cold starts (R497, R520, R524, R572, R576) -/

/-- MODULE_RESET: the reset request of RESET_REQ is taken. While the module is in Off, or RESET_L reads low, no start begins. -/
def execModuleReset (σ : State) : Host.Outcome State Fault Refusal :=
  if !σ.boot.resetReq || σ.pins.resetLow || σ.power.st == 5 then .next σ else .next (resetStart σ)

/-- RESET_L has read low in 2 ticks, or reads high again. -/
def execResetL (low : Bool) (σ : State) : Host.Outcome State Fault Refusal :=
  let σ1 := { σ with pins := { σ.pins with resetLow := low } }
  let held := σ.power.st == 5 && σ.boot.rom != 2
  if low == σ.pins.resetLow then .next σ
  else if σ.boot.rom = 3 ∨ σ.boot.rom = 1 then .next σ1
  else if low then
    let σ2 := { σ1 with pins := { σ1.pins with pinResets := satAdd 0xFFFFFFFF σ1.pins.pinResets 1 } }
    if held then .next σ2
    else
      let σ3 := resetHold σ2
      .next (if σ.boot.rom = 2 then σ3 else { σ3 with power := { σ3.power with st := 0 } })
  else if held then .next σ1
  else .next (resetStart σ1)

/-- COLD_START: the main input has stayed within 48–58 V for 100 ms, and OFF_REQ = 0 (R520, R524, R576). -/
def execColdStart (σ : State) : Host.Outcome State Fault Refusal :=
  let up (σ : State) : State :=
    { σ with power := { σ.power with st := 0, offWhy := 0 }, pins := { σ.pins with powerFail := false } }
  if σ.power.st ≠ 5 ∨ σ.power.offReq = true ∨ σ.pins.coolant = true ∨ σ.boot.rom = 1 ∨ σ.boot.rom = 3 then .next σ
  else match σ.boot.run with
  | some r => if r.step = 3 then .next (up σ) else .next σ
  | none => .next (up (startBoot (volatileReset σ) 0 2))

/-- POWER_ON_RESET_EXIT: TICK counts from here; B1 begins with the straps read (R494, R569, R576). -/
def execPowerOnResetExit (straps : BitVec 5) (σ : State) : Host.Outcome State Fault Refusal :=
  if σ.boot.rom ≠ 3 then .next σ
  else .next (startBoot { σ with tick := 0, pins := { σ.pins with straps := straps.toNat } } 0 1)

/-- RIND_RESET: the auxiliary input is below 3.0 V. Every die is off, rind-kept entries take their defaults, persistent values are those of
flash (R486, R487, R519, R536, R576). -/
def execRindReset (σ : State) : Host.Outcome State Fault Refusal :=
  if σ.boot.rom = 3 then .next σ else
  let σ1 := diesOff σ
  let b := σ1.boot
  .next { σ1 with
    tick := 0
    dict := { Dict.reset with val := σ1.dict.committed, committed := σ1.dict.committed }
    boot := { b with
      run := none, modState := 0, resetReq := false, cmap := b.mapSaved.1, idPos := b.mapSaved.2.1, mapGen := b.mapSaved.2.2, markedNow := []
      spadWords := [], stops := [], rowErrs := [], rom := 3 }
    sec := { σ1.sec with stage := [], nonce := 0, opKeys := [], inst := none }
    power := Power.reset
    pins := { σ1.pins with pinResets := 0, powerFail := false, coolant := false, leak := false, leakPin := false, leakTrace := false, tapResp := none } }

/-! ### Links, ports and seams while the module runs (R433, R545, R546) -/

/-- PORT_RETRAIN: one attempt every 10 ms at a DOWN port with PORT_ENABLE = 1. A port that trains waits for the next QUIESCE; only a change of
state is journalled. -/
def execPortRetrain (port : Nat) (r : TrainEnd) (σ : State) : Host.Outcome State Fault Refusal :=
  let q := getPort σ port
  if !(running σ || asleep σ) || decide (24 ≤ port) || q.st != 4 || sv σ (0x5110 + port) 1 != 1 || r.lanes == 0 then .next σ
  else
    let four := r.lanes == 4
    let σ1 := setPort σ port { q with
      st := if four then 2 else 3, lanes := if four then 4 else 2, peer := r.peerModule % 256 + 256 * (r.peerPort % 32), joinWait := true
      txSeq := 0#12, rxNext := 0#12, nakSent := false, replay := [], out := [] }
    let σ2 := journalRec σ1 6 4 port 1 0 (w64 r.mask) 0
    .next (if four then σ2 else errRecord σ2 7 1 0x1FFF 0xFFFF port 0xFF 0 0 ⟨0#12, 0#4⟩)

/-- LIMJO_LINK_DOWN: the link's traffic uses the next UP link. -/
def execLimjoLinkDown (link : BitVec 2) (σ : State) : Host.Outcome State Fault Refusal :=
  let l := link.toNat
  if σ.power.st == 5 || !(mget 0 σ.fab.ljl l == 2 || mget 0 σ.fab.ljl l == 3) then .next σ
  else
    let σ1 := { σ with fab := { σ.fab with ljl := mput 0 l 4 σ.fab.ljl } }
    .next (errRecord σ1 8 2 0x1FFF 0xFFFF l 0xFF 0 0 ⟨0#12, 0#4⟩)

/-- SEAM_FAILURE: an uncorrectable flit on a seam ends the module's work. -/
def execSeamFailure (σ : State) : Host.Outcome State Fault Refusal :=
  if running σ then .next (enterService (errRecord σ 9 3 0x1FFF 0xFFFF 0xFF 0xFF 0 0 ⟨0#12, 0#4⟩)) else .next σ

end Sys2Proof.Machine
end

