-- ==== Sys2Proof/Machine/Power.lean ====
section
/-! DEFINITION. Power states and their choice (R512–R518), throttling (R522), power fail, thermal trip and coolant loss (R520–R524), the leak
reading (R575). -/

namespace Sys2Proof.Machine

/-! ### The choice of state (R514–R517) -/

/-- The conditions of Table: entry and exit for Nap, and for Hold and Parked beyond it. -/
def entryMay (σ : State) (s : Nat) : Bool :=
  let nap := dozing σ && σ.quince.pass == 0 && σ.cores.all (fun c => !c.2.sup.tmEnable && c.2.vc2.isEmpty && c.2.outq.isEmpty && c.2.outs.isEmpty) &&
    σ.net.isEmpty && σ.disp.orders.all (fun o => o.st != .stopping && o.st != .completing)
  nap && (decide (s = 2) || (σ.disp.orders.isEmpty && sv σ 0x5100 1 == 0))

/-- The target state of R516. -/
def chooseTarget (σ : State) : Nat :=
  let t := sv σ 0x2100 1
  let t := if (List.range 256).any (fun r => sqOn σ r) then Nat.min t (sv σ 0x2100 2) else t
  let t := if σ.disp.orders.isEmpty then t else Nat.min t (sv σ 0x2100 3)
  let lim := if sv σ 0x2100 1 = 0xFFFFFFFF ∧ t = 0xFFFFFFFF then none else some t
  let may (s : Nat) : Bool := decide (s ≤ sv σ 0x3000 2) && (match lim with
      | none => true
      | some t => decide (exitLatency s ≤ t)) && entryMay σ s
  if sv σ 0x3000 1 ≠ 1 then 0
  else if may 4 then 4 else if may 3 then 3 else if may 2 then 2 else 0

/-- The choice of a rind tick; a change restarts its time. -/
def stateChoice (σ : State) : State :=
  if !(running σ || (asleep σ && σ.boot.run.isNone && !σ.power.trip)) then σ else
  let t := chooseTarget σ
  if t = σ.power.target then σ else { σ with power := { σ.power with target := t, since := σ.tick } }

/-- POWER_STATE_CHOICE. -/
def execPowerStateChoice (σ : State) : Host.Outcome State Fault Refusal := .next (stateChoice σ)

/-- What a core keeps in Hold: the far banks of its scratchpad. -/
def coreHold (c : Core) : Core :=
  { Core.reset with spad := { Spad.reset with
    mem := c.spad.mem.filter (fun b => 0x80000 ≤ b.1), ue := c.spad.ue.filter (0x10000 ≤ ·), ce := c.spad.ce.filter (0x10000 ≤ ·) } }

/-- The compute dies, and with Parked the store dies, are switched off; HBM is in self-refresh (Table: entry and exit). -/
def compOff (σ : State) (st : Nat) : State :=
  let cs := if st = 3 then σ.cores.foldl (fun m c => mput Core.reset c.1 (coreHold c.2) m) [] else []
  { σ with
    cores := cs, net := [], press := [], quince := { σ.quince with eng := [] }
    disp := { σ.disp with dir := [], recalls := [], msc := [] }, power := { σ.power with st := st } }

/-- Recalls every directory entry with invalidation (Table: entry and exit). -/
def recallAll (σ : State) : State := σ.disp.dir.foldl (fun σ e => startRecall σ e.1 true []) σ

/-- Scrubbers restart at 0x0 at the exit from Nap (R231). -/
def scrubRestart (σ : State) : State :=
  { σ with cores := σ.cores.foldl (fun m c => mput Core.reset c.1 { c.2 with spad := { c.2.spad with scrubPos := 0 } } m) [] }

/-- A wake event is taken (R517): Nap ends at once; Hold and Parked end with their starts; in Run an entry is cancelled. -/
def takeWake (σ : State) : State :=
  if σ.power.trip = true ∨ σ.boot.run.isSome = true then σ
  else match σ.power.st with
  | 0 => { σ with power := { σ.power with target := 0, since := σ.tick, wake := false } }
  | 2 => scrubRestart { σ with power := { σ.power with st := 0, target := 0, since := σ.tick, wake := false } }
  | 3 => startBoot σ 2 8
  | 4 => startBoot σ 3 8
  | _ => σ

/-- WAKE. -/
def execWake (σ : State) : Host.Outcome State Fault Refusal := if σ.boot.rom = 0 then .next (takeWake σ) else .next σ

/-- STATE_ENTRY: after DWELL_US the module enters the target; a target above a sleeping state ends that state. Before
Hold and Parked every directory entry is recalled with invalidation. -/
def execStateEntry (σ : State) : Host.Outcome State Fault Refusal :=
  let t := σ.power.target
  let on := running σ || (asleep σ && σ.boot.run.isNone && !σ.power.trip)
  if !on || decide (t = σ.power.st) || σ.power.wake || decide (σ.tick < σ.power.since + sv σ 0x3000 3) || chooseTarget σ != t then
    .next σ
  else if t < σ.power.st then .next (takeWake σ)
  else if t = 2 then .next { σ with power := { σ.power with st := 2 } }
  else if !σ.disp.dir.isEmpty || !σ.disp.recalls.isEmpty then
    .next (recallAll σ)
  else .next (compOff σ t)

/-! ### Throttling (R522) -/

/-- THROTTLE_PERIOD: a duty moves by one step per period and stays between 4 and 16. -/
def execThrottlePeriod (r : ThrottleIn) (σ : State) : Host.Outcome State Fault Refusal :=
  if !running σ then .next σ else
  let p := σ.power
  let dtOf (d : Nat) : Nat :=
    let x := mget 16 p.dt d
    if r.hot.contains d then Nat.max 4 (x - 1) else if r.cool.contains d then Nat.min 16 (x + 1) else x
  let dp := if r.overPower then Nat.max 4 (p.dp - 1) else if r.underPower then Nat.min 16 (p.dp + 1) else p.dp
  let dt := (List.range 8).foldl (fun m d => mput 16 d (dtOf d) m) p.dt
  let duty := (List.range 8).foldl (fun m d => mput 16 d (Nat.min (dtOf d) dp) m) p.duty
  .next { σ with power := { p with dt := dt, dp := dp, duty := duty } }

/-! ### Power fail, thermal trip, coolant (R519–R524, R575) -/

/-- The record and the count of a power fail, and Off. -/
def failPower (σ : State) (cls why : Nat) : State :=
  let σ := enterOff σ why
  let σ := { σ with power := { σ.power with powerFails := satAdd 0xFFFFFFFF σ.power.powerFails 1 } }
  errRecord σ cls 3 0x1FFF 0xFFFF 0xFF 0xFF 0 0 ⟨0#12, 0#4⟩

/-- POWER_FAIL: an input leaves its limits; `aux` is the auxiliary input's over-voltage. -/
def execPowerFail (aux : Bool) (σ : State) : Host.Outcome State Fault Refusal :=
  if σ.boot.rom = 3 ∨ (σ.power.st = 5 ∧ aux = false) then .next σ
  else
    let σ1 := failPower σ 12 (if aux then 4 else 2)
    .next { σ1 with pins := { σ1.pins with powerFail := true } }

/-- The record of a thermal trip. -/
def tripRecord (σ : State) : State := errRecord σ 13 3 0x1FFF 0xFFFF 0xFF 0xFF 0 0 ⟨0#12, 0#4⟩

/-- THERMAL_TRIP. In the tick of a coolant loss it is only recorded (R524). The directory is recalled as Parked is entered: the answers come
while the module is in it. -/
def execThermalTrip (σ : State) : Host.Outcome State Fault Refusal :=
  if σ.power.st = 5 then .next (if σ.power.offWhy = 3 ∧ σ.power.since = σ.tick then tripRecord σ else σ)
  else if σ.boot.modState = 3 ∨ σ.power.trip = true then .next σ
  else
    let σ1 := σ.disp.orders.foldl (fun σ o =>
      if o.st = .running then complete σ o 3 5 0#64
      else if o.st = .stopping then complete σ o o.status o.reason o.detail else σ) σ
    let σ2 := tripRecord { σ1 with
      dict := { σ1.dict with val := mput none 0x200001 none σ1.dict.val }
      boot := { σ1.boot with modState := if σ1.boot.modState = 2 then 1 else σ1.boot.modState, run := none }
      power := { σ1.power with trips := satAdd 0xFFFFFFFF σ1.power.trips 1, trip := true } }
    let σ3 := recallAll σ2
    let σ4 := compOff { σ3 with stations := [], quince := { σ3.quince with pass := 0 } } 4
    .next { σ4 with disp := { σ4.disp with
      dir := σ3.disp.dir, recalls := σ3.disp.recalls.map (fun r => { r with held := [] }) } }

/-- A coolant loss is taken (R524): the effect of a power fail, without a cold start of its own. -/
def loseCoolant (σ : State) : State :=
  let σ := if σ.power.st = 5 then σ else failPower σ 14 3
  { σ with pins := { σ.pins with coolant := true }, power := { σ.power with offWhy := 3 } }

/-- COOLANT_LOSS: the flow has been below FLOW_MIN in 10 samples. -/
def execCoolantLoss (σ : State) : Host.Outcome State Fault Refusal :=
  if σ.boot.rom = 3 ∨ σ.power.st = 5 then .next σ else .next (loseCoolant σ)

/-- LEAK: a leak source has read wet in 2 ticks. -/
def execLeak (pin : Bool) (σ : State) : Host.Outcome State Fault Refusal :=
  if σ.boot.rom = 3 then .next σ else
  let σ1 := { σ with pins := { σ.pins with leak := true, leakPin := σ.pins.leakPin || pin, leakTrace := σ.pins.leakTrace || !pin } }
  .next (loseCoolant σ1)

/-- LEAK_CLEAR: both sources read dry. -/
def execLeakClear (σ : State) : Host.Outcome State Fault Refusal :=
  .next { σ with pins := { σ.pins with leak := false, leakPin := false, leakTrace := false } }

/-- TRIP_CLEAR: every sensor reads at least 10 K below its throttle point. -/
def execTripClear (σ : State) : Host.Outcome State Fault Refusal := .next { σ with power := { σ.power with trip := false } }

end Sys2Proof.Machine
end

