-- ==== Sys2Proof/Machine/Debug.lean ====
section
/-! DEFINITION. The debug and counter registers that rows name: DBG_HALT, DBG_DATA, PMC_CFGn.CLEAR, PMC_CTL.CLEAR_ALL, each an `in` or an
`out` by a thread (R581–R586, R590, R591). -/

namespace Sys2Proof.Machine

/-- HALT_REQ. -/
def execHaltReq (x : Issue) (v : Word) (σ : State) : Host.Outcome State Fault Refusal := outTo x 0xE00 v σ
/-- RESUME of DBG_HALT. -/
def execDbgResume (x : Issue) (v : Word) (σ : State) : Host.Outcome State Fault Refusal := outTo x 0xE00 v σ
/-- STEP of DBG_HALT. -/
def execDbgStep (x : Issue) (v : Word) (σ : State) : Host.Outcome State Fault Refusal := outTo x 0xE00 v σ
/-- A read of DBG_DATA. -/
def execDbgDataRead (x : Issue) (rd : BitVec 5) (σ : State) : Host.Outcome State Fault Refusal :=
  issue x { attAlu with port := 3 } σ (inBody 0xE90 rd)
/-- A write of DBG_DATA. -/
def execDbgDataWrite (x : Issue) (v : Word) (σ : State) : Host.Outcome State Fault Refusal := outTo x 0xE90 v σ
/-- A write of PMC_CFGn with CLEAR. -/
def execPmcClear (x : Issue) (n : BitVec 3) (v : Word) (σ : State) : Host.Outcome State Fault Refusal :=
  outTo x (0xD00 + 16 * n.toNat) (v ||| BitVec.ofNat 64 (2 ^ 25)) σ
/-- A write of PMC_CTL with CLEAR_ALL. -/
def execPmcClearAll (x : Issue) (v : Word) (σ : State) : Host.Outcome State Fault Refusal := outTo x 0xD80 (v ||| 4#64) σ

end Sys2Proof.Machine
end

