-- ==== Sys2Proof/Machine/Scalar.lean ====
section
/-! DEFINITION. Scalar arithmetic, immediates, comparisons and predicates (R46–R48, R81, Table: ALU functions of major 0x01). -/

namespace Sys2Proof.Machine

/-! ### Register forms -/

def execAdd (x : Issue) (rd rs1 rs2 : BitVec 5) (s : Bool) (σ : State) := aluR x rd rs1 rs2 s aluAdd σ
def execSub (x : Issue) (rd rs1 rs2 : BitVec 5) (s : Bool) (σ : State) := aluR x rd rs1 rs2 s aluSub σ
def execAnd (x : Issue) (rd rs1 rs2 : BitVec 5) (s : Bool) (σ : State) := aluR x rd rs1 rs2 s (fun a b => aluPlain (a &&& b)) σ
def execOr (x : Issue) (rd rs1 rs2 : BitVec 5) (s : Bool) (σ : State) := aluR x rd rs1 rs2 s (fun a b => aluPlain (a ||| b)) σ
def execXor (x : Issue) (rd rs1 rs2 : BitVec 5) (s : Bool) (σ : State) := aluR x rd rs1 rs2 s (fun a b => aluPlain (a ^^^ b)) σ
def execAndn (x : Issue) (rd rs1 rs2 : BitVec 5) (s : Bool) (σ : State) := aluR x rd rs1 rs2 s (fun a b => aluPlain (a &&& ~~~b)) σ
/-- Shifts by rs2 mod 64. -/
def execShl (x : Issue) (rd rs1 rs2 : BitVec 5) (s : Bool) (σ : State) := aluR x rd rs1 rs2 s (fun a b => aluShl a (b.toNat % 64)) σ
def execShr (x : Issue) (rd rs1 rs2 : BitVec 5) (s : Bool) (σ : State) := aluR x rd rs1 rs2 s (fun a b => aluShr a (b.toNat % 64)) σ
def execSar (x : Issue) (rd rs1 rs2 : BitVec 5) (s : Bool) (σ : State) := aluR x rd rs1 rs2 s (fun a b => aluSar a (b.toNat % 64)) σ
def execMin (x : Issue) (rd rs1 rs2 : BitVec 5) (s : Bool) (σ : State) :=
  aluR x rd rs1 rs2 s (fun a b => aluPlain (if a.slt b then a else b)) σ
def execMax (x : Issue) (rd rs1 rs2 : BitVec 5) (s : Bool) (σ : State) :=
  aluR x rd rs1 rs2 s (fun a b => aluPlain (if a.slt b then b else a)) σ
def execMinu (x : Issue) (rd rs1 rs2 : BitVec 5) (s : Bool) (σ : State) :=
  aluR x rd rs1 rs2 s (fun a b => aluPlain (if a.ult b then a else b)) σ
def execMaxu (x : Issue) (rd rs1 rs2 : BitVec 5) (s : Bool) (σ : State) :=
  aluR x rd rs1 rs2 s (fun a b => aluPlain (if a.ult b then b else a)) σ
def execMul (x : Issue) (rd rs1 rs2 : BitVec 5) (s : Bool) (σ : State) := aluR x rd rs1 rs2 s aluMul σ
def execMulh (x : Issue) (rd rs1 rs2 : BitVec 5) (s : Bool) (σ : State) := aluR x rd rs1 rs2 s (fun a b => aluPlain (mulHi a b)) σ
def execMulhu (x : Issue) (rd rs1 rs2 : BitVec 5) (s : Bool) (σ : State) := aluR x rd rs1 rs2 s (fun a b => aluPlain (mulHiU a b)) σ
def execDiv (x : Issue) (rd rs1 rs2 : BitVec 5) (s : Bool) (σ : State) := aluR x rd rs1 rs2 s aluDiv σ
def execDivu (x : Issue) (rd rs1 rs2 : BitVec 5) (s : Bool) (σ : State) := aluR x rd rs1 rs2 s aluDivu σ
def execRem (x : Issue) (rd rs1 rs2 : BitVec 5) (s : Bool) (σ : State) := aluR x rd rs1 rs2 s aluRem σ
def execRemu (x : Issue) (rd rs1 rs2 : BitVec 5) (s : Bool) (σ : State) := aluR x rd rs1 rs2 s aluRemu σ
def execClz (x : Issue) (rd rs1 : BitVec 5) (s : Bool) (σ : State) :=
  aluI x rd rs1 0#64 s (fun a _ => aluPlain (BitVec.ofNat 64 (clzW a))) σ
def execCtz (x : Issue) (rd rs1 : BitVec 5) (s : Bool) (σ : State) :=
  aluI x rd rs1 0#64 s (fun a _ => aluPlain (BitVec.ofNat 64 (ctzW a))) σ
def execPopc (x : Issue) (rd rs1 : BitVec 5) (s : Bool) (σ : State) :=
  aluI x rd rs1 0#64 s (fun a _ => aluPlain (BitVec.ofNat 64 (popW a))) σ

/-! ### Comparison: flags of rs1 − operand, always set (R46, R47) -/

def execCmp (x : Issue) (rs1 rs2 : BitVec 5) (σ : State) := aluR x 0#5 rs1 rs2 true aluSub σ
def execCmpi (x : Issue) (rs1 : BitVec 5) (imm : BitVec 11) (σ : State) := aluI x 0#5 rs1 (sext imm) true aluSub σ

/-! ### Immediate forms: the immediate is sign-extended -/

def execAddi (x : Issue) (rd rs1 : BitVec 5) (imm : BitVec 11) (s : Bool) (σ : State) := aluI x rd rs1 (sext imm) s aluAdd σ
def execAndi (x : Issue) (rd rs1 : BitVec 5) (imm : BitVec 11) (s : Bool) (σ : State) :=
  aluI x rd rs1 (sext imm) s (fun a b => aluPlain (a &&& b)) σ
def execOri (x : Issue) (rd rs1 : BitVec 5) (imm : BitVec 11) (s : Bool) (σ : State) :=
  aluI x rd rs1 (sext imm) s (fun a b => aluPlain (a ||| b)) σ
def execXori (x : Issue) (rd rs1 : BitVec 5) (imm : BitVec 11) (s : Bool) (σ : State) :=
  aluI x rd rs1 (sext imm) s (fun a b => aluPlain (a ^^^ b)) σ
def execShli (x : Issue) (rd rs1 : BitVec 5) (amt : BitVec 6) (s : Bool) (σ : State) :=
  aluI x rd rs1 0#64 s (fun a _ => aluShl a amt.toNat) σ
def execShri (x : Issue) (rd rs1 : BitVec 5) (amt : BitVec 6) (s : Bool) (σ : State) :=
  aluI x rd rs1 0#64 s (fun a _ => aluShr a amt.toNat) σ
def execSari (x : Issue) (rd rs1 : BitVec 5) (amt : BitVec 6) (s : Bool) (σ : State) :=
  aluI x rd rs1 0#64 s (fun a _ => aluSar a amt.toNat) σ

/-! ### Constants, predicates and the flags word -/

/-- rd ← sign-extended imm17. -/
def execMovi (x : Issue) (rd : BitVec 5) (imm : BitVec 17) (σ : State) :=
  issue x attAlu σ (fun σ L t => .done (wg σ L t rd (sext imm)) .seq)

/-- Halfword hw of rd ← imm16; the rest of rd stays. -/
def execMovk (x : Issue) (rd : BitVec 5) (imm : BitVec 16) (hw : BitVec 2) (σ : State) :=
  issue x attAlu σ (fun σ L t =>
    let v := rg σ L t rd
    let sh := 16 * hw.toNat
    .done (wg σ L t rd ((v &&& ~~~(0xFFFF#64 <<< sh)) ||| (imm.zeroExtend 64 <<< sh))) .seq)

/-- Writes predicate P0 or P1. -/
def setPred (f : Flags) (p v : Bool) : Flags := if p then { f with p1 := v } else { f with p0 := v }

/-- `pcmp`: predicate P ← comparison cc of rs1 and rs2. -/
def execPcmp (x : Issue) (cc : BitVec 4) (p : Bool) (rs1 rs2 : BitVec 5) (σ : State) :=
  issue x { attAlu with legal := decide (1 ≤ cc.toNat) && decide (cc.toNat ≤ 10) } σ (fun σ L t =>
    let r := cmpHolds cc (rg σ L t rs1) (rg σ L t rs2)
    .done (modT σ L t (fun h => { h with flags := setPred h.flags p r })) .seq)

/-- `pcmpi`: predicate P ← comparison cc of rs1 and a signed imm12. -/
def execPcmpi (x : Issue) (cc : BitVec 4) (p : Bool) (rs1 : BitVec 5) (imm : BitVec 12) (σ : State) :=
  issue x { attAlu with legal := decide (1 ≤ cc.toNat) && decide (cc.toNat ≤ 10) } σ (fun σ L t =>
    let r := cmpHolds cc (rg σ L t rs1) (sext imm)
    .done (modT σ L t (fun h => { h with flags := setPred h.flags p r })) .seq)

/-- `mfl`: reg ← flags word (R48). -/
def execMfl (x : Issue) (reg : BitVec 5) (σ : State) :=
  issue x attAlu σ (fun σ L t => .done (wg σ L t reg (BitVec.ofNat 64 (flagsWord (thrOf σ L t).flags))) .seq)

/-- `mtl`: flags and predicates ← bits [5:0] of reg (R48). -/
def execMtl (x : Issue) (reg : BitVec 5) (σ : State) :=
  issue x attAlu σ (fun σ L t =>
    let v := rg σ L t reg
    .done (modT σ L t (fun h => { h with flags := flagsOf v.toNat })) .seq)

end Sys2Proof.Machine
end

