-- ==== Sys2Proof/Machine/Window.lean ====
section
/-! DEFINITION. What the companion does over a Limjo link (R462, R463, R465): accesses to the HBM window at the home agents, the register window
with the mailbox. -/

namespace Sys2Proof.Machine

/-! ### The register window (R465, R506) -/

/-- A companion read is answered with bytes. -/
def answerRead (σ : State) (b : List Byte) : State := { σ with disp := { σ.disp with answers := b :: σ.disp.answers } }

/-- MB_STAT. -/
def mbStat (d : Dict) : Nat := d.mbSeq + fl (b2n d.mbBusy) 16 + fl (b2n d.mbDone) 17 + fl (b2n d.mbOverrun) 18 + fl d.mbRespLen 32

/-- The value of a register at an offset below 0x1000. -/
def dispReg (σ : State) (off : Nat) : Nat :=
  if off < 0x800 then mget 0 σ.disp.sqTail (off / 8)
  else if off < 0xA00 then mget 0 σ.disp.cqHead ((off - 0x800) / 8)
  else match off with
  | 0xA08 => σ.disp.faultTail
  | 0xA10 => σ.disp.faultHead
  | 0xA20 => σ.disp.shootVa
  | 0xA28 => σ.disp.shootLen
  | 0xA38 => σ.disp.shootDone
  | _ => 0

/-- A read of 8 bytes of the mailbox; OVERRUN is cleared by the read. -/
def mailboxRead (σ : State) (off : Nat) : State × List Byte :=
  if off = 0x1008 then ({ σ with dict := { σ.dict with mbOverrun := false } }, le 8 (mbStat σ.dict))
  else if 0x1010 ≤ off ∧ off < 0x1800 then (σ, (List.range 8).map (fun i => mbByte σ (off - 0x1010 + i)))
  else if 0x1800 ≤ off ∧ off < 0x2000 then (σ, (List.range 8).map (fun i => σ.dict.mbResp.getD (off - 0x1800 + i) 0#8))
  else (σ, le 8 0)

/-- A read of the register window. -/
def regRead (σ : State) (off size : Nat) : State :=
  if size ≠ 8 ∨ off % 8 ≠ 0 then answerRead σ (List.replicate size 0#8)
  else if 0x1000 ≤ off ∧ off < 0x2000 then
    (if rindUp σ then let r := mailboxRead σ off; answerRead r.1 r.2 else answerRead σ (le 8 0))
  else if windowOn σ then answerRead σ (le 8 (dispReg σ off))
  else answerRead σ (le 8 0)

/-- A write of a register at an offset below 0x1000. -/
def dispRegWrite (σ : State) (off : Nat) (v : Word) : State :=
  if off < 0x800 then (if asleep σ then holdWake σ (.sqTail (BitVec.ofNat 8 (off / 8)) v) else sqTailWrite σ (off / 8) v)
  else if off < 0xA00 then cqHeadWrite σ ((off - 0x800) / 8) v
  else match off with
  | 0xA00 => if asleep σ then holdWake σ (.doorbell v) else if running σ then doorbellWrite σ v else σ
  | 0xA10 =>
    let σ := { σ with disp := { σ.disp with faultHead := bits v 15 0 % faultSlots σ } }
    if running σ then faultDrain σ.disp.faultWait.length σ else σ
  | 0xA18 => if asleep σ then holdWake σ (.faultReply v) else if running σ then faultReplySend σ v else σ
  | 0xA20 => { σ with disp := { σ.disp with shootVa := v.toNat / 4096 * 4096 } }
  | 0xA28 => { σ with disp := { σ.disp with shootLen := v.toNat } }
  | 0xA30 => if asleep σ then holdWake σ (.shootCtl v) else if running σ then shootWrite σ v else σ
  | _ => σ

/-- A write of the register window. -/
def regWrite (σ : State) (off size : Nat) (v : Word) : State :=
  if size ≠ 8 ∨ off % 8 ≠ 0 then σ
  else if 0x1000 ≤ off ∧ off < 0x2000 then
    if !rindUp σ then σ
    else if off = 0x1000 then mbCtlWrite σ v
    else if 0x1010 ≤ off ∧ off < 0x1800 then
      { σ with dict := { σ.dict with mbReq := writeBytes σ.dict.mbReq (off - 0x1010) (toBytes 8 v.toNat) } }
    else σ
  else if windowOn σ then dispRegWrite σ off v
  else σ

/-! ### The HBM window (R462, R463) -/

/-- The companion holds a line, SHARED or OWNED; beyond 262,144 lines of the stack the oldest is recalled with invalidation. -/
def dirTake (σ : State) (line : Nat) (own : Bool) : State :=
  let d := σ.disp.dir
  let held := d.any (fun e => e.1 == line && e.2)
  let mine := d.filter (fun e => stackOf e.1 == stackOf line && e.1 != line)
  let σ := match mine with
    | e :: _ => if 262144 ≤ mine.length then startRecall σ e.1 true [] else σ
    | [] => σ
  if d.any (fun e => e.1 == line) then
    { σ with disp := { σ.disp with dir := d.map (fun e => if e.1 = line then (line, own || held) else e) } }
  else { σ with disp := { σ.disp with dir := d ++ [(line, own)] } }

/-- A companion access at the home agents; a stack out of service performs nothing and answers nothing. -/
def hbmAccess (σ : State) (op : CompOp) : State :=
  match op with
  | .hbmRead a n own ecc =>
    if n = 0 ∨ hbmSize < a + n ∨ stackUp σ (stackOf a) = false then σ else
    let σ := hbmServe σ a n ecc
    let r := hbmRead σ a n
    let p := patchBad σ r.1 (r.2.map (· - a / 8))
    (linesOf a n).foldl (fun σ l => dirTake σ l own) (answerRead p.2 p.1)
  | .hbmWrite a data =>
    if hbmSize < a + data.length ∨ stackUp σ (stackOf a) = false then σ
    else hbmWrite σ a data []
  | .hbmAtomic a op eight x y ecc =>
    let n := if eight then 8 else 4
    if hbmSize < a + n ∨ a % n ≠ 0 ∨ stackUp σ (stackOf a) = false then σ else
    let r := amoAt (hbmServe σ a n ecc) (.hbm a) op eight x y
    if r.2.2 then r.1 else answerRead r.1 (toBytes n r.2.1.toNat)
  | .writeBack a data =>
    if σ.disp.dir.contains (a, true) = false ∨ stackUp σ (stackOf a) = false then σ
    else
      let σ := hbmWrite σ a (data.take 64) []
      { σ with disp := { σ.disp with dir := σ.disp.dir.filter (fun e => e.1 != a) } }
  | _ => σ

/-- Bytes that a companion access reads. -/
def compReads (op : CompOp) : Nat :=
  match op with
  | .hbmRead _ n _ _ => n
  | .hbmAtomic _ _ eight _ _ _ => if eight then 8 else 4
  | _ => 0

/-- A companion access to a window. While LJL_ENABLE = 0 the HBM window ignores accesses and reads return 0; asleep, the access is held as a
wake event (R517). -/
def companionOp (σ : State) (op : CompOp) : State :=
  match op with
  | .regRead off size => regRead σ off size
  | .regWrite off size v => regWrite σ off size v
  | _ =>
    if dv σ 0x5000 1 0 ≠ 1 then (if compReads op = 0 then σ else answerRead σ (List.replicate (compReads op) 0#8))
    else if asleep σ then holdWake σ (.access op)
    else if running σ then hbmAccess σ op else σ

/-- COMPANION_ACCESS. -/
def execCompanionAccess (link : BitVec 2) (op : CompOp) (σ : State) : Host.Outcome State Fault Refusal :=
  let s := mget 0 σ.fab.ljl link.toNat
  if σ.power.st == 5 || !(s == 2 || s == 3) then .next σ else .next (companionOp σ op)

/-- The traffic of a wake event is released (R517). -/
def runWake (σ : State) (w : Wake) : State :=
  match w with
  | .sqTail r v => sqTailWrite σ r.toNat v
  | .doorbell v => doorbellWrite σ v
  | .faultReply v => faultReplySend σ v
  | .shootCtl v => shootWrite σ v
  | .access op => companionOp σ op
  | .frame p f =>
    match execFabricFrame p f σ with
    | .next σ => σ
    | _ => σ

end Sys2Proof.Machine
end

