-- ==== Sys2Proof/Machine/Dispatch.lean ====
section
/-! DEFINITION. The one dispatch of a command to its meaning. -/

namespace Sys2Proof.Machine

def exec (i : Instr) (s : State) : Host.Outcome State Fault Refusal :=
  match i with
  | .ld x rd rs1 size sign imm => Sys2Proof.Machine.execLd x rd rs1 size sign imm s
  | .st x rd rs1 size sign imm => Sys2Proof.Machine.execSt x rd rs1 size sign imm s
  | .ldAcq x rd rs1 size sign imm => Sys2Proof.Machine.execLdAcq x rd rs1 size sign imm s
  | .ldx x rd rs1 rs2 size sign scale => Sys2Proof.Machine.execLdx x rd rs1 rs2 size sign scale s
  | .stx x rd rs1 rs2 size sign scale => Sys2Proof.Machine.execStx x rd rs1 rs2 size sign scale s
  | .add x rd rs1 rs2 sb => Sys2Proof.Machine.execAdd x rd rs1 rs2 sb s
  | .sub x rd rs1 rs2 sb => Sys2Proof.Machine.execSub x rd rs1 rs2 sb s
  | .and x rd rs1 rs2 sb => Sys2Proof.Machine.execAnd x rd rs1 rs2 sb s
  | .or x rd rs1 rs2 sb => Sys2Proof.Machine.execOr x rd rs1 rs2 sb s
  | .xor x rd rs1 rs2 sb => Sys2Proof.Machine.execXor x rd rs1 rs2 sb s
  | .andn x rd rs1 rs2 sb => Sys2Proof.Machine.execAndn x rd rs1 rs2 sb s
  | .shl x rd rs1 rs2 sb => Sys2Proof.Machine.execShl x rd rs1 rs2 sb s
  | .shr x rd rs1 rs2 sb => Sys2Proof.Machine.execShr x rd rs1 rs2 sb s
  | .sar x rd rs1 rs2 sb => Sys2Proof.Machine.execSar x rd rs1 rs2 sb s
  | .min x rd rs1 rs2 sb => Sys2Proof.Machine.execMin x rd rs1 rs2 sb s
  | .max x rd rs1 rs2 sb => Sys2Proof.Machine.execMax x rd rs1 rs2 sb s
  | .minu x rd rs1 rs2 sb => Sys2Proof.Machine.execMinu x rd rs1 rs2 sb s
  | .maxu x rd rs1 rs2 sb => Sys2Proof.Machine.execMaxu x rd rs1 rs2 sb s
  | .mul x rd rs1 rs2 sb => Sys2Proof.Machine.execMul x rd rs1 rs2 sb s
  | .mulh x rd rs1 rs2 sb => Sys2Proof.Machine.execMulh x rd rs1 rs2 sb s
  | .mulhu x rd rs1 rs2 sb => Sys2Proof.Machine.execMulhu x rd rs1 rs2 sb s
  | .div x rd rs1 rs2 sb => Sys2Proof.Machine.execDiv x rd rs1 rs2 sb s
  | .divu x rd rs1 rs2 sb => Sys2Proof.Machine.execDivu x rd rs1 rs2 sb s
  | .rem x rd rs1 rs2 sb => Sys2Proof.Machine.execRem x rd rs1 rs2 sb s
  | .remu x rd rs1 rs2 sb => Sys2Proof.Machine.execRemu x rd rs1 rs2 sb s
  | .clz x rd rs1 sb => Sys2Proof.Machine.execClz x rd rs1 sb s
  | .ctz x rd rs1 sb => Sys2Proof.Machine.execCtz x rd rs1 sb s
  | .popc x rd rs1 sb => Sys2Proof.Machine.execPopc x rd rs1 sb s
  | .cmp x rs1 rs2 => Sys2Proof.Machine.execCmp x rs1 rs2 s
  | .addi x rd rs1 imm sb => Sys2Proof.Machine.execAddi x rd rs1 imm sb s
  | .andi x rd rs1 imm sb => Sys2Proof.Machine.execAndi x rd rs1 imm sb s
  | .ori x rd rs1 imm sb => Sys2Proof.Machine.execOri x rd rs1 imm sb s
  | .xori x rd rs1 imm sb => Sys2Proof.Machine.execXori x rd rs1 imm sb s
  | .shli x rd rs1 amt sb => Sys2Proof.Machine.execShli x rd rs1 amt sb s
  | .shri x rd rs1 amt sb => Sys2Proof.Machine.execShri x rd rs1 amt sb s
  | .sari x rd rs1 amt sb => Sys2Proof.Machine.execSari x rd rs1 amt sb s
  | .cmpi x rs1 imm => Sys2Proof.Machine.execCmpi x rs1 imm s
  | .movi x rd imm => Sys2Proof.Machine.execMovi x rd imm s
  | .movk x rd imm hw => Sys2Proof.Machine.execMovk x rd imm hw s
  | .pcmp x cc p rs1 rs2 => Sys2Proof.Machine.execPcmp x cc p rs1 rs2 s
  | .pcmpi x cc p rs1 imm => Sys2Proof.Machine.execPcmpi x cc p rs1 imm s
  | .mfl x reg => Sys2Proof.Machine.execMfl x reg s
  | .mtl x reg => Sys2Proof.Machine.execMtl x reg s
  | .ioIn x rd rs1 imm => Sys2Proof.Machine.execIoIn x rd rs1 imm s
  | .ioOut x rd rs1 imm => Sys2Proof.Machine.execIoOut x rd rs1 imm s
  | .b x disp => Sys2Proof.Machine.execB x disp s
  | .call x disp => Sys2Proof.Machine.execCall x disp s
  | .jr x rs1 => Sys2Proof.Machine.execJr x rs1 s
  | .calr x rs1 => Sys2Proof.Machine.execCalr x rs1 s
  | .ret x => Sys2Proof.Machine.execRet x s
  | .retf x => Sys2Proof.Machine.execRetf x s
  | .trap x imm => Sys2Proof.Machine.execTrap x imm s
  | .setmode x imm => Sys2Proof.Machine.execSetmode x imm s
  | .eret x => Sys2Proof.Machine.execEret x s
  | .isync x => Sys2Proof.Machine.execIsync x s
  | .lpSetup x level rs off => Sys2Proof.Machine.execLpSetup x level rs off s
  | .lpSetupi x level cnt off => Sys2Proof.Machine.execLpSetupi x level cnt off s
  | .lpClr x level => Sys2Proof.Machine.execLpClr x level s
  | .lpGet x level reg fld => Sys2Proof.Machine.execLpGet x level reg fld s
  | .lpSet x level reg fld => Sys2Proof.Machine.execLpSet x level reg fld s
  | .takeInterrupt core t => Sys2Proof.Machine.execTakeInterrupt core t s
  | .takeEvent core => Sys2Proof.Machine.execTakeEvent core s
  | .start x n v => Sys2Proof.Machine.execStart x n v s
  | .stop x n v => Sys2Proof.Machine.execStop x n v s
  | .kill x n v => Sys2Proof.Machine.execKill x n v s
  | .release x n v => Sys2Proof.Machine.execRelease x n v s
  | .inject x n v => Sys2Proof.Machine.execInject x n v s
  | .resume x n v => Sys2Proof.Machine.execResume x n v s
  | .wdogKick x v => Sys2Proof.Machine.execWdogKick x v s
  | .watchdogExpiry core => Sys2Proof.Machine.execWatchdogExpiry core s
  | .timerExpiry core => Sys2Proof.Machine.execTimerExpiry core s
  | .evtNextRead x rd => Sys2Proof.Machine.execEvtNextRead x rd s
  | .tAcquire x => Sys2Proof.Machine.execTAcquire x s
  | .tRelease x => Sys2Proof.Machine.execTRelease x s
  | .tCfg x layout => Sys2Proof.Machine.execTCfg x layout s
  | .tSwap x => Sys2Proof.Machine.execTSwap x s
  | .tZero x => Sys2Proof.Machine.execTZero x s
  | .tTz x tile => Sys2Proof.Machine.execTTz x tile s
  | .tWait x => Sys2Proof.Machine.execTWait x s
  | .tMma x ta tb rs => Sys2Proof.Machine.execTMma x ta tb rs s
  | .mmaExecute core => Sys2Proof.Machine.execMmaExecute core s
  | .tLd x td ra rdesc => Sys2Proof.Machine.execTLd x td ra rdesc s
  | .tSt x ts ra rdesc => Sys2Proof.Machine.execTSt x ts ra rdesc s
  | .tLdx x td ra rscl rdesc => Sys2Proof.Machine.execTLdx x td ra rscl rdesc s
  | .tileRowLand core k => Sys2Proof.Machine.execTileRowLand core k s
  | .tDrain x td rctl ra => Sys2Proof.Machine.execTDrain x td rctl ra s
  | .drainComplete core => Sys2Proof.Machine.execDrainComplete core s
  | .tCsave x ra => Sys2Proof.Machine.execTCsave x ra s
  | .tCrest x ra => Sys2Proof.Machine.execTCrest x ra s
  | .mtxSeedWrite x v => Sys2Proof.Machine.execMtxSeedWrite x v s
  | .tallyClear x v => Sys2Proof.Machine.execTallyClear x v s
  | .tallyClearAll x v => Sys2Proof.Machine.execTallyClearAll x v s
  | .vAdd x vd va vb sloe type => Sys2Proof.Machine.execVAdd x vd va vb sloe type s
  | .vSub x vd va vb sloe type => Sys2Proof.Machine.execVSub x vd va vb sloe type s
  | .vMul x vd va vb sloe type => Sys2Proof.Machine.execVMul x vd va vb sloe type s
  | .vMin x vd va vb sloe type => Sys2Proof.Machine.execVMin x vd va vb sloe type s
  | .vMax x vd va vb sloe type => Sys2Proof.Machine.execVMax x vd va vb sloe type s
  | .vDiv x vd va vb sloe type => Sys2Proof.Machine.execVDiv x vd va vb sloe type s
  | .vAnd x vd va vb sloe type => Sys2Proof.Machine.execVAnd x vd va vb sloe type s
  | .vOr x vd va vb sloe type => Sys2Proof.Machine.execVOr x vd va vb sloe type s
  | .vXor x vd va vb sloe type => Sys2Proof.Machine.execVXor x vd va vb sloe type s
  | .vShl x vd va vb sloe type => Sys2Proof.Machine.execVShl x vd va vb sloe type s
  | .vShr x vd va vb sloe type => Sys2Proof.Machine.execVShr x vd va vb sloe type s
  | .vSar x vd va vb sloe type => Sys2Proof.Machine.execVSar x vd va vb sloe type s
  | .vCmpeq x vd va vb sloe type => Sys2Proof.Machine.execVCmpeq x vd va vb sloe type s
  | .vCmplt x vd va vb sloe type => Sys2Proof.Machine.execVCmplt x vd va vb sloe type s
  | .vCmple x vd va vb sloe type => Sys2Proof.Machine.execVCmple x vd va vb sloe type s
  | .vLdexp x vd va vb sloe type => Sys2Proof.Machine.execVLdexp x vd va vb sloe type s
  | .vPerm x vd va vb sloe type => Sys2Proof.Machine.execVPerm x vd va vb sloe type s
  | .vFma x vd va vb sloe type => Sys2Proof.Machine.execVFma x vd va vb sloe type s
  | .vFms x vd va vb sloe type => Sys2Proof.Machine.execVFms x vd va vb sloe type s
  | .vFnma x vd va vb sloe type => Sys2Proof.Machine.execVFnma x vd va vb sloe type s
  | .vSel x vd va vb sloe type => Sys2Proof.Machine.execVSel x vd va vb sloe type s
  | .vDpa x vd va vb sloe type => Sys2Proof.Machine.execVDpa x vd va vb sloe type s
  | .vNeg x vd va sloe type => Sys2Proof.Machine.execVNeg x vd va sloe type s
  | .vAbs x vd va sloe type => Sys2Proof.Machine.execVAbs x vd va sloe type s
  | .vMov x vd va sloe type => Sys2Proof.Machine.execVMov x vd va sloe type s
  | .vRcp x vd va sloe type => Sys2Proof.Machine.execVRcp x vd va sloe type s
  | .vSqrt x vd va sloe type => Sys2Proof.Machine.execVSqrt x vd va sloe type s
  | .vRsqrt x vd va sloe type => Sys2Proof.Machine.execVRsqrt x vd va sloe type s
  | .vExp2 x vd va sloe type => Sys2Proof.Machine.execVExp2 x vd va sloe type s
  | .vLog2 x vd va sloe type => Sys2Proof.Machine.execVLog2 x vd va sloe type s
  | .vExp x vd va sloe type => Sys2Proof.Machine.execVExp x vd va sloe type s
  | .vTanh x vd va sloe type => Sys2Proof.Machine.execVTanh x vd va sloe type s
  | .vSigm x vd va sloe type => Sys2Proof.Machine.execVSigm x vd va sloe type s
  | .vSin x vd va sloe type => Sys2Proof.Machine.execVSin x vd va sloe type s
  | .vCos x vd va sloe type => Sys2Proof.Machine.execVCos x vd va sloe type s
  | .vBscale x vd va sloe type => Sys2Proof.Machine.execVBscale x vd va sloe type s
  | .vRadd x vd va sloe type => Sys2Proof.Machine.execVRadd x vd va sloe type s
  | .vRmax x vd va sloe type => Sys2Proof.Machine.execVRmax x vd va sloe type s
  | .vRmin x vd va sloe type => Sys2Proof.Machine.execVRmin x vd va sloe type s
  | .vCvt x vd va rctl type => Sys2Proof.Machine.execVCvt x vd va rctl type s
  | .vPack4 x vd va rctl type => Sys2Proof.Machine.execVPack4 x vd va rctl type s
  | .vUnpack4 x vd va rctl type => Sys2Proof.Machine.execVUnpack4 x vd va rctl type s
  | .vSplat x rg vr lane type => Sys2Proof.Machine.execVSplat x rg vr lane type s
  | .vGetl x rg vr lane type => Sys2Proof.Machine.execVGetl x rg vr lane type s
  | .vSetl x rg vr lane type => Sys2Proof.Machine.execVSetl x rg vr lane type s
  | .vLd x vd rs1 rs2 => Sys2Proof.Machine.execVLd x vd rs1 rs2 s
  | .vSt x vs rs1 rs2 => Sys2Proof.Machine.execVSt x vs rs1 rs2 s
  | .vLdt x vd tile rs2 => Sys2Proof.Machine.execVLdt x vd tile rs2 s
  | .vStt x vs tile rs2 => Sys2Proof.Machine.execVStt x vs tile rs2 s
  | .vGather x vd rs1 rs2 vi => Sys2Proof.Machine.execVGather x vd rs1 rs2 vi s
  | .vScatter x vs rs1 rs2 vi => Sys2Proof.Machine.execVScatter x vs rs1 rs2 vi s
  | .vTally x va set type => Sys2Proof.Machine.execVTally x va set type s
  | .vSeed x rs => Sys2Proof.Machine.execVSeed x rs s
  | .memfill x ra rs1 rs2 => Sys2Proof.Machine.execMemfill x ra rs1 rs2 s
  | .lwopen x rd rs1 rs2 => Sys2Proof.Machine.execLwopen x rd rs1 rs2 s
  | .lwclose x rd rs1 => Sys2Proof.Machine.execLwclose x rd rs1 s
  | .lwstat x rd rs1 => Sys2Proof.Machine.execLwstat x rd rs1 s
  | .creditReq k => Sys2Proof.Machine.execCreditReq k s
  | .creditGrant k => Sys2Proof.Machine.execCreditGrant k s
  | .creditRefuse k => Sys2Proof.Machine.execCreditRefuse k s
  | .creditRevoke k => Sys2Proof.Machine.execCreditRevoke k s
  | .creditRetry core u => Sys2Proof.Machine.execCreditRetry core u s
  | .creditTimeout core u => Sys2Proof.Machine.execCreditTimeout core u s
  | .creditQuarantineEnd core entry => Sys2Proof.Machine.execCreditQuarantineEnd core entry s
  | .remoteWrite k => Sys2Proof.Machine.execRemoteWrite k s
  | .landingAck k => Sys2Proof.Machine.execLandingAck k s
  | .windowRequest k => Sys2Proof.Machine.execWindowRequest k s
  | .scrubVisit core ecc => Sys2Proof.Machine.execScrubVisit core ecc s
  | .stQ x slot rs => Sys2Proof.Machine.execStQ x slot rs s
  | .stWait x rd slot => Sys2Proof.Machine.execStWait x rd slot s
  | .stRel x slot => Sys2Proof.Machine.execStRel x slot s
  | .streamDescStart core slot => Sys2Proof.Machine.execStreamDescStart core slot s
  | .streamResponse core slot k => Sys2Proof.Machine.execStreamResponse core slot k s
  | .stStop x slot => Sys2Proof.Machine.execStStop x slot s
  | .stResume x slot => Sys2Proof.Machine.execStResume x slot s
  | .stSkip x slot => Sys2Proof.Machine.execStSkip x slot s
  | .stFlush x slot => Sys2Proof.Machine.execStFlush x slot s
  | .stallClear x v => Sys2Proof.Machine.execStallClear x v s
  | .cmoClean x v => Sys2Proof.Machine.execCmoClean x v s
  | .cmoInv x v => Sys2Proof.Machine.execCmoInv x v s
  | .cmoCleanInv x v => Sys2Proof.Machine.execCmoCleanInv x v s
  | .cmoLock x v => Sys2Proof.Machine.execCmoLock x v s
  | .cmoUnlock x v => Sys2Proof.Machine.execCmoUnlock x v s
  | .pfFlush x v => Sys2Proof.Machine.execPfFlush x v s
  | .cacheFill k => Sys2Proof.Machine.execCacheFill k s
  | .victim k => Sys2Proof.Machine.execVictim k s
  | .cacheInitDone core icache => Sys2Proof.Machine.execCacheInitDone core icache s
  | .tlbInvVa x v => Sys2Proof.Machine.execTlbInvVa x v s
  | .tlbInvAll x v => Sys2Proof.Machine.execTlbInvAll x v s
  | .xltRootWrite x v => Sys2Proof.Machine.execXltRootWrite x v s
  | .walkComplete core k => Sys2Proof.Machine.execWalkComplete core k s
  | .xltFwd x v => Sys2Proof.Machine.execXltFwd x v s
  | .faultRecord k => Sys2Proof.Machine.execFaultRecord k s
  | .faultReplyWrite v => Sys2Proof.Machine.execFaultReplyWrite v s
  | .faultReply k => Sys2Proof.Machine.execFaultReply k s
  | .shootCtl v => Sys2Proof.Machine.execShootCtl v s
  | .shootdown k => Sys2Proof.Machine.execShootdown k s
  | .shootdownAck k => Sys2Proof.Machine.execShootdownAck k s
  | .chPut x ra => Sys2Proof.Machine.execChPut x ra s
  | .chClr x => Sys2Proof.Machine.execChClr x s
  | .chSend x ra rb => Sys2Proof.Machine.execChSend x ra rb s
  | .chSendd x ra rb => Sys2Proof.Machine.execChSendd x ra rb s
  | .chRecv x ra vd ring => Sys2Proof.Machine.execChRecv x ra vd ring s
  | .chRecvnb x ra vd ring => Sys2Proof.Machine.execChRecvnb x ra vd ring s
  | .chPeek x ra ring => Sys2Proof.Machine.execChPeek x ra ring s
  | .message k => Sys2Proof.Machine.execMessage k s
  | .ringStallEvent core ring => Sys2Proof.Machine.execRingStallEvent core ring s
  | .ringEnable x ring v => Sys2Proof.Machine.execRingEnable x ring v s
  | .ringPause x ring v => Sys2Proof.Machine.execRingPause x ring v s
  | .ringDiscard x ring v => Sys2Proof.Machine.execRingDiscard x ring v s
  | .chPress x ra rb => Sys2Proof.Machine.execChPress x ra rb s
  | .chPcfg x ra rb => Sys2Proof.Machine.execChPcfg x ra rb s
  | .chPclose x ra rb => Sys2Proof.Machine.execChPclose x ra rb s
  | .chPstat x ra rb => Sys2Proof.Machine.execChPstat x ra rb s
  | .pressCtl k => Sys2Proof.Machine.execPressCtl k s
  | .pressContrib k => Sys2Proof.Machine.execPressContrib k s
  | .scSet x rs cnt ord => Sys2Proof.Machine.execScSet x rs cnt ord s
  | .scAdd x rs cnt ord => Sys2Proof.Machine.execScAdd x rs cnt ord s
  | .scSub x rs cnt ord => Sys2Proof.Machine.execScSub x rs cnt ord s
  | .scGet x rd cnt => Sys2Proof.Machine.execScGet x rd cnt s
  | .scWait x rs cnt ord intr => Sys2Proof.Machine.execScWait x rs cnt ord intr s
  | .scWaitsub x rs cnt ord intr => Sys2Proof.Machine.execScWaitsub x rs cnt ord intr s
  | .scSig x ra rs rel => Sys2Proof.Machine.execScSig x ra rs rel s
  | .signalArrival k => Sys2Proof.Machine.execSignalArrival k s
  | .scWrite x cnt v => Sys2Proof.Machine.execScWrite x cnt v s
  | .amoSwap x rd rs1 rs2 eight ord => Sys2Proof.Machine.execAmoSwap x rd rs1 rs2 eight ord s
  | .amoCas x rd rs1 rs2 eight ord => Sys2Proof.Machine.execAmoCas x rd rs1 rs2 eight ord s
  | .amoAdd x rd rs1 rs2 eight ord => Sys2Proof.Machine.execAmoAdd x rd rs1 rs2 eight ord s
  | .amoAnd x rd rs1 rs2 eight ord => Sys2Proof.Machine.execAmoAnd x rd rs1 rs2 eight ord s
  | .amoOr x rd rs1 rs2 eight ord => Sys2Proof.Machine.execAmoOr x rd rs1 rs2 eight ord s
  | .amoXor x rd rs1 rs2 eight ord => Sys2Proof.Machine.execAmoXor x rd rs1 rs2 eight ord s
  | .amoMin x rd rs1 rs2 eight ord => Sys2Proof.Machine.execAmoMin x rd rs1 rs2 eight ord s
  | .amoMax x rd rs1 rs2 eight ord => Sys2Proof.Machine.execAmoMax x rd rs1 rs2 eight ord s
  | .amoMinu x rd rs1 rs2 eight ord => Sys2Proof.Machine.execAmoMinu x rd rs1 rs2 eight ord s
  | .amoMaxu x rd rs1 rs2 eight ord => Sys2Proof.Machine.execAmoMaxu x rd rs1 rs2 eight ord s
  | .atomicAtHome k => Sys2Proof.Machine.execAtomicAtHome k s
  | .fence x waitfor hold acq => Sys2Proof.Machine.execFence x waitfor hold acq s
  | .dmStart x rd ch rs => Sys2Proof.Machine.execDmStart x rd ch rs s
  | .dmWait x ch => Sys2Proof.Machine.execDmWait x ch s
  | .dmaDescFetch core ch => Sys2Proof.Machine.execDmaDescFetch core ch s
  | .dmaResponse core ch k => Sys2Proof.Machine.execDmaResponse core ch k s
  | .dmaRetryGap core ch k => Sys2Proof.Machine.execDmaRetryGap core ch k s
  | .dmaComplete core ch => Sys2Proof.Machine.execDmaComplete core ch s
  | .dmaStop x ch => Sys2Proof.Machine.execDmaStop x ch s
  | .dmaResume x ch => Sys2Proof.Machine.execDmaResume x ch s
  | .dmaSkip x ch => Sys2Proof.Machine.execDmaSkip x ch s
  | .dmaAbort x ch => Sys2Proof.Machine.execDmaAbort x ch s
  | .dropNotice k => Sys2Proof.Machine.execDropNotice k s
  | .errorResp k => Sys2Proof.Machine.execErrorResp k s
  | .packetAged k => Sys2Proof.Machine.execPacketAged k s
  | .command k => Sys2Proof.Machine.execCommand k s
  | .hbmRead k ecc => Sys2Proof.Machine.execHbmRead k ecc s
  | .hbmWrite k => Sys2Proof.Machine.execHbmWrite k s
  | .companionAccess link op => Sys2Proof.Machine.execCompanionAccess link op s
  | .fabricFrame port f => Sys2Proof.Machine.execFabricFrame port f s
  | .nak port ack => Sys2Proof.Machine.execNak port ack s
  | .replayTimeout port => Sys2Proof.Machine.execReplayTimeout port s
  | .fabricPacketAged port k => Sys2Proof.Machine.execFabricPacketAged port k s
  | .portDown port => Sys2Proof.Machine.execPortDown port s
  | .portSeq port seq => Sys2Proof.Machine.execPortSeq port seq s
  | .portSeqTimeout port => Sys2Proof.Machine.execPortSeqTimeout port s
  | .flowHoldEnd port => Sys2Proof.Machine.execFlowHoldEnd port s
  | .portRetrain port r => Sys2Proof.Machine.execPortRetrain port r s
  | .limjoLinkDown link => Sys2Proof.Machine.execLimjoLinkDown link s
  | .seamFailure => Sys2Proof.Machine.execSeamFailure s
  | .sqTail r v => Sys2Proof.Machine.execSqTail r v s
  | .cqHead c v => Sys2Proof.Machine.execCqHead c v s
  | .doorbell v => Sys2Proof.Machine.execDoorbell v s
  | .orderFetch r => Sys2Proof.Machine.execOrderFetch r s
  | .orderStart k => Sys2Proof.Machine.execOrderStart k s
  | .normDelivery => Sys2Proof.Machine.execNormDelivery s
  | .pass2End => Sys2Proof.Machine.execPass2End s
  | .reducePiece k piece src elems sum => Sys2Proof.Machine.execReducePiece k piece src elems sum s
  | .orderTimeout k => Sys2Proof.Machine.execOrderTimeout k s
  | .coreStopReport k retest => Sys2Proof.Machine.execCoreStopReport k retest s
  | .coreDone k core => Sys2Proof.Machine.execCoreDone k core s
  | .completionWrite k => Sys2Proof.Machine.execCompletionWrite k s
  | .interruptSend => Sys2Proof.Machine.execInterruptSend s
  | .dictWrite role path it => Sys2Proof.Machine.execDictWrite role path it s
  | .dictRead role path it => Sys2Proof.Machine.execDictRead role path it s
  | .groupEnable role path index v => Sys2Proof.Machine.execGroupEnable role path index v s
  | .holdRead role path it => Sys2Proof.Machine.execHoldRead role path it s
  | .holdExpiry n => Sys2Proof.Machine.execHoldExpiry n s
  | .flashCommitDone => Sys2Proof.Machine.execFlashCommitDone s
  | .go v => Sys2Proof.Machine.execGo v s
  | .mailboxResponse => Sys2Proof.Machine.execMailboxResponse s
  | .request f => Sys2Proof.Machine.execRequest f s
  | .discover f => Sys2Proof.Machine.execDiscover f s
  | .openReq key fieldsOk sigOk sessionKey => Sys2Proof.Machine.execOpenReq key fieldsOk sigOk sessionKey s
  | .close session tagOk => Sys2Proof.Machine.execClose session tagOk s
  | .sessionTimeout session => Sys2Proof.Machine.execSessionTimeout session s
  | .plcaStatusChange ok => Sys2Proof.Machine.execPlcaStatusChange ok s
  | .resetReq role path v => Sys2Proof.Machine.execResetReq role path v s
  | .moduleReset => Sys2Proof.Machine.execModuleReset s
  | .offReq role path v => Sys2Proof.Machine.execOffReq role path v s
  | .retireReq role path id => Sys2Proof.Machine.execRetireReq role path id s
  | .reinstate role path pos => Sys2Proof.Machine.execReinstate role path pos s
  | .stage role path off data => Sys2Proof.Machine.execStage role path off data s
  | .commit role path v check => Sys2Proof.Machine.execCommit role path v check s
  | .nonce role path data => Sys2Proof.Machine.execNonce role path data s
  | .report role path => Sys2Proof.Machine.execReport role path s
  | .fabricEnable role path v => Sys2Proof.Machine.execFabricEnable role path v s
  | .portEnable role path port v => Sys2Proof.Machine.execPortEnable role path port v s
  | .stepSize role path v => Sys2Proof.Machine.execStepSize role path v s
  | .stepCounter role path v => Sys2Proof.Machine.execStepCounter role path v s
  | .globalNormSq role path v => Sys2Proof.Machine.execGlobalNormSq role path v s
  | .debugHalt role path => Sys2Proof.Machine.execDebugHalt role path s
  | .debugResume role path => Sys2Proof.Machine.execDebugResume role path s
  | .debugStep role path => Sys2Proof.Machine.execDebugStep role path s
  | .ioDataRead role path => Sys2Proof.Machine.execIoDataRead role path s
  | .ioDataWrite role path v => Sys2Proof.Machine.execIoDataWrite role path v s
  | .haltReq x v => Sys2Proof.Machine.execHaltReq x v s
  | .dbgResume x v => Sys2Proof.Machine.execDbgResume x v s
  | .dbgStep x v => Sys2Proof.Machine.execDbgStep x v s
  | .dbgDataRead x rd => Sys2Proof.Machine.execDbgDataRead x rd s
  | .dbgDataWrite x v => Sys2Proof.Machine.execDbgDataWrite x v s
  | .pmcClear x n v => Sys2Proof.Machine.execPmcClear x n v s
  | .pmcClearAll x v => Sys2Proof.Machine.execPmcClearAll x v s
  | .extest pins => Sys2Proof.Machine.execExtest pins s
  | .idcode => Sys2Proof.Machine.execIdcode s
  | .samplePreload pins => Sys2Proof.Machine.execSamplePreload pins s
  | .dict data => Sys2Proof.Machine.execDict data s
  | .bypass => Sys2Proof.Machine.execBypass s
  | .trst => Sys2Proof.Machine.execTrst s
  | .powerStateChoice => Sys2Proof.Machine.execPowerStateChoice s
  | .stateEntry => Sys2Proof.Machine.execStateEntry s
  | .wake => Sys2Proof.Machine.execWake s
  | .throttlePeriod r => Sys2Proof.Machine.execThrottlePeriod r s
  | .powerFail aux => Sys2Proof.Machine.execPowerFail aux s
  | .thermalTrip => Sys2Proof.Machine.execThermalTrip s
  | .coolantLoss => Sys2Proof.Machine.execCoolantLoss s
  | .leak pin => Sys2Proof.Machine.execLeak pin s
  | .coldStart => Sys2Proof.Machine.execColdStart s
  | .powerOnResetExit straps => Sys2Proof.Machine.execPowerOnResetExit straps s
  | .rindReset => Sys2Proof.Machine.execRindReset s
  | .resetL low => Sys2Proof.Machine.execResetL low s
  | .bootStepAttempt e => Sys2Proof.Machine.execBootStepAttempt e s
  | .bootStepTimeout component => Sys2Proof.Machine.execBootStepTimeout component s
  | .readData k => Sys2Proof.Machine.execReadData k s
  | .writeAck k => Sys2Proof.Machine.execWriteAck k s
  | .atomicData k => Sys2Proof.Machine.execAtomicData k s
  | .pressReply k => Sys2Proof.Machine.execPressReply k s
  | .commandAck k => Sys2Proof.Machine.execCommandAck k s
  | .recallAnswer h line data => Sys2Proof.Machine.execRecallAnswer h line data s
  | .pass1Partial h => Sys2Proof.Machine.execPass1Partial h s
  | .scrubPassEnd k corrected uncorrectable => Sys2Proof.Machine.execScrubPassEnd k corrected uncorrectable s
  | .illegalInstruction x word => Sys2Proof.Machine.execIllegalInstruction x word s
  | .instructionFetch core t => Sys2Proof.Machine.execInstructionFetch core t s
  | .transmitOpportunity => Sys2Proof.Machine.execTransmitOpportunity s
  | .leakClear => Sys2Proof.Machine.execLeakClear s
  | .tripClear => Sys2Proof.Machine.execTripClear s

end Sys2Proof.Machine
end

