-- ==== Sys2Proof/Machine/Tick.lean ====
section
/-! DEFINITION. The rind tick (R494): what happens with time when no command waits. -/

namespace Sys2Proof.Machine

/-- Ages a credit request, and the time since a refusal (R238). -/
def ageCredit (s : CreditSt) : CreditSt :=
  match s with
  | .asked a f => .asked (a + 1) (f.map (· + 1))
  | .again r => .again (r + 1)
  | s => s

/-- Ages a packet that ages (R419). -/
def agePacket (p : Packet) : Packet := if ages p then { p with age := p.age + 1 } else p

/-- One tick at a core whose die has duty d: the watchdog, the timer, CYCLES and the threads that wait (R116, R511, R591), ages of parked messages and
of credit requests. One tick is 800 cc at duty 16. -/
def coreTick (d : Nat) (c : Core) : Core :=
  let s := c.sup
  let cc := 50 * d
  let s := { s with
    wdCount := if wdogRuns c then s.wdCount - 1 else s.wdCount
    tmCount := if s.tmEnable then s.tmCount - cc else s.tmCount }
  let c := pmcEvent { c with sup := s } 1 none cc
  let c := c.thr.foldl (fun c t => if t.2.st = .wait then pmcEvent c 0x0E (some t.1) cc
    else if t.2.st = .faultWait then pmcEvent c 0x0F (some t.1) cc else c) c
  { c with
    perf := if frozen c then c.perf else { c.perf with cycles := satAdd (2 ^ 48 - 1) c.perf.cycles cc }
    vc2 := c.vc2.map agePacket
    rings := c.rings.map (fun r => (r.1, if r.2.parked.isSome then { r.2 with parkAge := r.2.parkAge + 1 } else r.2))
    slots := c.slots.map (fun q => (q.1, { q.2 with credit := ageCredit q.2.credit }))
    chans := c.chans.map (fun q => (q.1, { q.2 with credit := ageCredit q.2.credit })) }

/-- Ages the quarantined credit entries of a core, in every power state (R595). -/
def quarantineTick (c : Core) : Core :=
  { c with spad := { c.spad with credits := c.spad.credits.map (fun e => (e.1, match e.2 with
      | .quarantine n => .quarantine (n + 1)
      | x => x)) } }

/-- A thread of the order's group is HALTED through the DEBUG group (R584). -/
def groupHalted (σ : State) (o : Order) : Bool :=
  σ.cores.any (fun c => decide (ordFirst o ≤ c.1) && decide (c.1 < ordFirst o + ordCount o) &&
    c.2.thr.any (fun t => t.2.st == .halted && t.2.dbg.group))

/-- What a tick does to the clocked part of the module: cores, packets, orders, pairs. -/
def workTick (σ : State) : State :=
  let duty (L : Nat) : Nat := mget 16 σ.power.duty ((posOf σ L % 128) / 16)
  let p := σ.power
  settleOrders { σ with
    cores := σ.cores.map (fun c => (c.1, coreTick (duty c.1) c.2))
    net := σ.net.map agePacket
    fab := { σ.fab with ports := σ.fab.ports.map (fun q => (q.1, { q.2 with
      heldPk := q.2.heldPk.map (fun k => if fcOf k.body = 0 then k else { k with age := k.age + 1 }) })) }
    power := { p with throttleTicks := (List.range 8).foldl (fun m d =>
      if mget 16 p.duty d < 16 then mput 0 d (mget 0 m d + 1) m else m) p.throttleTicks }
    disp := { σ.disp with
      orders := σ.disp.orders.map (fun o => if o.st = .running ∧ groupHalted σ o = false then { o with ticks := o.ticks + 1 } else o)
      released := (σ.disp.released.map (fun x => (x.1, x.2 + 1))).filter (fun x => decide (x.2 ≤ pairRest)) } }

/-- What a tick does at the rind: TICK, residency, the ages of holds, sessions, responses, error counts and the flash commit. -/
def rindTick (σ : State) : State :=
  let d := σ.dict
  let b := σ.boot
  { σ with
    tick := (σ.tick + 1) % 2 ^ 64
    cores := σ.cores.map (fun c => (c.1, quarantineTick c.2))
    power := { σ.power with residency := mput 0 (powerState σ) (mget 0 σ.power.residency (powerState σ) + 1) σ.power.residency }
    dict := { d with
      flash := d.flash.map (· - 1), holds := d.holds.map (fun h => { h with age := h.age + 1 })
      sessions := d.sessions.map (fun s => { s with age := s.age + 1 }), txq := d.txq.map (fun r => { r with age := r.age + 1 })
      kept := d.kept.map (fun r => { r with age := r.age + 1 }) }
    boot := { b with
      markedNow := []
      spadWords := (b.spadWords.map (fun e => (e.1, e.2.1, e.2.2 + 1))).filter (fun e => decide (e.2.2 ≤ window24))
      stops := (b.stops.map (fun e => (e.1, e.2.1, e.2.2 + 1))).filter (fun e => decide (e.2.2 ≤ window24))
      rowErrs := (b.rowErrs.map (fun e => (e.1, e.2.1, e.2.2 + 1))).filter (fun e => decide (e.2.2 ≤ window24)) }
    disp := { σ.disp with raised := σ.disp.raised.filter (fun v => !σ.disp.sent.contains v), sent := [] } }

/-- One rind tick. In power-on reset no tick is counted. -/
def tickStep (σ : State) : State :=
  if σ.boot.rom = 3 then σ else
  let σ := rindTick σ
  let σ := if running σ then workTick σ else σ
  let σ := takeRequests σ
  stateChoice (if running σ && gradeLost σ then enterService σ else σ)

/-- With no command waiting: in Run the oldest traffic of a wake event is released, else a rind tick passes. -/
def idle (σ : State) : State :=
  match σ.power.held with
  | w :: r => if running σ then runWake { σ with power := { σ.power with held := r } } w else tickStep σ
  | [] => tickStep σ

end Sys2Proof.Machine
end

