-- ==== Sys2Proof/Safety.lean ====
section
/-! DEFINITION. What the claims are stated in: keys of the sparse maps rise and memories are canonical (what every step keeps); what it is for
a thread to run its next instruction plainly, and for a core to have no work of its own under way; what a change to one thread or to one
core leaves alone. -/

namespace Sys2Proof.Machine

/-! ### What every step keeps -/

/-- Keys strictly rising from a lower bound. -/
def risingFrom {α : Type} : Nat → SMap α → Bool
  | _, [] => true
  | lo, (j, _) :: r => decide (lo ≤ j) && risingFrom (j + 1) r

/-- Keys strictly rising. -/
def rising {α : Type} (m : SMap α) : Bool := risingFrom 0 m

/-- A thread's register files list registers in order. -/
def Thread.ordered (h : Thread) : Bool := rising h.regs && rising h.vregs

/-- A core's threads, stream slots, DMA channels and rings are listed in order, and the threads' registers. -/
def Core.ordered (c : Core) : Bool :=
  rising c.thr && c.thr.all (fun e => e.2.ordered) && rising c.slots && rising c.chans && rising c.rings

/-- Cores, and in each core threads, registers, slots, channels and rings, are listed in order. -/
def State.ordered (s : State) : Bool := rising s.cores && s.cores.all (fun e => e.2.ordered)

/-- A byte memory is in its canonical form: addresses strictly rising, and no listed byte equal to the 0 that an unlisted address reads. -/
abbrev Memory.wf (m : List Host.Cell) : Bool := mwf 0#8 m

/-- Every byte memory is in its canonical form: HBM, companion memory and the scratchpad of every core. -/
def State.memWf (s : State) : Bool :=
  Memory.wf s.hbm && Memory.wf s.comp && s.cores.all (fun e => Memory.wf e.2.spad.mem)

/-! ### An instruction that runs plainly -/

/-- No work of the core is under way beside its threads: no slot or channel in RUN, nothing queued at the matrix engine, in the rings'
interface or on its way out, no thread in WAIT, no fence, no lease asked for, no cache maintenance or exception entry begun, no halt or STOP
asked for. -/
structure Quiet (c : Core) : Prop where
  slots : ∀ k < 8, (getSlot c k).st ≠ 1
  chans : ∀ k < 4, (getChan c k).st ≠ 1
  queue : c.mtx.queue = []
  waiters : c.mtx.waiters = []
  dying : c.mtx.dying = false
  rings : c.rings.all (fun p => p.2.parked.isNone) = true
  vc2 : c.vc2 = []
  outq : c.outq = []
  waits : ∀ u < 16, (getThr c u).st ≠ .wait
  fences : ∀ u < 16, (getThr c u).fences = []
  cmo : c.cache.cmo = none
  entries : ∀ u < 16, (getThr c u).entry = none
  asks : ∀ u < 16, (getThr c u).dbg.pend = none ∧ (getThr c u).stopPend = false

/-- No press queue holds a complete round that it has yet to deliver (R345). -/
def PressRest (s : State) : Prop :=
  ∀ e ∈ s.press, ((getPress s e.1).opened && !(getPress s e.1).norm && decide (pqContribs (getPress s e.1).cfg ≤ (getPress s e.1).curN)) = false

/-- Thread x.thread of core x.core issues an instruction of attributes a, and no error, stop, halt, breakpoint, injection, illegal sequence or
condition comes before its effect (R43, R44, R62, R72, R117, R587). -/
structure Runs (x : Issue) (a : Att) (s : State) : Prop where
  calm : x.upsets = []
  issues : canIssue s x.core.toNat x.thread.toNat a = true
  ctrl : (getCore s x.core.toNat).sup.ctrlBad = false
  ctx : (thrOf s x.core.toNat x.thread.toNat).ctxBad = false
  inj : (thrOf s x.core.toNat x.thread.toNat).injPend = false
  bp : bpMatch (getCore s x.core.toNat) x.thread.toNat (thrOf s x.core.toNat x.thread.toNat) = none
  skip : (thrOf s x.core.toNat x.thread.toNat).dbg.skip = none
  legal : a.legal = true
  seq : (a.seqBad || badSequence (thrOf s x.core.toNat x.thread.toNat) a) = false
  cond : condHolds (thrOf s x.core.toNat x.thread.toNat).flags x.cond = true

/-- Nothing stops the thread at its next instruction boundary: no debug hit, step, STOP or exception entry is pending (R88, R92, R581,
R585). -/
structure Plain (h : Thread) : Prop where
  pend : h.dbg.pend = none
  stepping : h.dbg.stepping = false
  stop : h.stopPend = false
  entry : h.entry = none

/-- The thread after an instruction that goes on by `nx`: to the pending target from a slot, to its slot after a transfer, back at the end
of a loop, else to the next word (R49, R61, R70, R90). -/
def after (h : Thread) (nx : Nx) : Thread := advance { h with held := .none, acc := [] } nx

/-- The state in which an instruction's body runs: its issue is counted (R44, R591). -/
def counted (s : State) (x : Issue) (a : Att) : State := modCore s x.core.toNat (fun c => countIssue c x.thread.toNat a)

/-! ### Frames -/

/-- The two states hold the same cores and agree in everything else. -/
structure Same (s t : State) : Prop where
  cores : ∀ K, getCore t K = getCore s K
  rest : { t with cores := s.cores } = s

/-- From s to t only core L has changed, to c. -/
structure OnlyCore (s t : State) (L : Nat) (c : Core) : Prop where
  core : getCore t L = c
  others : ∀ K, K ≠ L → getCore t K = getCore s K
  rest : { t with cores := s.cores } = s

/-- From s to t only core L has changed, to c, and request ids have been given. -/
structure CoreTo (s t : State) (L : Nat) (c : Core) : Prop where
  core : getCore t L = c
  others : ∀ K, K ≠ L → getCore t K = getCore s K
  rest : { t with cores := s.cores, nextId := s.nextId } = s

/-- From s to t only thread n of core L has changed, to h, and the performance counters of the core (R591): every other thread, every
register, memory and unit of the core, every other core and the rest of the module are as before. -/
structure OnlyThread (s t : State) (L n : Nat) (h : Thread) : Prop where
  thread : thrOf t L n = h
  threads : ∀ k, k ≠ n → thrOf t L k = thrOf s L k
  core : { getCore t L with thr := (getCore s L).thr, perf := (getCore s L).perf } = getCore s L
  others : ∀ K, K ≠ L → getCore t K = getCore s K
  rest : { t with cores := s.cores } = s

end Sys2Proof.Machine

namespace Sys2Proof.Claims

open Sys2Proof.Machine

/-- Core and thread of an issue slot. -/
abbrev co (x : Issue) : Nat := x.core.toNat
abbrev th (x : Issue) : Nat := x.thread.toNat

/-- The thread, its core, and register r of the thread, of an issue slot. -/
abbrev thr (s : State) (x : Issue) : Thread := thrOf s (co x) (th x)
abbrev core (s : State) (x : Issue) : Core := getCore s (co x)
abbrev reg (s : State) (x : Issue) (r : BitVec 5) : Word := greg (thr s x) r.toNat
abbrev vec (s : State) (x : Issue) (v : BitVec 4) : BitVec 1024 := vreg (thr s x) v.toNat

/-- The state before an instruction that runs to its end: maps in order (which every step keeps: StepKeepsOrder), the core without other
work under way, no stop pending, and the thread issues the instruction, whose attributes are a. -/
structure Before (x : Issue) (a : Att) (s : State) : Prop where
  order : s.ordered = true
  press : PressRest s
  quiet : Quiet (core s x)
  runs : Runs x a s
  plain : Plain (thr s x)

/-- Instruction i completes, and of all the module only the issuing thread (now h) and the core's performance counters have changed. -/
def ThreadTo (i : Instr) (x : Issue) (s : State) (h : Thread) : Prop :=
  ∃ t, exec i s = .next t ∧ OnlyThread s t (co x) (th x) h

/-- The thread that has written v to rd, and with S = 1 the flags N and Z of v with C = c and V = o, and has gone on. -/
def aluTo (h : Thread) (rd : BitVec 5) (sb : Bool) (v : Word) (c o : Bool) : Thread :=
  after { setG h rd.toNat v with
    flags := if sb then { h.flags with n := v.msb, z := decide (v = 0#64), c := c, v := o } else h.flags } .seq

/-- A signed result of 64 bits overflows. -/
def overflows (v : Int) : Bool := decide (v < -2 ^ 63) || decide (2 ^ 63 ≤ v)

/-- The thread that has written vector register vd and has gone on. -/
def vecTo (h : Thread) (vd : BitVec 4) (v : BitVec 1024) : Thread := after (setV h vd.toNat v) .seq

/-- Instruction i completes with the module as in s', but for the issuing thread (now h) and the core's performance counters. -/
def StateTo (i : Instr) (x : Issue) (s s' : State) (h : Thread) : Prop :=
  ∃ t, exec i s = .next t ∧ OnlyThread s' t (co x) (th x) h

/-- Maps are in order, and the thread issues an instruction of attributes a. -/
structure Ready (x : Issue) (a : Att) (s : State) : Prop where
  order : s.ordered = true
  runs : Runs x a s

/-- Instruction i, of attributes a, takes the module from the state in which its issue is counted to s'; the thread goes on by nx, and the
core's own work goes on (`tidy`). -/
def Does (i : Instr) (x : Issue) (s s' : State) (nx : Nx) : Prop := exec i s = .next (tidy s (finish s' (co x) (th x) nx) (co x))

/-- Instruction i leaves the module as in s' and its thread in WAIT for w, with the wait classes cls (R86, R87). -/
def Sleeps (i : Instr) (x : Issue) (s s' : State) (w : Wait) (cls : Nat) : Prop :=
  exec i s = .next (tidy s (modT s' (co x) (th x) (fun h => { h with st := .wait, wait := w, waitClasses := BitVec.ofNat 6 cls })) (co x))

/-- Instruction i raises a fault in its thread. -/
def Raises (i : Instr) (x : Issue) (s s' : State) (f : FInfo) : Prop := exec i s = .next (tidy s (raise s' (co x) (th x) f) (co x))

/-- Command c of core L answers the state s', after which the core's own work goes on (`tidy`: units, ring interface, waits and fences that
end). -/
def GoesTo (c : Instr) (s s' : State) (L : Nat) : Prop := exec c s = .next (tidy s s' L)

/-- From s to t the bytes d are stored at offset off of the issuing thread's scratchpad, the thread is h, and nothing else has changed but
the core's performance counters and the marks that a store clears (R227, R230, R599): every other byte, thread, register, unit, core and
memory is as before. -/
structure Stored (s t : State) (x : Issue) (off : Nat) (d : List Byte) (h : Thread) : Prop where
  thread : thr t x = h
  threads : ∀ k, k ≠ th x → thrOf t (co x) k = thrOf s (co x) k
  bytes : ∀ a, mget 0#8 (core t x).spad.mem a =
    if off ≤ a ∧ a < off + d.length then d.getD (a - off) 0#8 else mget 0#8 (core s x).spad.mem a
  spad : { (core t x).spad with
      mem := (core s x).spad.mem, ue := (core s x).spad.ue, ce := (core s x).spad.ce, scrubFix := (core s x).spad.scrubFix } = (core s x).spad
  unit : { core t x with thr := (core s x).thr, perf := (core s x).perf, spad := (core s x).spad } = core s x
  others : ∀ K, K ≠ co x → getCore t K = getCore s K
  rest : { t with cores := s.cores, boot := { t.boot with spadWords := s.boot.spadWords } } = s

/-- The bytes [off, off + n) lie in a scratchpad, where the thread may access them, none of them in a word that an error has befallen (R49,
R53, R227). -/
structure Local (s : State) (x : Issue) (off n : Nat) (write : Bool) : Prop where
  inside : off + n ≤ 0x280000
  whole : badIn (core s x).spad.ue off n = []
  clean : badIn (core s x).spad.ce off n = []
  allowed : (thr s x).mode = .supervisor ∨ write = false ∨ off + n ≤ 0x7F800 ∨ 0x80000 ≤ off

/-- Bytes [off, off + n) of the issuing thread's scratchpad. -/
def spadBytes (s : State) (x : Issue) (off n : Nat) : List Byte := (List.range n).map (fun i => mget 0#8 (core s x).spad.mem (off + i))

/-- No watchpoint of the core is set (R588). -/
def noWatch (s : State) (x : Issue) : Prop := (core s x).dbg.wp = []

end Sys2Proof.Claims
end

