-- ==== Sys2Proof/WellFormed.lean ====
section
/-! DEFINITION. Which commands are well formed: the operands held as natural numbers and lists lie in the ranges the spec gives the fields
they stand for. Bit-vector operands need no check. -/

namespace Sys2Proof

/-- ROLE is a byte whose values 1 to 3 are the named roles (Table: roles). -/
def Role.wf (r : Role) : Bool :=
  match r with
  | .reserved v => v == 0 || decide (3 < v.toNat)
  | _ => true

/-- SESSION is four bytes of the message header (Table: message header). -/
def Path.wf (p : Path) : Bool :=
  match p with
  | .rind session _ => decide (session < 2 ^ 32)
  | _ => true

/-- The fields of an item have the widths of Table: item; a write item carries LEN bytes, a read item none. -/
def Item.wf (i : Item) : Bool :=
  decide (i.index < 2 ^ 16) && decide (i.sub < 2 ^ 8) && decide (i.type < 2 ^ 8) && decide (i.holdId < 16) && decide (i.len < 2 ^ 16) &&
    decide (i.offset < 2 ^ 32) && (i.value.length == if i.write then i.len else 0)

/-- A frame of the rind port: addresses of 48 bits, at most 64 items (R503). -/
def RindFrame.wf (f : RindFrame) : Bool :=
  decide (f.source < 2 ^ 48) && decide (f.session < 2 ^ 32) && f.role.wf && decide (f.items.length ≤ 64) && f.items.all Item.wf

/-- The module has 24 Kolid ports (R422). -/
def portWf (p : Nat) : Bool := decide (p < 24)

/-- A part fills 1 to 9 slots of its class and lane; modules have 8 bits and FAGE 15 (Table: fabric header slot). -/
def FabPart.wf (x : FabPart) : Bool :=
  decide (0 < x.slots) && decide (x.slots ≤ 9) && decide (Nat.max x.src x.dst < 256) && decide (x.fage < 2 ^ 15)

/-- A frame has a count for each of the four classes and two lanes, and 19 slots (Table: fabric frame). -/
def FabFrame.wf (f : FabFrame) : Bool :=
  f.credits.length == 8 && decide ((f.parts.map FabPart.slots).sum ≤ 19) && f.parts.all FabPart.wf

/-- An offset of the HBM (R21). -/
def hbmWf (a : Nat) : Bool := decide (a < 0xC000000000)

/-- An access of the companion stays within the HBM window or the 64 KiB register window (R462). -/
def CompOp.wf (o : CompOp) : Bool :=
  match o with
  | .hbmRead a len .. => hbmWf a && decide (len ≤ 128)
  | .hbmWrite a d => hbmWf a && decide (d.length ≤ 128)
  | .hbmAtomic a .. => hbmWf a
  | .writeBack a d => hbmWf a && decide (d.length = 64)
  | .regRead off _ | .regWrite off .. => decide (off < 65536)

/-- A training result: 0, 2 or 4 active lanes and a far end (R423, R545). -/
def TrainEnd.wf (t : TrainEnd) : Bool :=
  (t.lanes == 0 || t.lanes == 2 || t.lanes == 4) && decide (t.mask < 16) && decide (t.peerModule < 256) && portWf t.peerPort

/-- The operands of a command lie in their ranges. -/
def Instr.wf (i : Instr) : Bool :=
  match i with
  | .companionAccess _ op => op.wf
  | .fabricFrame p f => portWf p && f.wf
  | .nak p _ | .replayTimeout p | .fabricPacketAged p _ | .portDown p | .portSeq p _ | .portSeqTimeout p | .flowHoldEnd p => portWf p
  | .portRetrain p t => portWf p && t.wf
  | .bootStepAttempt e => e.macs.all (fun k => decide (k < 4))
  | .dictWrite r p it => r.wf && p.wf && it.wf && it.write
  | .dictRead r p it => r.wf && p.wf && it.wf && !it.write
  | .holdRead r p it => r.wf && p.wf && it.wf && it.hold
  | .groupEnable r p index _ => r.wf && p.wf && decide (index < 2 ^ 16)
  | .request f | .discover f | .dict f => f.wf
  | .close s _ | .sessionTimeout s => decide (s < 2 ^ 32)
  | .retireReq r p id => r.wf && p.wf && decide (id < 2 ^ 16)
  | .reinstate r p pos => r.wf && p.wf && decide (pos < 2 ^ 16)
  | .portEnable r p port _ => r.wf && p.wf && portWf port
  | .recallAnswer _ line data => hbmWf line && line % 64 == 0 && (match data with | none => true | some d => d.length == 64)
  | _ => true

end Sys2Proof
end

