-- ==== Sys2Proof/Certificates/Slice0/Obligations.lean ====
section
/-! DEFINITION. The statements for the provers, each a rule of spec/ or drawn from its sections. Sys2Proof/Safety.lean defines the words they are said in. -/

open Sys2Proof Sys2Proof.Machine Sys2Proof.Claims

/-! ### The queue, the tick, reset -/

/-- A step takes the oldest waiting command out of the queue and has exactly its effect; here the model's queue and its order are the
model's own (log 2). -/
def Obligations.StepRunsFrontCommand : Prop :=
  ∀ (c : Instr) (r : List Instr) (s : State), step { s with pending := c :: r } = exec c { s with pending := r }

/-- With no command waiting a step always answers a next state, and the queue stays empty. Outside power-on reset, with no wake traffic held,
TICK goes on by one, modulo 2⁶⁴ (R494; that the tick falls on an empty queue is the model's choice, log 2). -/
def Obligations.EmptyQueuePassesOneTick : Prop :=
  ∀ s : State, s.pending = [] → s.power.held = [] →
    ∃ t, step s = .next t ∧ t.pending = [] ∧ (s.boot.rom ≠ 3 → t.tick = (s.tick + 1) % 2 ^ 64) ∧ (s.boot.rom = 3 → t = s)

/-- Every command of the table answers a next state in every state: no command stops the module (the table's rows all have an effect). -/
def Sys2Proof.Claims.EveryCommandAnswers : Prop :=
  ∀ (c : Instr) (s : State), ∃ t, exec c s = .next t

/-- No command touches the queue of those that wait behind it. -/
def Sys2Proof.Claims.CommandsLeaveTheQueue : Prop :=
  ∀ (c : Instr) (s t : State), exec c s = .next t → t.pending = s.pending

/-- Every command of the table answers a next state in every state, and leaves the commands that wait as they were. -/
def Obligations.CommandsAnswerAndLeaveTheQueue : Prop := Claims.EveryCommandAnswers ∧ Claims.CommandsLeaveTheQueue

/-- Every step keeps every byte memory (HBM, companion memory, the scratchpads) in its canonical form. -/
def Obligations.StepKeepsMemoryCanonical : Prop :=
  ∀ s t : State, s.ordered = true → s.memWf = true → step s = .next t → t.memWf = true

/-- Every step keeps cores, threads, register files, slots, channels and rings listed in order. -/
def Obligations.StepKeepsOrder : Prop :=
  ∀ s t : State, s.ordered = true → step s = .next t → t.ordered = true

/-- The state after reset has the form that every step keeps. -/
def Sys2Proof.Claims.ResetIsOrderedAndCanonical : Prop :=
  State.reset.ordered = true ∧ State.reset.memWf = true ∧ State.reset.pending = []

/-- After reset TICK is 0, the module is in Off and BOOTING in power-on reset, the fabric and dictionary counts are 0, and every core, thread, register and counter
reads its reset value (R494, R576; the values of registers that the spec gives none are the model's choice, log 3). -/
def Sys2Proof.Claims.ResetValues : Prop :=
  State.reset.tick = 0 ∧ State.reset.power.st = 5 ∧ State.reset.boot.modState = 0 ∧ State.reset.boot.rom = 3 ∧
    (∀ L, getCore State.reset L = Core.reset) ∧ (∀ L t, thrOf State.reset L t = Thread.reset) ∧
    (∀ L t r, greg (thrOf State.reset L t) r = 0#64) ∧ (∀ a, mget 0#8 State.reset.hbm a = 0#8) ∧
    State.reset.net = [] ∧ State.reset.pending = []

/-- The state after reset has the form that every step keeps, and the values of reset (values that the spec does not give are the model's, log 3). -/
def Obligations.ResetState : Prop := Claims.ResetIsOrderedAndCanonical ∧ Claims.ResetValues

/-! ### Scalar instructions -/

/-- g0 reads as zero and discards writes; another register holds what was written, and every other register stays (R45). -/
def Obligations.RegisterFile : Prop :=
  ∀ (h : Thread) (r q : Nat) (v : Word), h.ordered = true →
    greg h 0 = 0#64 ∧ setG h 0 v = h ∧ greg (setG h r v) q = (if q = 0 then 0#64 else if q = r then v else greg h q)

/-- The two-register arithmetic of Table: ALU functions of major 0x01, with its flags; nothing but rd, the flags with S = 1, the program
counter and loop state changes. -/
def Sys2Proof.Claims.RegisterArithmetic : Prop :=
  ∀ (x : Issue) (rd rs1 rs2 : BitVec 5) (sb : Bool) (s : State), Before x attAlu s →
    let h := thr s x
    let a := reg s x rs1
    let b := reg s x rs2
    let n := b.toNat % 64
    ThreadTo (.add x rd rs1 rs2 sb) x s (aluTo h rd sb (a + b) (decide (2 ^ 64 ≤ a.toNat + b.toNat)) (overflows (a.toInt + b.toInt))) ∧
    ThreadTo (.sub x rd rs1 rs2 sb) x s (aluTo h rd sb (a - b) (decide (b.toNat ≤ a.toNat)) (overflows (a.toInt - b.toInt))) ∧
    ThreadTo (.and x rd rs1 rs2 sb) x s (aluTo h rd sb (a &&& b) false false) ∧
    ThreadTo (.or x rd rs1 rs2 sb) x s (aluTo h rd sb (a ||| b) false false) ∧
    ThreadTo (.xor x rd rs1 rs2 sb) x s (aluTo h rd sb (a ^^^ b) false false) ∧
    ThreadTo (.andn x rd rs1 rs2 sb) x s (aluTo h rd sb (a &&& ~~~b) false false) ∧
    ThreadTo (.shl x rd rs1 rs2 sb) x s (aluTo h rd sb (a <<< n) (decide (n ≠ 0) && a.getLsbD (64 - n)) false) ∧
    ThreadTo (.shr x rd rs1 rs2 sb) x s (aluTo h rd sb (a >>> n) (decide (n ≠ 0) && a.getLsbD (n - 1)) false) ∧
    ThreadTo (.sar x rd rs1 rs2 sb) x s (aluTo h rd sb (a.sshiftRight n) (decide (n ≠ 0) && a.getLsbD (n - 1)) false) ∧
    ThreadTo (.min x rd rs1 rs2 sb) x s (aluTo h rd sb (if a.toInt < b.toInt then a else b) false false) ∧
    ThreadTo (.max x rd rs1 rs2 sb) x s (aluTo h rd sb (if a.toInt < b.toInt then b else a) false false) ∧
    ThreadTo (.minu x rd rs1 rs2 sb) x s (aluTo h rd sb (if a.toNat < b.toNat then a else b) false false) ∧
    ThreadTo (.maxu x rd rs1 rs2 sb) x s (aluTo h rd sb (if a.toNat < b.toNat then b else a) false false)

/-- Multiplication and division (R81, Table: ALU functions of major 0x01). -/
def Sys2Proof.Claims.MultiplyAndDivide : Prop :=
  ∀ (x : Issue) (rd rs1 rs2 : BitVec 5) (sb : Bool) (s : State), Before x attAlu s →
    let h := thr s x
    let a := reg s x rs1
    let b := reg s x rs2
    let corner := decide (a.toInt = -2 ^ 63) && decide (b.toInt = -1)
    ThreadTo (.mul x rd rs1 rs2 sb) x s (aluTo h rd sb (BitVec.ofInt 64 (a.toInt * b.toInt)) false (overflows (a.toInt * b.toInt))) ∧
    ThreadTo (.mulh x rd rs1 rs2 sb) x s (aluTo h rd sb (BitVec.ofInt 64 (a.toInt * b.toInt / 2 ^ 64)) false false) ∧
    ThreadTo (.mulhu x rd rs1 rs2 sb) x s (aluTo h rd sb (BitVec.ofNat 64 (a.toNat * b.toNat / 2 ^ 64)) false false) ∧
    ThreadTo (.div x rd rs1 rs2 sb) x s (aluTo h rd sb
      (if b = 0#64 then BitVec.allOnes 64 else BitVec.ofInt 64 (a.toInt.tdiv b.toInt)) false (decide (b = 0#64) || corner)) ∧
    ThreadTo (.divu x rd rs1 rs2 sb) x s (aluTo h rd sb
      (if b = 0#64 then BitVec.allOnes 64 else BitVec.ofNat 64 (a.toNat / b.toNat)) false (decide (b = 0#64))) ∧
    ThreadTo (.rem x rd rs1 rs2 sb) x s (aluTo h rd sb
      (if b = 0#64 then a else BitVec.ofInt 64 (a.toInt.tmod b.toInt)) false (decide (b = 0#64) || corner)) ∧
    ThreadTo (.remu x rd rs1 rs2 sb) x s (aluTo h rd sb
      (if b = 0#64 then a else BitVec.ofNat 64 (a.toNat % b.toNat)) false (decide (b = 0#64)))

/-- Immediate arithmetic: the immediate is sign-extended, a shift count is six bits (Table: immediate functions). -/
def Sys2Proof.Claims.ImmediateArithmetic : Prop :=
  ∀ (x : Issue) (rd rs1 : BitVec 5) (imm : BitVec 11) (amt : BitVec 6) (sb : Bool) (s : State), Before x attAlu s →
    let h := thr s x
    let a := reg s x rs1
    let i := imm.signExtend 64
    let n := amt.toNat
    ThreadTo (.addi x rd rs1 imm sb) x s (aluTo h rd sb (a + i) (decide (2 ^ 64 ≤ a.toNat + i.toNat)) (overflows (a.toInt + i.toInt))) ∧
    ThreadTo (.andi x rd rs1 imm sb) x s (aluTo h rd sb (a &&& i) false false) ∧
    ThreadTo (.ori x rd rs1 imm sb) x s (aluTo h rd sb (a ||| i) false false) ∧
    ThreadTo (.xori x rd rs1 imm sb) x s (aluTo h rd sb (a ^^^ i) false false) ∧
    ThreadTo (.shli x rd rs1 amt sb) x s (aluTo h rd sb (a <<< n) (decide (n ≠ 0) && a.getLsbD (64 - n)) false) ∧
    ThreadTo (.shri x rd rs1 amt sb) x s (aluTo h rd sb (a >>> n) (decide (n ≠ 0) && a.getLsbD (n - 1)) false) ∧
    ThreadTo (.sari x rd rs1 amt sb) x s (aluTo h rd sb (a.sshiftRight n) (decide (n ≠ 0) && a.getLsbD (n - 1)) false)

/-- Scalar arithmetic: two registers, products and quotients, immediates. -/
def Obligations.ScalarArithmetic : Prop := Claims.RegisterArithmetic ∧ Claims.MultiplyAndDivide ∧ Claims.ImmediateArithmetic

/-- Counting bits, comparisons and constants: `cmp` and `cmpi` always write the flags of the difference and no register; `movk` replaces
one halfword. -/
def Sys2Proof.Claims.CountsComparisonsConstants : Prop :=
  ∀ (x : Issue) (rd rs1 rs2 : BitVec 5) (imm : BitVec 11) (i17 : BitVec 17) (i16 : BitVec 16) (hw : BitVec 2) (sb : Bool) (s : State),
    Before x attAlu s →
    let h := thr s x
    let a := reg s x rs1
    let b := reg s x rs2
    let i := imm.signExtend 64
    let lead := ((List.range 64).takeWhile (fun k => !a.getLsbD (63 - k))).length
    let trail := ((List.range 64).takeWhile (fun k => !a.getLsbD k)).length
    let ones := ((List.range 64).filter (fun k => a.getLsbD k)).length
    ThreadTo (.clz x rd rs1 sb) x s (aluTo h rd sb (BitVec.ofNat 64 lead) false false) ∧
    ThreadTo (.ctz x rd rs1 sb) x s (aluTo h rd sb (BitVec.ofNat 64 trail) false false) ∧
    ThreadTo (.popc x rd rs1 sb) x s (aluTo h rd sb (BitVec.ofNat 64 ones) false false) ∧
    ThreadTo (.cmp x rs1 rs2) x s (aluTo h 0#5 true (a - b) (decide (b.toNat ≤ a.toNat)) (overflows (a.toInt - b.toInt))) ∧
    ThreadTo (.cmpi x rs1 imm) x s (aluTo h 0#5 true (a - i) (decide (i.toNat ≤ a.toNat)) (overflows (a.toInt - i.toInt))) ∧
    ThreadTo (.movi x rd i17) x s (after (setG h rd.toNat (i17.signExtend 64)) .seq) ∧
    ThreadTo (.movk x rd i16 hw) x s (after (setG h rd.toNat
      ((reg s x rd &&& ~~~(0xFFFF#64 <<< (16 * hw.toNat))) ||| (i16.zeroExtend 64 <<< (16 * hw.toNat)))) .seq)

/-- Predicates and the flags word: `pcmp` and `pcmpi` write one predicate with the comparison (codes 1 to 10 on the flags of rs1 − operand),
`mfl` and `mtl` move the flags word of R48. -/
def Sys2Proof.Claims.PredicatesAndFlagsWord : Prop :=
  ∀ (x : Issue) (cc : BitVec 4) (p : Bool) (rs1 rs2 : BitVec 5) (imm : BitVec 12) (s : State), Before x attAlu s →
    1 ≤ cc.toNat → cc.toNat ≤ 10 →
    let h := thr s x
    let a := reg s x rs1
    let cmpTo (b : Word) : Flags :=
      let d := a - b
      let f : Flags := { n := d.msb, z := decide (d = 0#64), c := decide (b.toNat ≤ a.toNat), v := overflows (a.toInt - b.toInt),
                         p0 := false, p1 := false }
      if p then { h.flags with p1 := condHolds f cc } else { h.flags with p0 := condHolds f cc }
    ThreadTo (.pcmp x cc p rs1 rs2) x s (after { h with flags := cmpTo (reg s x rs2) } .seq) ∧
    ThreadTo (.pcmpi x cc p rs1 imm) x s (after { h with flags := cmpTo (imm.signExtend 64) } .seq) ∧
    (∃ w : Word, ThreadTo (.mfl x rs1) x s (after (setG h rs1.toNat w) .seq) ∧ w.getLsbD 0 = h.flags.v ∧ w.getLsbD 1 = h.flags.c ∧
      w.getLsbD 2 = h.flags.z ∧ w.getLsbD 3 = h.flags.n ∧ w.getLsbD 4 = h.flags.p0 ∧ w.getLsbD 5 = h.flags.p1 ∧ w.toNat < 64) ∧
    ThreadTo (.mtl x rs1) x s (after { h with flags :=
      { v := a.getLsbD 0, c := a.getLsbD 1, z := a.getLsbD 2, n := a.getLsbD 3, p0 := a.getLsbD 4, p1 := a.getLsbD 5 } } .seq)

/-- Scalar counts, comparisons, constants, predicates and the flags word. -/
def Obligations.ScalarConstantsAndPredicates : Prop := Claims.CountsComparisonsConstants ∧ Claims.PredicatesAndFlagsWord

/-! ### Control transfers, loops, modes -/

/-- `b` and `jr` have one slot: the next word comes next, then the target; a displacement counts words from the transfer (R61, R68). -/
def Sys2Proof.Claims.BranchesGoThroughTheirSlot : Prop :=
  ∀ (x : Issue) (disp : BitVec 22) (rs1 : BitVec 5) (s : State), Before x attXfer s →
    let h := thr s x
    ThreadTo (.b x disp) x s (after h (.xfer (h.pc + disp.signExtend 64 * 4#64))) ∧
    ((reg s x rs1).toNat % 4 = 0 → ThreadTo (.jr x rs1) x s (after h (.xfer (reg s x rs1))))

/-- What comes after an instruction (R49, R61, R69, R70, R90): from a slot, the pending target; after a transfer, its slot; at the end of
an active level, the start of the loop while its count is above 1, else on, with level 1 applied first; else the next word. -/
def Sys2Proof.Claims.WhereControlGoes : Prop :=
  ∀ (h : Thread) (target : Word) (nx : Nx),
    (h.slot = some target → (after h nx).pc = target ∧ (after h nx).slot = none) ∧
    (h.slot = none →
      ((after h (.xfer target)).pc = h.pc + 4#64 ∧ (after h (.xfer target)).slot = some target) ∧
      (after h (.goto target)).pc = target ∧
      ((after h .shadow).pc = h.pc + 4#64 ∧ (after h .shadow).shadow = true) ∧
      (h.loop1.lc ≠ 0#32 → h.loop1.le = h.pc → h.loop1.lc ≠ 1#32 →
        (after h .seq).pc = h.loop1.ls ∧ (after h .seq).loop1.lc = h.loop1.lc - 1#32 ∧ (after h .seq).loop0 = h.loop0) ∧
      ((h.loop1.lc = 0#32 ∨ h.loop1.le ≠ h.pc) → h.loop0.lc ≠ 0#32 → h.loop0.le = h.pc → h.loop0.lc ≠ 1#32 →
        (after h .seq).pc = h.loop0.ls ∧ (after h .seq).loop0.lc = h.loop0.lc - 1#32 ∧ (after h .seq).loop1 = h.loop1) ∧
      (h.loop1.lc = 1#32 → h.loop1.le = h.pc → h.loop0.lc = 1#32 → h.loop0.le = h.pc →
        (after h .seq).pc = h.pc + 4#64 ∧ (after h .seq).loop0.lc = 0#32 ∧ (after h .seq).loop1.lc = 0#32) ∧
      ((h.loop1.lc = 0#32 ∨ h.loop1.le ≠ h.pc) → (h.loop0.lc = 0#32 ∨ h.loop0.le ≠ h.pc) → (after h .seq).pc = h.pc + 4#64))

/-- Branches and their delay slots, and where control goes after an instruction. -/
def Obligations.BranchesAndWhereControlGoes : Prop := Claims.BranchesGoThroughTheirSlot ∧ Claims.WhereControlGoes

/-- An instruction whose condition is false has no effect but its place: the thread goes on, a transfer through its slot to the address + 8
(R44, R61). -/
def Obligations.FalseConditionHasNoEffect : Prop :=
  ∀ (x : Issue) (rd rs1 rs2 : BitVec 5) (sb : Bool) (disp : BitVec 22) (size : BitVec 2) (imm : BitVec 9) (s : State) (c : BitVec 4),
    condHolds (thr s x).flags c = false →
    let y : Issue := { x with cond := c }
    let h := thr s x
    (Before { x with cond := 0#4 } attAlu s → ThreadTo (.add y rd rs1 rs2 sb) y s (after h .seq)) ∧
    (Before { x with cond := 0#4 } attMem s → ThreadTo (.st y rd rs1 size false imm) y s (after h .seq)) ∧
    (Before { x with cond := 0#4 } attXfer s → ThreadTo (.b y disp) y s (after h (.xfer (h.pc + 8#64))))

/-- Hardware loops: `lp.setup` and `lp.setupi` set a level from the word after them, or skip the body with a count of 0; `lp.clr` clears it
(both with level 0); `lp.get` and `lp.set` move a field. Setting up level 0 inside an active level 1, or level 1 outside an active level 0,
raises 0x08; `lp.set` of a misaligned LS or LE raises 0x03 (R69, R71, R73, R74). -/
def Sys2Proof.Claims.HardwareLoops : Prop :=
  ∀ (x : Issue) (rs : BitVec 5) (cnt : BitVec 7) (off : BitVec 12) (fld : BitVec 2) (s : State), Before x (attLp false) s →
    off ≠ 0#12 → fld ≠ 3#2 →
    let h := thr s x
    let le := h.pc + 4#64 * off.zeroExtend 64
    let setup (n : BitVec 32) : Loop := { lc := n, ls := h.pc + 4#64, le := le }
    let on (n : BitVec 32) : Nx := if n = 0#32 then .goto (le + 4#64) else .seq
    let n := (reg s x rs).truncate 32
    let m : BitVec 32 := cnt.zeroExtend 32
    let v := reg s x rs
    let raises (i : Instr) (f : FInfo) : Prop := Raises i x s (counted s x (attLp false)) f
    (h.loop1.lc = 0#32 → ThreadTo (.lpSetup x false rs off) x s (after { h with loop0 := setup n } (on n)) ∧
      ThreadTo (.lpSetupi x false cnt off) x s (after { h with loop0 := setup m } (on m))) ∧
    (h.loop0.lc = 0#32 ∨ (le.toNat ≤ h.loop0.le.toNat ∧ h.loop0.ls.toNat ≤ (h.pc + 4#64).toNat) →
      ThreadTo (.lpSetup x true rs off) x s (after { h with loop1 := setup n } (on n)) ∧
      ThreadTo (.lpSetupi x true cnt off) x s (after { h with loop1 := setup m } (on m))) ∧
    ThreadTo (.lpClr x true) x s (after { h with loop1 := { h.loop1 with lc := 0#32 } } .seq) ∧
    ThreadTo (.lpClr x false) x s
      (after { h with loop1 := { h.loop1 with lc := 0#32 }, loop0 := { h.loop0 with lc := 0#32 } } .seq) ∧
    ThreadTo (.lpGet x false rs fld) x s (after (setG h rs.toNat
      (if fld = 0#2 then h.loop0.lc.zeroExtend 64 else if fld = 1#2 then h.loop0.ls else h.loop0.le)) .seq) ∧
    ThreadTo (.lpGet x true rs fld) x s (after (setG h rs.toNat
      (if fld = 0#2 then h.loop1.lc.zeroExtend 64 else if fld = 1#2 then h.loop1.ls else h.loop1.le)) .seq) ∧
    ThreadTo (.lpSet x false rs 0#2) x s (after { h with loop0 := { h.loop0 with lc := v.truncate 32 } } .seq) ∧
    ThreadTo (.lpSet x true rs 0#2) x s (after { h with loop1 := { h.loop1 with lc := v.truncate 32 } } .seq) ∧
    (v.toNat % 4 = 0 →
      ThreadTo (.lpSet x false rs 1#2) x s (after { h with loop0 := { h.loop0 with ls := v } } .seq) ∧
      ThreadTo (.lpSet x false rs 2#2) x s (after { h with loop0 := { h.loop0 with le := v } } .seq) ∧
      ThreadTo (.lpSet x true rs 1#2) x s (after { h with loop1 := { h.loop1 with ls := v } } .seq) ∧
      ThreadTo (.lpSet x true rs 2#2) x s (after { h with loop1 := { h.loop1 with le := v } } .seq)) ∧
    (h.loop1.lc ≠ 0#32 → raises (.lpSetup x false rs off) (faultOf 0x08) ∧ raises (.lpSetupi x false cnt off) (faultOf 0x08)) ∧
    (h.loop0.lc ≠ 0#32 → h.loop0.le.toNat < le.toNat ∨ (h.pc + 4#64).toNat < h.loop0.ls.toNat →
      raises (.lpSetup x true rs off) (faultOf 0x08) ∧ raises (.lpSetupi x true cnt off) (faultOf 0x08)) ∧
    (v.toNat % 4 ≠ 0 → ∀ lv, raises (.lpSet x lv rs 1#2) (faultAt 0x03 v.toNat false 0) ∧
      raises (.lpSet x lv rs 2#2) (faultAt 0x03 v.toNat false 0))

/-- `setmode` in supervisor mode sets the mode, with the next word in its shadow, and `isync` only goes on, once the thread's earlier
accesses and matrix work are complete (R76, R77, R90). -/
def Sys2Proof.Claims.SetmodeAndIsync : Prop :=
  ∀ (x : Issue) (s : State), serialBusy (core s x) (th x) = false →
    (Before x attSys s → (thr s x).mode = .supervisor →
      ThreadTo (.setmode x 0#8) x s (after { thr s x with mode := .user } .shadow) ∧
      ThreadTo (.setmode x 1#8) x s (after { thr s x with mode := .supervisor } .shadow)) ∧
    (Before x { attSys with atEnd := true } s → ThreadTo (.isync x) x s (after (thr s x) .seq))

/-- Hardware loops, `setmode` and `isync`. -/
def Obligations.LoopsModesAndIsync : Prop := Claims.HardwareLoops ∧ Claims.SetmodeAndIsync

/-! ### Calls, exceptions -/

/-- `call` and `calr` push the return address and the flags word below sp, in the scratchpad of the core, and go through their slot to the
target (R66, R48). -/
def Sys2Proof.Claims.CallsPushAndTransfer : Prop :=
  ∀ (x : Issue) (disp : BitVec 22) (rs1 : BitVec 5) (s : State), Before x attStack s →
    let h := thr s x
    let sp := (greg h 31).toNat
    let target := h.pc + disp.signExtend 64 * 4#64
    let d := toBytes 8 (h.pc + 8#64).toNat ++ toBytes 8 (flagsWord h.flags)
    let pushed (a : Word) : Thread := after (setG h 31 (BitVec.ofNat 64 (sp - 16))) (.xfer a)
    sp % 16 = 0 → 16 + h.stackLimit.toNat ≤ sp → Local s x (sp - 16) 16 true →
    (target.toNat % 4 = 0 → ∃ t, exec (.call x disp) s = .next t ∧ Stored s t x (sp - 16) d (pushed target)) ∧
    ((reg s x rs1).toNat % 4 = 0 → ∃ t, exec (.calr x rs1) s = .next t ∧ Stored s t x (sp - 16) d (pushed (reg s x rs1)))

/-- `ret` and `retf` pop the return address, `retf` also the flags and predicates, and go through their slot to it (R67). -/
def Sys2Proof.Claims.ReturnsPopAndTransfer : Prop :=
  ∀ (x : Issue) (s : State), Before x attStack s →
    let h := thr s x
    let sp := (greg h 31).toNat
    let a := BitVec.ofNat 64 (ofBytes (spadBytes s x sp 8))
    let f := ofBytes (spadBytes s x (sp + 8) 8)
    let popped (h : Thread) : Thread := after h (.xfer a)
    let h' := setG h 31 (BitVec.ofNat 64 (sp + 16))
    sp % 16 = 0 → Local s x sp 16 false → a.toNat % 4 = 0 →
    ThreadTo (.ret x) x s (popped h') ∧ ThreadTo (.retf x) x s (popped { h' with flags := flagsOf f })

/-- Calls push the return address and returns pop it. -/
def Obligations.CallsAndReturns : Prop := Claims.CallsPushAndTransfer ∧ Claims.ReturnsPopAndTransfer

/-- An exception, interrupt or event whose frame fits the thread's stack in the scratchpad: the 16 words of the frame are stored below sp, the
thread is READY in supervisor mode with AE 0, its loops inactive and its slot gone, at the vector, and nothing else changes (R92, Table:
exception frame, Table: vectors). -/
def Sys2Proof.Claims.ExceptionEntry : Prop :=
  ∀ (x : Issue) (s : State) (e : Entry),
    let h := thr s x
    let sp := (greg h 31).toNat
    s.ordered = true → sp % 16 = 0 → 128 + h.stackLimit.toNat ≤ sp → Local s x (sp - 128) 128 true →
    h.dbg.stepping = false →
    Stored s (takeException s (co x) (th x) e) x (sp - 128) (bytesOf (frameWords h (th x) e false))
      (enterThread h (core s x).sup.vbar (BitVec.ofNat 64 (sp - 128)) e)

/-- Where the frame of thread 0 cannot be written (sp misaligned, too low for the stack limit, its 128 bytes not writable without a fault, or a
request of the push answered by ERROR_RESP) the frame goes to slot 0 at 0x7F800 and the core stops with subcode 1 (R92, R101). -/
def Sys2Proof.Claims.LastResortOfThreadZero : Prop :=
  ∀ (L : Nat) (s : State) (e : Entry), s.ordered = true →
    let h := thrOf s L 0
    let sp := (greg h 31).toNat
    let f := faultAt 0x0D (sp - 128) true 128
    let begun : State := modT s L 0 (fun h =>
      { h with st := .ready, wait := .none, waitClasses := 0#6, held := .none, acc := [], entry := some e })
    let stopped (z : State) : State := coreStop (spadWrite z L 0x7F800 (bytesOf (frameWords (thrOf z L 0) 0 e true))) L 1 0
    let stops (z : State) : Prop := takeException s L 0 e = stopped z
    (sp % 16 ≠ 0 ∨ sp < 128 + h.stackLimit.toNat → stops begun) ∧
    (sp % 16 = 0 → 128 + h.stackLimit.toNat ≤ sp →
      ∀ z g, resolve begun L 0 h.mode .store (sp - 128) 128 f = .fault z g → stops z) ∧
    (∀ i id reason p r d g m, running s = true → mayArrive s i = some p → p.dst = .core L → p.body = .errorResp id reason →
      (findOut (getCore s L) id).map (·.kind) = some (.accWrite 0#4 r d g m) → h.held = .access id → h.entry = some e →
      GoesTo (.errorResp i) s
        (stopped (modT (dropOut (takePkt s i) L id) L 0 (fun h => dropWatch { h with held := .none }))) L)

/-- Entering a handler, and the last resort of thread 0. -/
def Obligations.ExceptionsEnterTheHandler : Prop := Claims.ExceptionEntry ∧ Claims.LastResortOfThreadZero

/-- `trap n` completes and enters cause 0x10 with n in the frame and the next instruction's address; an illegal word enters cause 0x01 with
its own address, whatever its condition; `setmode` in user mode enters cause 0x02 (R43, R44, R75, R76, R92). -/
def Obligations.TrapsAndFaultsEnterTheHandler : Prop :=
  ∀ (x : Issue) (n : BitVec 8) (w : BitVec 32) (s : State),
    let h := thr s x
    let sp := (greg h 31).toNat
    let entry (cause trap : Nat) (pc : Word) : Entry :=
      { cause := cause, int := 0, trap := trap, async := false, addr := 0, detail := 0#64, pc := pc }
    let enters (i : Instr) (e : Entry) : Prop := ∃ t, exec i s = .next t ∧
      Stored s t x (sp - 128) (bytesOf (frameWords h (th x) e false))
        (enterThread h (core s x).sup.vbar (BitVec.ofNat 64 (sp - 128)) e)
    sp % 16 = 0 → 128 + h.stackLimit.toNat ≤ sp → Local s x (sp - 128) 128 true →
    (Before x attSys s → enters (.trap x n) (entry 0x10 n.toNat (h.pc + 4#64))) ∧
    (Before { x with cond := 0#4 } attAlu s → wordIllegal w = true → enters (.illegalInstruction x w) (entry 0x01 0 h.pc)) ∧
    (Before x attSys s → h.mode = .user → n.toNat ≤ 1 → enters (.setmode x n) (entry 0x02 0 h.pc))

/-- `eret` restores the thread from the 16 words at sp: program counter, flags, mode, AE, slot, loops, PROG, g1 to g4 and sp, and counts the
nesting down (R97, R98). -/
def Sys2Proof.Claims.EretRestoresTheFrame : Prop :=
  ∀ (x : Issue) (s : State), Before x { attSys with obs := 0, mem := true } s →
    let h := thr s x
    let sp := (greg h 31).toNat
    let w := wordsOf 16 (spadBytes s x sp 128)
    h.mode = .supervisor → serialBusy (core s x) (th x) = false → sp % 16 = 0 → Local s x sp 128 false → frameMisaligned w = false →
    ThreadTo (.eret x) x s (restoreThread h w)

/-- What an entry saves, `eret` brings back: the frame of a thread gives back its place, flags, mode, AE, slot, loops, PROG, g1 to g4 and sp;
between the two both loop levels are clear (R97, R107). -/
def Sys2Proof.Claims.EretUndoesEntry : Prop :=
  ∀ (h q : Thread) (t : Nat) (e : Entry) (vbar sp : Word) (lrs : Bool), q.ordered = true →
    let r := restoreThread q (frameWords h t e lrs)
    let i := enterThread h vbar sp e
    i.loop0 = { h.loop0 with lc := 0#32 } ∧ i.loop1 = { h.loop1 with lc := 0#32 } ∧ r.loop0 = h.loop0 ∧ r.loop1 = h.loop1 ∧
    r.pc = e.pc ∧ r.flags = h.flags ∧ r.mode = h.mode ∧ r.ae = h.ae ∧ r.slot = h.slot ∧ r.prog = h.prog ∧
    (∀ k, k = 1 ∨ k = 2 ∨ k = 3 ∨ k = 4 ∨ k = 31 → greg r k = greg h k) ∧
    (∀ k, k = 0 ∨ (5 ≤ k ∧ k < 31) → greg r k = greg q k)

/-- `eret` restores the frame at sp, and what an entry saved. -/
def Obligations.EretRestoresEntry : Prop := Claims.EretRestoresTheFrame ∧ Claims.EretUndoesEntry

/-- A pending enabled doorbell, else timer, and else the oldest event (thread 0), is taken by a thread with AE set at a boundary: it enters
the handler, and the pending bit or the event goes (R110, R111). -/
def Obligations.InterruptsAndEventsAreTaken : Prop :=
  ∀ (x : Issue) (s : State) (r : Word) (rest : List Word),
    let h := thr s x
    let c := core s x
    let sp := (greg h 31).toNat
    let entry (cause int : Nat) (detail : Word) : Entry :=
      { cause := cause, int := int, trap := 0, async := true, addr := 0, detail := detail, pc := h.pc }
    let entered (e : Entry) : Thread := enterThread h c.sup.vbar (BitVec.ofNat 64 (sp - 128)) e
    s.ordered = true → PressRest s → Quiet c → coreOn s (co x) = true → c.sup.ctrlBad = false → h.ctxBad = false → mayTake c (th x) = true →
    h.st = .ready → Plain h → sp % 16 = 0 → 128 + h.stackLimit.toNat ≤ sp → Local s x (sp - 128) 128 true →
    (th x ≠ 0 → h.pendDoorbell = true → h.doorbellEn = true → ∃ t, exec (.takeInterrupt x.core x.thread) s = .next t ∧
      Stored s t x (sp - 128) (bytesOf (frameWords h (th x) (entry 0 1 0#64) false))
        { entered (entry 0 1 0#64) with pendDoorbell := false }) ∧
    (th x ≠ 0 → h.pendDoorbell = false → h.pendTimer = true → h.timerEn = true → ∃ t, exec (.takeInterrupt x.core x.thread) s = .next t ∧
      Stored s t x (sp - 128) (bytesOf (frameWords h (th x) (entry 0 2 0#64) false))
        { entered (entry 0 2 0#64) with pendTimer := false }) ∧
    (th x = 0 → c.sup.evq = r :: rest → ∃ t, exec (.takeEvent x.core) s = .next t ∧
      thr t x = entered (entry (bits r 7 0) 0 r) ∧ (core t x).sup = { c.sup with evq := rest } ∧
      spadBytes t x (sp - 128) 128 = bytesOf (frameWords h 0 (entry (bits r 7 0) 0 r) false) ∧
      (∀ K, K ≠ co x → getCore t K = getCore s K) ∧ t.hbm = s.hbm ∧ t.comp = s.comp)

/-! ### Loads, stores and atomics -/

/-- What follows a command leaves a core without other work as it is, and every other part of the module. -/
def Obligations.QuietCoreStays : Prop :=
  ∀ (s s' : State) (L t : Nat), s'.ordered = true → PressRest s' → t < 16 → (thrOf s' L t).st = .ready → Quiet (getCore s' L) →
    (∀ u < 16, (getThr (getCore s L) u).st = (getThr (getCore s' L) u).st) →
    (getCore s L).sup.evq = (getCore s' L).sup.evq →
    (∀ K, getCore (tidy s s' L) K = getCore s' K) ∧ { tidy s s' L with cores := s'.cores } = s'

/-- Loads from the core's own scratchpad, aligned: rd takes the bytes, least significant first, extended by the sign bit of the word
(R10, R57, R58); `ld.acq` then acquires (R274). Nothing else changes. -/
def Obligations.LocalLoads : Prop :=
  ∀ (x : Issue) (rd rs1 rs2 : BitVec 5) (size : BitVec 2) (sign scale : Bool) (imm : BitVec 9) (s : State), Before x attMem s →
    noWatch s x → (sign && size == 3#2) = false →
    let h := thr s x
    let n := 2 ^ size.toNat
    let value (a : Nat) : Word :=
      let v := ofBytes (spadBytes s x a n)
      if sign then BitVec.ofInt 64 (if v < 2 ^ (8 * n - 1) then (v : Int) else (v : Int) - 2 ^ (8 * n)) else BitVec.ofNat 64 v
    let m := (reg s x rs1 + imm.signExtend 64 * BitVec.ofNat 64 n).toNat
    let y := (reg s x rs1 + (if scale then reg s x rs2 * BitVec.ofNat 64 n else reg s x rs2)).toNat
    (m % n = 0 → Local s x m n false →
      ThreadTo (.ld x rd rs1 size sign imm) x s (after (setG h rd.toNat (value m)) .seq) ∧
      StateTo (.ldAcq x rd rs1 size sign imm) x s (modCore s (co x) acquire) (after (setG h rd.toNat (value m)) .seq)) ∧
    (y % n = 0 → Local s x y n false →
      ThreadTo (.ldx x rd rs1 rs2 size sign scale) x s (after (setG h rd.toNat (value y)) .seq))

/-- Stores to the core's own scratchpad, aligned: the low bytes of the register, least significant first, and no other byte (R10, R57,
R58). -/
def Obligations.LocalStores : Prop :=
  ∀ (x : Issue) (rd rs1 rs2 : BitVec 5) (size : BitVec 2) (scale : Bool) (imm : BitVec 9) (s : State), Before x attMem s →
    noWatch s x →
    let n := 2 ^ size.toNat
    let d := toBytes n (reg s x rd).toNat
    let m := (reg s x rs1 + imm.signExtend 64 * BitVec.ofNat 64 n).toNat
    let y := (reg s x rs1 + (if scale then reg s x rs2 * BitVec.ofNat 64 n else reg s x rs2)).toNat
    (m % n = 0 → Local s x m n true →
      ∃ t, exec (.st x rd rs1 size false imm) s = .next t ∧ Stored s t x m d (after (thr s x) .seq)) ∧
    (y % n = 0 → Local s x y n true →
      ∃ t, exec (.stx x rd rs1 rs2 size false scale) s = .next t ∧ Stored s t x y d (after (thr s x) .seq))

/-- The operations of the atomics on words of 32 and 64 bits (Table: atomic operations): the new value from the old one, rs2 and, for `cas`,
rd. -/
def Sys2Proof.Claims.AtomicOperations : Prop :=
  (∀ o a r : BitVec 64, amoNew .swap 64 o.toNat a.toNat r.toNat = a.toNat ∧
    amoNew .cas 64 o.toNat a.toNat r.toNat = (if o = r then a else o).toNat ∧ amoNew .add 64 o.toNat a.toNat r.toNat = (o + a).toNat ∧
    amoNew .and 64 o.toNat a.toNat r.toNat = (o &&& a).toNat ∧ amoNew .or 64 o.toNat a.toNat r.toNat = (o ||| a).toNat ∧
    amoNew .xor 64 o.toNat a.toNat r.toNat = (o ^^^ a).toNat ∧
    amoNew .min 64 o.toNat a.toNat r.toNat = (if a.toInt < o.toInt then a else o).toNat ∧
    amoNew .max 64 o.toNat a.toNat r.toNat = (if o.toInt < a.toInt then a else o).toNat ∧
    amoNew .minu 64 o.toNat a.toNat r.toNat = min o.toNat a.toNat ∧ amoNew .maxu 64 o.toNat a.toNat r.toNat = max o.toNat a.toNat) ∧
  (∀ (op : AmoOp) (o a r : Word), amoNew op 32 o.toNat a.toNat r.toNat =
    amoNew op 32 (o.toNat % 2 ^ 32) (a.toNat % 2 ^ 32) (r.toNat % 2 ^ 32) ∧ amoNew op 32 o.toNat a.toNat r.toNat < 2 ^ 32)

/-- Atomics on the core's own scratchpad: the operation's value is stored, the old one is returned zero-extended, and with ORD the
thread then acquires (R368, R370). -/
def Sys2Proof.Claims.LocalAtomics : Prop :=
  ∀ (x : Issue) (rd rs1 rs2 : BitVec 5) (eight ord : Bool) (s : State), Before x attMem s → noWatch s x →
    (ord = true → relBusy (core s x) (th x) = false) →
    let a := (reg s x rs1).toNat
    let n := if eight then 8 else 4
    let old := ofBytes (spadBytes s x a n)
    let does (op : AmoOp) (i : Instr) : Prop := ∃ t, exec i s = .next t ∧
      Stored (if ord then modCore s (co x) acquire else s) t x a
        (toBytes n (amoNew op (8 * n) old (reg s x rs2).toNat (reg s x rd).toNat))
        (after (setG (thr s x) rd.toNat (BitVec.ofNat 64 old)) .seq)
    a % n = 0 → Local s x a n true →
    does .swap (.amoSwap x rd rs1 rs2 eight ord) ∧ does .cas (.amoCas x rd rs1 rs2 eight ord) ∧
    does .add (.amoAdd x rd rs1 rs2 eight ord) ∧ does .and (.amoAnd x rd rs1 rs2 eight ord) ∧
    does .or (.amoOr x rd rs1 rs2 eight ord) ∧ does .xor (.amoXor x rd rs1 rs2 eight ord) ∧
    does .min (.amoMin x rd rs1 rs2 eight ord) ∧ does .max (.amoMax x rd rs1 rs2 eight ord) ∧
    does .minu (.amoMinu x rd rs1 rs2 eight ord) ∧ does .maxu (.amoMaxu x rd rs1 rs2 eight ord)

/-- What each atomic operation computes, and atomics on the own scratchpad. -/
def Obligations.Atomics : Prop := Claims.AtomicOperations ∧ Claims.LocalAtomics

/-- A misaligned load or store enters cause 0x03 with the address, and nothing is loaded or stored (R59). -/
def Obligations.MisalignedAccessesFault : Prop :=
  ∀ (x : Issue) (rd rs1 : BitVec 5) (size : BitVec 2) (imm : BitVec 9) (s : State), Before x attMem s →
    let h := thr s x
    let sp := (greg h 31).toNat
    let m := (reg s x rs1 + imm.signExtend 64 * BitVec.ofNat 64 (2 ^ size.toNat)).toNat
    let detail (write : Bool) : Word := BitVec.ofNat 64 ((if write then 1 else 0) + 8 * size.toNat)
    let entry (write : Bool) : Entry :=
      { cause := 0x03, int := 0, trap := 0, async := false, addr := m, detail := detail write, pc := h.pc }
    let enters (i : Instr) (e : Entry) : Prop := ∃ t, exec i s = .next t ∧
      Stored s t x (sp - 128) (bytesOf (frameWords h (th x) e false))
        (enterThread h (core s x).sup.vbar (BitVec.ofNat 64 (sp - 128)) e)
    m % 2 ^ size.toNat ≠ 0 → sp % 16 = 0 → 128 + h.stackLimit.toNat ≤ sp → Local s x (sp - 128) 128 true →
    enters (.ld x rd rs1 size false imm) (entry false) ∧ enters (.st x rd rs1 size false imm) (entry true)

/-- Responses of the mesh: the packet and the outstanding request go, and a load, a fill, an atomic or a store that waited for its home
completes its thread: a load and an atomic write rd, a line that arrives is installed unless an acquire has passed, and a store that filled
its line merges its bytes (R88, R234, R271, R274, R276, R278, R370). -/
def Obligations.ResponsesCompleteRequests : Prop :=
  ∀ (s : State) (i id L : Nat) (p : Packet) (t : BitVec 4) (rd : BitVec 5) (n va : Nat) (sx acq eight ord no k : Bool) (data d : List Byte)
    (old : Word) (l : DLine) (z : State), s.ordered = true → mayArrive s i = some p → p.dst = .core L → coreOn s L = true →
    (thrOf s L t.toNat).held = .access id →
    let s1 := dropOut (takePkt s i) L id
    let isFor (o : OutKind) : Prop := (findOut (getCore s L) id).map (·.kind) = some o
    let acquires (b : Bool) : State := if b then modCore s1 L acquire else s1
    let loads (z : State) (b : List Byte) (sx : Bool) : State := finish (wg z L t.toNat rd (loadVal b sx)) L t.toNat .seq
    let stores (z : State) : State := finish z L t.toNat .seq
    (p.body = .readData id data [] k → isFor (.load t rd n sx acq va) → GoesTo (.readData i) s (loads (acquires acq) data sx) L) ∧
    (p.body = .readData id data [] k → isFor (.fillLoad t rd n sx va l no) →
      (if no then z = s1 else installLine s1 L { l with data := data } = some z) →
      GoesTo (.cacheFill i) s (loads z ((data.drop (va % 64)).take n) sx) L) ∧
    (p.body = .readData id data [] k → isFor (.fillStore t va d l) →
      installLine s1 L { mergeLine { l with data := data, poison := [] } va d with dirty := true } = some z →
      GoesTo (.cacheFill i) s (stores z) L) ∧
    (p.body = .atomicData id old false → isFor (.atomic t rd eight ord va) →
      GoesTo (.atomicData i) s (loads (acquires ord) (toBytes 8 old.toNat) false) L) ∧
    (p.body = .writeAck id → isFor (.store t va n d) →
      GoesTo (.writeAck i) s (stores (if d = [] then s1 else mergeAt s1 L va d false)) L)

/-! ### The vector unit -/

/-- Elementwise vector instructions of two and three operands, in every lane format that their function table permits: vd takes the lanes'
results, in fast or Sloe arithmetic, and nothing else changes (R195–R198, R201). -/
def Sys2Proof.Claims.VectorElementwise : Prop :=
  ∀ (x : Issue) (vd va vb : BitVec 4) (sl : Bool) (ty : BitVec 3) (s : State), Before x (attVec true) s → ty.toNat ≤ 6 →
    let h := thr s x
    let f := laneFmt ty.toNat
    let a := vec s x va
    let b := vec s x vb
    let d := vec s x vd
    let does (i : Instr) (v : BitVec 1024) : Prop := ThreadTo i x s (vecTo h vd v)
    let lanes2 (g : Nat → Nat → Nat) : BitVec 1024 := ofElems f.bits (List.zipWith g (elems f.bits a) (elems f.bits b))
    (ty.toNat ≤ 4 →
      does (.vAdd x vd va vb sl ty) (arith2 Val.add (· + ·) sl f a b) ∧
      does (.vSub x vd va vb sl ty) (arith2 (fun p q => Val.add p q.neg) (· - ·) sl f a b) ∧
      does (.vMul x vd va vb sl ty) (arith2 Val.mul (· * ·) sl f a b) ∧
      does (.vMin x vd va vb sl ty) (lanes2 (laneMin false f sl)) ∧
      does (.vMax x vd va vb sl ty) (lanes2 (laneMin true f sl)) ∧
      does (.vCmpeq x vd va vb sl ty) (lanes2 (fun p q =>
        laneMask f (!laneNan f p && !laneNan f q && !laneLt f sl p q && !laneLt f sl q p))) ∧
      does (.vCmplt x vd va vb sl ty) (lanes2 (fun p q => laneMask f (laneLt f sl p q))) ∧
      does (.vCmple x vd va vb sl ty) (lanes2 (fun p q => laneMask f (!laneNan f p && !laneNan f q && !laneLt f sl q p)))) ∧
    ((ty.toNat = 0 ∨ ty.toNat = 2 ∨ ty.toNat = 3) →
      does (.vDiv x vd va vb sl ty) (lanes2 (fnLane .div true f ty.toNat sl)) ∧
      does (.vLdexp x vd va vb sl ty) (lanes2 (fun p q =>
        let k : Int := if 2 ^ (f.bits - 1) ≤ q then (q : Int) - 2 ^ f.bits else q
        outLane f sl ((decode f (inLane f sl p)).scale (max (-1024) (min 1024 k)))))) ∧
    ((ty.toNat = 1 ∨ ty.toNat = 4) →
      does (.vShl x vd va vb sl ty) (lanes2 (fun p q => p * 2 ^ (q % f.bits) % 2 ^ f.bits)) ∧
      does (.vShr x vd va vb sl ty) (lanes2 (fun p q => p / 2 ^ (q % f.bits))) ∧
      does (.vSar x vd va vb sl ty) (lanes2 (fun p q => satInt f (laneInt f p / 2 ^ (q % f.bits))))) ∧
    does (.vAnd x vd va vb sl ty) (a &&& b) ∧ does (.vOr x vd va vb sl ty) (a ||| b) ∧ does (.vXor x vd va vb sl ty) (a ^^^ b) ∧
    does (.vPerm x vd va vb sl ty) (ofElems f.bits ((elems f.bits b).map (fun i => (elems f.bits a).getD (i % lanesOf f) 0))) ∧
    does (.vSel x vd va vb sl ty) (ofElems f.bits (List.zipWith (fun p z => if z ≠ 0 then p.1 else p.2)
      ((elems f.bits a).zip (elems f.bits b)) (elems f.bits d))) ∧
    (ty.toNat ≤ 3 →
      does (.vFma x vd va vb sl ty) (arith3 (fun p q r => Val.add (Val.mul p q) r) (fun p q r => p * q + r) sl f a b d) ∧
      does (.vFms x vd va vb sl ty) (arith3 (fun p q r => Val.add (Val.mul p q) r.neg) (fun p q r => p * q - r) sl f a b d) ∧
      does (.vFnma x vd va vb sl ty) (arith3 (fun p q r => Val.add (Val.mul p q).neg r) (fun p q r => -(p * q) + r) sl f a b d)) ∧
    (ty.toNat = 4 →
      does (.vDpa x vd va vb sl ty) (ofElems 32 ((elems 32 d).zipIdx.map (fun p => satInt .int32 (laneInt .int32 p.1 +
        (((List.zipWith (fun q r => laneInt .int8 q * laneInt .int8 r) (elems 8 a) (elems 8 b)).drop (4 * p.2)).take 4).foldl (· + ·) 0)))))

/-- Vector instructions of one operand: sign operations, the functions of R201, block scales, reductions, moves and lane access. -/
def Sys2Proof.Claims.VectorUnary : Prop :=
  ∀ (x : Issue) (vd va : BitVec 4) (r : BitVec 5) (lane : BitVec 7) (sl : Bool) (ty : BitVec 3) (s : State),
    Before x (attVec true) s → ty.toNat ≤ 6 →
    let h := thr s x
    let f := laneFmt ty.toNat
    let a := vec s x va
    let does (i : Instr) (v : BitVec 1024) : Prop := ThreadTo i x s (vecTo h vd v)
    let lanes1 (g : Nat → Nat) : BitVec 1024 := ofElems f.bits ((elems f.bits a).map g)
    let fn (k : Fn) (exact : Bool) : BitVec 1024 := lanes1 (fun n => fnLane k exact f ty.toNat sl n 0)
    let red (g : List Nat → Nat) (gi : List Int → Int) : BitVec 1024 :=
      if f.isInt then ofElems 32 [satInt .int32 (gi ((elems f.bits a).map (laneInt f)))] else ofElems f.bits [g (elems f.bits a)]
    does (.vNeg x vd va sl ty) (lanes1 (fun n => if f.isInt then satInt f (-(laneInt f n)) else (n + 2 ^ (f.bits - 1)) % 2 ^ f.bits)) ∧
    does (.vAbs x vd va sl ty) (lanes1 (fun n => if f.isInt then satInt f ((laneInt f n).natAbs) else n % 2 ^ (f.bits - 1))) ∧
    does (.vMov x vd va sl ty) a ∧
    ((ty.toNat = 0 ∨ ty.toNat = 2 ∨ ty.toNat = 3) →
      does (.vRcp x vd va sl ty) (fn .rcp true) ∧ does (.vSqrt x vd va sl ty) (fn .sqrt true) ∧
      does (.vRsqrt x vd va sl ty) (fn .rsqrt false) ∧ does (.vExp2 x vd va sl ty) (fn .exp2 false) ∧
      does (.vLog2 x vd va sl ty) (fn .log2 false) ∧ does (.vExp x vd va sl ty) (fn .exp false) ∧
      does (.vTanh x vd va sl ty) (fn .tanh false) ∧ does (.vSigm x vd va sl ty) (fn .sigm false) ∧
      does (.vSin x vd va sl ty) (fn .sin false) ∧ does (.vCos x vd va sl ty) (fn .cos false)) ∧
    ((ty.toNat = 0 ∨ ty.toNat = 2) →
      does (.vBscale x vd va sl ty) (ofElems 8 ((List.range (lanesOf f / 32)).map (fun b =>
        blockScaleOf ((((elems f.bits a).map (decode f)).drop (32 * b)).take 32))))) ∧
    (ty.toNat ≤ 4 →
      does (.vRadd x vd va sl ty) (red (fun l =>
        if sl then l.tail.foldl (fun p n => rnd f (Val.add (decode f p) (decode f n))) (l.headD 0) else treeAdd f 8 l)
        (fun l => l.foldl (· + ·) 0)) ∧
      does (.vRmax x vd va sl ty) (red (fun l => l.tail.foldl (laneMin true f true) (l.headD 0)) (fun l => l.tail.foldl max (l.headD 0))) ∧
      does (.vRmin x vd va sl ty) (red (fun l => l.tail.foldl (laneMin false f true) (l.headD 0))
        (fun l => l.tail.foldl min (l.headD 0)))) ∧
    does (.vSplat x r vd 0#7 ty) (ofElems f.bits (List.replicate (lanesOf f) ((reg s x r).toNat % 2 ^ f.bits))) ∧
    (lane.toNat < lanesOf f →
      ThreadTo (.vGetl x r va lane ty) x s
        (after (setG h r.toNat (BitVec.ofNat 64 ((elems f.bits a).getD lane.toNat 0))) .seq) ∧
      does (.vSetl x r vd lane ty) (putElems f.bits lane.toNat [(reg s x r).toNat % 2 ^ f.bits] (vec s x vd)))

/-- Vector arithmetic on elements. -/
def Obligations.VectorArithmetic : Prop := Claims.VectorElementwise ∧ Claims.VectorUnary

/-- Integer lanes: addition, subtraction and multiplication saturate at the ends of the lane (R196); reading a lane back gives the value
clamped. -/
def Sys2Proof.Claims.IntegerLanesSaturate : Prop :=
  ∀ (sl : Bool) (f : Fmt) (a b : BitVec 1024) (i : Nat), (f = .int8 ∨ f = .int32) → i < lanesOf f →
    let lane (v : BitVec 1024) : Int := laneInt f ((elems f.bits v).getD i 0)
    let clamp (v : Int) : Int := max (-2 ^ (f.bits - 1)) (min (2 ^ (f.bits - 1) - 1) v)
    lane (arith2 Val.add (· + ·) sl f a b) = clamp (lane a + lane b) ∧
    lane (arith2 (fun p q => Val.add p q.neg) (· - ·) sl f a b) = clamp (lane a - lane b) ∧
    lane (arith2 Val.mul (· * ·) sl f a b) = clamp (lane a * lane b)

/-- Conversions under a control word whose reserved bits are zero: `v.cvt` of or into the part that PART names,
`v.pack4` into its part, `v.unpack4`; the rounding draws only from the core's lane generator, and counts only with TALLY_EN (R202–R207). -/
def Sys2Proof.Claims.VectorConversions : Prop :=
  ∀ (x : Issue) (vd va : BitVec 4) (rc : BitVec 5) (ty : BitVec 3) (s : State), Before x (attVec true) s → ty.toNat ≤ 6 →
    let w := reg s x rc
    let f := laneFmt ty.toNat
    let g := laneFmt (bits w 2 0)
    let a := vec s x va
    let conv (d : Fmt) (sat : Bool) (vs : List Val) : State × List Nat := vconv s (co x) w d sat vs
    cvtResv w = false →
    (bits w 31 24 = 0 → bits w 2 0 ≠ 7 → bits w 12 10 < max (lanesOf f) (lanesOf g) / min (lanesOf f) (lanesOf g) →
      let n := min (lanesOf f) (lanesOf g)
      let e := elems f.bits a
      let part := if lanesOf g < lanesOf f then (e.drop (bits w 12 10 * n)).take n else e.take n
      let r := conv g (bit w 5) (part.map (fun i => (decode f i).scale (kscale w)))
      StateTo (.vCvt x vd va rc ty) x s r.1 (vecTo (thr s x) vd
        (if lanesOf f < lanesOf g then putElems g.bits (bits w 12 10 * n) r.2 (vec s x vd) else ofElems g.bits r.2))) ∧
    ((ty.toNat = 0 ∨ ty.toNat = 2) → bits w 23 16 = 0 → bits w 2 0 < 2 → lanesOf f / 32 * bits w 12 10 < 8 →
      let r := conv (fmt4 w) true ((elems f.bits a).map (fun i => scaled4 (bits w 31 24) false (decode f i)))
      StateTo (.vPack4 x vd va rc ty) x s r.1
        (vecTo (thr s x) vd (putElems 4 (32 * (lanesOf f / 32) * bits w 12 10) r.2 (vec s x vd)))) ∧
    (ty.toNat = 0 → bits w 23 16 = 0 → bits w 2 0 < 2 →
      let r := conv .fp32 (bit w 5)
        ((((elems 4 a).drop (32 * bits w 12 10)).take 32).map (fun i => scaled4 (bits w 31 24) true (decode (fmt4 w) i)))
      StateTo (.vUnpack4 x vd va rc ty) x s r.1 (vecTo (thr s x) vd (ofElems 32 r.2)))

/-- `v.seed` loads the lane generators from rs, `v.tally` counts the lanes of a register into a set (R208, R212). -/
def Sys2Proof.Claims.SeedsAndTallies : Prop :=
  ∀ (x : Issue) (va : BitVec 4) (rs : BitVec 5) (set ty : BitVec 3) (s : State), Before x (attVec true) s → ty.toNat ≤ 6 →
    let c := core s x
    let f := laneFmt ty.toNat
    StateTo (.vSeed x rs) x s
      (setCore s (co x) { c with vlanes := (List.range 32).map (laneSeed ((reg s x rs).truncate 32)) }) (after (thr s x) .seq) ∧
    StateTo (.vTally x va set ty) x s
      (setCore s (co x) { c with mtx := tallyRows c.mtx f set.toNat ((elems f.bits (vec s x va)).map (fun i => elemCls (decode f i))) })
      (after (thr s x) .seq)

/-- Integer lanes, conversions, the random lanes and the tallies. -/
def Obligations.VectorIntegersConversionsTallies : Prop := Claims.IntegerLanesSaturate ∧ Claims.VectorConversions ∧ Claims.SeedsAndTallies

/-- Vector loads and stores of 128 bytes of the core's own scratchpad, aligned to 64 (R209). -/
def Obligations.VectorLocalMemory : Prop :=
  ∀ (x : Issue) (v : BitVec 4) (rs1 rs2 : BitVec 5) (s : State), Before x attVmem s → noWatch s x →
    let a := (reg s x rs1 + reg s x rs2).toNat
    a % 64 = 0 →
    (Local s x a 128 false →
      ThreadTo (.vLd x v rs1 rs2) x s (vecTo (thr s x) v (BitVec.ofNat 1024 (ofBytes (spadBytes s x a 128))))) ∧
    (Local s x a 128 true → ∃ t, exec (.vSt x v rs1 rs2) s = .next t ∧
      Stored s t x a (toBytes 128 (vec s x v).toNat) (after (thr s x) .seq))

/-! ### Thread commands, IO-space, the supervisor's timers -/

/-- The thread commands: a supervisor's `out` to THR_CTLn sets its fields, then the thread takes the command its state permits, or sets
CMD_IGNORED; thread 0 takes none (R85, R89, Table: thread commands; that INJECT takes INJ_CAUSE 0x15 is the model's choice, log 48). -/
def Obligations.ThreadCommands : Prop :=
  ∀ (x : Issue) (n : BitVec 4) (v : Word) (s : State), Ready x (attOut (32 * n.toNat)) s → (thr s x).mode = .supervisor →
    serialBusy (core s x) (th x) = false → n.toNat ≠ th x →
    let z := counted s x (attOut (32 * n.toNat))
    let h := thrOf s (co x) n.toNat
    let c : Thread := { h with
      startMode := if v.getLsbD 3 then .supervisor else .user, startAE := v.getLsbD 4, ae := v.getLsbD 5,
      injCause := v.toNat / 256 % 256, doorbellEn := v.getLsbD 16, timerEn := v.getLsbD 17 }
    let does (i : Instr) (k : Thread) : Prop := Does i x s (setCore z (co x) (setThr (getCore z (co x)) n.toNat k)) .seq
    let ignored : Thread := { c with cmdIgnored := true }
    (n = 0#4 → does (.start x n v) ignored ∧ does (.kill x n v) ignored ∧ does (.release x n v) ignored ∧
      does (.inject x n v) ignored ∧ does (.resume x n v) ignored) ∧
    (n ≠ 0#4 →
      ((h.st = .free ∨ h.st = .stopped) → ∃ k, does (.start x n v) k ∧ k.st = .ready ∧ k.mode = c.startMode ∧ k.ae = c.startAE ∧
        k.pc = h.pc ∧ greg k 31 = h.thrSp ∧ (∀ r, r ≠ 31 → greg k r = 0#64) ∧ k.flags = Flags.zero ∧ k.loop0 = Loop.zero ∧
        k.loop1 = Loop.zero ∧ k.prog = 0#64 ∧ k.slot = none ∧ k.lrs = false ∧ k.nest = 0 ∧ k.vregs = h.vregs ∧
        k.stackLimit = h.stackLimit) ∧
      ((h.st = .wait ∨ h.st = .faultWait) → h.dbg.pend = none → h.dbg.stepping = false → h.stopPend = false →
        does (.stop x n v) { c with st := .stopped, wait := .none, waitClasses := 0#6 }) ∧
      (h.st = .ready → mayStop (core s x) n.toNat = true → h.held = .none → h.dbg.pend = none → h.dbg.stepping = false → h.stopPend = false →
        does (.stop x n v) { c with st := .stopped, acc := [] }) ∧
      (h.st ≠ .coreStopped → (core s x).mtx.lease ≠ some n.toNat → ∃ k, does (.kill x n v) k ∧ k.st = .free ∧ k.wait = .none ∧
        k.lrs = false ∧ k.stagedN = 0 ∧ k.fsr = Fsr.reset ∧ k.regs = h.regs ∧ k.pc = h.pc) ∧
      (h.st = .faultWait → does (.release x n v) { c with st := .ready, wait := .none }) ∧
      (h.st ≠ .faultWait → does (.release x n v) ignored) ∧
      ((h.st = .ready ∨ h.st = .wait ∨ h.st = .faultWait) → 1 ≤ c.injCause → c.injCause ≤ 0x15 →
        does (.inject x n v) { c with st := .ready, wait := .none, waitClasses := 0#6, injPend := true }) ∧
      (h.st = .stopped → h.lrs = false → does (.resume x n v) { c with st := .ready }) ∧
      (h.st ≠ .stopped → does (.resume x n v) ignored))

/-- IO-space: `in` and `out` check alignment, then that the address exists, then the mode (R54, R55); an access that passes reads or writes
one register of the core. The registers named here are the vector base, the stack limits, the event queue, the watchdog and the thread
registers; `in` of EVT_NEXT takes the oldest record, or reads 0. -/
def Sys2Proof.Claims.InAndOut : Prop :=
  ∀ (x : Issue) (rd rs1 : BitVec 5) (imm : BitVec 12) (v : Word) (s : State),
    let a := ((reg s x rs1).toNat + imm.toNat) % 65536
    let h := thr s x
    let w := reg s x rd
    let absent := (0x300 ≤ a ∧ a < 0x400) ∨ 0xF40 ≤ a
    (Ready x { attAlu with port := 3 } s →
      let z := counted s x { attAlu with port := 3 }
      let c := core z x
      let got (b : Nat) (v : Word) : Prop := a = b →
        Does (.ioIn x rd rs1 imm) x s (wg z (co x) (th x) rd v) .seq
      (a % 8 ≠ 0 → Raises (.ioIn x rd rs1 imm) x s z (ioInfo 0x03 a false)) ∧
      (a % 8 = 0 → absent → Raises (.ioIn x rd rs1 imm) x s z (ioInfo 0x05 a false)) ∧
      (a % 8 = 0 → a < 0x300 → h.mode = .user → Raises (.ioIn x rd rs1 imm) x s z (ioInfo 0x02 a false)) ∧
      (h.mode = .supervisor → got 0x200 c.sup.vbar ∧ (∀ k < 16, got (0x240 + 8 * k) (getThr c k).stackLimit) ∧
        (∀ k < 16, got (32 * k + 24) (getThr c k).thrSp) ∧
        (∀ k < 16, k ≠ th x → got (32 * k + 16) (BitVec.ofNat 64 ((getThr c k).pc.toNat % 2 ^ 48 / 4 * 4))) ∧
        got 0x230 (BitVec.ofNat 64 (c.sup.stopSub + 16 * c.sup.stopThread)) ∧ got 0xB00 c.xlt.root) ∧
      (h.mode = .supervisor → Does (.evtNextRead x rd) x s
        (wg (setCore z (co x) { c with sup := { c.sup with evq := c.sup.evq.drop 1 } }) (co x) (th x) rd (c.sup.evq.headD 0#64)) .seq)) ∧
    (Ready x (attOut a) s →
      let z := counted s x (attOut a)
      let c := core z x
      let put (b : Nat) (c : Core) : Prop := a = b →
        Does (.ioOut x rd rs1 imm) x s (setCore z (co x) c) .seq
      (a % 8 ≠ 0 → Raises (.ioOut x rd rs1 imm) x s z (ioInfo 0x03 a true)) ∧
      (a % 8 = 0 → absent → Raises (.ioOut x rd rs1 imm) x s z (ioInfo 0x05 a true)) ∧
      (a % 8 = 0 → a < 0x600 → ¬absent → h.mode = .user → Raises (.ioOut x rd rs1 imm) x s z (ioInfo 0x02 a true)) ∧
      (h.mode = .supervisor → serialBusy (core s x) (th x) = false →
        put 0x200 { c with sup := { c.sup with vbar := BitVec.ofNat 64 (w.toNat % 2 ^ 48 / 4096 * 4096) } } ∧
        (∀ k < 16, put (0x240 + 8 * k)
          (setThr c k { getThr c k with stackLimit := BitVec.ofNat 64 (w.toNat % 2 ^ 48 / 16 * 16) })) ∧
        (∀ k < 16, put (32 * k + 24) (setThr c k { getThr c k with thrSp := BitVec.ofNat 64 (w.toNat % 2 ^ 48 / 16 * 16) })))) ∧
    (Ready x (attOut 0x210) s → h.mode = .supervisor → serialBusy (core s x) (th x) = false → th x = 0 →
      let c := core (counted s x (attOut 0x210)) x
      Does (.wdogKick x v) x s (setCore (counted s x (attOut 0x210)) (co x)
        { c with sup := { c.sup with wdCount := c.sup.wdPeriod * 1000 } }) .seq)

/-- The watchdog that runs out while thread 0 is READY stops the core with subcode 6 (R114, R116); the core timer that runs out marks its
thread and restarts with PERIODIC, else is disabled. -/
def Sys2Proof.Claims.WatchdogAndTimer : Prop :=
  ∀ (L : BitVec 13) (s : State), s.ordered = true → coreOn s L.toNat = true →
    let c := getCore s L.toNat
    (c.sup.wdEnable = true → c.sup.wdPeriod ≠ 0 → (getThr c 0).st = .ready → c.sup.stopped = false → c.sup.wdCount = 0 →
      GoesTo (.watchdogExpiry L) s (coreStop s L.toNat 6 0) L.toNat) ∧
    (c.sup.tmEnable = true → c.sup.tmInterval ≠ 0 → c.sup.tmCount = 0 →
      let d := setThr c c.sup.tmThread { getThr c c.sup.tmThread with pendTimer := true }
      exec (.timerExpiry L) s = .next (setCore s L.toNat { d with sup := { c.sup with
        tmEnable := c.sup.tmPeriodic, tmCount := if c.sup.tmPeriodic then c.sup.tmInterval else 0 } }))

/-- IO-space, the watchdog and the core timer. -/
def Obligations.IoSpaceWatchdogTimer : Prop := Claims.InAndOut ∧ Claims.WatchdogAndTimer

/-! ### The matrix engine -/

/-- The lease: `t.acquire` takes a free lease, keeps its own, waits for another's; `t.release` and `t.wait` go on with an idle engine,
`t.cfg` then sets the layout and clears tiles and accumulators; without the lease they raise 0x08 with SHAPE_ERR 7 (R146–R149, R153, R161). -/
def Sys2Proof.Claims.MatrixLease : Prop :=
  ∀ (x : Issue) (layout : BitVec 2) (s : State), Ready x attMtx s →
    let z := counted s x attMtx
    let m := (core s x).mtx
    let put (m' : Mtx) : State := setCore z (co x) { core z x with mtx := m' }
    (m.lease = none → Does (.tAcquire x) x s (put { m with lease := some (th x) }) .seq) ∧
    (m.lease = some (th x) → m.dying = false → Does (.tAcquire x) x s z .seq) ∧
    (∀ u, m.lease = some u → u ≠ th x → Sleeps (.tAcquire x) x s (put { m with waiters := m.waiters ++ [th x] }) .lease 1) ∧
    (m.lease = some (th x) → m.dying = false → m.queue = [] → m.rows = [] →
      Does (.tRelease x) x s (put { m with lease := none }) .seq ∧ Does (.tWait x) x s z .seq) ∧
    (m.lease ≠ some (th x) → Raises (.tRelease x) x s (put { m with shapeErr := 7 }) (faultOf 0x08) ∧
      Raises (.tWait x) x s (put { m with shapeErr := 7 }) (faultOf 0x08)) ∧
    (Ready x { attMtx with legal := layout != 3#2, inSlot := false } s → m.lease = some (th x) → m.dying = false → m.queue = [] →
      m.rows = [] → relBusy (core s x) (th x) = false →
      let y := counted s x { attMtx with legal := layout != 3#2, inSlot := false }
      Does (.tCfg x layout) x s (setCore y (co x) { core y x with mtx := { m with
        tile := [], scale := [], poison := [], layout := layout.toNat, cur := Accum.zero, drn := Accum.zero,
        curI := Tag.zero, drnI := Tag.zero, opc := [] } }) .seq)

/-- Instructions that the lease's holder puts into the engine's queue, at most 4 of them: `t.swap`, `t.zero`, `t.tz`, `t.mma` and
`t.drain`, with their checks and the accumulator tags they leave (R154–R158, R163–R165, R178). -/
def Sys2Proof.Claims.MatrixQueue : Prop :=
  ∀ (x : Issue) (ta tb : BitVec 4) (rs ra : BitVec 5) (s : State), Ready x attMtx s →
    let z := counted s x attMtx
    let m := (core s x).mtx
    let w := reg s x rs
    let a := (reg s x ra).toNat
    let put (m' : Mtx) : State := setCore { z with nextId := s.nextId + 1 } (co x) { core z x with mtx := m' }
    let q (op : MqOp) : Mtx := { m with queue := m.queue ++ [{ id := s.nextId, op := op }] }
    let fails (i : Instr) (err cause : Nat) : Prop :=
      Raises i x s (setCore z (co x) { core z x with mtx := { m with shapeErr := err } }) (faultOf cause)
    let M := bits w 5 0 + 1
    let N := bits w 21 16 + 1
    let K := bits w 14 8 + 1
    let fa := bits w 27 24
    let fb := bits w 31 28
    let acc := w.getLsbD 32
    let wide := if fa = 3 ∨ fa = 4 then 2 else 1
    let ty := if fa = 0 then 1 else 2
    let pair := (fa = 0 ∧ fb = 0) ∨ (fa = 5 ∧ fb = 0) ∨ ((fa = 1 ∨ fa = 2 ∨ fa = 6) ∧ (fb = 1 ∨ fb = 2)) ∨ (fa = 3 ∧ fb = 3) ∨
      (fa = 4 ∧ fb = 4)
    let fits := ta.toNat < layTiles m.layout ∧ tb.toNat < layTiles m.layout ∧ M ≤ layRows m.layout ∧ N ≤ layRows m.layout ∧
      K * wide ≤ layRow m.layout ∧ (5 ≤ fa → K % 32 = 0)
    let tag : Tag := { type := ty, m := M, n := N }
    m.lease = some (th x) → m.dying = false → m.queue.length < 4 →
    Does (.tSwap x) x s (put { q .swap with curI := m.drnI, drnI := m.curI }) .seq ∧
    Does (.tZero x) x s (put { q .zero with curI := Tag.zero }) .seq ∧
    (ta.toNat < layTiles m.layout → Does (.tTz x ta) x s (put (q (.tz ta.toNat))) .seq) ∧
    (layTiles m.layout ≤ ta.toNat → fails (.tTz x ta) 4 0x0F) ∧
    (shapeResv w = true → fails (.tMma x ta tb rs) 1 0x01) ∧
    (shapeResv w = false → ¬pair → fails (.tMma x ta tb rs) 2 0x01) ∧
    (shapeResv w = false → pair → fits → (acc = false ∨ m.curI.type = 0 ∨ m.curI = tag) →
      Does (.tMma x ta tb rs) x s (put { q (.mma ta.toNat tb.toNat w) with
        curI := if acc = false ∨ m.curI.type = 0 then tag else m.curI }) .seq) ∧
    (shapeResv w = false → pair → fits → acc = true → m.curI.type ≠ 0 → m.curI ≠ tag → fails (.tMma x ta tb rs) 6 0x0F) ∧
    (drainResv w = false →
      (w.getLsbD 6 = false → ra = 0#5 → ta.toNat < layTiles m.layout → drainRows w m.drnI ≤ layRows m.layout →
        drainCols w m.drnI * ((drainFmt w).bits / 8) ≤ layRow m.layout →
        Does (.tDrain x ta rs ra) x s (put (q (.drain ta.toNat w 0 (drainRows w m.drnI) m.epoch))) .seq) ∧
      (w.getLsbD 6 = true → ta = 0#4 → a % 64 = 0 →
        ((thr s x).mode = .supervisor ∨
          ∀ r < drainRows w m.drnI, inLastResort (a + r * bits w 55 32) (drainCols w m.drnI * ((drainFmt w).bits / 8)) = false) →
        a + (drainRows w m.drnI - 1) * bits w 55 32 + drainCols w m.drnI * ((drainFmt w).bits / 8) ≤ 0x280000 →
        Does (.tDrain x ta rs ra) x s (put (q (.drain 0 w a (drainRows w m.drnI) m.epoch))) .seq))

/-- The matrix engine's lease and its queue of instructions. -/
def Obligations.MatrixInstructions : Prop := Claims.MatrixLease ∧ Claims.MatrixQueue

/-- The array and the drain: MMA_EXECUTE runs the `t.mma` at the head of the queue, DRAIN_COMPLETE the `t.drain` there; each leaves the
queue. A poisoned row that the array reads, and an error in an accumulator that the array adds to or the drain reads, stop the core with
subcode 3 (R114, R158, R164, R167, R175, R179). -/
def Obligations.MatrixEngineRuns : Prop :=
  ∀ (L : BitVec 13) (id ta tb td addr rows epoch : Nat) (w : Word) (r : List MqItem) (s : State), s.ordered = true →
    coreOn s L.toNat = true → (getCore s L.toNat).sup.stopped = false →
    let c := getCore s L.toNat
    let m := c.mtx
    let sh := shapeOf w
    let whole := (∀ i < sh.m, rowBad m ta i = false) ∧ (∀ j < sh.n, rowBad m tb j = false) ∧
      ¬(sh.acc = true ∧ m.cur.tag.type ≠ 0 ∧ m.cur.bad = true)
    m.rows = [] →
    (m.queue = { id := id, op := .mma ta tb w } :: r →
      (whole → GoesTo (.mmaExecute L) s (setCore s L.toNat (pmcEvent { c with mtx := { m with
          queue := r, cur := mmaAcc m ta tb sh,
          opc := if m.opc.contains ta then m.opc else (if 2 ≤ m.opc.length then m.opc.drop 1 else m.opc) ++ [ta] } }
          0x07 none (sh.n * ((sh.k + mmaKpc sh - 1) / mmaKpc sh)))) L.toNat) ∧
      (¬whole → GoesTo (.mmaExecute L) s (coreStop s L.toNat 3 0) L.toNat)) ∧
    (m.queue = { id := id, op := .drain td w addr rows epoch } :: r →
      (¬(m.drn.tag.type ≠ 0 ∧ m.drn.bad = true) →
        GoesTo (.drainComplete L) s (modMtx (drainRun (setCore s L.toNat { c with mtx := { m with queue := r } }) L.toNat td w addr epoch)
          L.toNat pruneLanes) L.toNat) ∧
      (m.drn.tag.type ≠ 0 → m.drn.bad = true → GoesTo (.drainComplete L) s (coreStop s L.toNat 3 0) L.toNat))

/-- A product of 8-bit integers: each element of the M × N result is the old one (with ACC) and the sum of the products of a row of A and a
row of B, saturated to 32 bits; outside, the old elements stay with ACC and are 0 without (R134, R164). -/
def Obligations.IntegerMatrixProduct : Prop :=
  ∀ (m : Mtx) (ta tb : Nat) (w : Word) (i j : Nat), i < 64 → j < 64 → bits w 27 24 = 0 → bits w 31 28 = 0 →
    let sh := shapeOf w
    let elem (t r k : Nat) : Int := ((getRow m t r).getD k 0#8).toInt
    let old := if w.getLsbD 32 = true ∧ m.cur.tag.type ≠ 0 then accAt m.cur i j else 0#32
    let sum := old.toInt + (List.range (bits w 14 8 + 1)).foldl (fun a k => a + elem ta i k * elem tb j k) 0
    accAt (mmaAcc m ta tb sh) i j =
      if i ≤ bits w 5 0 ∧ j ≤ bits w 21 16 then BitVec.ofInt 32 (max (-2 ^ 31) (min (2 ^ 31 - 1) sum)) else old

/-- Tile transfers with the core's own scratchpad: `t.ld` and `t.ldx` request their rows, each row as it is read; `t.st` writes its rows in
ascending order; TILE_ROW_LAND writes a row whose parts have come into the tile, and poisons it where its data is bad (R159, R169–R175). -/
def Sys2Proof.Claims.TileTransfers : Prop :=
  ∀ (x : Issue) (tile : BitVec 4) (ra rscl rdesc : BitVec 5) (L : BitVec 13) (i : Nat) (row : TileRow) (ds : List (List Byte × Bool))
    (s : State),
    (Ready x attMtx s →
      let z := counted s x attMtx
      let c := core z x
      let m := (core s x).mtx
      let w := reg s x rdesc
      let n := bits w 5 0 + 1
      let bytes := layRow m.layout
      let stride := (BitVec.ofNat 32 (bits w 47 16)).signExtend 64
      let va (i : Nat) : Nat := (reg s x ra + BitVec.ofNat 64 i * stride).toNat
      let sva (i : Nat) : Nat := (reg s x rscl + BitVec.ofNat 64 (i * bits w 63 48)).toNat
      let line (i : Nat) : Nat := (tile.toNat * layRows m.layout + bits w 13 8 + i) * (bytes / 64)
      let data (i : Nat) : List Byte := ((List.range (bytes / 64)).map (fun k => getLine m (line i + k))).flatten
      let want (k : Nat) (r q : List RowAt) (i : Nat) : TileRow :=
        { id := s.nextId + i, kind := k, line := line i, bytes := bytes, row := r, scl := q, data := [], bad := false }
      let h : Thread := { getThr c (th x) with prog := 0#64 }
      m.lease = some (th x) → m.dying = false → tile.toNat < layTiles m.layout → bits w 13 8 + n ≤ layRows m.layout →
      (∀ i < n, lineBusy m (line i) (bytes / 64) true = false) → m.queue = [] → (thr s x).prog.getLsbD 63 = false →
      (descResv w false = false → (reg s x ra).toNat % 64 = 0 → stride.toNat % 64 = 0 →
        ((∀ i < n, Local s x (va i) bytes false) → ∃ t, Does (.tLd x tile ra rdesc) x s t .seq ∧
          CoreTo s t (co x) { setThr c (th x) h with mtx := { m with
            rows := m.rows ++ (List.range n).map (fun i => want 0
              ((List.range (bytes / 64)).map (fun k => .got (spadBytes s x (va i + 64 * k) 64) false)) [] i) } }) ∧
        ((∀ i < n, Local s x (va i) bytes true) → (∀ k < layRows m.layout, rowBad m tile.toNat k = false) →
          (∀ l, (getLine m l).length = 64) →
          ∃ t, Does (.tSt x tile ra rdesc) x s t .seq ∧ t.hbm = s.hbm ∧ t.comp = s.comp ∧ t.net = s.net ∧
            (∀ k, k ≠ co x → getCore t k = getCore s k) ∧ (core t x).mtx = m ∧ thr t x = h ∧
            (∀ k, k ≠ th x → thrOf t (co x) k = thrOf s (co x) k) ∧
            (core t x).spad.mem = (List.range n).foldl (fun b i => writeBytes b (va i) (data i)) (core s x).spad.mem)) ∧
      (descResv w true = false → (reg s x ra).toNat % (bytes / 2) = 0 → stride.toNat % (bytes / 2) = 0 →
        (reg s x rscl).toNat % (bytes / 32) = 0 → bits w 63 48 % (bytes / 32) = 0 →
        (∀ i < n, Local s x (va i) (bytes / 2) false ∧ Local s x (sva i) (bytes / 32) false) →
        ∃ t, Does (.tLdx x tile ra rscl rdesc) x s t .seq ∧
          CoreTo s t (co x) { setThr c (th x) h with mtx := { m with
            rows := m.rows ++ (List.range n).map (fun i => want (if w.getLsbD 14 then 3 else 2)
              [.got (spadBytes s x (va i) (bytes / 2)) false] [.got (spadBytes s x (sva i) (bytes / 32)) false] i) } })) ∧
    (s.ordered = true → coreOn s L.toNat = true → (getCore s L.toNat).sup.stopped = false →
      let c := getCore s L.toNat
      let m := c.mtx
      m.rows[i]? = some row → row.row = ds.map (fun d => .got d.1 d.2) → row.scl = [] → row.kind = 0 →
      let d := (ds.map (·.1)).flatten
      let bad := ds.any (·.2)
      let m' := putRow { m with rows := dropAt i m.rows } row.line d [] bad
      GoesTo (.tileRowLand L i) s (setCore s L.toNat { c with
        mtx := if bad then { m' with poisonRows := satAdd 0xFFFF m.poisonRows 1 } else m' }) L.toNat)

/-- The saved context: `t.csave` stores the image of an idle engine and `t.crest` restores one, in supervisor mode at an aligned address;
in user mode both raise 0x02 (R188, R189). `out` to MTX_SEED and to TALLY_SEL with CLEAR or CLEAR_ALL. -/
def Sys2Proof.Claims.MatrixContext : Prop :=
  ∀ (x : Issue) (ra : BitVec 5) (v : Word) (s : State),
    let a := (reg s x ra).toNat
    let m := (core s x).mtx
    let img := spadBytes s x a 0x10A80
    (Ready x attMtx s → (thr s x).mode = .user → Raises (.tCsave x ra) x s (counted s x attMtx) (faultOf 0x02) ∧
      Raises (.tCrest x ra) x s (counted s x attMtx) (faultOf 0x02)) ∧
    (Before x attMtx s → (thr s x).mode = .supervisor → a % 64 = 0 → m.rows = [] →
      (Local s x a 0x10A80 true → (∀ l, (getLine m l).length = 64) → m.poison = [] → m.cur.bad = false → m.drn.bad = false → (curLanes m).length = 64 →
        ∃ t, exec (.tCsave x ra) s = .next t ∧ Stored s t x a (imageOf m) (after (thr s x) .seq)) ∧
      (Local s x a 0x10A80 false → imageResv (wordsOf 16 (img.drop 0x10A00)) = false →
        StateTo (.tCrest x ra) x s (setCore s (co x) { core s x with mtx := imageMtx m img }) (after (thr s x) .seq))) ∧
    (Ready x (attOut 0xC10) s →
      let c := core (counted s x (attOut 0xC10)) x
      let seed := v.truncate 32
      Does (.mtxSeedWrite x v) x s (setCore (counted s x (attOut 0xC10)) (co x) { c with mtx := { m with
        seed := seed, epoch := m.epoch + 1,
        lanes := m.lanes ++ [(m.epoch + 1, (List.range 64).map (laneSeed seed))] } }) .seq) ∧
    (Ready x (attOut 0xC18) s →
      let c := core (counted s x (attOut 0xC18)) x
      let k := v.toNat % 8
      ∃ d e : Mtx, Does (.tallyClear x v) x s (setCore (counted s x (attOut 0xC18)) (co x) { c with mtx := d }) .seq ∧
        Does (.tallyClearAll x v) x s (setCore (counted s x (attOut 0xC18)) (co x) { c with mtx := e }) .seq ∧
        d.tallySel = k ∧ e.tallySel = k ∧ { d with tallySel := m.tallySel, tally := m.tally, tallyCfg := m.tallyCfg } = m ∧
        { e with tallySel := m.tallySel, tally := m.tally, tallyCfg := m.tallyCfg } = m ∧
        (∀ b < 40, mget 0 d.tally (40 * k + b) = 0 ∧ ∀ j < 8, mget 0 e.tally (40 * j + b) = 0) ∧
        (v.getLsbD 9 = false → ∀ j, j ≠ k → ∀ b < 40, mget 0 d.tally (40 * j + b) = mget 0 m.tally (40 * j + b)))

/-- Tile transfers and the engine's context. -/
def Obligations.TilesAndMatrixContext : Prop := Claims.TileTransfers ∧ Claims.MatrixContext

/-! ### More of the scratchpad: tile rows, gathers, fills -/

/-- `v.ldt` and `v.stt` move one row of a tile (a poisoned row stops the core with subcode 3), `v.gather` and `v.scatter` 32 elements in
ascending order, `memfill` whole lines (R175, R210, R211, R232). -/
def Obligations.VectorTilesGathersFills : Prop :=
  ∀ (x : Issue) (v vi tile : BitVec 4) (ra rs1 rs2 : BitVec 5) (s : State),
    let m := (core s x).mtx
    let r := bits (reg s x rs2) 6 0
    (Ready x attVmem s → m.lease = some (th x) → m.dying = false → tile.toNat < layTiles m.layout → r < layRows m.layout →
      lineBusy m (rowLine m.layout tile.toNat r) (layRow m.layout / 64) true = false →
      let z := counted s x attVmem
      (rowBad m tile.toNat r = false → Does (.vLdt x v tile rs2) x s
        (modT z (co x) (th x) (fun h => setV h v.toNat (BitVec.ofNat 1024 (ofBytes (getRow m tile.toNat r))))) .seq) ∧
      (rowBad m tile.toNat r = true → exec (.vLdt x v tile rs2) s = .next (tidy s (coreStop z (co x) 3 0) (co x))) ∧
      Does (.vStt x v tile rs2) x s (setCore z (co x) { core z x with
        mtx := putRow m (rowLine m.layout tile.toNat r) ((toBytes 128 (vec s x v).toNat).take (layRow m.layout)) [] false }) .seq) ∧
    (Ready x attVmem s → noWatch s x → (thr s x).dbg.pend = none → (thr s x).prog.getLsbD 63 = false → (reg s x rs2).toNat < 5 →
      let z := counted s x attVmem
      let w := (laneFmt (reg s x rs2).toNat).bits
      let n := w / 8
      let va (i : Nat) : Nat :=
        (reg s x rs1 + (BitVec.ofNat 32 ((elems 32 (vec s x vi)).getD i 0)).signExtend 64 * BitVec.ofNat 64 n).toNat
      (∀ i < 32, va i % n = 0) →
      ((∀ i < 32, Local s x (va i) n false) → Does (.vGather x v rs1 rs2 vi) x s (modT z (co x) (th x) (fun h =>
        { setV h v.toNat (ofElems w ((List.range 32).map (fun i => ofBytes (spadBytes s x (va i) n)))) with prog := 0#64, acc := [] })) .seq) ∧
      ((∀ i < 32, Local s x (va i) n true) → ∃ t, Does (.vScatter x v rs1 rs2 vi) x s t .seq ∧ t.hbm = s.hbm ∧ t.comp = s.comp ∧
        t.net = s.net ∧ (∀ k, k ≠ co x → getCore t k = getCore s k) ∧
        (∀ k, k ≠ th x → thrOf t (co x) k = thrOf s (co x) k) ∧ thr t x = { thr s x with prog := 0#64, acc := [] } ∧
        (core t x).spad.mem = (List.range 32).foldl (fun b i =>
          writeBytes b (va i) (toBytes n ((elems w (vec s x v)).getD i 0))) (core s x).spad.mem)) ∧
    (Before x attMem s → noWatch s x → (thr s x).prog.getLsbD 63 = false →
      let a := (reg s x ra).toNat
      let n := bits (reg s x rs1) 31 0
      a % 64 = 0 → n % 64 = 0 → Local s x a n true → ∃ t, exec (.memfill x ra rs1 rs2) s = .next t ∧
        Stored s t x a ((List.replicate (n / 8) (toBytes 8 (reg s x rs2).toNat)).flatten) (after { thr s x with prog := 0#64 } .seq))

/-! ### Landing windows and remote writes -/

/-- Landing windows: `lwopen` answers 0 and opens the window where every test passes, else the first code that applies and opens nothing;
`lwclose` closes it with its credits in quarantine; `lwstat` reads it (R235–R237, R595). -/
def Obligations.LandingWindows : Prop :=
  ∀ (x : Issue) (rd rs1 rs2 : BitVec 5) (s : State), Ready x attPort s →
    let z := counted s x attPort
    let c := core z x
    let a := reg s x rs1
    let b := reg s x rs2
    let base := bits a 21 0
    let size := bits a 53 32
    let w := bits b 3 0
    let k := bits a 3 0
    let lr := base < 0x80000 ∧ 0x7F800 < base + size
    let meets := ∃ j < 16, (getWin c j).opened = true ∧ (getWin c j).base < base + size ∧ base < (getWin c j).base + (getWin c j).size
    let range := base % 64 = 0 ∧ size % 64 = 0 ∧ size ≠ 0 ∧ base + size ≤ 0x280000
    let fields := bits a 63 54 = 0 ∧ bits a 31 22 = 0 ∧ bits b 63 39 = 0 ∧ bits b 31 27 = 0 ∧ bits b 7 4 = 0 ∧ 1 ≤ bits b 38 32 ∧
      bits b 38 32 ≤ 64 ∧ (b.getLsbD 24 = true → bits b 23 8 = 0) ∧ (b.getLsbD 25 = true ∨ b.getLsbD 26 = true)
    let result (t : State) (r : Nat) : Prop := Does (.lwopen x rd rs1 rs2) x s (wg t (co x) (th x) rd (BitVec.ofNat 64 r)) .seq
    ((thr s x).mode = .user → Raises (.lwopen x rd rs1 rs2) x s z (faultOf 0x02) ∧ Raises (.lwclose x rd rs1) x s z (faultOf 0x02)) ∧
    ((thr s x).mode = .supervisor →
      ((getWin c w).opened = true → result z 1) ∧
      ((getWin c w).opened = false → ¬range → result z 2) ∧
      ((getWin c w).opened = false → range → meets → result z 3) ∧
      ((getWin c w).opened = false → range → ¬meets → lr → result z 4) ∧
      ((getWin c w).opened = false → range → ¬meets → ¬lr → ¬fields → result z 5) ∧
      ((getWin c w).opened = false → range → ¬meets → ¬lr → fields → result (setCore z (co x) (setWin c w
        { opened := true, base := base, size := size, maxCredits := bits b 38 32, ownPair := b.getLsbD 24,
          pair := ⟨BitVec.ofNat 12 (bits b 19 8), BitVec.ofNat 4 (bits b 23 20)⟩, thisModule := b.getLsbD 25,
          otherModules := b.getLsbD 26, drops := 0 })) 0) ∧
      (winCredits c k = [] → Does (.lwclose x rd rs1) x s
        (wg (setCore z (co x) (setWin c k { Window.closed with drops := (getWin c k).drops })) (co x) (th x) rd 0#64) .seq) ∧
      (∀ e m q u, winCredits c k = [(e, m, q, u)] → Does (.lwclose x rd rs1) x s (wg (sendTo
        (setCore z (co x) (setCred (setWin c k { Window.closed with drops := (getWin c k).drops }) e (.quarantine 0)))
        (.core (co x)) (coreEp s m q) (.creditRevoke u e)) (co x) (th x) rd 1#64) .seq)) ∧
    Does (.lwstat x rd rs1) x s (wg z (co x) (th x) rd (BitVec.ofNat 64 (b2n (getWin c k).opened + (winCredits c k).length * 2 +
      (getWin c k).maxCredits * 256 + (getWin c k).drops * 65536))) .seq

/-- Credits: the request is granted the least free entry or refused with the first reason that applies; the sender's unit takes a grant of the core
that it asked, asks again after NO_WINDOW or BUSY within 5 ms, and ends its remote write on another refusal, a revocation or 50 ms without an answer; an
entry leaves quarantine after 21 ms (R238, R241, R251, R595). -/
def Sys2Proof.Claims.CreditProtocol : Prop :=
  ∀ (s : State) (i : Nat) (p : Packet) (L : Nat) (K : BitVec 13) (u : Eng), s.ordered = true → mayArrive s i = some p →
    p.dst = .core L → coreOn s L = true → behindMessage (getCore s L) p.body = false →
    let t := takePkt s i
    let c := getCore s L
    let asked := engTarget s c u = some p.src
    (∀ src m sid win off len pair, p.body = .creditReq src u m sid win off len pair →
      let w := getWin c win
      let pairOk := pair = (if w.ownPair then c.sup.pair else w.pair)
      let pathOk := (if m = moduleId s then w.thisModule else w.otherModules) = true
      let inside := w.base ≤ off ∧ off + len ≤ w.base + w.size
      let room := (winCredits c win).length < w.maxCredits ∧ ∃ e < 64, getCred c e = .free
      let refused (r : Nat) : Prop := exec (.creditReq i) s = .next (sendTo t (.core L) (coreEp s m src) (.creditRefuse u r))
      (w.opened = false → refused 1) ∧ (w.opened = true → ¬pathOk → refused 4) ∧
      (w.opened = true → pathOk → ¬pairOk → refused 3) ∧ (w.opened = true → pathOk → pairOk → ¬inside → refused 2) ∧
      (w.opened = true → pathOk → pairOk → inside → ¬room → refused 5) ∧
      (∀ e < 64, w.opened = true → pathOk → pairOk → inside → room → getCred c e = .free → (∀ j < e, getCred c j ≠ .free) →
        exec (.creditReq i) s = .next (sendTo (setCore t L (setCred c e (.held win m src u off len 0 pair))) (.core L)
          (coreEp s m src) (.creditGrant u e)))) ∧
    (∀ e n f, p.body = .creditGrant u e → asked → engCredit c u = .asked n f → GoesTo (.creditGrant i) s (setEngCredit t L u (.held e)) L) ∧
    (∀ e, (p.body = .creditGrant u e → ¬asked → exec (.creditGrant i) s = .next t) ∧
      (p.body = .creditRevoke u e → ¬asked → exec (.creditRevoke i) s = .next t)) ∧
    (∀ r n f, p.body = .creditRefuse u r → (p.src = .io ∨ asked) → engCredit c u = .asked n f →
      let t1 := modCore t L (fun c => pmcEvent c 0x1C none 1)
      ((r = 1 ∨ r = 5) → f.getD 0 < 5000 →
        exec (.creditRefuse i) s = .next (setEngReason (setEngCredit t1 L u (.again (f.getD 0))) L u r)) ∧
      ((r ≠ 1 ∧ r ≠ 5) ∨ 5000 ≤ f.getD 0 → GoesTo (.creditRefuse i) s (creditFail t1 L u r) L)) ∧
    (∀ e, p.body = .creditRevoke u e → asked → engCredit c u = .held e → GoesTo (.creditRevoke i) s (creditFail t L u 7) L) ∧
    (coreOn s K.toNat = true → (getCore s K.toNat).sup.stopped = false →
      let d := getCore s K.toNat
      (∀ f, engCredit d u = .again f → engRuns d u = true → f < 5000 →
        exec (.creditRetry K u) s = .next (creditAgain (setEngCredit s K.toNat u (.asked 0 (some f))) K.toNat u)) ∧
      (∀ n f, engCredit d u = .asked n f → 50000 ≤ n → GoesTo (.creditTimeout K u) s (creditFail s K.toNat u 8) K.toNat)) ∧
    (∀ (e : BitVec 6) n, getCred (getCore s K.toNat) e.toNat = .quarantine n → 21000 ≤ n →
      exec (.creditQuarantineEnd K e) s = .next (setCore s K.toNat (setCred (getCore s K.toNat) e.toNat .free)))

/-- Remote writes, the module window and the scrubber: bytes inside a held credit are written, the last ones free it, report to the sender
and signal; others are dropped and counted; the owning core answers reads and writes of its scratchpad; the scrubber goes on by one 64-byte
beat, corrects a word with a single-bit error and records an uncorrectable one (R227–R229, R230, R234, R239, R240, R363). -/
def Sys2Proof.Claims.RemoteWritesAndWindows : Prop :=
  ∀ (s : State) (i : Nat) (p : Packet) (L : Nat) (u v : Eng) (e off o n k : Nat) (pair pr : Pair) (data : List Byte) (last : Bool)
    (sig : Option RSig) (pos win m src len done id : Nat) (bad : List Nat) (runs : List (Nat × List Byte)) (who : Who) (K : BitVec 13),
    s.ordered = true → mayArrive s i = some p → p.dst = .core L → coreOn s L = true → behindMessage (getCore s L) p.body = false →
    let t := takePkt s i
    let c := getCore s L
    (p.body = .remoteWrite k v e off pair data last sig pos → getCred c e = .held win m src u o len done pr →
      let inside := pair = pr ∧ o ≤ off ∧ off + data.length ≤ o + len
      let part := modCore (netWrite t L off data []) L (fun c => setCred c e (.held win m src u o len (done + data.length) pr))
      let whole := modCore (netWrite t L off data []) L (fun c => setCred c e .free)
      let ack (q : State) : State := sendTo q (.core L) (coreEp q m src) (.landingAck u e)
      let add (q : State) (j n : Nat) : State := modCore q L (fun c => scAdd c j n)
      (¬inside → exec (.remoteWrite i) s = .next (modCore t L (fun c => setWin c win
        { getWin c win with drops := satAdd 0xFFFFFFFF (getWin c win).drops 1 }))) ∧
      (inside → done + data.length < len →
        (sig = none → GoesTo (.remoteWrite i) s part L) ∧
        (∀ j, sig = some { mode := 0#2, cnt := j } → GoesTo (.remoteWrite i) s part L) ∧
        (∀ j, sig = some { mode := 1#2, cnt := j } → GoesTo (.remoteWrite i) s (add part j.toNat data.length) L) ∧
        (∀ j, sig = some { mode := 2#2, cnt := j } → GoesTo (.remoteWrite i) s (add part j.toNat 1) L)) ∧
      (inside → len ≤ done + data.length →
        (sig = none → GoesTo (.remoteWrite i) s (ack whole) L) ∧
        (∀ j, sig = some { mode := 0#2, cnt := j } → GoesTo (.remoteWrite i) s (ack (add whole j.toNat 1)) L) ∧
        (∀ j, sig = some { mode := 1#2, cnt := j } → GoesTo (.remoteWrite i) s (ack (add whole j.toNat data.length)) L) ∧
        (∀ j, sig = some { mode := 2#2, cnt := j } → GoesTo (.remoteWrite i) s (ack (add whole j.toNat 1)) L))) ∧
    (∀ ch, u = .dma ch → engTarget s c u = some p.src → p.body = .landingAck u e → (getChan c ch.toNat).credit = .held e →
      (getChan c ch.toNat).started = true → (getChan c ch.toNat).nxt = ddLen (getChan c ch.toNat).desc →
      let q := getChan c ch.toNat
      exec (.landingAck i) s = .next (modChan (modCore t L (fun c => pmcEvent c 0x1D none (ddLen q.desc - q.creditFrom))) L ch.toNat
        (fun q => { q with credit := .none, pos := ddLen q.desc }))) ∧
    (∀ sl d r, u = .slot sl → engTarget s c u = some p.src → p.body = .landingAck u e → (getSlot c sl.toNat).credit = .held e →
      (getSlot c sl.toNat).queue = d :: r → (getSlot c sl.toNat).nxt = sdUnits d.w → (getSlot c sl.toNat).got = [] →
      slotOuts c sl.toNat = [] → sdCntEn d.w = false →
      GoesTo (.landingAck i) s (slotNext (modCore t L (fun c =>
        pmcEvent c 0x1E none (sdBytes d.w - (getSlot c sl.toNat).creditFrom))) L sl.toNat) L) ∧
    (p.body = .read id (.spad L off) n who → badIn c.spad.ue off n = [] → badIn c.spad.ce off n = [] →
      exec (.windowRequest i) s = .next (sendTo t (.core L) p.src (.readData id (readBytes c.spad.mem off n) [] (bulkWho who false)))) ∧
    (p.body = .write id (.spad L off) runs bad who →
      exec (.windowRequest i) s = .next (sendTo (runs.foldl (fun z r => netWrite z L (off + r.1) r.2 bad) t) (.core L) p.src (.writeAck id))) ∧
    (coreOn s K.toNat = true →
      let c := getCore s K.toNat
      let d := pmcEvent c 0x1F none 1
      let o := c.spad.scrubPos
      let left (ws : List Nat) : List Nat :=
        (addBad (c.spad.ce.filter (fun w => !c.spad.scrubFix.contains w)) ws).filter (fun w => !c.spad.ue.contains w)
      let goes (ue ce : List Nat) : State := setCore s K.toNat
        { d with spad := { c.spad with ue := ue, ce := ce, scrubPos := (o + 64) % 0x280000, scrubFix := [] } }
      badIn c.spad.ue o 64 = [] → badIn (left []) o 64 = [] → o % 64 = 0 →
      exec (.scrubVisit K { corrected := [], uncorrectable := [] }) s = .next (goes c.spad.ue (left [])) ∧
      ∀ w < 8, ∃ t : State, exec (.scrubVisit K { corrected := [w], uncorrectable := [] }) s = .next t ∧
        (getCore t K.toNat).spad = { (getCore (goes c.spad.ue (left [o / 8 + w])) K.toNat).spad with scrubFix := [o / 8 + w] } ∧
        (frozen d = false → (getCore t K.toNat).perf = { d.perf with spadCorr := satAdd 0xFFFFFFFF d.perf.spadCorr 1 }) ∧
        exec (.scrubVisit K { corrected := [], uncorrectable := [w] }) s =
          .next (noteSpadUE (goes (insertNat (o / 8 + w) c.spad.ue) (left [])) K.toNat (8 * (o / 8 + w))))

/-- Credits and remote writes. -/
def Obligations.CreditsAndRemoteWrites : Prop := Claims.CreditProtocol ∧ Claims.RemoteWritesAndWindows

/-! ### Streams -/

/-- Stream instructions and commands: `st.q` queues a descriptor, `st.wait` answers the head segment or waits with class 8, `st.rel`
releases it, ST_CTL stops, resumes, skips and flushes a slot, and a command that the state does not permit sets CMD_IGNORED; STALL_CFG with
CLEAR zeroes the stall counters (R253–R256, R259, R262). -/
def Sys2Proof.Claims.StreamInstructions : Prop :=
  ∀ (x : Issue) (rd rs : BitVec 5) (slot : BitVec 3) (v : Word) (s : State),
    let k := slot.toNat
    let c := core s x
    let q := getSlot c k
    let a := (reg s x rs).toNat
    (Ready x { attStream with mem := true } s → noWatch s x →
      let z := counted s x { attStream with mem := true }
      (a % 64 ≠ 0 → Raises (.stQ x slot rs) x s z (faultAt 0x03 a false 64)) ∧
      (a % 64 = 0 → 0x280000 < a + 64 → Raises (.stQ x slot rs) x s z (faultAt 0x05 a false 64)) ∧
      (a % 64 = 0 → a + 64 ≤ 0x280000 → badIn c.spad.ce a 64 = [] → badIn c.spad.ue a 64 ≠ [] →
        Raises (.stQ x slot rs) x s (noteLocalUE z (co x) a 64) (faultAt 0x0D a false 64)) ∧
      (a % 64 = 0 → a + 64 ≤ 0x280000 → badIn c.spad.ce a 64 = [] → badIn c.spad.ue a 64 = [] → q.queue.length < 4 →
        Does (.stQ x slot rs) x s (modSlot z (co x) k (fun q => { q with
          queue := q.queue ++ [{ w := wordsOf 8 (spadBytes s x a 64), thread := x.thread, mode := (thr s x).mode }],
          st := if q.st = 0 then 1 else q.st })) .seq)) ∧
    (Ready x attStream s →
      let z := counted s x attStream
      (q.queue = [] → Does (.stWait x rd slot) x s (wg z (co x) (th x) rd 0#64) .seq) ∧
      (q.queue ≠ [] → segAvail c k q.rel = true → Does (.stWait x rd slot) x s (wg z (co x) (th x) rd (segWord c k)) .seq) ∧
      (q.queue ≠ [] → segAvail c k q.rel = false → Sleeps (.stWait x rd slot) x s z (.stream slot rd) 8) ∧
      (segAvail c k q.rel = false → Raises (.stRel x slot) x s z (faultOf 0x08)) ∧
      (segAvail c k q.rel = true → Does (.stRel x slot) x s (stRelease z (co x) k) .seq ∧
        (q.st = 1 → stRelease z (co x) k = modSlot z (co x) k (fun q => { q with rel := q.rel + 1, counted := q.counted / 2 })))) ∧
    (Ready x (attOut (0x810 + 0x18 * k)) s →
      let z := counted s x (attOut (0x810 + 0x18 * k))
      let does (i : Instr) (f : Slot → Slot) : Prop := Does i x s (modSlot z (co x) k f) .seq
      let ignored (q : Slot) : Slot := { q with cmdIgnored := true }
      let mayGo := q.st = 2 ∨ (3 ≤ q.st ∧ (thr s x).mode = .supervisor)
      let gone (t : State) (q' : Slot) : Prop :=
        (∀ j, j ≠ k → getSlot (core t x) j = getSlot c j) ∧ getSlot (core t x) k = q' ∧ ∀ K, K ≠ co x → getCore t K = getCore s K
      (q.st ≠ 1 → does (.stStop x slot) ignored) ∧
      (q.st = 1 → q.stopping = none → slotOuts c k ≠ [] →
        does (.stStop x slot) (fun q => { q with stopping := some (2 ^ 64, .stopCmd) })) ∧
      (mayGo → does (.stResume x slot) (fun q => { q with st := 1 })) ∧ (¬mayGo → does (.stResume x slot) ignored) ∧
      (¬mayGo → does (.stSkip x slot) ignored) ∧
      (∀ d e r, mayGo → q.queue = d :: e :: r → q.early = false → ∃ t, Does (.stSkip x slot) x s t .seq ∧ gone t { q with
        st := 1, queue := e :: r, started := false, nxt := if q.earlyBad then 0 else q.nxtEarly, early := false, nxtEarly := 0, earlyBad := false, pos := 0,
        rel := 0, counted := 0, failed := [], credit := .none, creditFrom := 0, got := [] }) ∧
      (q.st = 0 → Does (.stFlush x slot) x s z .seq) ∧
      (q.st ≠ 0 → ∃ t, Does (.stFlush x slot) x s t .seq ∧
        gone t { Slot.reset with cmdIgnored := q.cmdIgnored, err := q.err, creditReason := q.creditReason } ∧
        slotOuts (core t x) k = [])) ∧
    (Ready x (attOut 0x8C0) s →
      let z := counted s x (attOut 0x8C0)
      Does (.stallClear x v) x s (setCore z (co x) { core z x with
        stalls := [], stallMask := v.truncate 8, stallFreeze := v.getLsbD 9 }) .seq)

/-- STREAM_DESC_START starts the head descriptor of a running slot when its checks pass, else the slot stops with their first error at
element 0; a response writes the data of a load's request, or ends a store's (R248–R250). -/
def Sys2Proof.Claims.StreamEvents : Prop :=
  ∀ (s : State) (K : BitVec 13) (slot : BitVec 3) (d : Desc) (r : List Desc) (i id lo hi : Nat) (p : Packet) (data : List Byte)
    (bad : List Nat) (bulk : Bool), s.ordered = true → coreOn s K.toNat = true →
    let L := K.toNat
    let k := slot.toNat
    let c := getCore s L
    let q := getSlot c k
    q.queue = d :: r →
    (c.sup.stopped = false → q.st = 1 → q.stopping = none → q.started = false →
      (sdCheck s d.mode d.w = 0 → GoesTo (.streamDescStart K slot) s (modSlot s L k (fun q => { q with started := true, err := 0 })) L) ∧
      (sdCheck s d.mode d.w ≠ 0 → GoesTo (.streamDescStart K slot) s
        (slotEnter (modSlot s L k (fun q => { q with pos := 0, nxt := 0 })) L k (.err (sdCheck s d.mode d.w))) L)) ∧
    (mayArrive s i = some p → p.dst = .core L →
      let t := dropOut (takePkt s i) L id
      let isFor (o : OutKind) : Prop := (findOut c id).map (·.kind) = some o
      (p.body = .readData id data bad bulk → isFor (.stream slot false lo hi false) →
        GoesTo (.streamResponse K slot i) s (slotLand t L k d.w false
          (((List.range (hi - lo)).map (fun j => sdUAddr d.w (lo + j))).foldl Nat.min (sdUAddr d.w lo)) data bad (hi - lo) lo) L) ∧
      (p.body = .writeAck id → isFor (.stream slot false lo hi true) →
        GoesTo (.streamResponse K slot i) s (modCore t L (fun c => pmcEvent c 0x1E none ((hi - lo) * sdE d.w))) L))

/-- Stream slots: instructions, commands and events. -/
def Obligations.Streams : Prop := Claims.StreamInstructions ∧ Claims.StreamEvents

/-! ### Sync counters, signals, fences -/

/-- Counter instructions: `sc.set`, `sc.add` (saturating with OVF), `sc.sub` (an underflow changes nothing, sets UNDER and queues event
0x0B), `sc.get`, the waits, `sc.sig`, `out` to SCn; `fence` records what it waits for and goes on (R353–R361, R375, R376, R380, R381). -/
def Sys2Proof.Claims.CounterInstructions : Prop :=
  ∀ (x : Issue) (rd rs ra : BitVec 5) (k : BitVec 6) (ord intr acq rel : Bool) (wf hold : BitVec 4) (v : Word) (s : State),
    let n := (reg s x rs).toNat % 2 ^ 32
    let w := reg s x ra
    let c := core s x
    let q := getSc c k.toNat
    (Ready x attUnit s →
      let z := counted s x attUnit
      let put (f : Counter) : State := setCore z (co x) (setSc (core z x) k.toNat f)
      let cls := (if q.loc then 1 else 15) + (if intr then 48 else 0)
      let free := ord = true → relBusy c (th x) = false
      (free → Does (.scSet x rs k ord) x s (put { q with value := n }) .seq ∧
        (q.value + n < 2 ^ 32 → Does (.scAdd x rs k ord) x s (put { q with value := q.value + n }) .seq) ∧
        (2 ^ 32 ≤ q.value + n → Does (.scAdd x rs k ord) x s (put { q with value := 2 ^ 32 - 1, ovf := true }) .seq) ∧
        (n ≤ q.value → Does (.scSub x rs k ord) x s (put { q with value := q.value - n }) .seq) ∧
        (q.value < n → Does (.scSub x rs k ord) x s (modCore (put { q with under := true }) (co x) (fun c =>
          queueEvent c 4 k.toNat (th x) false 0x0B)) .seq)) ∧
      (∀ n, scAdd c k.toNat n = setSc c k.toNat
        (if 2 ^ 32 ≤ q.value + n then { q with value := 2 ^ 32 - 1, ovf := true } else { q with value := q.value + n })) ∧
      Does (.scGet x rd k) x s (wg z (co x) (th x) rd (BitVec.ofNat 64 q.value)) .seq ∧
      (n ≤ q.value → ord = false → Does (.scWait x rs k ord intr) x s z .seq ∧
        Does (.scWaitsub x rs k ord intr) x s (put { q with value := q.value - n }) .seq) ∧
      (n ≤ q.value → ord = true → Does (.scWait x rs k ord intr) x s (modCore z (co x) acquire) .seq) ∧
      (q.value < n → Sleeps (.scWait x rs k ord intr) x s z (.counter k n false ord) cls ∧
        Sleeps (.scWaitsub x rs k ord intr) x s z (.counter k n true ord) cls) ∧
      (sigWordOk s (co x) (thr s x).mode w = false → Raises (.scSig x ra rs rel) x s z (faultAt 0x05 w.toNat true 0)) ∧
      (sigWordOk s (co x) (thr s x).mode w = true → (rel = true → relBusy c (th x) = false) →
        (bits w 31 24 = moduleId s → bits w 12 0 = co x →
          Does (.scSig x ra rs rel) x s (modCore z (co x) (fun c => scAdd c (bits w 21 16) n)) .seq) ∧
        (bits w 31 24 ≠ moduleId s ∨ bits w 12 0 ≠ co x → Does (.scSig x ra rs rel) x s
          (sendTo z (.core (co x)) (coreEp s (bits w 31 24) (bits w 12 0))
            (.signal (BitVec.ofNat 6 (bits w 21 16)) (BitVec.ofNat 32 n) c.sup.pair (co x))) .seq))) ∧
    (Ready x (attOut (0x600 + 8 * k.toNat)) s →
      let z := counted s x (attOut (0x600 + 8 * k.toNat))
      Does (.scWrite x k v) x s (setCore z (co x) (setSc (core z x) k.toNat { q with
        value := if v.getLsbD 62 then q.value else v.toNat % 2 ^ 32, loc := v.getLsbD 48, ovf := q.ovf && !v.getLsbD 49,
        under := q.under && !v.getLsbD 50 })) .seq) ∧
    (Ready x attPort s →
      let z := counted s x attPort
      Does (.fence x wf hold acq) x s (modT z (co x) (th x) (fun h => { h with
        fences := h.fences ++ [{ ids := fenceIds c (th x) wf, hold := hold, acq := acq }] })) .seq)

/-- A signal adds to its counter when its pair is the core's, and else counts in STALE_SIG, at most 63; an atomic is performed at its home,
which answers the old value (R362, R368, R369). -/
def Sys2Proof.Claims.SignalsAndHomeAtomics : Prop :=
  ∀ (s : State) (i : Nat) (p : Packet) (L id off : Nat) (cnt : BitVec 6) (n : BitVec 32) (pair : Pair) (op : AmoOp) (eight : Bool)
    (a d : Word) (who : Who) (k : Nat), s.ordered = true → mayArrive s i = some p → p.dst = .core L → coreOn s L = true →
    let t := takePkt s i
    let c := getCore s L
    let q := getSc c cnt.toNat
    (p.body = .signal cnt n pair k → pair = c.sup.pair → GoesTo (.signalArrival i) s (modCore t L (fun c => scAdd c cnt.toNat n.toNat)) L) ∧
    (p.body = .signal cnt n pair k → pair ≠ c.sup.pair →
      exec (.signalArrival i) s = .next (setCore t L (setSc c cnt.toNat { q with staleSig := min 63 (q.staleSig + 1) }))) ∧
    (p.body = .atomic id (.spad L off) op eight a d who →
      let m := if eight then 8 else 4
      let old := ofBytes (readBytes c.spad.mem off m)
      badIn c.spad.ue off m = [] → badIn c.spad.ce off m = [] → behindMessage c p.body = false →
      exec (.atomicAtHome i) s = .next (sendTo (homePut t (.spad L off) (toBytes m (amoNew op (8 * m) old a.toNat d.toNat)) []) (.core L) p.src
        (.atomicData id (BitVec.ofNat 64 old) false)))

/-- Counters, signals and atomics at their home. -/
def Obligations.CountersSignalsHomeAtomics : Prop := Claims.CounterInstructions ∧ Claims.SignalsAndHomeAtomics

/-! ### DMA -/

/-- DMA instructions and commands: `dm.start` starts an idle channel and answers 0, or answers 1; `dm.wait` waits with class 4 while the
channel is not IDLE; DMA_CTL stops, resumes, skips and aborts, and a command that the state does not permit sets CMD_IGNORED (R384, R385,
R400). -/
def Sys2Proof.Claims.DmaInstructions : Prop :=
  ∀ (x : Issue) (rd rs : BitVec 5) (ch : BitVec 2) (s : State),
    let k := ch.toNat
    let c := core s x
    let q := getChan c k
    let a := (reg s x rs).toNat
    (Ready x attStream s →
      let z := counted s x attStream
      (a % 64 ≠ 0 → Raises (.dmStart x rd ch rs) x s z (faultAt 0x03 a false 64)) ∧
      (a % 64 = 0 → 0x280000 < a + 64 → Raises (.dmStart x rd ch rs) x s z (faultAt 0x05 a false 64)) ∧
      (a % 64 = 0 → a + 64 ≤ 0x280000 → q.st = 0 → Does (.dmStart x rd ch rs) x s
        (wg (modChan z (co x) k (fun q => { q with
          st := 1, issuer := x.thread, issuerMode := (thr s x).mode, cur := a, desc := [], started := false, chainDone := 0,
          pos := 0 })) (co x) (th x) rd 0#64) .seq) ∧
      (a % 64 = 0 → a + 64 ≤ 0x280000 → q.st ≠ 0 → Does (.dmStart x rd ch rs) x s (wg z (co x) (th x) rd 1#64) .seq) ∧
      (q.st = 0 → Does (.dmWait x ch) x s z .seq) ∧ (q.st ≠ 0 → Sleeps (.dmWait x ch) x s z (.dma ch) 4)) ∧
    (Ready x (attOut (0x918 + 0x40 * k)) s →
      let z := counted s x (attOut (0x918 + 0x40 * k))
      let does (i : Instr) (f : Chan → Chan) : Prop := Does i x s (modChan z (co x) k f) .seq
      let ignored (q : Chan) : Chan := { q with cmdIgnored := true }
      let mayGo := q.st = 2 ∨ (3 ≤ q.st ∧ (thr s x).mode = .supervisor)
      let gone (t : State) (f : Chan → Prop) : Prop :=
        (∀ j, j ≠ k → getChan (core t x) j = getChan c j) ∧ f (getChan (core t x) k) ∧ ∀ K, K ≠ co x → getCore t K = getCore s K
      (q.st ≠ 1 → does (.dmaStop x ch) ignored) ∧
      (q.st = 1 → q.stopping = none → chanOuts c k ≠ [] →
        does (.dmaStop x ch) (fun q => { q with stopping := some (2 ^ 64, .stopCmd), aborting := false }) ∧
        does (.dmaAbort x ch) (fun q => { q with stopping := some (2 ^ 64, .stopCmd), aborting := true })) ∧
      (∀ u, q.st = 1 → q.stopping = some (u, .stopCmd) → chanOuts c k ≠ [] → does (.dmaAbort x ch) (fun q => { q with aborting := true })) ∧
      (mayGo → q.started = true → does (.dmaResume x ch) (fun q => { q with st := 1, fails := if q.st = 2 then q.fails else [] })) ∧
      (¬mayGo → does (.dmaResume x ch) ignored ∧ does (.dmaSkip x ch) ignored) ∧
      (q.st ≠ 1 → ¬mayGo → does (.dmaAbort x ch) ignored) ∧
      (mayGo → q.desc ≠ [] → ddWb q.desc = false →
        (∃ t, Does (.dmaSkip x ch) x s t .seq ∧ gone t (fun r => r.started = false ∧
          r.st = (if ddLink q.desc then 1 else 0) ∧ r.cur = (if ddLink q.desc then ddNext q.desc else q.cur) ∧ r.desc = [])) ∧
        ∃ t, Does (.dmaAbort x ch) x s t .seq ∧ gone t (fun r => r.started = false ∧ r.st = 0 ∧ r.desc = [])))

/-- A channel's descriptor: DMA_DESC_FETCH copies the 64 bytes at CUR and checks them; responses bring its data or end its writes; a failed
block is asked for again and counted; DMA_COMPLETE counts in CHAIN_DONE, signals, counts, and goes to the next descriptor or IDLE (R387,
R388, R393, R396, R397). -/
def Sys2Proof.Claims.DmaEvents : Prop :=
  ∀ (s : State) (K : BitVec 13) (ch : BitVec 2) (i id lo n : Nat) (p : Packet) (data : List Byte) (b : List Byte) (bulk : Bool), s.ordered = true →
    coreOn s K.toNat = true → (getCore s K.toNat).sup.stopped = false →
    let L := K.toNat
    let k := ch.toNat
    let c := getCore s L
    let q := getChan c k
    (q.st = 1 → q.desc = [] → q.stopping = none →
      (q.cur + 64 ≤ 0x280000 → badIn c.spad.ue q.cur 64 = [] → badIn c.spad.ce q.cur 64 = [] → GoesTo (.dmaDescFetch K ch) s
        (chanStart (modChan s L k (fun q => { q with desc := wordsOf 8 (readBytes c.spad.mem q.cur 64) })) L k) L) ∧
      (0x280000 < q.cur + 64 → GoesTo (.dmaDescFetch K ch) s
        (chanFault (modChan s L k (fun q => { q with errAddr := q.cur })) L k 3 0x14 9 16) L)) ∧
    (mayArrive s i = some p → p.dst = .core L →
      let isFor (o : OutKind) : Prop := (findOut c id).map (·.kind) = some o
      let reads (t : State) : Prop := GoesTo (.dmaResponse K ch i) s (dropOut (takePkt t i) L id) L
      (p.body = .readData id data [] bulk → isFor (.dma ch lo n false []) → ddSrcFix q.desc = true →
        reads (modChan s L k (fun q => { q with unit := data }))) ∧
      (p.body = .readData id data [] bulk → isFor (.dma ch lo n false []) → ddSrcFix q.desc = false → ddKind q.desc = 1 → data ≠ [] →
        reads (chanRead (modChan s L k (fun q => { q with got := gotAdd lo data q.got })) L k lo data)) ∧
      (p.body = .writeAck id → isFor (.dma ch lo n true b) →
        GoesTo (.dmaResponse K ch i) s (modCore (dropOut (takePkt s i) L id) L (fun c => pmcEvent c 0x1D none n)) L)) ∧
    (q.st = 1 → q.stopping = none → (chanOuts c k).length < 32 → q.again[i]? = some (lo, n, some b) → ddKind q.desc = 1 →
      GoesTo (.dmaRetryGap K ch i) s (modChan s L k (fun q => { q with
        got := gotAdd lo b q.got, again := dropAt i q.again, retries := satAdd 0xFFFFFFFF q.retries 1,
        descRetries := satAdd 255 q.descRetries 1 })) L) ∧
    (q.st = 1 → q.stopping = none → q.started = true → chanOuts c k = [] → q.again = [] → q.nxt = ddLen q.desc → ddKind q.desc = 0 →
      ddRsigEn q.desc = false → ddWb q.desc = false →
      let t := if ddCntEn q.desc then modCore s L (fun c => scAdd c (ddCnt q.desc) 1) else s
      ∃ t', GoesTo (.dmaComplete K ch) s t' L ∧ (∀ K, K ≠ L → getCore t' K = getCore s K) ∧
        (getCore t' L).sc = (getCore t L).sc ∧ (∀ j, j ≠ k → getChan (getCore t' L) j = getChan c j) ∧
        let r := getChan (getCore t' L) k
        r.chainDone = min 0xFFFF (q.chainDone + 1) ∧ r.desc = [] ∧ r.started = false ∧
          r.st = (if ddLink q.desc = true ∧ q.desc ≠ [] then 1 else 0) ∧
          r.cur = (if ddLink q.desc = true ∧ q.desc ≠ [] then ddNext q.desc else q.cur))

/-- DMA channels: instructions, commands and events. -/
def Obligations.DmaChannels : Prop := Claims.DmaInstructions ∧ Claims.DmaEvents

/-! ### Caches and translation -/

/-- Cache maintenance that causes no write-back: an `out` to CMO_CMD of a reserved form answers RESULT 1, of an address outside the translated
range 2; INV drops the selected lines of the D-cache and the side buffer and counts the dirty ones, CLEAN_INV of clean lines drops them,
CLEAN leaves them, UNLOCK unlocks them; LOCK of a line locked already answers at once; PF_CTL with FLUSH empties the side buffer
(R280–R291). -/
def Sys2Proof.Claims.CacheMaintenance : Prop :=
  ∀ (x : Issue) (v : Word) (s : State), (thr s x).mode = .supervisor → serialBusy (core s x) (th x) = false →
    let c := core s x
    let k := c.cache
    let target := bits v 4 3
    let sel (e : Nat × DLine) : Bool := cmoSelects k target (bits v 15 8) (bits v 17 16) 256 e.1 e.2
    let hit := (k.d.filter sel).filter (fun e => e.2.valid)
    let dirty := hit.filter (fun e => e.2.dirty)
    let stays (l : DLine) : Bool := !(target == 3 || (target == 0 && l.va == lineOf k.cmoAddr) ||
      (target == 1 && decide (l.va < k.cmoAddr + k.cmoLen) && decide (k.cmoAddr < l.va + 64) && k.cmoLen != 0))
    (Ready x (attOut 0xA10) s → k.cmo = none → k.cmoWait = [] → cmoFillPending c target = false → rising k.d = true →
      (∀ e ∈ k.d, e.1 < 1024) →
      let z := counted s x (attOut 0xA10)
      let does (i : Instr) (k' : Caches) : Prop := Does i x s (setCore z (co x) { core z x with cache := k' }) .seq
      let stat (r n w : Nat) (k : Caches) : Caches := { k with cmoResult := r, cmoLines := n, cmoWb := w }
      let resv := bits v 7 6 ≠ 0 ∨ bits v 63 18 ≠ 0
      let mine := ¬resv ∧ v.getLsbD 5 = false
      let dropped := hit.foldl (fun k e => dropWay k true e.1 e.2) k
      (resv ∨ v.getLsbD 5 = true → does (.cmoClean x v) (stat 1 0 0 k) ∧ does (.cmoCleanInv x v) (stat 1 0 0 k) ∧
        does (.cmoLock x v) (stat 1 0 0 k) ∧ does (.cmoUnlock x v) (stat 1 0 0 k)) ∧
      (resv ∨ (v.getLsbD 5 = true ∧ target = 2 ∧ 128 ≤ bits v 15 8) → does (.cmoInv x v) (stat 1 0 0 k)) ∧
      (target ≠ 0 → does (.cmoLock x v) (stat 1 0 0 k)) ∧ (target = 1 ∨ target = 2 → does (.cmoUnlock x v) (stat 1 0 0 k)) ∧
      (mine → target = 0 → k.cmoAddr < 0x10000000000 →
        does (.cmoClean x v) (stat 2 0 0 k) ∧ does (.cmoInv x v) (stat 2 0 0 k) ∧ does (.cmoCleanInv x v) (stat 2 0 0 k) ∧
        does (.cmoLock x v) (stat 2 0 0 k) ∧ does (.cmoUnlock x v) (stat 2 0 0 k)) ∧
      (mine → (target ≠ 0 ∨ 0x10000000000 ≤ k.cmoAddr) →
        (dirty = [] → does (.cmoClean x v) (stat 0 hit.length 0 k)) ∧
        does (.cmoInv x v) (stat 0 hit.length 0 { dropped with
          side := k.side.filter stays
          dirtyDiscards := if dirty = [] then k.dirtyDiscards else satAdd 0xFFFFFFFF k.dirtyDiscards dirty.length }) ∧
        (dirty = [] → does (.cmoCleanInv x v) (stat 0 hit.length 0 { dropped with side := k.side.filter stays })) ∧
        (target = 0 ∨ target = 3 → does (.cmoUnlock x v) (stat 0 hit.length 0 { k with d := (k.d.filter sel).foldl (fun d e =>
          mput DLine.empty e.1 (if e.2.valid then { e.2 with locked := false } else DLine.empty) d) k.d }))) ∧
      (∀ key l, mine → target = 0 → 0x10000000000 ≤ k.cmoAddr →
        (∀ w < 4, (mget DLine.empty k.d (4 * (k.cmoAddr / 64 % 256) + w)).tagBad = false) →
        findLine k.d 256 k.cmoAddr = some (key, l) → l.flips = [] → l.locked = true → does (.cmoLock x v) (stat 0 1 0 k))) ∧
    (Ready x (attOut 0xA28) s →
      let z := counted s x (attOut 0xA28)
      Does (.pfFlush x v) x s (setCore z (co x) { core z x with cache := { k with
        pfEnable := v.getLsbD 0, pfDepthM1 := bits v 2 1, pfShared := v.getLsbD 3, side := [] } }) .seq)

/-- Translation commands: TLB_INV drops the entries of a page or all, a write of XLT_ROOT sets it and empties the TLB, XLT_FWD forwards the
recorded fault or sets FWD_IGNORED (R305, R306, R309, R314). -/
def Sys2Proof.Claims.TranslationCommands : Prop :=
  ∀ (x : Issue) (v : Word) (s : State), (thr s x).mode = .supervisor → serialBusy (core s x) (th x) = false →
    let X := (core s x).xlt
    let page := bits v 47 12 * 4096
    let keep (e : Tlb) : Bool := !(decide (e.va < page + 1) && decide (page < e.va + 2 ^ e.log2))
    let f := (thrOf s (co x) (bits v 51 48)).fsr
    let does (i : Instr) (a : Nat) (X' : Xlt) : Prop := Does i x s (setCore (counted s x (attOut a)) (co x)
      { core (counted s x (attOut a)) x with xlt := X' }) .seq
    (Ready x (attOut 0xB08) s → does (.tlbInvVa x v) 0xB08 { X with tlb := X.tlb.filter keep, big := X.big.filter keep } ∧
      does (.tlbInvAll x v) 0xB08 { X with tlb := [], big := [] }) ∧
    (Ready x (attOut 0xB00) s → does (.xltRootWrite x v) 0xB00 { X with
      tlb := [], big := [], root := BitVec.ofNat 64 (bits v 39 12 * 4096 + b2n (v.getLsbD 0)) }) ∧
    (Ready x (attOut 0xB18) s → (f.reason = 0 ∨ f.outstanding = true) → does (.xltFwd x v) 0xB18 { X with fwdIgnored := true }) ∧
    (Ready x (attOut 0xB18) s → f.reason ≠ 0 → f.outstanding = false →
      ∃ t, Does (.xltFwd x v) x s t .seq ∧ thrOf t (co x) (bits v 51 48) = { thrOf s (co x) (bits v 51 48) with
          fsr := { f with outstanding := true, replied := false, cntEn := v.getLsbD 52, cnt := BitVec.ofNat 6 (bits v 58 53),
                          seq := f.seq + 1#8, va := v.truncate 48 } } ∧
        (core t x).xlt = { X with forwards := satAdd 0xFFFFFFFF X.forwards 1 } ∧
        t.net = s.net ++ [pkt (.core (co x)) .disp (.faultRecord (threadRecord s (co x) (bits v 51 48) f (f.seq + 1#8)
          (v.truncate 48)) (bits v 51 48))])

/-- Walks, the fault ring and shootdowns: a walk that ends with a translation installs it; the dispatcher writes
records into the fault ring and raises vector 64; a reply ends the outstanding fault of its source; a shootdown drops the entries and the lines of
its range at a core, which acknowledges it once the requests in flight are performed, and its last acknowledgment raises vector 65 (R303, R307, R312, R466, R467). -/
def Sys2Proof.Claims.TranslationEvents : Prop :=
  ∀ (s : State) (K : BitVec 13) (i : Nat) (p : Packet) (v : Word), s.ordered = true → running s = true →
    let L := K.toNat
    let c := getCore s L
    let t := takePkt s i
    (∀ page e, coreOn s L = true → c.xlt.walks[i]? = some { page := page, waiters := [] } →
      walkFrom s c.xlt.root (page * 4096) = .ok e → GoesTo (.walkComplete K i) s
        (walkReads (setCore { s with freeCtr := s.freeCtr + 1 } L
          { c with xlt := tlbInstall { c.xlt with walks := dropAt i c.xlt.walks } e s.freeCtr })
          (page * 4096) 4 0 (bits c.xlt.root 39 12 * 4096)) L) ∧
    (∀ r k, mayArrive s i = some p → p.dst = .disp → p.body = .faultRecord r k →
      (faultRoom s = false → exec (.faultRecord i) s = .next { t with disp := { t.disp with faultWait := t.disp.faultWait ++ [r] } }) ∧
      (∀ a, s.disp.faultWait = [] → faultRoom s = true → linkUp s = true →
        ringPlace (dv s 0x2010 3 0) (32 * s.disp.faultTail) = .comp a → exec (.faultRecord i) s = .next { t with
          comp := writeBytes s.comp a (bytesOf [r.w0, r.w1, r.w2, 0#64]),
          disp := { t.disp with faultTail := (s.disp.faultTail + 1) % faultSlots s, faultWait := [],
                                raised := insertNat 64 s.disp.raised } })) ∧
    (windowOn s = true → bits v 55 48 = moduleId s % 256 → bits v 12 8 ≠ 31 → bits v 28 16 < gradeOf s →
      exec (.faultReplyWrite v) s = .next (sendTo s .disp (.core (bits v 28 16)) (.faultReply (bits v 12 8) (BitVec.ofNat 8 (bits v 63 56))
        ⟨BitVec.ofNat 12 (bits v 43 32), BitVec.ofNat 4 (bits v 47 44)⟩ (v.getLsbD 29)))) ∧
    (∀ n seq ab, mayArrive s i = some p → p.dst = .core L → coreOn s L = true → n < 16 → p.body = .faultReply n seq c.sup.pair ab →
      (getThr c n).fsr.outstanding = true → (getThr c n).fsr.seq = seq → (getThr c n).fsr.cntEn = false →
      GoesTo (.faultReply i) s (modT t L n (fun h => { h with
        fsr := { h.fsr with outstanding := false, replied := true, result := ab } })) L) ∧
    (windowOn s = true → s.disp.shoot = none → s.disp.shootWait = [] → s.disp.shootLen = 0 →
      exec (.shootCtl v) s = .next { s with disp := { s.disp with
        shootDone := bits v 31 16, raised := insertNat 65 s.disp.raised } }) ∧
    (windowOn s = true → s.disp.shoot.isSome = true →
      exec (.shootCtl v) s = .next { s with disp := { s.disp with shootWait := s.disp.shootWait ++ [v] } }) ∧
    (∀ lo n, mayArrive s i = some p → p.dst = .core L → coreOn s L = true → p.body = .shootdown lo n → c.xlt.shoot = none →
      rising c.cache.d = true → (∀ e ∈ c.cache.d, lineIn lo n e.2 = true → e.2.dirty = false) →
      let X := tlbRemove c.xlt lo n
      let k := (c.cache.d.filter (fun e => lineIn lo n e.2)).foldl (fun k e => dropWay k false e.1 e.2) { c.cache with
        i := c.cache.i.filter (fun e => !lineIn lo n e.2), side := c.cache.side.filter (fun l => !lineIn lo n l) }
      (requestIds c = [] → GoesTo (.shootdown i) s (sendTo (setCore t L { c with
        cache := k, xlt := { X with shootdowns := satAdd 0xFFFF X.shootdowns 1 } }) (.core L) .disp .shootdownAck) L) ∧
      (requestIds c ≠ [] → GoesTo (.shootdown i) s (setCore s L { c with cache := k, xlt := { X with shoot := some (requestIds c) } }) L)) ∧
    (∀ sd, mayArrive s i = some p → p.dst = .disp → p.body = .shootdownAck → s.disp.shoot = some sd → s.disp.shootWait = [] →
      sd.waiting = [p.src] → exec (.shootdownAck i) s = .next { t with disp := { t.disp with
        shoot := none, shootDone := sd.seq.toNat, raised := insertNat 65 s.disp.raised } })

/-- Address translation: commands and events. -/
def Obligations.Translation : Prop := Claims.TranslationCommands ∧ Claims.TranslationEvents

/-- The end of a cache's reset invalidation makes it ready; a clean victim that is offered to its stack's memory-side cache is taken, or
declined where the line is held, more than 32 offers wait or the stack is out of service (R279, R294). -/
def Sys2Proof.Claims.CacheEvents : Prop :=
  ∀ (s : State) (K : BitVec 13) (i h line : Nat) (p : Packet), s.ordered = true → running s = true →
    let c := getCore s K.toNat
    let count (t : State) (k : Nat) : State := { t with disp := { t.disp with
      stackCnt := mmod 0 (6 * h + k) (satAdd 0xFFFFFFFF 1) t.disp.stackCnt } }
    (coreOn s K.toNat = true →
      GoesTo (.cacheInitDone K true) s (setCore s K.toNat { c with cache := { c.cache with icBusy := false } }) K.toNat ∧
      GoesTo (.cacheInitDone K false) s (setCore s K.toNat { c with cache := { c.cache with dcBusy := false } }) K.toNat) ∧
    (mayArrive s i = some p → p.dst = .stack h → p.body = .victim line →
      let waiting := (s.net.filter (fun q => decide (q.dst = .stack h) && (match q.body with | .victim _ => true | _ => false))).length
      let declined := line ∈ s.disp.msc ∨ 32 < waiting ∨ stackUp s h = false
      (declined → exec (.victim i) s = .next (count (takePkt s i) 3)) ∧
      (¬declined → (s.disp.msc.filter (fun l => stackOf l == stackOf line)).length < 65536 →
        exec (.victim i) s = .next (count { takePkt s i with disp := { s.disp with msc := s.disp.msc ++ [line] } } 2)))

/-- Cache maintenance and cache events. -/
def Obligations.Caches : Prop := Claims.CacheMaintenance ∧ Claims.CacheEvents

/-! ### Channels, rings, press queues -/

/-- Channel instructions: `ch.put` stages a word, `ch.clr` discards them, `ch.send` commits the staged words to a destination whose checks
pass, `ch.sendd` a described block of 64 bytes of the scratchpad with its CRC-32C, `ch.recv` and `ch.recvnb` take the head message of a ring,
`ch.peek` reads its header (R322–R326, R331, R332, R339–R341). -/
def Sys2Proof.Claims.ChannelInstructions : Prop :=
  ∀ (x : Issue) (ra rb : BitVec 5) (vd ring : BitVec 4) (s : State),
    let c := core s x
    let h := thr s x
    let a := reg s x ra
    let b := reg s x rb
    let r := ring.toNat
    let q := getRing c r
    let destBad := destFault s (co x) h.mode b
    let sent (z : State) (kind user : Nat) (words : List Word) (h' : Thread) (t : State) : Prop :=
      (core t x).outq = c.outq ++ [pkt (.core (co x)) (coreEp s (bits b 31 24) (bits b 12 0)) (.message (BitVec.ofNat 4 (bits b 19 16))
        { header := BitVec.ofNat 64 (words.length + 16 * kind + 256 * user + 2 ^ 16 * c.sup.pair.tag.toNat +
            2 ^ 28 * c.sup.pair.gen.toNat + 2 ^ 32 * co x + 2 ^ 48 * moduleId s + 2 ^ 56 * th x), words := words, bad := [] })] ∧
      { thr t x with staged := h.staged, acc := h.acc } = { h' with stagedN := 0 } ∧
      (∀ k, k ≠ th x → thrOf t (co x) k = thrOf s (co x) k) ∧ { core t x with thr := c.thr, perf := c.perf, outq := c.outq } = c ∧
      (∀ K, K ≠ co x → getCore t K = getCore s K) ∧ { t with cores := z.cores } = z
    (Ready x attUnit s →
      let z := counted s x attUnit
      (h.stagedN < 8 → Does (.chPut x ra) x s
        (modT z (co x) (th x) (fun h => { h with staged := mput 0#64 h.stagedN a h.staged, stagedN := h.stagedN + 1 })) .seq) ∧
      (8 ≤ h.stagedN → Raises (.chPut x ra) x s z (faultOf 0x09)) ∧
      Does (.chClr x) x s (modT z (co x) (th x) (fun h => { h with stagedN := 0 })) .seq ∧
      (bits a 3 0 ≠ h.stagedN ∨ 8 < h.stagedN → Raises (.chSend x ra rb) x s z (faultOf 0x09)) ∧
      (∀ e, bits a 3 0 = h.stagedN → h.stagedN ≤ 8 → destBad = some e → Raises (.chSend x ra rb) x s z (faultOf e)) ∧
      (bits a 3 0 = h.stagedN → h.stagedN ≤ 8 → destBad = none → c.outq.length < 16 → ∃ t, Does (.chSend x ra rb) x s t .seq ∧
        sent z 0 (bits a 15 8) ((List.range h.stagedN).map (fun i => mget 0#64 h.staged i)) h t ∧ (thr t x).staged = h.staged) ∧
      (q.enable = false → Raises (.chRecv x ra vd ring) x s z (faultOf 0x09) ∧
        Raises (.chRecvnb x ra vd ring) x s z (faultOf 0x09) ∧ Raises (.chPeek x ra ring) x s z (faultOf 0x09)) ∧
      (q.enable = true → (q.pause = true ∨ q.msgs = 0) → Sleeps (.chRecv x ra vd ring) x s z (.ring ring) 2 ∧
        Does (.chRecvnb x ra vd ring) x s (wg z (co x) (th x) ra 0xF0#64) .seq) ∧
      (q.enable = true → q.msgs = 0 → Does (.chPeek x ra ring) x s (wg z (co x) (th x) ra 0xF0#64) .seq) ∧
      (q.enable = true → q.msgs ≠ 0 → Does (.chPeek x ra ring) x s (wg z (co x) (th x) ra (ringWord c q q.head)) .seq) ∧
      (q.enable = true → q.pause = false → q.msgs ≠ 0 →
        let head := ringWord c q q.head
        let len := bits head 3 0
        badIn c.spad.ue (q.base + q.head) (8 + 8 * len) = [] → badIn c.spad.ce (q.base + q.head) (8 + 8 * len) = [] →
        let t := modCore (modT (wg z (co x) (th x) ra head) (co x) (th x) (fun h =>
          setV h vd.toNat (BitVec.ofNat 1024 (ofBytes (readBytes c.spad.mem (q.base + q.head + 8) (8 * len)))))) (co x)
          (fun c => ringPop c r)
        Does (.chRecv x ra vd ring) x s t .seq ∧ Does (.chRecvnb x ra vd ring) x s t .seq)) ∧
    (Ready x attMem s → noWatch s x → h.prog.getLsbD 63 = false → h.dbg.pend = none →
      let z := counted s x attMem
      let p := (mget 0#64 h.staged 0).toNat
      let n := bits (mget 0#64 h.staged 1) 31 0
      let crc := ~~~(crcBytes 0xFFFFFFFF#32 (spadBytes s x p n))
      (h.stagedN ≠ 2 → Raises (.chSendd x ra rb) x s z (faultOf 0x09)) ∧
      (h.stagedN = 2 → p % 64 = 0 → n % 64 = 0 → destBad = none → Local s x p n false → c.outq.length < 16 →
        ∃ t, Does (.chSendd x ra rb) x s t .seq ∧
          sent z 1 (bits a 15 8) [mget 0#64 h.staged 0, mget 0#64 h.staged 1, crc.zeroExtend 64]
            { h with prog := 0#64 } t))

/-- Rings at work: a message that arrives at an enabled ring of its pair is placed at TAIL and counted, at a disabled one or with another
pair it is dropped as stale, with DISCARD as cancelled; a full ring parks it, and a stall of the threshold queues event 0x0A; the commands of
RING_CFG enable, pause and discard (R319, R327–R330, R334, R335). -/
def Sys2Proof.Claims.Rings : Prop :=
  ∀ (s : State) (x : Issue) (K : BitVec 13) (ring : BitVec 4) (i : Nat) (p : Packet) (m : Msg) (v : Word), s.ordered = true →
    let L := K.toNat
    let r := ring.toNat
    let c := getCore s L
    let q := getRing c r
    let own := hdrPair m.header = q.pair
    (mayArrive s i = some p → p.dst = .core L → p.body = .message ring m → coreOn s L = true → c.vc2 = [] →
      let t := takePkt s i
      let stale := setCore t L (setRing c r { q with staleDrops := satAdd 0xFFFFFFFF q.staleDrops 1 })
      (q.enable = false ∨ ¬own → GoesTo (.message i) s stale L) ∧
      (q.enable = true → own → q.discard = true →
        GoesTo (.message i) s (setCore t L (setRing c r { q with cancelDrops := satAdd 0xFFFF q.cancelDrops 1 })) L) ∧
      (q.enable = true → own → q.discard = false → q.parked = none → c.sup.switching ≠ 1 → (q.pause = true ∨ (q.msgs ≠ 0 ∧ q.tail = q.head)) →
        GoesTo (.message i) s (setCore t L (setRing c r { q with parked := some m, parkAge := 0 })) L) ∧
      (q.enable = true → own → q.discard = false → q.parked = none → q.pause = false → q.head ≤ q.tail → (q.msgs = 0 ∨ q.tail ≠ q.head) →
        8 + 8 * m.words.length ≤ 2 ^ q.sizeLog2 - q.tail → m.bad = [] → q.arrCntEn = false →
        ∃ t', GoesTo (.message i) s t' L ∧ (∀ J, J ≠ L → getCore t' J = getCore s J) ∧
          (let q' := getRing (getCore t' L) r
           q'.msgs = q.msgs + 1 ∧ q'.tail = (q.tail + 8 + 8 * m.words.length) % 2 ^ q.sizeLog2 ∧ q'.staleDrops = q.staleDrops) ∧
          (getCore t' L).spad.mem = (getCore (spadWriteBad t L (q.base + q.tail) (toBytes 8 m.header.toNat ++ bytesOf m.words) []) L).spad.mem)) ∧
    (coreOn s L = true → q.parked ≠ none → q.enable = true → q.stallEv = true → q.pause = false → q.stalled = false →
      dv s 0x2300 2 100 ≤ q.parkAge → dv s 0x2300 1 1 = 1 →
      GoesTo (.ringStallEvent K ring) s (setCore s L (queueEvent (setRing c r { q with stalled := true }) 3 r 0 false 0x0A)) L) ∧
    (Ready x (attOut (0x400 + 0x18 * r)) s → (thr s x).mode = .supervisor →
      let z := counted s x (attOut (0x400 + 0x18 * r))
      let g := getRing (core s x) r
      let size := 2 ^ bits v 26 22
      let base := bits v 21 0
      let free := ∀ j < 16, j ≠ r → (getRing (core s x) j).enable = true →
        base + size ≤ (getRing (core s x) j).base ∨ (getRing (core s x) j).base + 2 ^ (getRing (core s x) j).sizeLog2 ≤ base
      let bits' (g : Ring) : Ring := { g with
        pause := v.getLsbD 28, discard := v.getLsbD 29, stallEv := v.getLsbD 30, arrCntEn := v.getLsbD 31,
        arrCnt := BitVec.ofNat 6 (bits v 37 32) }
      let put (i : Instr) (g : Ring) : Prop := Does i x s (modCore (setCore z (co x) (setRing (core z x) r g)) (co x) (fun c => ringWakes c r)) .seq
      (g.enable = false → g.parked = none → 8 ≤ bits v 26 22 → bits v 26 22 ≤ 18 → base % 64 = 0 → base + size ≤ 0x280000 →
        (base + size ≤ 0x7F800 ∨ 0x80000 ≤ base) → free →
        put (.ringEnable x ring v) { bits' g with
          base := base, sizeLog2 := bits v 26 22, enable := true, head := 0, tail := 0, msgs := 0, cfgErr := 0,
          pair := (core s x).sup.pair }) ∧
      (g.enable = true → g.parked = none → v.getLsbD 27 = true → base = g.base → bits v 26 22 = g.sizeLog2 →
        put (.ringPause x ring v) (bits' g) ∧ put (.ringDiscard x ring v) (bits' g)))

/-- Channel instructions and the rings that take messages. -/
def Obligations.ChannelsAndRings : Prop := Claims.ChannelInstructions ∧ Claims.Rings

/-- Press queues: `ch.press` sends the elements of a contribution, `ch.pcfg`, `ch.pclose` and `ch.pstat` ask the queue and wait; the queue
opens, closes and answers, drops or adds contributions, and a reply completes the instruction (R342–R348). -/
def Obligations.PressQueues : Prop :=
  ∀ (s : State) (x : Issue) (ra rb : BitVec 5) (i k L : Nat) (p : Packet) (t4 : BitVec 4) (pair : Pair) (fmt : Nat) (vs : List (BitVec 32))
    (round : Bool) (v w : Word) (ds : List (BitVec 32)) (src : Nat),
    (let a := (reg s x ra).toNat
     let b := reg s x rb
     let c := core s x
     let asks (i : Instr) (z : State) (w : Word) (op : PressOp) : Prop := Sleeps i x s
       (sendTo z (.core (co x)) (.press (32 * bits w 8 0 + bits w 13 9)) (.pressCtl op (co x) x.thread c.sup.pair)) (.press ra) 2
     (Ready x attMem s →
       let z := counted s x attMem
       let e := if bits b 18 17 = 2 then 2 else 4
       let n := bits b 25 20 + 1
       let good := bits b 63 26 = 0 ∧ b.getLsbD 19 = false ∧ bits b 15 14 = 0 ∧ bits b 8 0 < 320
       (good → noWatch s x → a % 64 = 0 → a + n * e ≤ 0x280000 → badIn c.spad.ue a (n * e) = [] → badIn c.spad.ce a (n * e) = [] → c.outq.length < 16 →
         Does (.chPress x ra rb) x s (setCore z (co x) { core z x with outq := c.outq ++ [pkt (.core (co x))
           (.press (32 * bits b 8 0 + bits b 13 9)) (.pressContrib c.sup.pair (bits b 18 17)
             ((List.range n).map (fun i => BitVec.ofNat 32 (ofBytes (((spadBytes s x a (n * e)).drop (e * i)).take e))))
             (b.getLsbD 16) (co x))] }) .seq) ∧
       ((thr s x).mode = .user → Raises (.chPcfg x ra rb) x s z (faultOf 0x02)) ∧
       ((thr s x).mode = .supervisor → b.toNat % 64 = 0 → b.toNat + 64 ≤ 0x280000 → badIn c.spad.ue b.toNat 64 = [] →
         badIn c.spad.ce b.toNat 64 = [] → noWatch s x →
         let ws := wordsOf 8 (spadBytes s x b.toNat 64)
         asks (.chPcfg x ra rb) z (wat ws 0) (.cfg (wat ws 0)
           ((ws.drop 1).map (fun w => [w.truncate 32, BitVec.ofNat 32 (w.toNat / 2 ^ 32)])).flatten))) ∧
     (Ready x attUnit s → bits b 63 14 = 0 → bits b 8 0 < 320 →
       let z := counted s x attUnit
       ((thr s x).mode = .supervisor → asks (.chPclose x ra rb) z b .close) ∧ asks (.chPstat x ra rb) z b .stat)) ∧
    (s.ordered = true → running s = true → mayArrive s i = some p →
      let t := takePkt s i
      let g := getPress s k
      let put (g : PressQ) : State := { t with press := mput PressQ.closed k g t.press }
      let reply (t : State) (v : Word) : State := sendTo t (.press k) (.core L) (.pressReply t4 v)
      (∀ rd, p.dst = .core L → p.body = .pressReply t4 v → coreOn s L = true → (thrOf s L t4.toNat).st = .wait →
        (thrOf s L t4.toNat).wait = .press rd → GoesTo (.pressReply i) s (wakeDone (wg t L t4.toNat rd v) L t4.toNat) L) ∧
      (p.dst = .press k → p.body = .pressCtl (.cfg w ds) L t4 pair →
        (pressCfgResult s g w ds = 0 → exec (.pressCtl i) s = .next (reply (put { PressQ.closed with
          opened := true, cfg := w, dests := ds.take (bits w 26 24 + 1), pair := pair }) 0#64)) ∧
        (pressCfgResult s g w ds ≠ 0 → exec (.pressCtl i) s = .next (reply t (BitVec.ofNat 64 (pressCfgResult s g w ds))))) ∧
      (p.dst = .press k → p.body = .pressCtl .close L t4 pair →
        (g.opened = false → exec (.pressCtl i) s = .next (reply t 2#64)) ∧
        (g.opened = true → (g.norm = true ∨ g.pair ≠ pair) → exec (.pressCtl i) s = .next (reply t 1#64)) ∧
        (g.opened = true → g.norm = false → g.pair = pair →
          exec (.pressCtl i) s = .next (reply (put { PressQ.closed with drops := g.drops }) 0#64))) ∧
      (p.dst = .press k → p.body = .pressContrib pair fmt vs round src →
        let wrong := g.opened = false ∨ pair ≠ g.pair ∨ fmt ≠ bits g.cfg 15 14 ∨ vs.length ≠ bits g.cfg 21 16 + 1
        (wrong → exec (.pressContrib i) s = .next (put { g with drops := satAdd 0xFFFF g.drops 1 })) ∧
        (¬wrong → round ≠ g.round →
          exec (.pressContrib i) s = .next (put { g with nxt := pressSum fmt g.nxt vs, nxtN := g.nxtN + 1 })) ∧
        (PressRest s → ¬wrong → round = g.round → g.norm = false → g.curN + 1 < bits g.cfg 47 32 →
          exec (.pressContrib i) s = .next (put { g with cur := pressSum fmt g.cur vs, curN := g.curN + 1 }))))

/-! ### Homes, recalls, errors, drops -/

/-- Homes of HBM: a read answers the bytes of HBM, a write stores its data and is acknowledged, both counted by the memory-side cache alone;
a stack out of service answers ERROR_RESP with reason 4; an access to a line that the companion holds waits for its recall, and the answer
puts the data of an owned line into HBM, updates the directory and sends the held accesses on (R226, R279, R420, R463, R544). -/
def Obligations.HbmHomes : Prop :=
  ∀ (s : State) (i h id a n line : Nat) (b : BitVec 5) (p : Packet) (w : Who) (ecc : Ecc) (data : List Byte) (r : Recall)
    (back : Option (List Byte)), running s = true →
    let t := takePkt s i
    let reply (z : State) (b : Body) : State := sendTo z (.stack h) p.src b
    (mayArrive s i = some p → p.dst = .stack h →
      (p.body = .read id (.hbm a) n w →
        (stackUp s h = false → exec (.hbmRead i ecc) s = .next (reply t (.errorResp id 4))) ∧
        (stackUp s h = true → mustRecall s (.hbm a) n false = some (line, false) →
          exec (.hbmRead i ecc) s = .next (startRecall t line false [p])) ∧
        (stackUp s h = true → mustRecall s (.hbm a) n false = none → ecc.corrected = [] → ecc.uncorrectable = [] → badIn s.hbmUE a n = [] →
          ∃ z, exec (.hbmRead i ecc) s = .next (reply z (.readData id (readBytes s.hbm a n) [] (bulkWho w false))) ∧ { z with disp := s.disp } = t ∧
            z.disp.dir = s.disp.dir ∧ z.disp.orders = s.disp.orders)) ∧
      (p.body = .write id (.hbm a) [(0, data)] [] w →
        (stackUp s h = false → exec (.hbmWrite i) s = .next (reply t (.errorResp id 4))) ∧
        (stackUp s h = true → mustRecall s (.hbm a) data.length true = some (line, true) →
          exec (.hbmWrite i) s = .next (startRecall t line true [p])) ∧
        (stackUp s h = true → mustRecall s (.hbm a) data.length true = none →
          ∃ z, exec (.hbmWrite i) s = .next (reply z (.writeAck id)) ∧ z.hbm = writeBytes s.hbm a data ∧
            { z with hbm := s.hbm, hbmUE := s.hbmUE, disp := { z.disp with msc := s.disp.msc } } = t))) ∧
    (s.disp.recalls.find? (fun q => q.h == b.toNat && q.line == line) = some r → linkUp s = true →
      ∃ z, exec (.recallAnswer b line back) s = .next z ∧ z.net = r.held ++ s.net ∧
        (∀ d, back = some d → (line, true) ∈ s.disp.dir → z.hbm = writeBytes s.hbm line (d.take 64)) ∧
        (back = none → z.hbm = s.hbm) ∧
        (∀ e, e.1 ≠ line → (e ∈ z.disp.dir ↔ e ∈ s.disp.dir)) ∧ (line, true) ∉ z.disp.dir ∧
        (r.invalidate = true → (line, false) ∉ z.disp.dir) ∧
        (∀ q ∈ z.disp.recalls, q.h = b.toNat → q.line ≠ line))

/-- An error answer reaches the unit that waits: the load of a held thread raises 0x0D, a stream slot stops at its element and a DMA channel
takes a bus error; a drop notice of a response ends its request as an error answer does, one of a message, signal or press contribution is counted at its source
core; a packet that has reached its
lifetime is removed and answered (R260, R397, R419, R420, R421, R596). -/
def Sys2Proof.Claims.ErrorsAndDrops : Prop :=
  ∀ (s : State) (i L id reason k lo n : Nat) (p : Packet) (t4 : BitVec 4) (rd : BitVec 5) (sl : BitVec 3) (ch : BitVec 2) (sx aq : Bool)
    (va hi : Nat) (wn : Bool) (ds : List Byte), s.ordered = true → PressRest s → running s = true →
    let t := takePkt s i
    let c := getCore s L
    let d := dropOut t L id
    (mayArrive s i = some p → p.dst = .core L →
      (p.body = .errorResp id reason →
        (findOut c id = some { id := id, kind := .load t4 rd n sx aq va, win := wn } → (thrOf s L t4.toNat).held = .access id →
          (thrOf s L t4.toNat).entry = none → (thrOf s L t4.toNat).dbg.pend = none → GoesTo (.errorResp i) s
            (raise (modT d L t4.toNat (fun h => { h with held := .none })) L t4.toNat (faultAt 0x0D va false n)) L) ∧
        (findOut c id = some { id := id, kind := .stream sl false lo hi sx, win := wn } →
          GoesTo (.errorResp i) s (slotLose d L sl.toNat lo hi .bus) L) ∧
        (findOut c id = some { id := id, kind := .dma ch lo n false ds, win := wn } → reason = 3 →
          GoesTo (.errorResp i) s (chanFail d L ch.toNat lo .bus (let q := getChan (getCore d L) ch.toNat
            if ddKind q.desc = 1 then ddOff q.desc + lo else if ddSrcFix q.desc then ddSrc q.desc else ddSrc q.desc + lo)) L)) ∧
      (p.body = .dropNotice reason 7 none 0 (some id) → GoesTo (.dropNotice i) s (errorAnswer t L id reason) L) ∧
      (p.body = .dropNotice reason k none 0 none → frozen c = false →
        (k = 0 → exec (.dropNotice i) s = .next (setCore t L { c with perf := { c.perf with
          dropMsg := satAdd 0xFFFF c.perf.dropMsg 1 } })) ∧
        (k = 1 → exec (.dropNotice i) s = .next (setCore t L { c with perf := { c.perf with
          dropSig := satAdd 0xFFFF c.perf.dropSig 1 } })) ∧
        (k = 2 → exec (.dropNotice i) s = .next (setCore t L { c with perf := { c.perf with
          dropPress := satAdd 0xFFFF c.perf.dropPress 1 } })))) ∧
    (∀ q home w, s.net[i]? = some q → 999 ≤ q.age → q.body = .read id home n w →
      exec (.packetAged i) s = .next (sendTo t .io q.src (.errorResp id 1))) ∧
    (∀ q m r, s.net[i]? = some q → 999 ≤ q.age → q.body = .message r m →
      exec (.packetAged i) s = .next (sendTo t .io q.src (.dropNotice 1 0 none 0 none)))

/-- A dispatcher or dictionary command at a core: HALT halts the threads of its mask, RESUME and STEP let halted threads go on; a command to
stop takes hold of the core and stays until the traffic of its group has drained; then the core has no pair, group, signal counters or
translations any more and its caches begin to be emptied; when they are, the command is acknowledged; a core that has stopped lets it fall (R378, R414, R475, R480, R584, R585). -/
def Sys2Proof.Claims.CommandsAtCores : Prop :=
  ∀ (s : State) (i L k mode : Nat) (p : Packet) (m : BitVec 16), s.ordered = true → coreOn s L = true →
    mayArrive s i = some p → p.dst = .core L → (mode = 1 ∨ mode = 2) →
    let t := takePkt s i
    let h (n : Nat) : Thread := thrOf s L n
    let cmd : CoreCmd := if mode = 1 then .stopAll k else .endSteps k
    (p.body = .command (.halt m) → GoesTo (.command i) s (dbgHalt t L m.toNat 5 none) L) ∧
    (p.body = .command (.resume m) → GoesTo (.command i) s (dbgGo t L m.toNat false true) L) ∧
    (p.body = .command (.step m) → GoesTo (.command i) s (dbgGo t L m.toNat true true) L) ∧
    (∀ n < 16, (getCore s L).dbg.haltAll = false → (getCore s L).dbg.haltUnits = false → m.toNat = 2 ^ n →
      ((h n).st = .wait → (thrOf (dbgHalt t L m.toNat 5 none) L n).st = .halted) ∧
      ((getCore s L).dbg.stopped = [] → (h n).st = .halted → (thrOf (dbgGo t L m.toNat false true) L n).st = .ready ∧
        (thrOf (dbgGo t L m.toNat true true) L n).dbg.stepping = true)) ∧
    (p.body = .command cmd →
      ((getCore s L).sup.stopped = true → exec (.command i) s = .next t) ∧
      ((getCore s L).sup.stopped = false → (getCore s L).sup.switching = mode →
        let z := tidy s s L
        let ended (z : State) : Prop := (getCore z L).cache.cmo = none ∧ (getCore z L).outs = []
        (switchPassed z L = false → groupReady z k L mode = false → exec (.command i) s = .next z) ∧
        (switchPassed z L = true → ended z → exec (.command i) s = .next (sendTo (takePkt z i) (.core L) .disp (.commandAck k L))) ∧
        (switchPassed z L = true → ¬ended z → exec (.command i) s = .next z) ∧
        (switchPassed z L = false → groupReady z k L mode = true → ∃ u,
          (let c := getCore u L
           c.sup.pair = ⟨0#12, 0#4⟩ ∧ c.sup.groupFirst = 0 ∧ c.sup.groupCount = 0 ∧ c.sc = [] ∧ c.xlt.tlb = [] ∧ c.xlt.big = [] ∧
             c.xlt.walks = [] ∧ c.xlt.unitOut = [] ∧ (∀ r ∈ c.rings, r.2.pair = ⟨0#12, 0#4⟩) ∧ c.cache.cmo.isSome = true) ∧
          (switchPassed (tidy z u L) L = true → ¬ended (tidy z u L) → exec (.command i) s = .next (tidy z u L)) ∧
          (switchPassed (tidy z u L) L = true → ended (tidy z u L) →
            exec (.command i) s = .next (sendTo (takePkt (tidy z u L) i) (.core L) .disp (.commandAck k L))))))

/-- Errors and drops at their units, commands at cores. -/
def Obligations.ErrorsDropsCommands : Prop := Claims.ErrorsAndDrops ∧ Claims.CommandsAtCores

/-! ### The companion's windows, the fabric's ports -/

/-- A companion access over a link that is UP: in the HBM window a read is answered with the bytes of HBM and enters its lines in the directory,
a write stores its bytes; while LJL_ENABLE is 0 reads answer 0 and writes do nothing; the register window takes 8-byte accesses only, and a
write of SQ_TAILr is the submission doorbell (R462, R463, R465, R469). -/
def Obligations.CompanionWindows : Prop :=
  ∀ (s : State) (link : BitVec 2) (a n off size : Nat) (own : Bool) (data : List Byte) (r : BitVec 8) (v : Word),
    s.power.st ≠ 5 → (mget 0 s.fab.ljl link.toNat = 2 ∨ mget 0 s.fab.ljl link.toNat = 3) →
    let does (op : CompOp) (t : State) : Prop := exec (.companionAccess link op) s = .next t
    let answered (b : List Byte) : State := { s with disp := { s.disp with answers := b :: s.disp.answers } }
    (dv s 0x5000 1 0 = 1 → running s = true → stackUp s (stackOf a) = true →
      (0 < n → a + n ≤ hbmSize → badIn s.hbmUE a n = [] → ∃ t, does (.hbmRead a n own ⟨[], []⟩) t ∧ t.hbm = s.hbm ∧
        t.disp.answers = readBytes s.hbm a n :: s.disp.answers ∧
        ∀ l ∈ linesOf a n, ∃ b, (l, b) ∈ t.disp.dir ∧ (own = true → b = true)) ∧
      (a + data.length ≤ hbmSize → ∃ t, does (.hbmWrite a data) t ∧ t.hbm = writeBytes s.hbm a data ∧
        { t with hbm := s.hbm, hbmUE := s.hbmUE, disp := { t.disp with msc := s.disp.msc, stackCnt := s.disp.stackCnt } } = s)) ∧
    (dv s 0x5000 1 0 ≠ 1 →
      (0 < n → does (.hbmRead a n own ⟨[], []⟩) (answered (List.replicate n 0#8))) ∧ does (.hbmWrite a data) s ∧
      (off < 0x1000 → off % 8 = 0 → does (.regRead off 8) (answered (le 8 0))) ∧ (off < 0x1000 → does (.regWrite off size v) s)) ∧
    (size ≠ 8 → does (.regRead off size) (answered (List.replicate size 0#8)) ∧ does (.regWrite off size v) s) ∧
    (windowOn s = true →
      does (.regRead 0xA38 8) (answered (le 8 s.disp.shootDone)) ∧
      does (.regWrite 0xA20 8 v) { s with disp := { s.disp with shootVa := v.toNat / 4096 * 4096 } } ∧
      exec (.companionAccess link (.regWrite (8 * r.toNat) 8 v)) s = exec (.sqTail r v) s)

/-- Frames at a fabric port: one that does not decode, whose CRC does not match or whose SEQ is not the next is discarded with one NAK; an
accepted packet has FAGE 100 more and is dropped at 18,000, else one of this module enters the mesh with AGE 0 and one in transit goes on;
the slots of
an accepted packet go back to the sender as credits; a packet that waits leaves in one frame when its class is not paused and has a credit
for each of its slots, else it stays; a NAK, and 8 µs without acknowledgment, replay the frames after ACK; a packet held past its lifetime is
dropped and answered (R425, R426, R434). -/
def Sys2Proof.Claims.FabricFrames : Prop :=
  ∀ (s : State) (port i : Nat) (f : FabFrame) (x : FabPart) (k : Packet) (a : BitVec 12) (e : BitVec 12 × List Packet)
    (rest : List (BitVec 12 × List Packet)) (ring : BitVec 4) (m : Msg) (l id n : Nat) (home : Home) (w : Who), running s = true → port < 24 →
    let q := getPort s port
    portUp q = true → q.cut = none → q.owed = [] →
    let put (q : Port) : State := setPort s port q
    let gone (q : Port) : State := fabDrop (put q) 0
    let none8 : List Nat := List.replicate 8 0
    let nak (q : Port) : Port :=
      if q.nakSent then q else { q with nakSent := true, out := q.out ++ [⟨2#4, 0#12, q.rxNext - 1#12, none8⟩] }
    let q1 : Port := if f.corrected then { q with fecCorrected := satAdd 0xFFFFFFFF q.fecCorrected 1 } else q
    let q2 : Port := { q1 with
      paused := f.pause
      used := (List.range 8).foldl (fun m j => mput 0 j (mget 0 q.used j - (f.credits.getD j 0#6).toNat) m) q.used }
    let next : Port := portTake { q2 with rxNext := q.rxNext + 1#12, nakSent := false } x
    let frame (t : State) : Prop := exec (.fabricFrame port f) s = .next t
    (f.decoded = false → frame (put (nak { q with fecUncorrected := satAdd 0xFFFFFFFF q.fecUncorrected 1 }))) ∧
    (f.decoded = true → f.crcOk = false → frame (put (nak q1))) ∧
    (f.decoded = true → f.crcOk = true → f.ack = none →
      (3 ≤ f.kind.toNat → frame (fabDrop (put q1) 4)) ∧
      (f.kind = 0#4 → q.heldPk = [] → frame (put q2)) ∧
      (f.kind = 0#4 → q.heldPk = [k] → q.lost = [] → q.holding = false → q.replay.length < 1024 →
        let c := fcOf k.body
        let u := 2 * c + (if laneOf s port k then 1 else 0)
        let may := (c ≠ 0 → f.pause.getLsbD (c - 1) = false) ∧ mget 0 q2.used u + slotsOf k.body ≤ (if c = 0 then 64 else 512)
        (¬may → frame (put q2)) ∧
        (may → ∃ t, frame t ∧ (let z := getPort t port
          z.heldPk = [] ∧ z.replay = q.replay ++ [(q.txSeq, [k])] ∧ z.txSeq = q.txSeq + 1#12 ∧
          z.out = q.out ++ [⟨1#4, q.txSeq, q.rxNext - 1#12, none8⟩] ∧ mget 0 z.used u = mget 0 q2.used u + slotsOf k.body))) ∧
      (f.kind = 1#4 →
        (f.seq ≠ q.rxNext → q.heldPk = [] → frame (put (nak q1))) ∧
        (f.seq = q.rxNext → f.parts = [x] → x.packet = some k → k.body = .message ring m →
          (x.dst = moduleId s → x.fage + 100 < 18000 → k.dst = .core l → l < gradeOf s → frame (portGo (inject (put next) { k with age := 0 }) port)) ∧
          (x.dst = moduleId s → x.fage + 100 < 18000 → k.dst = .core l → gradeOf s ≤ l → frame (portGo (fabDrop (put next) 1) port)) ∧
          (x.dst ≠ moduleId s → x.fage + 100 < 18000 →
            frame (portGo (fabSend (put next) { k with age := x.fage + 100 } x.dst) port)) ∧
          (18000 ≤ x.fage + 100 →
            frame (portGo (sendTo (gone next) .io k.src (.dropNotice 1 0 none 0 none)) port)) ∧
          (x.dst = moduleId s → x.fage + 100 < 18000 → k.dst = .core l → l < gradeOf s → q.heldPk = [] → 0 < x.slots → x.slots ≤ 63 →
            mget 0 q.rxHeld (2 * x.cls.toNat + (if x.lane then 1 else 0)) = 0 → ∃ t, frame t ∧
              (getPort t port).out = q.out ++ [⟨0#4, 0#12, q.rxNext, (List.range 8).map (fun j =>
                if j = 2 * x.cls.toNat + (if x.lane then 1 else 0) then x.slots else 0)⟩])))) ∧
    (q.heldPk = [] →
      let again (fs : List (BitVec 12 × List Packet)) : List OutFrame := fs.map (fun e => ⟨1#4, e.1, q.rxNext - 1#12, none8⟩)
      exec (.nak port a) s = .next (put { q with
        replay := afterSeq a q.replay, replays := satAdd 0xFFFFFFFF q.replays 1, out := q.out ++ again (afterSeq a q.replay) }) ∧
      (q.replay = e :: rest → (∀ y ∈ q.replay, y.1 ≠ e.1 - 1#12) →
        exec (.replayTimeout port) s = .next (put { q with
          replays := satAdd 0xFFFFFFFF q.replays 1, out := q.out ++ again q.replay }))) ∧
    (q.heldPk[i]? = some k → k.body = .read id home n w → 18000 ≤ k.age →
      exec (.fabricPacketAged port i) s =
        .next (sendTo (gone { q with heldPk := dropAt i q.heldPk }) .io k.src (.errorResp id 1)))

/-- The loss of a port: it goes DOWN and keeps what was not acknowledged; the far end's report sends the later frames again with 1,000 more
FAGE, ahead of what was held; without a report they are dropped with LOST and flows wait 20 ms. A retrained port joins at the next QUIESCE;
a Limjo link goes DOWN; a seam's failure leads to the service state, with every order ended and the dies off (R432–R434, R532, R545, R546). -/
def Sys2Proof.Claims.PortsLinksAndSeams : Prop :=
  ∀ (s : State) (port : Nat) (seq : BitVec 12) (e : BitVec 12) (k : Packet) (r : TrainEnd) (link : BitVec 2) (id : Nat) (home : Home) (n : Nat)
    (w : Who), running s = true →
    let q := getPort s port
    let put (q : Port) : State := setPort s port q
    let same (t : State) : Prop := { t with fab := s.fab, boot := s.boot } = s
    (port < 24 → portUp q = true → q.replay ≠ [] → ∃ t, exec (.portDown port) s = .next t ∧
      getPort t port = { q with
        st := 4, lanes := 0, lost := q.replay, replay := [], joinWait := false, nakSent := false, out := []
        heldPk := (q.cut.map (fun c => c.1)).toList ++ q.heldPk
        cut := none, used := [], paused := 0#3, lastCls := 3, rxHeld := [], owed := [] }) ∧
    (q.lost ≠ [] → exec (.portSeq port seq) s = .next ((((afterSeq seq q.lost).flatMap (fun x : BitVec 12 × List Packet => x.2)).map (fun k : Packet =>
      { k with age := if fcOf k.body = 0 then k.age else k.age + 1000 }) ++ q.heldPk).foldl sendPk
        (put { q with lost := [], heldPk := [] }))) ∧
    (q.lost ≠ [] → ∃ t, exec (.portSeqTimeout port) s = .next t ∧ (getPort t port).lost = [] ∧ (getPort t port).holding = true) ∧
    (q.lost = [(e, [k])] → k.body = .read id home n w → exec (.portSeqTimeout port) s =
      .next (sendTo (fabDrop (put { q with lost := [], holding := true }) 2) .io k.src (.errorResp id 3))) ∧
    (q.holding = true → exec (.flowHoldEnd port) s = .next (q.heldPk.foldl sendPk (put { q with holding := false, heldPk := [] }))) ∧
    (port < 24 → q.st = 4 → sv s (0x5110 + port) 1 = 1 → r.lanes ≠ 0 → ∃ t, exec (.portRetrain port r) s = .next t ∧ same t ∧
      t.fab = (put { q with
        st := if r.lanes = 4 then 2 else 3, lanes := if r.lanes = 4 then 4 else 2,
        peer := r.peerModule % 256 + 256 * (r.peerPort % 32), joinWait := true, txSeq := 0#12, rxNext := 0#12, nakSent := false,
        replay := [], out := [] }).fab) ∧
    ((mget 0 s.fab.ljl link.toNat = 2 ∨ mget 0 s.fab.ljl link.toNat = 3) → ∃ t, exec (.limjoLinkDown link) s = .next t ∧ same t ∧
      t.fab = { s.fab with ljl := mput 0 link.toNat 4 s.fab.ljl }) ∧
    (∃ t, exec .seamFailure s = .next t ∧ t.boot.modState = 3 ∧ t.cores = [] ∧ t.hbm = [] ∧ t.net = [] ∧ dv t 0x2000 1 1 = 0 ∧
      (∀ o ∈ t.disp.orders, o.st = .completing) ∧ running t = false)

/-- The fabric's frames, and the loss and return of ports, links and seams. -/
def Obligations.FabricPorts : Prop := Claims.FabricFrames ∧ Claims.PortsLinksAndSeams

/-! ### The dispatcher -/

/-- The register window's writes and the fetch of orders: SQ_TAIL takes an index below the ring's size, CQ_HEAD likewise, DOORBELL sets the
doorbell of a thread; with the module asleep the traffic of a wake event is held; ORDER_FETCH copies the 128 bytes at the head of the ring that
is served next, and the head advances; at 512 orders in flight it stops (R111, R465, R468, R469, R517). -/
def Obligations.SubmissionAndFetch : Prop :=
  ∀ (s : State) (r : BitVec 8) (q : BitVec 6) (v : Word) (b : List Byte), windowOn s = true →
    let d := s.disp
    let L := bits v 12 0
    let n := r.toNat
    let head := mget 0 d.sqHead n
    let place := ringPlace (dv s (0x2200 + n) 2 0) (128 * head)
    (asleep s = false →
      (v.toNat < 2 ^ sqLog s n → exec (.sqTail r v) s = .next { s with disp := { d with sqTail := mput 0 n v.toNat d.sqTail } }) ∧
      (2 ^ sqLog s n ≤ v.toNat → exec (.sqTail r v) s = .next s)) ∧
    (asleep s = true → exec (.sqTail r v) s = .next (holdWake s (.sqTail r v)) ∧
      exec (.doorbell v) s = .next (holdWake s (.doorbell v))) ∧
    (bits v 15 0 < 2 ^ cqLog s q.toNat →
      exec (.cqHead q v) s = .next { s with disp := { d with cqHead := mput 0 q.toNat (bits v 16 0) d.cqHead } }) ∧
    (2 ^ cqLog s q.toNat ≤ bits v 15 0 → exec (.cqHead q v) s = .next s) ∧
    (running s = true →
      (L < gradeOf s →
        GoesTo (.doorbell v) s (modT s L (bits v 19 16) (fun h => { h with pendDoorbell := true })) L) ∧
      (gradeOf s ≤ L → exec (.doorbell v) s = .next s) ∧
      (512 ≤ d.orders.length → exec (.orderFetch r) s = .next s) ∧
      (dv s 0x2010 1 0 = 1 → d.orders.length < 512 → nextRing s = some n → mustRecall s place 128 false = none → homeUp s place = true →
        homeBytes s place 128 = (b, []) →
        exec (.orderFetch r) s = .next { s with
          disp := { (homeLookup s place 128).disp with
            orders := d.orders ++ [{
              k := d.nextOrder, ring := n, w := wordsOf 16 b, st := .queued, status := 0, reason := 0, detail := 0#64, ticks := 0,
              hasPair := false, done := [], acks := [], dead := [], preempt := none, saveSpad := false, word9 := wat (wordsOf 16 b) 9,
              pieces := [], started := false, prev := mget none d.lastOf n }],
            nextOrder := d.nextOrder + 1, lastRing := n, lastOf := mput none n (some d.nextOrder) d.lastOf,
            sqHead := mput 0 n ((head + 1) % 2 ^ sqLog s n) d.sqHead } }))

/-- An order that may start is judged: it is REFUSED with the reason of the first check that fails, in its order, and else is RUNNING; a LAUNCH
gives thread 0 of each core of its group its start state, and the core the task's pair, group, vector base and root (R471–R473). -/
def Obligations.OrdersStart : Prop :=
  ∀ (s : State) (k : Nat) (o : Order), s.ordered = true → running s = true → findOrder s k = some o → mayStart s o = true →
    ordKind o ≠ 7 →
    let w := wat o.w
    let started : Order := { o with
      st := .running, started := true, ticks := 0, hasPair := bits (w 1) 11 0 != 0 && ordKind o != 6 }
    (ordFormed o = false → exec (.orderStart k) s = .next (complete s o 4 1 0#64)) ∧
    (ordFormed o = true → dv s 0x2000 1 0 ≠ 1 → exec (.orderStart k) s = .next (complete s o 4 4 0#64)) ∧
    (ordFormed o = true → dv s 0x2000 1 0 = 1 → ordRanges s o = false → exec (.orderStart k) s = .next (complete s o 4 1 0#64)) ∧
    (∀ r d, startCheck s o none = (r, d) → r ≠ 0 → exec (.orderStart k) s = .next (complete s o 4 r d)) ∧
    ((startCheck s o none).1 = 0 → (ordKind o = 5 ∨ ordKind o = 9) → exec (.orderStart k) s = .next (settleOrders (setOrder s started))) ∧
    ((startCheck s o none).1 = 0 → ordKind o = 1 → ∃ t, exec (.orderStart k) s = .next t ∧
      ∀ L, ordFirst o ≤ L → L < ordFirst o + ordCount o →
        let h := thrOf t L 0
        let c := getCore t L
        h.st = .ready ∧ h.mode = .supervisor ∧ h.pc = w 2 ∧ greg h 31 = w 6 ∧ greg h 1 = w 5 ∧
        greg h 2 = BitVec.ofNat 64 (bits (w 1) 44 16) ∧ greg h 3 = BitVec.ofNat 64 (L - ordFirst o) ∧
        greg h 4 = BitVec.ofNat 64 (bits (w 1) 15 0) ∧ h.stackLimit = w 7 ∧ c.sup.vbar = w 3 ∧ c.xlt.root = w 4 ∧ c.sup.pair = ordPair o ∧
        c.sup.groupFirst = ordFirst o ∧ c.sup.groupCount = ordCount o ∧ (∀ n, n ≠ 0 → (thrOf t L n).st = .free) ∧
        c.cache.d = [] ∧ c.cache.i = [] ∧ c.sc = [] ∧ c.slots = [] ∧ c.chans = [])

/-- How orders end: a time-out stops a task ABORTED and completes another kind so; the report of the last core of a group, or a core stop with
0x15, leads to the end steps; the acknowledgments are counted off and with the last one the order completes; a scrub completes with the
words it found, of which an uncorrectable one makes it end with status 5 (R115, R472, R475, R478). -/
def Obligations.OrdersEnd : Prop :=
  ∀ (s : State) (k i L sub : Nat) (corr ue : List Nat) (o : Order) (p : Packet) (core : BitVec 13) (retest : Bool), running s = true →
    findOrder s k = some o → o.k = k →
    let ms := bits (wat o.w 0) 31 16
    let t := takePkt s i
    let ends (c : Instr) (status reason : Nat) (detail : Word) : Prop := ∃ t q, exec c s = .next t ∧ findOrder t k = some q ∧
      (q.st = .stopping ∨ q.st = .completing) ∧ q.status = status ∧ q.reason = reason ∧ q.detail = detail
    let c := getCore s core.toNat
    let rest := o.acks.filter (· != L)
    let reported := insertNat core.toNat o.done
    (o.st = .running →
      (ms ≠ 0 → ms * 1000 ≤ o.ticks →
        (isTask o = true → ends (.orderTimeout k) 3 0 0#64) ∧
        (isTask o = false → isPass o = false → ordKind o ≠ 0xA → exec (.orderTimeout k) s = .next (complete s o 3 0 0#64))) ∧
      ((ms = 0 ∨ o.ticks < ms * 1000) → exec (.orderTimeout k) s = .next s) ∧
      (o.preempt = none → arrivalAt s i .disp = some p → p.body = .coreStop L sub → (getCore s L).sup.order = some k →
        ends (.coreStopReport i retest) 1 0x15 (BitVec.ofNat 64 (L + 2 ^ 16 * (sub % 2 ^ 48)))) ∧
      (isTask o = true → core.toNat < gradeOf s → c.sup.order = some k → c.sup.doneSent = false → c.sup.stopped = false →
        c.sup.endValue ≤ (getSc c c.sup.endCnt.toNat).value →
        ((∃ l ∈ ordGroup o, l ∉ reported) → exec (.coreDone k core) s = .next (setOrder (setCore s core.toNat { c with sup := { c.sup with
          doneSent := true } }) { o with done := reported })) ∧
        ((∀ l ∈ ordGroup o, l ∈ reported) → ends (.coreDone k core) 0 0 0#64)) ∧
      (ordKind o = 9 → s.hbmUE = [] →
        let scrubbed (corr ue : List Nat) (mended fatal : Nat) : Prop := ∃ t q, exec (.scrubPassEnd k corr ue) s = .next t ∧
          findOrder t k = some q ∧ q.st = .completing ∧ q.status = (if fatal = 0 then 0 else 5) ∧ q.reason = 0 ∧
          q.detail = BitVec.ofNat 64 (mended % 2 ^ 32 + 2 ^ 32 * (fatal % 2 ^ 32))
        (bit (wat o.w 2) 32 = false → (corr ++ ue).Nodup →
          (∀ l ∈ corr ++ ue, l % 64 = 0 ∧ bit (wat o.w 2) (stackOf l) = true ∧ stackOf l < 32 ∧ stackUp s (stackOf l) = true) →
          scrubbed corr ue corr.length ue.length) ∧
        (bit (wat o.w 2) 32 = true → ordCount o = 1 → ordFirst o < gradeOf s →
          let sp := (getCore s (ordFirst o)).spad
          scrubbed [] [] sp.ce.length sp.ue.length))) ∧
    (arrivalAt s i .disp = some p → p.body = .commandAck k L →
      (o.st ≠ .stopping → exec (.commandAck i) s = .next t) ∧
      (o.st = .stopping → rest ≠ [] → exec (.commandAck i) s = .next (setOrder t { o with acks := rest })) ∧
      (o.st = .stopping → rest = [] → o.status ≠ 2 → o.preempt = none → ∃ t q, exec (.commandAck i) s = .next t ∧
        findOrder t k = some q ∧ q.st = .completing ∧ q.status = o.status ∧ q.reason = o.reason ∧ q.detail = o.detail))

/-- A COMPLETING order whose ring has a free slot writes its record of 32 bytes at TAIL with the phase of the pass, is DONE, and raises its
vector when it and the ring ask for it; INTERRUPT_SEND sends one message for each vector raised (R467, R468, R472, R479). -/
def Sys2Proof.Claims.CompletionsAndInterrupts : Prop :=
  ∀ (s : State) (k : Nat) (o : Order),
    let d := s.disp
    let c := nbits (dv s (0x2200 + o.ring) 3 0) 11 6
    let cfg := dv s (0x2400 + c) 3 0
    let tail := mget 0 d.cqTail c
    let head := mget 0 d.cqHead c
    let idx := tail % 65536
    let wrap := tail / 65536
    let base := dv s (0x2400 + c) 2 0
    (∃ t, exec .interruptSend s = .next t ∧ (∀ v, v ∈ t.disp.sent ↔ v ∈ d.sent ∨ v ∈ d.raised) ∧
      { t with disp := { t.disp with sent := d.sent } } = s) ∧
    (running s = true → findOrder s k = some o → dv s (0x2400 + c) 1 0 = 1 → o.st = .completing →
      (idx = head % 65536 → wrap ≠ head / 65536 → exec (.completionWrite k) s = .next s) ∧
      ((idx ≠ head % 65536 ∨ wrap = head / 65536) → base < 2 ^ 63 → stackUp s (stackOf (base + 32 * idx)) = true →
        mustRecall s (.hbm (base + 32 * idx)) 32 true = none → (∀ q ∈ d.orders, ordKind q ≠ 8) → noSpare s = false →
        ∃ t, exec (.completionWrite k) s = .next t ∧
          t.hbm = writeBytes s.hbm (base + 32 * idx) (bytesOf (completionRecord s o (1 - wrap))) ∧
          (∀ q ∈ t.disp.orders, q.k ≠ k) ∧ t.disp.orders.map (·.k) = (d.orders.filter (fun q => q.k != k)).map (·.k) ∧
          t.disp.cqTail = mput 0 c (if idx + 1 = 2 ^ nbits cfg 4 0 then (1 - wrap) * 65536 else tail + 1) d.cqTail ∧
          (bit (wat o.w 0) 9 = true → nbit cfg 5 = true → c ∈ t.disp.raised) ∧ t.cores = s.cores))

/-- A REDUCE piece at its open station is added once for each module, at a closed one not at all; a sum that arrives for
QUINCE_NORM is GLOBAL_NORM_SQ and ends the order OK (R452, R477). -/
def Sys2Proof.Claims.ReducePieces : Prop :=
  ∀ (s : State) (k piece m i x : Nat) (o : Order) (p : Packet) (vs : List (BitVec 32)) (sum : Bool), running s = true →
    findOrder s k = some o → ordKind o = 0xA → o.st = .running →
    let n := rdStation o
    let g := getStation s n
    let t := takePkt s i
    s.net[i]? = some p → p.dst = .io → p.body = .reducePiece n (ordPair o) piece vs sum → p.src = .remote m x →
    (∀ j < i, ∀ q, s.net[j]? = some q → q.body ≠ p.body) →
    (sum = false →
      ((g.opened = false ∨ g.pair ≠ ordPair o) → exec (.reducePiece k piece m vs sum) s = .next s) ∧
      (g.opened = true → g.pair = ordPair o →
        (m ∈ mget [] g.srcs piece → exec (.reducePiece k piece m vs sum) s = .next t) ∧
        (mget [] g.srcs piece = [] → 1 < g.parts → exec (.reducePiece k piece m vs sum) s = .next (setStation t n { g with
          sums := mput [] piece (vs.map (fun v => pressAdd (if g.fmt = 1 then 1 else 0) 0#32 v)) g.sums,
          srcs := mput [] piece [m] g.srcs })))) ∧
    (sum = true → rdNorm o = true → rdElems o = 1 → o.pieces = [] → rdRoot o ≠ moduleId s →
      exec (.reducePiece k piece m vs sum) s =
        .next (complete (setGlobalNorm t (vs.headD 0#32)) { o with pieces := [piece] } 0 0 0#64))

/-- Completion records, interrupt messages and the pieces of a REDUCE. -/
def Obligations.CompletionsInterruptsReduce : Prop := Claims.CompletionsAndInterrupts ∧ Claims.ReducePieces

/-! ### Quince -/

/-- The ends of the Quince passes: an engine whose share of pass 1 is done writes PARTIAL and contributes it to the norm queue, one that meets a
malformed record stops and the pass ends FAULTED; the queue's delivery is LOCAL_NORM_SQ, on a single module GLOBAL_NORM_SQ with NORM_FRESH, and
ends the order; pass 2 ends when every engine is done: STEP_COUNTER goes on, the flags are cleared, the order completes OK; a block that cannot
be updated whole is left as it was (R449, R451, R454, R457). -/
def Obligations.QuincePasses : Prop :=
  ∀ (s : State) (h : BitVec 5) (o : Order) (l : LRec) (b : Nat), running s = true →
    let n := h.toNat
    let q := s.quince
    let x := getPress s normQueue
    let v := mget 0#32 x.cur 0
    let ended (t : State) : Prop := ∃ r, findOrder t q.order = some r ∧ r.st = .completing ∧ r.status = 0
    (q.pass = 1 → takesPart s n = true → (getEng s n).st = 1 → (getEng s n).fin = false →
      (∀ z, engPass1 s n = .ok z () → (∀ k < 32, takesPart z k = true → (getEng z k).st ≠ 4) →
        let p := r32 (dec64 (getEng z n).acc.toNat)
        exec (.pass1Partial h) s = .next (sendTo (modEng z n (fun e => { e with fin := true, partialSum := p })) (.stack n)
          (.press normQueue) (.pressContrib ⟨0#12, 0#4⟩ 0 [p] (getPress z normQueue).round n))) ∧
      (∀ z, engPass1 s n = .stop z .malformed → takesPart z n = true →
        exec (.pass1Partial h) s = .next (passBreak (modEng z n (fun e => { e with st := 4 })) 1 0))) ∧
    (q.pass = 1 → x.norm = true → pqContribs x.cfg ≤ x.curN → findOrder s q.order = some o →
      ∃ t, exec .normDelivery s = .next t ∧ t.quince.localNorm = v ∧ t.quince.pass = 0 ∧ ended t ∧
        (s.fab.dims = 0 → dv t 0x7100 4 0 = v.toNat ∧ t.quince.normFresh = true) ∧
        (s.fab.dims ≠ 0 → t.dict = s.dict ∧ t.quince.normFresh = q.normFresh)) ∧
    (q.pass = 2 → findOrder s q.order = some o → (∀ k ∈ passStacks s, (getEng s k).fin = true) →
      ∃ t, exec .pass2End s = .next t ∧ t.quince.pass = 0 ∧ t.quince.stepWritten = false ∧ t.quince.normFresh = false ∧
        t.quince.pass2Partial = false ∧ dv t 0x7100 3 0 = satAdd 0xFFFFFFFF (dv s 0x7100 3 0) 1 ∧ ended t ∧ t.hbm = s.hbm) ∧
    (∀ z, q.pass = 2 → passStacks s = [n] → (getEng s n).st = 2 → (getEng s n).fin = false → engPass2 s n = .ok z () →
      z.quince.exclude = q.exclude →
      exec .pass2End s = .next (pass2Done (modEng z n (fun e => { e with fin := true })))) ∧
    (∀ z w, eng2Block s n l b = .stop z w → z.hbm = s.hbm)

/-- The step-exponent rule keeps K within KMIN and KMAX, moves it by at most 1, leaves every other field of CONTROL but SR_ON as it was, and
leaves CONTROL alone where the tally counts nothing (R447). -/
def Obligations.StepExponent : Prop :=
  ∀ (s : Snap) (l : LRec), lrKmin l ≤ lrK l → lrK l ≤ lrKmax l →
    let l' : LRec := stepRule s l :: l.drop 1
    lrKmin l' = lrKmin l ∧ lrKmax l' = lrKmax l ∧ lrKmin l ≤ lrK l' ∧ lrK l' ≤ lrKmax l ∧ lrK l' - lrK l ≤ 1 ∧ lrK l - lrK l' ≤ 1 ∧
    bits (wat l' 0) 3 0 = bits (wat l 0) 3 0 ∧ bits (wat l' 0) 63 32 = bits (wat l 0) 63 32 ∧
    ((∀ k < 12, lrTally l (k + 4) = 0) → lrTally l 1 = 0 → stepRule s l = wat l 0)

/-! ### The object dictionary -/

/-- Number of the role that a request of a path has: the test access port's is OBSERVER (R488, R580). -/
def Sys2Proof.Claims.roleAt (role : Role) (path : Path) : Nat := if pathNum path = 2 then 3 else roleNum role

/-- The path reaches the dictionary, and the rind port takes the frame (R501, R504). -/
def Sys2Proof.Claims.reaches (role : Role) (path : Path) (s : State) : Prop :=
  pathOn s (pathNum path) = true ∧ match path with
    | .rind n ok => frameBad s (roleAt role path) n ok = false
    | _ => True

/-- Command c, the write item `it`, is accepted wherever its judgment passes, and does what leads from s to z; besides, DICT_GEN goes on, the
write is logged and answered (R490, R495, R508). -/
def Sys2Proof.Claims.Accepts (c : Instr) (role : Role) (path : Path) (it : Item) (check : Nat) (s z : State) : Prop :=
  reaches role path s → writeJudge s (pathNum path) (roleAt role path) it check = (0, 0) →
    ∃ t, exec c s = .next t ∧ t.dict.answer = some (itemResp it 0 it.holdId 0 []) ∧ t.dict.gen = satAdd (2 ^ 64 - 1) z.dict.gen 1 ∧
      t.dict.logHead = z.dict.logHead + 1 ∧
      { t with dict := { t.dict with
          answer := z.dict.answer, gen := z.dict.gen, log := z.dict.log, logHead := z.dict.logHead } } = z

/-- The state with entry ix:sub set to v. -/
def Sys2Proof.Claims.withEntry (s : State) (ix sub v : Nat) : State :=
  { s with dict := { s.dict with val := mput none (256 * ix + sub) (if v = entryDefault s ix sub then none else some v) s.dict.val } }

/-- How items are judged: a write item's first failing check gives the reason, and the write changes nothing but the log; a path that is not
answered changes nothing, a frame that does not verify is counted; a group's ENABLE takes effect where its check passes (R488–R493, R504,
R508, R597). -/
def Obligations.DictionaryJudgment : Prop :=
  ∀ (s : State) (role : Role) (path : Path) (it : Item) (v : Bool) (index r n k : Nat) (ok : Bool) (e : DictEntry), s.boot.rom ≠ 2 →
    let rc := roleAt role path
    let p := pathNum path
    let w : Item := { it with write := true }
    let check := Config.imageCheck (stageImage s)
    let judged := writeJudge s p rc w check
    (pathOn s p = false → exec (.dictWrite role path it) s = .next s ∧ exec (.dictRead role path it) s = .next s) ∧
    (path = .rind k ok → pathOn s p = true → frameBad s rc k ok = true →
      exec (.dictWrite role path it) s = .next (authFail s) ∧ exec (.dictRead role path it) s = .next (authFail s)) ∧
    (badRole p rc = true → judged = (6, 0)) ∧
    (badRole p rc = false → (it.hold = true ∨ it.holdId ≠ 0) → judged = (1, 0)) ∧
    (badRole p rc = false → it.hold = false → it.holdId = 0 → entryOf s it.index it.sub = none → judged = (1, 0)) ∧
    (badRole p rc = false → it.hold = false → it.holdId = 0 → entryOf s it.index it.sub = some e →
      ((it.type ≠ e.ty ∨ lenFits e w = false) → judged = (1, 0)) ∧
      (it.type = e.ty → lenFits e w = true → roleMay e (rc - 1) true = false → judged = (6, 0))) ∧
    (judged = (r, n) → r ≠ 0 → reaches role path s → ∃ t, exec (.dictWrite role path it) s = .next t ∧
      t.dict.answer = some (itemResp w r it.holdId n []) ∧ t.dict.logHead = s.dict.logHead + 1 ∧
      { t with freeCtr := s.freeCtr, dict := { t.dict with answer := s.dict.answer, log := s.dict.log, logHead := s.dict.logHead } } = s) ∧
    Accepts (.dictWrite role path it) role path w check s (writeEffect s w) ∧
    (hasEnable index = true → index ∉ [0x5100, 0x7100, 0x9040] → ¬(0x5110 ≤ index ∧ index < 0x5128) →
      Accepts (.groupEnable role path index v) role path (wItem index 1 1 1 (b2n v)) 0 s
        (if v = groupOn s index then s else withEntry s index 1 (b2n v)))

/-- What the commands of the dictionary do when they are accepted: resets and Off are requested, ids marked and positions reinstated, images
staged and committed, the nonce and the step's values set, the fabric and its ports switched, and debug commands sent (R432, R436, R437,
R454, R497, R514, R519, R538, R542, R557, R561, R592, R593). -/
def Obligations.DictionaryCommands : Prop :=
  ∀ (s : State) (role : Role) (path : Path) (id port off check v : Nat) (data : List Byte) (b : BitVec 32) (w : Word),
    let yes (c : Instr) (it : Item) (z : State) : Prop := Accepts c role path it 0 s z
    yes (.resetReq role path true) (wItem 0x2000 3 1 1 1) { s with boot := { s.boot with resetReq := true } } ∧
    yes (.resetReq role path false) (wItem 0x2000 3 1 1 0) s ∧
    (s.power.st ≠ 5 → yes (.offReq role path true) (wItem 0x3000 5 1 1 1)
      { enterOff s 1 with power := { (enterOff s 1).power with offReq := true } }) ∧
    (s.pins.coolant = false → yes (.offReq role path false) (wItem 0x3000 5 1 1 0) { s with power := { s.power with offReq := false } }) ∧
    yes (.retireReq role path id) (wItem 0x6020 2 3 2 id) (markRetire s (id % 65536)) ∧
    yes (.reinstate role path id) (wItem 0x6020 3 3 2 id) { s with boot := { s.boot with
      reinstate := insertNat (id % 65536) s.boot.reinstate,
      sticky := s.boot.sticky.filter (fun k => k != 65536 * 10 + id % 65536 && k != 65536 * 11 + id % 65536 &&
        k != 65536 * 8 + id % 65536 % 128 / 16) } } ∧
    yes (.stage role path off data) { wItem 0x9020 1 9 0 0 with len := data.length, offset := off, value := data }
      { s with sec := { s.sec with stage := writeBytes s.sec.stage off data } } ∧
    Accepts (.commit role path v check) role path (wItem 0x9020 2 2 1 v) check s (commitImage s (v % 256)) ∧
    yes (.nonce role path data) { wItem 0x9010 1 10 0 0 with len := data.length, value := data }
      { s with sec := { s.sec with nonce := ofBytes data } } ∧
    yes (.fabricEnable role path true) (wItem 0x5100 1 1 1 1) { withEntry s 0x5100 1 1 with
      fab := { s.fab with dims := sv s 0x5100 2, coord := sv s 0x5100 3 } } ∧
    yes (.fabricEnable role path false) (wItem 0x5100 1 1 1 0) (withEntry s 0x5100 1 0) ∧
    (port < 24 →
      (sv s (0x5110 + port) 1 = 1 → yes (.portEnable role path port true) (wItem (0x5110 + port) 1 1 1 1) s ∧
        yes (.portEnable role path port false) (wItem (0x5110 + port) 1 1 1 0)
          (let z := portLoss (withEntry s (0x5110 + port) 1 0) port
           setPort z port { getPort z port with st := 4, lanes := 0 })) ∧
      (sv s (0x5110 + port) 1 = 0 → yes (.portEnable role path port true) (wItem (0x5110 + port) 1 1 1 1)
        (withEntry s (0x5110 + port) 1 1))) ∧
    yes (.stepSize role path b) (wItem 0x7100 2 7 4 b.toNat)
      { withEntry s 0x7100 2 b.toNat with quince := { s.quince with stepWritten := true } } ∧
    yes (.stepCounter role path b) (wItem 0x7100 3 4 4 b.toNat)
      { withEntry s 0x7100 3 b.toNat with quince := { s.quince with pass2Partial := false } } ∧
    yes (.globalNormSq role path b) (wItem 0x7100 4 7 4 b.toNat)
      { withEntry s 0x7100 4 b.toNat with quince := { s.quince with normFresh := true } } ∧
    yes (.debugHalt role path) (wItem 0x8300 4 2 1 1) (debugCommand s 1) ∧
    yes (.debugResume role path) (wItem 0x8300 4 2 1 2) (debugCommand s 2) ∧
    yes (.debugStep role path) (wItem 0x8300 4 2 1 3) (debugCommand s 3) ∧
    yes (.ioDataWrite role path w) (wItem 0x8300 6 5 8 w.toNat)
      (let L := nbits (sv s 0x8300 2) 12 0
       tidy s (ioWrite s L none true (sv s 0x8300 5) w).1 L)

/-- Reads: a fixed value is read whole, a hold copies a BLOB and is named from then on, the report is 256 bytes and their signature, IO_DATA
reads the target's register; a hold ends 1 s after its last read (R499, R500, R561, R592, R597). -/
def Obligations.DictionaryReads : Prop :=
  ∀ (s : State) (role : Role) (path : Path) (it : Item) (e : DictEntry) (n : BitVec 4), s.boot.rom ≠ 2 → reaches role path s →
    let rc := roleAt role path
    let p := pathNum path
    let answers (c : Instr) (z : State) (a : RItem) : Prop := exec c s = .next { z with dict := { z.dict with answer := some a } }
    let report := reportBody s
    let io := ioRead s (nbits (sv s 0x8300 2) 12 0) none (sv s 0x8300 5)
    let live := s.dict.holds.filter holdLive
    let free := (((List.range 15).map (· + 1)).find? (fun n => !live.any (fun h => h.n == n))).getD 1
    let blob := blobRead s it.index it.sub 0 (blobLen s it.index it.sub)
    (badRole p rc = false →
      (entryOf s it.index it.sub = some e → it.type = e.ty → it.hold = false → it.holdId = 0 → readsOff s it.index it.sub = false →
        ¬(it.index = 0x8300 ∧ 6 ≤ it.sub) →
        (roleMay e (rc - 1) false = false → answers (.dictRead role path it) s (itemResp it 6 0 it.offset [])) ∧
        (roleMay e (rc - 1) false = true → e.ty ≤ 7 →
          (it.len < e.size → answers (.dictRead role path it) s (itemResp it 1 0 it.offset [])) ∧
          (e.size ≤ it.len →
            answers (.dictRead role path it) s (itemResp it 0 0 it.offset (le e.size (entryNum s it.index it.sub)))))) ∧
      (entryOf s it.index it.sub = some e → it.type = 9 → e.ty = 9 → it.holdId = 0 → roleMay e (rc - 1) false = true →
        readsOff s it.index it.sub = false →
        (4 ≤ live.length → answers (.holdRead role path it) s (itemResp it 3 0 it.offset [])) ∧
        (live.length < 4 → answers (.holdRead role path it)
          { s with dict := { s.dict with
            holds := live ++ [{ n := free, path := p, role := rc, index := it.index, sub := it.sub, data := blob, age := 0 }] } }
          (itemResp it 0 free it.offset ((blob.drop it.offset).take it.len)))) ∧
      answers (.report role path) s (itemResp (rItem 0x9010 2 10 320) 0 0 0 (report ++ le 64 (Config.identitySign report))) ∧
      (rc ≤ 2 → running s = true → sv s 0x8300 1 = 1 → debugRead s 6 = 0 →
        answers (.ioDataRead role path) io.1 (itemResp (rItem 0x8300 6 5 8) 0 0 0 (le 8 io.2.toNat)))) ∧
    (∃ t, exec (.holdExpiry n) s = .next t ∧ { t with dict := { t.dict with holds := s.dict.holds } } = s ∧
      ∀ h, h ∈ t.dict.holds ↔ h ∈ s.dict.holds ∧ (h.n = n.toNat → h.age < 1000000))

/-! ### The mailbox, the rind port, sessions -/

/-- The mailbox: GO copies the request and sets BUSY, or sets OVERRUN; the response is written with its SEQ and length, DONE is set and vector 66
raised where INTR asks; the end of a flash commit makes the stored values, the map and a committed image persistent (R487, R506, R538, R557). -/
def Sys2Proof.Claims.MailboxAndFlash : Prop :=
  ∀ (s : State) (v : Word) (p : Resp) (n : Nat) (im : Image),
    let d := s.dict
    (pathOn s 0 = true →
      (d.mbBusy = false → exec (.go v) s = .next { s with dict := { d with
        mbBusy := true, mbDone := false, mbNewSeq := bits v 15 0, mbIntr := v.getLsbD 17, waiting := d.waiting ++ [mbRequest s] } }) ∧
      (d.mbBusy = true → exec (.go v) s = .next { s with dict := { d with mbOverrun := true } }) ∧
      (d.mbJudged = some p → ∃ t, exec .mailboxResponse s = .next t ∧
        t.dict = { d with
          mbResp := respBytes p, mbRespLen := (respBytes p).length, mbSeq := d.mbNewSeq, mbBusy := false, mbDone := true,
          mbJudged := none } ∧
        { t with dict := d, disp := s.disp } = s ∧ (d.mbIntr = true → 66 ∈ t.disp.raised) ∧ (d.mbIntr = false → t.disp = s.disp))) ∧
    (pathOn s 0 = false → exec (.go v) s = .next s ∧ exec .mailboxResponse s = .next s) ∧
    (d.flash = some n → ∃ t, exec .flashCommitDone s = .next t ∧ t.dict.flash = none ∧ t.dict.flashHeld = [] ∧ t.dict.val = d.val ∧
      t.dict.committed = d.val.filter (fun e => keepsKey e.1 && e.1 != 0x101001) ∧
      t.boot = { s.boot with mapSaved := (s.boot.cmap, s.boot.idPos, s.boot.mapGen) } ∧
      (s.sec.inst = none → t.sec = s.sec) ∧
      (s.sec.inst = some (1, im) → t.sec = { s.sec with
        fw := mput Image.zero (1 - s.sec.fwActive) im s.sec.fw, fwActive := 1 - s.sec.fwActive, inst := none }) ∧
      (s.sec.inst = some (2, im) → t.sec = { s.sec with
        recs := mput Image.zero (1 - s.sec.recRun) im s.sec.recs, recNext := 1 - s.sec.recRun, inst := none })) ∧
    (d.flash = none → exec .flashCommitDone s = .next s)

/-- The rind port's frames: one that is not well formed or whose tag does not verify is counted and discarded; a repeated request gets the kept
response again; at most 4 requests wait, another is answered 0x0A; an accepted request waits for its tick and is the session's newest; DISCOVER
is answered with the identity entries and MODULE_STATE; frames leave at transmit opportunities while the PLCA status is OK (R501–R505,
R560). -/
def Sys2Proof.Claims.RindPortFrames : Prop :=
  ∀ (s : State) (f : RindFrame) (k : Resp) (ok : Bool),
    let d := s.dict
    let z : State := { s with dict := { d with rxFrames := satAdd 0xFFFFFFFF d.rxFrames 1 } }
    let rc := roleNum f.role
    let waits := (d.waiting.filter (fun q => q.path == 1)).length
    let fresh := ∀ q, findSession s f.session = some q → seqNew q f.seq = true
    (pathOn s 1 = true →
      ((f.wellFormed = false ∨ f.items = [] ∨ 64 < f.items.length) → exec (.request f) s = .next (rxDiscard s)) ∧
      (f.wellFormed = true → f.items ≠ [] → f.items.length ≤ 64 →
        ((f.tagged = true ∧ f.tagOk = false ∨ frameBad s rc f.session f.tagged = true) → exec (.request f) s = .next (authFail z)) ∧
        ((f.tagged = true → f.tagOk = true) → frameBad s rc f.session f.tagged = false →
          (keptFor s f = some k → exec (.request f) s = .next (queueFrame z { k with age := 0 })) ∧
          (keptFor s f = none →
            (¬fresh → exec (.request f) s = .next (authFail z)) ∧
            (fresh → 4 ≤ waits → exec (.request f) s = .next (queueFrame z
              { path := 1, source := f.source, session := f.session, seq := f.seq.toNat, role := rc, tick := s.tick % 2 ^ 32,
                items := f.items.map (fun it => itemResp it 0x0A it.holdId 1000 []), age := 0, op := 2, body := [] })) ∧
            (fresh → waits < 4 → exec (.request f) s = .next { z with dict := { z.dict with
              waiting := d.waiting ++ [{
                path := 1, source := f.source, session := f.session, seq := f.seq.toNat, role := rc, wellFormed := true,
                items := f.items }],
              sessions := d.sessions.map (fun q => if q.n = f.session then { q with lastSeq := some f.seq, age := 0 } else q) } })))) ∧
      (f.wellFormed = true → (f.tagged = true → f.tagOk = true) → frameBad s rc f.session f.tagged = false →
        ∃ r, exec (.discover f) s = .next (queueFrame z r) ∧ r.op = 4 ∧ r.seq = f.seq.toNat ∧ r.source = f.source ∧
          r.items.map (fun a => (a.index, a.sub, a.reason)) =
            [(0x1000, 1, 0), (0x1000, 2, 0), (0x1000, 3, 0), (0x1000, 4, 0), (0x1000, 5, 0), (0x1000, 6, 0), (0x1000, 7, 0),
              (0x2000, 2, 0)] ∧
          (r.items.map (·.value)).head? = some (le 2 0x16F3) ∧ (r.items.map (·.value)).getLast? = some (le 1 s.boot.modState)) ∧
      (d.plcaOk = ok → exec (.plcaStatusChange ok) s = .next s) ∧
      (d.plcaOk = true → exec (.plcaStatusChange false) s = .next { s with dict := { d with
        plcaOk := false, beaconLoss := satAdd 0xFFFFFFFF d.beaconLoss 1 } }) ∧
      (d.plcaOk = false → exec (.plcaStatusChange true) s = .next { s with dict := { d with
        plcaOk := true, txq := d.txq.filter (fun p => decide (p.age ≤ 100000)) } }) ∧
      (d.plcaOk = false → exec .transmitOpportunity s = .next s) ∧
      (d.plcaOk = true → exec .transmitOpportunity s = .next { s with dict := { d with
        txq := d.txq.drop (1 + sv s 0x1010 4), sentFrames := (d.txq.take (1 + sv s 0x1010 4)).reverse ++ d.sentFrames } })) ∧
    (pathOn s 1 = false → exec (.request f) s = .next s ∧ exec (.discover f) s = .next s ∧ exec (.plcaStatusChange ok) s = .next s ∧
      exec .transmitOpportunity s = .next s)

/-- Sessions: OPEN_REQ is answered with its RESULT, and at 0 opens a session under the next number; at most 4 are open; CLOSE in a tagged frame
of the session ends it, as do 600 s without an accepted request (R559, R560; the session's number is the model's choice, log 9). -/
def Sys2Proof.Claims.Sessions : Prop :=
  ∀ (s : State) (key sk n : Nat) (sig ok : Bool), rindUp s = true → rindPortOn s = true →
    let d := s.dict
    let rx := satAdd 0xFFFFFFFF d.rxFrames 1
    let answers (r : Nat) (more : List Session) : Prop := ∃ t, exec (.openReq key true sig sk) s = .next t ∧
      t.dict.sessions = d.sessions ++ more ∧ t.dict.rxFrames = rx ∧ t.dict.nextSession = d.nextSession + more.length ∧
      (t.dict.txq.getLast?).map (fun p => (p.op, p.body.take 4)) = some (0x11, le 4 r)
    let enabled := sv s 0x9040 1 = 1
    let known := key < 8 ∧ mget 0 s.sec.opKeys key ≠ 0
    (exec (.openReq key false sig sk) s = .next (rxDiscard s)) ∧
    (¬enabled → answers 4 []) ∧ (enabled → ¬known → answers 1 []) ∧ (enabled → known → sig = false → answers 2 []) ∧
    (enabled → known → sig = true → 4 ≤ d.sessions.length → answers 3 []) ∧
    (enabled → known → sig = true → d.sessions.length < 4 →
      answers 0 [{ n := d.nextSession, key := key, ks := sk, lastSeq := none, age := 0 }]) ∧
    (n ≠ 0 → ok = true → (findSession s n).isSome = true →
      exec (.close n ok) s = .next { s with dict := { d with rxFrames := rx, sessions := d.sessions.filter (fun q => !(q.n == n)) } }) ∧
    ((n = 0 ∨ ok = false ∨ findSession s n = none) →
      exec (.close n ok) s = .next (authFail { s with dict := { d with rxFrames := rx } })) ∧
    (∃ t, exec (.sessionTimeout n) s = .next t ∧ { t with dict := { t.dict with sessions := d.sessions } } = s ∧
      ∀ q, q ∈ t.dict.sessions ↔ q ∈ d.sessions ∧ ¬(q.n = n ∧ 600000000 ≤ q.age))

/-- The two paths to the dictionary: mailbox and flash commits, the rind port and its sessions. -/
def Obligations.MailboxAndRindPort : Prop := Claims.MailboxAndFlash ∧ Claims.RindPortFrames ∧ Claims.Sessions

/-! ### Debug, counters, the test access port, instruction fetch -/

/-- DBG_HALT, DBG_DATA and the performance counters: a supervisor's HALT_REQ halts a waiting thread, RESUME and STEP let a halted one go on;
DBG_DATA reads and writes the selected register of a thread that is HALTED, STOPPED or FREE and else sets SEL_ERR; PMC_CFGn with CLEAR sets the
counter up from 0, PMC_CTL with CLEAR_ALL zeroes all (R581, R584–R586, R590, R591). -/
def Sys2Proof.Claims.DebugRegisters : Prop :=
  ∀ (x : Issue) (v : Word) (rd : BitVec 5) (n : BitVec 3) (k : Nat) (s : State), (thr s x).mode = .supervisor →
    let c := core s x
    let sel := c.dbg.selThread
    let h := getThr c sel
    let reach := h.st = .halted ∨ h.st = .stopped ∨ h.st = .free
    (Ready x (attOut 0xE00) s →
      let z := counted s x (attOut 0xE00)
      let after := dbgHaltWrite z (co x) (th x) v
      let thread := thrOf s (co x) k
      Does (.haltReq x v) x s after .seq ∧ Does (.dbgResume x v) x s after .seq ∧ Does (.dbgStep x v) x s after .seq ∧
      (k < 16 → k ≠ 0 → k ≠ th x → c.dbg.haltAll = false → c.dbg.haltUnits = false → c.dbg.stopped = [] →
        (thread.st = .wait → bits v 15 0 = 2 ^ k → bits v 47 16 = 0 → (thrOf after (co x) k).st = .halted) ∧
        (thread.st = .halted → bits v 31 0 = 2 ^ (k + 16) → bits v 47 32 = 0 → (thrOf after (co x) k).st = .ready) ∧
        (thread.st = .halted → bits v 31 0 = 0 → bits v 47 32 = 2 ^ k →
          (thrOf after (co x) k).st = .ready ∧ (thrOf after (co x) k).dbg.stepping = true))) ∧
    (Ready x { attAlu with port := 3 } s →
      let z := counted s x { attAlu with port := 3 }
      (reach → Does (.dbgDataRead x rd) x s (wg z (co x) (th x) rd (dbgGet h c.dbg.selReg)) .seq) ∧
      (¬reach → Does (.dbgDataRead x rd) x s (wg (setCore z (co x)
        { core z x with dbg := { c.dbg with selErr := true } }) (co x) (th x) rd 0#64) .seq)) ∧
    (Ready x (attOut 0xE90) s →
      let z := counted s x (attOut 0xE90)
      (∀ h', reach → dbgPut h c.dbg.selReg v = some h' →
        Does (.dbgDataWrite x v) x s (setCore z (co x) (setThr (core z x) sel h')) .seq) ∧
      ((¬reach ∨ dbgPut h c.dbg.selReg v = none) → Does (.dbgDataWrite x v) x s (setCore z (co x) { core z x with dbg := { c.dbg with selErr := true } }) .seq)) ∧
    (Ready x (attOut (0xD00 + 16 * n.toNat)) s →
      let z := core (counted s x (attOut (0xD00 + 16 * n.toNat))) x
      Does (.pmcClear x n v) x s (setCore (counted s x (attOut (0xD00 + 16 * n.toNat))) (co x)
        { z with perf := { z.perf with pmc := mput Pmc.off n.toNat { mget Pmc.off z.perf.pmc n.toNat with
          event := bits v 7 0, mask := BitVec.ofNat 16 (bits v 23 8), en := v.getLsbD 24, count := 0 } z.perf.pmc } }) .seq) ∧
    (Ready x (attOut 0xD80) s → ∃ p, Does (.pmcClearAll x v) x s
      (setCore (counted s x (attOut 0xD80)) (co x) { core (counted s x (attOut 0xD80)) x with perf := p }) .seq ∧
      p.freeze = v.getLsbD 0 ∧ p.freezeOnHalt = v.getLsbD 1 ∧ p.cycles = 0 ∧ p.issued = 0 ∧ p.slotw = [] ∧ p.spadCorr = 0 ∧
      p.spadUe = 0 ∧ p.dropMsg = 0 ∧ p.dropSig = 0 ∧ p.dropPress = 0)

/-- The test access port selects its register; EXTEST drives the boundary in SERVICE and Off and elsewhere acts as BYPASS; DICT submits a request
as OBSERVER unless one waits; TRST_L resets the TAP controller alone (R579, R580; IDCODE after reset is the model's, log 3). -/
def Sys2Proof.Claims.TestAccessPort : Prop :=
  ∀ (s : State) (v : Nat) (f : RindFrame),
    let pins (p : Pins) : State := { s with pins := p }
    let ir (n : Nat) : Pins := { s.pins with tapIr := n, driven := none }
    let waits := s.dict.waiting.any (fun q => q.path == 2) || s.dict.flashHeld.any (fun p => p.path == 2)
    exec .idcode s = .next (pins (ir 1)) ∧ exec .bypass s = .next (pins (ir 15)) ∧ exec .trst s = .next (pins (ir 1)) ∧
    exec (.samplePreload v) s = .next (pins { ir 2 with boundary := v }) ∧
    ((s.boot.modState = 3 ∨ s.power.st = 5) →
      exec (.extest v) s = .next (pins { ir 0 with driven := some s.pins.boundary, boundary := v })) ∧
    (s.boot.modState ≠ 3 → s.power.st ≠ 5 → exec (.extest v) s = .next (pins (ir 0))) ∧
    ((pathOn s 2 = false ∨ waits = true) → exec (.dict f) s = .next (pins (ir 8))) ∧
    (pathOn s 2 = true → waits = false → f.wellFormed = true → f.items ≠ [] → f.items.length ≤ 64 →
      exec (.dict f) s = .next { pins { ir 8 with tapResp := none } with dict := { s.dict with
        waiting := s.dict.waiting ++ [{
          path := 2, source := 0, session := 0, seq := f.seq.toNat, role := 3, wellFormed := true, items := f.items }] } })

/-- Debug and counter registers, and the test access port. -/
def Obligations.DebugAndTestAccess : Prop := Claims.DebugRegisters ∧ Claims.TestAccessPort

/-- The fetch of an instruction translates the PC: outside the translated range it faults with 0x05, without permission with the reason of the
leaf; a line that the I-cache has serves it, for another the thread asks its home and waits, and the line that arrives stands in a way of its
set; a page that is not cacheable is read at its home at each fetch (R49, R50, R284, R292). -/
def Obligations.InstructionFetches : Prop :=
  ∀ (s : State) (core : BitVec 13) (n : BitVec 4) (e : Tlb) (key i id : Nat) (l : DLine) (p : Packet) (g : FInfo) (data : List Byte) (k : Bool),
    s.ordered = true →
    let L := core.toNat
    let t := n.toNat
    let h := thrOf s L t
    let c := getCore s L
    let va := h.pc.toNat
    let home := homeAt e (lineOf va)
    let f : FInfo := { faultAt 0x0D va false 4 with fetch := true }
    let goes (z : State) : Prop := GoesTo (.instructionFetch core n) s z L
    let asks (k : OutKind) (r : Home) (size : Nat) (w : Who) : Prop := ∃ z, goes z ∧
      z.net = s.net ++ [pkt (.core L) (homeEp r) (.read s.nextId r size w)] ∧ thrOf z L t = { h with held := .access s.nextId } ∧
      (getCore z L).outs = c.outs ++ [{ id := s.nextId, kind := k }] ∧ (∀ u, u ≠ t → thrOf z L u = thrOf s L u) ∧
      ∀ K, K ≠ L → getCore z K = getCore s K
    (canIssue s L t attAlu = true → c.sup.ctrlBad = false → h.ctxBad = false → bpMatch c t h = none →
      ((va < 0x10000000000 ∨ 2 ^ 48 ≤ va) → goes (raise s L t { f with cause := 0x05 })) ∧
      (0x10000000000 ≤ va → va < 2 ^ 48 → tlbFind c.xlt va = some e →
        (permReason e h.mode Acc.fetch ≠ 0 → goes (raise s L t (xlateFault f (permReason e h.mode Acc.fetch) 0))) ∧
        (permReason e h.mode Acc.fetch = 0 →
          (2 ≤ e.cls → e.comp = false → h.acc = [] → asks (.accRead n (homeAt e va) f) (homeAt e va) 4 (.thread L n)) ∧
          (e.cls < 2 → (∀ w < 4, (mget DLine.empty c.cache.i (4 * (va / 64 % 128) + w)).tagBad = false) →
            (findLine c.cache.i 128 va = some (key, l) → l.flips = [] → ∃ z, goes z ∧ (getCore z L).thr = c.thr ∧ z.net = s.net ∧
              (findLine (getCore z L).cache.i 128 va).map (·.2.data) = some l.data) ∧
            (findLine c.cache.i 128 va = none → fetchOut c va = false → e.comp = false →
              asks (.fetch n (lineNew va home (decide (e.cls = 1)) []) f) home 64 (.fetch L)))))) ∧
    (mayArrive s i = some p → p.dst = .core L → coreOn s L = true → p.body = .readData id data [] k →
      (findOut c id).map (·.kind) = some (.fetch n l g) → h.held = .access id → ∃ z w, w < 4 ∧ GoesTo (.cacheFill i) s z L ∧
        (getCore z L).cache = { c.cache with
          i := mput DLine.empty (4 * (l.va / 64 % 128) + w) { l with data := data } c.cache.i } ∧
        thrOf z L t = { h with held := .none } ∧ ∀ K, K ≠ L → getCore z K = getCore s K)

/-! ### Power, start-up, resets -/

/-- The choice of state and its entry: the target is Run or a state up to DEEPEST whose exit latency the tolerances permit and whose entry
conditions hold; it is entered when it has stood for DWELL_US and no wake is pending; Hold keeps the far banks of the scratchpads and Parked
nothing of them; a wake ends Nap at once and Hold and Parked with their starts (R514–R517). -/
def Sys2Proof.Claims.PowerStates : Prop :=
  ∀ s : State,
    let p := s.power
    let t := chooseTarget s
    let enters := running s = true ∧ p.wake = false ∧ p.since + sv s 0x3000 3 ≤ s.tick ∧ p.target = t
    let wakes := s.boot.rom = 0 ∧ p.trip = false ∧ s.boot.run = none
    ((t = 0 ∨ t = 2 ∨ t = 3 ∨ t = 4) ∧
      (t ≠ 0 → t ≤ sv s 0x3000 2 ∧ entryMay s t = true ∧ sv s 0x3000 1 = 1 ∧ exitLatency t ≤ sv s 0x2100 1 ∧
        (s.disp.orders ≠ [] → exitLatency t ≤ sv s 0x2100 3))) ∧
    (running s = true → exec .powerStateChoice s =
      .next (if t = p.target then s else { s with power := { p with target := t, since := s.tick } })) ∧
    (running s = true → (t < 2 ∨ p.wake = true ∨ s.tick < p.since + sv s 0x3000 3 ∨ p.target ≠ t) → exec .stateEntry s = .next s) ∧
    (enters → t = 2 → exec .stateEntry s = .next { s with power := { p with st := 2 } }) ∧
    (enters → 2 < t → s.disp.dir = [] → s.disp.recalls = [] → s.ordered = true → ∃ z, exec .stateEntry s = .next z ∧ z.power.st = t ∧
      z.net = [] ∧ z.hbm = s.hbm ∧ z.dict = s.dict ∧
      (∀ L a, mget 0#8 (getCore z L).spad.mem a = if t = 3 ∧ 0x80000 ≤ a then mget 0#8 (getCore s L).spad.mem a else 0#8) ∧
      (∀ L n, (thrOf z L n).st = .free)) ∧
    (wakes → p.st = 0 → exec .wake s = .next { s with power := { p with target := 0, since := s.tick, wake := false } }) ∧
    (wakes → p.st = 2 → ∃ z, exec .wake s = .next z ∧ z.power = { p with st := 0, target := 0, since := s.tick, wake := false } ∧
      { z with power := p, cores := s.cores } = s) ∧
    (wakes → (p.st = 3 ∨ p.st = 4) → exec .wake s = .next { s with boot := { s.boot with
      run := some { kind := p.st - 1, step := 8, ended := [], fails := [], variant := [], retire := [] } } })

/-- Throttling, trips and losses of supply: each duty moves by one step per period and stays between 4 and 16; a thermal trip ends every order
ABORTED with reason 0x05, falls to Parked with a recall of each line that the companion holds, and clears MODULE_ENABLE; in the tick of a coolant loss it is only
recorded; a power fail, a coolant loss and a leak switch every die off and are
counted, and what the rind keeps stays (R520, R522–R524, R575). -/
def Sys2Proof.Claims.ThrottleTripAndFail : Prop :=
  ∀ (s : State) (r : ThrottleIn) (aux pin : Bool),
    let p := s.power
    let step (up down : Bool) (v : Nat) : Nat := if down then Nat.max 4 (v - 1) else if up then Nat.min 16 (v + 1) else v
    let dt (d : Nat) : Nat := step (r.cool.contains d) (r.hot.contains d) (mget 16 p.dt d)
    let dp := step r.underPower r.overPower p.dp
    let off (t : State) (why : Nat) : Prop := t.power.st = 5 ∧ t.power.offWhy = why ∧ t.cores = [] ∧ t.hbm = [] ∧ t.net = [] ∧
      t.disp.orders = [] ∧ t.power.powerFails = satAdd 0xFFFFFFFF p.powerFails 1 ∧ t.dict.val = s.dict.val ∧
      t.dict.gen = s.dict.gen ∧ t.tick = s.tick ∧ t.sec = s.sec ∧ t.boot.sticky = s.boot.sticky
    (running s = true → exec (.throttlePeriod r) s = .next { s with power := { p with
      dt := (List.range 8).foldl (fun m d => mput 16 d (dt d) m) p.dt, dp := dp,
      duty := (List.range 8).foldl (fun m d => mput 16 d (Nat.min (dt d) dp) m) p.duty } }) ∧
    (p.st ≠ 5 → s.boot.modState ≠ 3 → p.trip = false → (s.disp.orders.map (·.k)).Nodup → ∃ t, exec .thermalTrip s = .next t ∧
      t.power.st = 4 ∧ t.power.trip = true ∧ t.power.trips = satAdd 0xFFFFFFFF p.trips 1 ∧ t.cores = [] ∧ t.hbm = s.hbm ∧
      t.dict.val = mput none 0x200001 none s.dict.val ∧ t.boot.modState ≠ 2 ∧ t.quince.pass = 0 ∧ t.disp.dir = s.disp.dir ∧
      (∀ l ∈ s.disp.dir, ∃ r ∈ t.disp.recalls, r.line = l.1 ∧ r.invalidate = true ∧ r.held = []) ∧
      (∀ o ∈ t.disp.orders, o.st ≠ .running ∧ o.st ≠ .stopping) ∧
      (∀ o ∈ s.disp.orders, o.st = .running → ∃ q ∈ t.disp.orders, q.k = o.k ∧ q.st = .completing ∧ q.status = 3 ∧ q.reason = 5)) ∧
    (s.boot.rom ≠ 3 → p.st ≠ 5 →
      (∃ t, exec (.powerFail aux) s = .next t ∧ off t (if aux then 4 else 2) ∧ t.pins.powerFail = true) ∧
      (∃ t, exec .coolantLoss s = .next t ∧ off t 3 ∧ t.pins.coolant = true) ∧
      (∃ t, exec (.leak pin) s = .next t ∧ off t 3 ∧ t.pins.coolant = true ∧ t.pins.leak = true)) ∧
    (p.st = 5 → exec (.powerFail false) s = .next s ∧ exec .coolantLoss s = .next s ∧
      (p.offWhy ≠ 3 ∨ p.since ≠ s.tick → exec .thermalTrip s = .next s) ∧
      (p.offWhy = 3 → p.since = s.tick → exec .thermalTrip s = .next (tripRecord s))) ∧
    exec .leakClear s = .next { s with pins := { s.pins with leak := false, leakPin := false, leakTrace := false } } ∧
    exec .tripClear s = .next { s with power := { p with trip := false } }

/-- Power states, throttling, trips and losses of supply. -/
def Obligations.PowerAndThrottle : Prop := Claims.PowerStates ∧ Claims.ThrottleTripAndFail

/-- How the module comes to start: the exit from power-on reset counts TICK from 0, reads the straps and begins B1; a cold start from Off begins
at B2 or goes on before B3; an accepted reset request and RESET_L going high begin B3 with every die reset and the volatile entries at their
defaults; while RESET_L is low the dies stay off; the loss of the auxiliary input returns to power-on reset with the committed values (R486,
R494, R497, R527, R572, R576). -/
def Sys2Proof.Claims.StartsAndResets : Prop :=
  ∀ (s : State) (straps : BitVec 5),
    let b := s.boot
    let run (kind step : Nat) : Option BootRun :=
      some { kind := kind, step := step, ended := [], fails := [], variant := [], retire := [] }
    let count := satAdd 0xFFFFFFFF b.bootCount 1
    let dark (t : State) : Prop := t.cores = [] ∧ t.hbm = [] ∧ t.net = [] ∧ t.disp = Disp.reset ∧ t.quince = Quince.reset ∧
      t.fab = Fabric.reset ∧ t.boot.modState = 0
    let started (t : State) : Prop := dark t ∧ t.boot.run = run 1 3 ∧ t.boot.resetReq = false ∧ t.boot.bootCount = count ∧
      t.power.st = 0 ∧ t.dict.val = s.dict.val.filter (fun e => keepsKey e.1) ∧ t.dict.sessions = [] ∧ t.dict.gen = s.dict.gen ∧
      t.boot.sticky = b.sticky ∧ t.boot.cmap = b.cmap ∧ t.tick = s.tick
    let up (t : State) : State := { t with power := { t.power with st := 0, offWhy := 0 }, pins := { t.pins with powerFail := false } }
    (b.rom = 3 → exec (.powerOnResetExit straps) s = .next { s with
      tick := 0, pins := { s.pins with straps := straps.toNat },
      boot := { b with run := run 0 1, bootCount := count, modState := 0, rom := 0 } }) ∧
    (b.rom ≠ 3 → exec (.powerOnResetExit straps) s = .next s) ∧
    (b.rom = 0 → s.power.st = 5 → s.power.offReq = false → s.pins.coolant = false →
      (∀ r, b.run = some r → r.step = 3 → exec .coldStart s = .next (up s)) ∧
      (b.run = none → ∃ t, exec .coldStart s = .next t ∧ t.boot.run = run 0 2 ∧ t.power.st = 0 ∧ t.boot.modState = 0 ∧
        t.boot.bootCount = count ∧ t.pins.powerFail = false)) ∧
    ((s.power.st ≠ 5 ∨ s.power.offReq = true ∨ s.pins.coolant = true) → exec .coldStart s = .next s) ∧
    (b.rom = 0 → s.power.st ≠ 5 →
      (b.resetReq = true → s.pins.resetLow = false → ∃ t, exec .moduleReset s = .next t ∧ started t) ∧
      (b.resetReq = false → exec .moduleReset s = .next s) ∧
      (s.pins.resetLow = true → ∃ t, exec (.resetL false) s = .next t ∧ started t ∧ t.pins.resetLow = false) ∧
      (s.pins.resetLow = false → b.run = none → ∃ t, exec (.resetL true) s = .next t ∧ dark t ∧ t.boot.run = none ∧
        t.pins.resetLow = true ∧ t.pins.pinResets = satAdd 0xFFFFFFFF s.pins.pinResets 1)) ∧
    (b.rom ≠ 3 → ∃ t, exec .rindReset s = .next t ∧ t.tick = 0 ∧ t.boot.rom = 3 ∧ dark t ∧ t.boot.run = none ∧
      t.dict.val = s.dict.committed ∧ t.dict.gen = 0 ∧ t.power = Power.reset ∧ t.boot.cmap = b.mapSaved.1 ∧ t.boot.sticky = b.sticky)

/-- Attempts of a boot step: each is journalled; a failed attempt before the third is tried again, the third marks the component STICKY where the
step has an alternative, and stops the boot in the service state where it has none; an image below its floor fails as its signature would
(R554–R556); when the last component has passed the next step begins,
and after B12, where the ACTIVE positions equal the grade count, the module is READY; an attempt that exceeds its budget has failed (R527–R532). -/
def Sys2Proof.Claims.BootSteps : Prop :=
  ∀ (s : State) (r : BootRun) (e : BootEnd), s.boot.run = some r → attemptOk s r e.component = true →
    let c := e.component
    let fails := mget 0 r.fails c
    let normal := inAlternative s r c = false
    let out : BootEnd := { component := c, pass := false, detail := 0#64, duration := stepBudget r.step, failing := [], peer := 0 }
    let next (step : Nat) : Option BootRun :=
      some { kind := r.kind, step := step, ended := [], fails := [], variant := [], retire := [] }
    (∃ t, exec (.bootStepAttempt e) s = .next t ∧ t.boot.journalHead = s.boot.journalHead + 1 ∧ t.tick = s.tick) ∧
    exec (.bootStepTimeout c) s = .next (bootAttempt s r out 4) ∧
    (normal → e.pass = false → fails < 2 → ∃ t, exec (.bootStepAttempt e) s = .next t ∧
      t.boot.run = some { r with fails := mput 0 c (fails + 1) r.fails } ∧ { t with boot := s.boot, sec := s.sec } = s) ∧
    (normal → e.pass = true → imageOk (macSeen s r.step e) r.step false = false → fails < 2 → ∃ t, exec (.bootStepAttempt e) s = .next t ∧
      t.boot.run = some { r with fails := mput 0 c (fails + 1) r.fails }) ∧
    (normal → e.pass = false → fails = 2 → r.step ≠ 10 → stepVariants r.step ≠ 0 → ∃ t, exec (.bootStepAttempt e) s = .next t ∧
      stickyKey r.step c ∈ t.boot.sticky ∧ t.boot.run = some { r with fails := mput 0 c 3 r.fails }) ∧
    (normal → e.pass = false → fails = 2 → r.step = 12 → ∃ t, exec (.bootStepAttempt e) s = .next t ∧ t.boot.modState = 3 ∧
      t.boot.run = none ∧ running t = false ∧ t.cores = []) ∧
    (normal → e.pass = true → imageOk (macSeen s r.step e) r.step false = true → r.ended = [] → r.kind ≤ 1 → (r.step = 3 ∨ r.step = 4) → ∃ t, exec (.bootStepAttempt e) s = .next t ∧
      t.boot.run = next (r.step + 1) ∧ t.boot.modState = s.boot.modState ∧ t.cores = s.cores) ∧
    (normal → e.pass = true → posCount s 0 = gradeOf s → r.ended = [] → r.kind ≤ 1 → r.step = 12 → ∃ t, exec (.bootStepAttempt e) s = .next t ∧
      t.boot.run = none ∧ t.boot.modState = 1 ∧ t.cores = s.cores ∧ t.fab.dims = sv s 0x5100 2 ∧ t.fab.coord = sv s 0x5100 3)

/-- Starts, resets and the steps of a boot. -/
def Obligations.StartUp : Prop := Claims.StartsAndResets ∧ Claims.BootSteps
end

