-- ==== Sys2Proof/Laws/Map.lean ====
section
/-! SUPPORT. Laws of sparse maps: what a read gives after a write, and that a write keeps the keys rising and the canonical form. -/

namespace Sys2Proof.Machine

@[simp] theorem rising_nil {α : Type} : rising ([] : SMap α) = true := rfl

@[simp] theorem mget_nil {α : Type} (d : α) (k : Nat) : mget d [] k = d := rfl

theorem risingFrom_mono {α : Type} {lo lo' : Nat} {m : SMap α} (h : risingFrom lo m = true) (hl : lo' ≤ lo) : risingFrom lo' m = true := by
  cases m with
  | nil => rfl
  | cons e r =>
    simp only [risingFrom, Bool.and_eq_true, decide_eq_true_eq] at h ⊢
    exact ⟨by omega, h.2⟩

/-- A key below the lower bound is not listed. -/
theorem mget_below {α : Type} {d : α} {lo : Nat} {m : SMap α} (h : risingFrom lo m = true) {k : Nat} (hk : k < lo) : mget d m k = d := by
  induction m generalizing lo with
  | nil => rfl
  | cons e r ih =>
    obtain ⟨j, v⟩ := e
    simp only [risingFrom, Bool.and_eq_true, decide_eq_true_eq] at h
    simp only [mget]
    rw [if_neg (by omega)]
    exact ih h.2 (by omega)

/-- What a read at the written key gives. -/
theorem mget_mput_same {α : Type} [DecidableEq α] {d : α} {lo : Nat} {m : SMap α} (h : risingFrom lo m = true) (k : Nat) (v : α) :
    mget d (mput d k v m) k = v := by
  induction m generalizing lo with
  | nil =>
    simp only [mput]
    split
    · next hv => simp [mget, hv]
    · simp [mget]
  | cons e r ih =>
    obtain ⟨j, w⟩ := e
    simp only [risingFrom, Bool.and_eq_true, decide_eq_true_eq] at h
    simp only [mput]
    by_cases h1 : k < j
    · rw [if_pos h1]
      split
      · next hv =>
        simp only [mget]
        rw [if_neg (by omega), mget_below h.2 (by omega), hv]
      · simp [mget]
    · rw [if_neg h1]
      by_cases h2 : k = j
      · rw [if_pos h2]
        split
        · next hv => rw [mget_below h.2 (by omega), hv]
        · simp [mget]
      · rw [if_neg h2]
        simp only [mget]
        rw [if_neg (fun e => h2 e.symm)]
        exact ih h.2

/-- A write leaves every other key. -/
theorem mget_mput_other {α : Type} [DecidableEq α] (d : α) (m : SMap α) {k j : Nat} (v : α) (hne : j ≠ k) : mget d (mput d k v m) j = mget d m j := by
  induction m with
  | nil =>
    simp only [mput]
    split
    · rfl
    · simp only [mget]
      rw [if_neg (fun e => hne e.symm)]
  | cons e r ih =>
    obtain ⟨i, w⟩ := e
    simp only [mput]
    by_cases h1 : k < i
    · rw [if_pos h1]
      split
      · rfl
      · simp only [mget]
        rw [if_neg (fun e => hne e.symm)]
    · rw [if_neg h1]
      by_cases h2 : k = i
      · rw [if_pos h2]
        subst h2
        split
        · simp only [mget]
          rw [if_neg (fun e => hne e.symm)]
        · simp only [mget]
          rw [if_neg (fun e => hne e.symm), if_neg (fun e => hne e.symm)]
      · rw [if_neg h2]
        simp only [mget]
        split
        · rfl
        · exact ih

/-- A write keeps the keys rising. -/
theorem risingFrom_mput {α : Type} [DecidableEq α] {d : α} {lo : Nat} {m : SMap α} (h : risingFrom lo m = true) {k : Nat} (hk : lo ≤ k) (v : α) :
    risingFrom lo (mput d k v m) = true := by
  induction m generalizing lo with
  | nil =>
    simp only [mput]
    split
    · rfl
    · simp [risingFrom, hk]
  | cons e r ih =>
    obtain ⟨j, w⟩ := e
    have h' := h
    simp only [risingFrom, Bool.and_eq_true, decide_eq_true_eq] at h
    simp only [mput]
    by_cases h1 : k < j
    · rw [if_pos h1]
      split
      · exact h'
      · simp only [risingFrom, Bool.and_eq_true, decide_eq_true_eq]
        exact ⟨hk, by omega, h.2⟩
    · rw [if_neg h1]
      by_cases h2 : k = j
      · rw [if_pos h2]
        split
        · exact risingFrom_mono h.2 (by omega)
        · simp only [risingFrom, Bool.and_eq_true, decide_eq_true_eq]
          exact ⟨hk, h2 ▸ h.2⟩
      · rw [if_neg h2]
        simp only [risingFrom, Bool.and_eq_true, decide_eq_true_eq]
        exact ⟨h.1, ih h.2 (by omega)⟩

theorem rising_mput {α : Type} [DecidableEq α] {d : α} {m : SMap α} (h : rising m = true) (k : Nat) (v : α) : rising (mput d k v m) = true :=
  risingFrom_mput h (Nat.zero_le k) v

theorem mwfFrom_mono {α : Type} [DecidableEq α] {d : α} {lo lo' : Nat} {m : SMap α} (h : mwfFrom d lo m = true) (hl : lo' ≤ lo) : mwfFrom d lo' m = true := by
  cases m with
  | nil => rfl
  | cons e r =>
    simp only [mwfFrom, Bool.and_eq_true, decide_eq_true_eq] at h ⊢
    exact ⟨⟨by omega, h.1.2⟩, h.2⟩

/-- A write keeps the canonical form. -/
theorem mwfFrom_mput {α : Type} [DecidableEq α] {d : α} {lo : Nat} {m : SMap α} (h : mwfFrom d lo m = true) {k : Nat} (hk : lo ≤ k) (v : α) :
    mwfFrom d lo (mput d k v m) = true := by
  induction m generalizing lo with
  | nil =>
    simp only [mput]
    split
    · rfl
    · next hv => simp [mwfFrom, hk, hv]
  | cons e r ih =>
    obtain ⟨j, w⟩ := e
    have h' := h
    simp only [mwfFrom, Bool.and_eq_true, decide_eq_true_eq] at h
    simp only [mput]
    by_cases h1 : k < j
    · rw [if_pos h1]
      split
      · exact h'
      · next hv =>
        simp only [mwfFrom, Bool.and_eq_true, decide_eq_true_eq]
        exact ⟨⟨hk, hv⟩, ⟨by omega, h.1.2⟩, h.2⟩
    · rw [if_neg h1]
      by_cases h2 : k = j
      · rw [if_pos h2]
        split
        · exact mwfFrom_mono h.2 (by omega)
        · next hv =>
          simp only [mwfFrom, Bool.and_eq_true, decide_eq_true_eq]
          exact ⟨⟨hk, hv⟩, h2 ▸ h.2⟩
      · rw [if_neg h2]
        simp only [mwfFrom, Bool.and_eq_true, decide_eq_true_eq]
        exact ⟨h.1, ih h.2 (by omega)⟩

theorem mwf_mput {α : Type} [DecidableEq α] {d : α} {m : SMap α} (h : mwf d m = true) (k : Nat) (v : α) : mwf d (mput d k v m) = true :=
  mwfFrom_mput h (Nat.zero_le k) v

@[simp] theorem mwf_nil {α : Type} [DecidableEq α] (d : α) : mwf d ([] : SMap α) = true := rfl

/-- The canonical form has rising keys. -/
theorem risingFrom_of_mwfFrom {α : Type} [DecidableEq α] {d : α} {lo : Nat} {m : SMap α} (h : mwfFrom d lo m = true) : risingFrom lo m = true := by
  induction m generalizing lo with
  | nil => rfl
  | cons e r ih =>
    simp only [mwfFrom, Bool.and_eq_true, decide_eq_true_eq] at h
    simp only [risingFrom, Bool.and_eq_true, decide_eq_true_eq]
    exact ⟨h.1.1, ih h.2⟩

theorem rising_of_mwf {α : Type} [DecidableEq α] {d : α} {m : SMap α} (h : mwf d m = true) : rising m = true := risingFrom_of_mwfFrom h

/-- Changing the values of a map keeps its keys rising. -/
theorem risingFrom_map {α β : Type} {lo : Nat} {m : SMap α} (f : Nat × α → Nat × β) (hf : ∀ e, (f e).1 = e.1)
    (h : risingFrom lo m = true) : risingFrom lo (m.map f) = true := by
  induction m generalizing lo with
  | nil => rfl
  | cons e r ih =>
    simp only [risingFrom, Bool.and_eq_true, decide_eq_true_eq] at h
    have h1 := hf e
    rw [List.map_cons]
    generalize hfe : f e = q at h1
    obtain ⟨a, b⟩ := q
    simp only at h1
    simp only [risingFrom, Bool.and_eq_true, decide_eq_true_eq]
    exact ⟨by omega, h1 ▸ ih h.2⟩

/-- Leaving entries out keeps the canonical form. -/
theorem mwfFrom_filter {α : Type} [DecidableEq α] {d : α} {lo : Nat} {m : SMap α} (p : Nat × α → Bool) (h : mwfFrom d lo m = true) :
    mwfFrom d lo (m.filter p) = true := by
  induction m generalizing lo with
  | nil => rfl
  | cons e r ih =>
    have h' := h
    simp only [mwfFrom, Bool.and_eq_true, decide_eq_true_eq] at h
    rw [List.filter_cons]
    split
    · simp only [mwfFrom, Bool.and_eq_true, decide_eq_true_eq]
      exact ⟨h.1, ih h.2⟩
    · exact mwfFrom_mono (ih h.2) (by omega)

/-- Leaving entries out keeps the keys rising. -/
theorem risingFrom_filter {α : Type} {lo : Nat} {m : SMap α} (p : Nat × α → Bool) (h : risingFrom lo m = true) :
    risingFrom lo (m.filter p) = true := by
  induction m generalizing lo with
  | nil => rfl
  | cons e r ih =>
    simp only [risingFrom, Bool.and_eq_true, decide_eq_true_eq] at h
    rw [List.filter_cons]
    split
    · simp only [risingFrom, Bool.and_eq_true, decide_eq_true_eq]
      exact ⟨h.1, ih h.2⟩
    · exact risingFrom_mono (ih h.2) (by omega)

end Sys2Proof.Machine
end

