-- ==== Sys2Proof/Laws/Issue.lean ====
section
/-! SUPPORT. The laws of issuing an instruction: reads after writes of cores, threads and registers; a quiet core is left alone by what follows
a command; an instruction that completes advances its thread. -/

namespace Sys2Proof.Machine

open Sys2Proof.Claims

/-! ### Cores, threads, registers -/

theorem getCore_setCore {σ : State} (h : rising σ.cores = true) (L : Nat) (c : Core) : getCore (setCore σ L c) L = c :=
  mget_mput_same h L c

theorem getCore_setCore_other (σ : State) {L K : Nat} (c : Core) (h : K ≠ L) : getCore (setCore σ L c) K = getCore σ K :=
  mget_mput_other _ _ c h

theorem getThr_setThr {c : Core} (h : rising c.thr = true) (t : Nat) (x : Thread) : getThr (setThr c t x) t = x :=
  mget_mput_same h t x

theorem getThr_setThr_other (c : Core) {t u : Nat} (x : Thread) (h : u ≠ t) : getThr (setThr c t x) u = getThr c u :=
  mget_mput_other _ _ x h

theorem greg_zero (h : Thread) : greg h 0 = 0#64 := rfl

theorem setG_zero (h : Thread) (v : Word) : setG h 0 v = h := rfl

/-- A register other than g0 holds what was written (R45). -/
theorem greg_setG {h : Thread} (o : rising h.regs = true) {r : Nat} (hr : r ≠ 0) (v : Word) : greg (setG h r v) r = v := by
  simp only [greg, setG, if_neg hr]
  exact mget_mput_same o r v

/-- A write leaves every other register. -/
theorem greg_setG_other (h : Thread) {r q : Nat} (hq : q ≠ r) (v : Word) : greg (setG h r v) q = greg h q := by
  simp only [greg, setG]
  by_cases h0 : q = 0
  · simp [h0]
  · by_cases hr : r = 0
    · simp [h0, hr]
    · simp only [if_neg h0, if_neg hr]
      exact mget_mput_other _ _ v hq

theorem rising_setCore {σ : State} (h : rising σ.cores = true) (L : Nat) (c : Core) : rising (setCore σ L c).cores = true :=
  rising_mput h L c

theorem rising_setThr {c : Core} (h : rising c.thr = true) (t : Nat) (x : Thread) : rising (setThr c t x).thr = true :=
  rising_mput h t x

/-! ### States that agree -/

theorem Same.refl (s : State) : Same s s := ⟨fun _ => rfl, rfl⟩

theorem Same.trans {a b c : State} (h : Same a b) (k : Same b c) : Same a c := by
  refine ⟨fun K => (k.cores K).trans (h.cores K), ?_⟩
  have e1 := h.rest
  have e2 := k.rest
  rw [← e1, ← e2]

theorem same_setCore {σ : State} (h : rising σ.cores = true) (L : Nat) {c : Core} (hc : c = getCore σ L) : Same σ (setCore σ L c) := by
  subst hc
  refine ⟨fun K => ?_, rfl⟩
  by_cases hK : K = L
  · subst hK
    exact getCore_setCore h _ _
  · exact getCore_setCore_other σ _ hK

theorem foldl_fix {α β : Type} (f : β → α → β) (b : β) (l : List α) (h : ∀ a ∈ l, f b a = b) : l.foldl f b = b := by
  induction l with
  | nil => rfl
  | cons a r ih =>
    rw [List.foldl_cons, h a (List.mem_cons_self ..)]
    exact ih (fun x hx => h x (List.mem_cons_of_mem _ hx))

/-! ### A quiet core -/

theorem pumpUnits_quiet {σ : State} {L : Nat} (q : Quiet (getCore σ L)) : pumpUnits σ L = σ := by
  unfold pumpUnits
  split
  · rfl
  · have e1 : (List.range 8).foldl
        (fun σ s => if (getSlot (getCore σ L) s).st = 1 then slotPump pumpFuel σ L s else σ) σ = σ :=
      foldl_fix _ _ _ (fun k hk => if_neg (q.slots k (List.mem_range.mp hk)))
    simp only [e1]
    exact foldl_fix _ _ _ (fun k hk => if_neg (q.chans k (List.mem_range.mp hk)))

theorem mqPump_quiet {m : Mtx} (h : m.queue = []) (k : Nat) : mqPump k m = m := by
  cases k with
  | zero => rfl
  | succ k =>
    have e : mqAuto m = none := by simp [mqAuto, h]
    simp [mqPump, e]

theorem ringsPump_quiet {σ : State} {L : Nat} (q : Quiet (getCore σ L)) : ringsPump σ L = σ := by
  unfold ringsPump
  have e1 : (getCore σ L).rings.foldl (fun σ p => if p.2.parked.isSome && p.2.enable then ringRetry σ L p.1 else σ) σ = σ := by
    refine foldl_fix _ _ _ (fun p hp => ?_)
    have := List.all_eq_true.mp q.rings p hp
    simp_all
  simp only [e1, q.vc2]
  rfl

theorem leaseNext_quiet {c : Core} (q : Quiet c) : leaseNext c = c := by
  have hw := q.waiters
  have hd := q.dying
  simp only [leaseNext, hd, Bool.false_and, Bool.false_eq_true, if_false, hw, List.filter_nil]
  split
  · next h => simp at h
  · rw [← hd, ← hw]

theorem wakePlain_quiet {σ : State} {L t : Nat} (h : (getThr (getCore σ L) t).st ≠ .wait) : wakePlain σ L t = σ := by
  unfold wakePlain
  simp only
  split
  · next h1 _ => exact absurd h1 h
  · rfl

theorem wakeSub_quiet {σ : State} {L t : Nat} (h : (getThr (getCore σ L) t).st ≠ .wait) : wakeSub σ L t = σ := by
  unfold wakeSub
  simp only
  split
  · next h1 _ => exact absurd h1 h
  · rfl

theorem wakeUnit_quiet {σ : State} {L t : Nat} (h : (getThr (getCore σ L) t).st ≠ .wait) : wakeUnit σ L t = σ := by
  unfold wakeUnit
  simp only
  split
  · next h1 _ => exact absurd h1 h
  · next h1 _ => exact absurd h1 h
  · next h1 _ => exact absurd h1 h
  · rfl

theorem fencesSettle_quiet {c : Core} (q : Quiet c) : fencesSettle c = c := by
  unfold fencesSettle
  refine foldl_fix _ _ _ (fun t ht => ?_)
  simp [q.fences t (List.mem_range.mp ht)]

theorem outqDrain_quiet {σ : State} {L : Nat} (q : Quiet (getCore σ L)) (k : Nat) : outqDrain k σ L = σ := by
  cases k with
  | zero => rfl
  | succ k => simp [outqDrain, q.outq]

theorem allWait_ready {c : Core} {t : Nat} (ht : t < 16) (h : (getThr c t).st = .ready) : allWait c false = c := by
  unfold allWait
  have e : ((List.range 16).map (getThr c)).all (fun h => h.st != .ready && h.st != .halted) = false := by
    rw [List.all_eq_false]
    exact ⟨getThr c t, List.mem_map.mpr ⟨t, List.mem_range.mpr ht, rfl⟩, by simp [h]⟩
  simp only [e, Bool.or_false, Bool.false_and, Bool.and_false, Bool.false_eq_true, if_false]

theorem leftWait_quiet {a b : Core} (q : ∀ u < 16, (getThr a u).st ≠ .wait)
    (h : ∀ u < 16, (getThr a u).st = .faultWait → (getThr b u).st = .faultWait) : leftWait a b = false := by
  unfold leftWait
  rw [List.any_eq_false]
  intro u hu
  have h1 := q u (List.mem_range.mp hu)
  have h2 := h u (List.mem_range.mp hu)
  cases hs : (getThr a u).st <;> simp_all

theorem cmoPump_quiet {σ : State} {L : Nat} (q : Quiet (getCore σ L)) : cmoPump σ L = σ := by
  have e : cmoStep σ L = σ := by simp only [cmoStep, q.cmo]
  simp only [cmoPump, e, cmoEnded, q.cmo]

theorem enterStep_quiet {σ : State} {L t : Nat} (h : (getThr (getCore σ L) t).entry = none) : enterStep σ L t = σ := by
  unfold enterStep
  simp only [thrOf, h]

theorem askedLater_quiet {σ : State} {L t : Nat} (h1 : (getThr (getCore σ L) t).dbg.pend = none)
    (h2 : (getThr (getCore σ L) t).stopPend = false) : askedLater σ L t = σ := by
  unfold askedLater
  simp only [thrOf, h1, takeAsked, h2, Bool.false_eq_true, if_false]
  split <;> rfl

/-- A step that queues no event leaves the event queue as it stands. -/
theorem eventsInOrder_same (c : Core) : eventsInOrder c.sup.evq c = c := by
  have e : c.sup.evq.isPrefixOf c.sup.evq = true := by simp
  simp only [eventsInOrder, e, if_true, List.take_length, List.drop_length, List.foldr_nil, List.append_nil]

theorem pressAll_rest {σ : State} (h : PressRest σ) : pressAll σ = σ := by
  unfold pressAll
  refine foldl_fix _ _ _ (fun e he => ?_)
  simp only [h e he, Bool.false_and, Bool.false_eq_true, if_false]

theorem Same.press {a b : State} (h : Same a b) : b.press = a.press := by
  have := congrArg State.press h.rest
  exact this

theorem PressRest.of {a b : State} (h : PressRest a) (e : b.press = a.press) : PressRest b := by
  unfold PressRest getPress at *
  rw [e]; exact h

theorem eachThread_fix {f : State → Nat → Nat → State} {σ : State} {L : Nat} (h : ∀ u < 16, f σ L u = σ) : eachThread f σ L = σ :=
  foldl_fix _ _ _ (fun u hu => h u (List.mem_range.mp hu))

/-- What follows a command changes nothing in a core that is quiet and has a READY thread. -/
theorem tidy_quiet {s σ : State} {L t : Nat} (o : rising σ.cores = true) (q : Quiet (getCore σ L)) (pr : PressRest σ) (ht : t < 16)
    (hr : (thrOf σ L t).st = .ready) (hs : leftWait (getCore s L) (getCore σ L) = false)
    (he : (getCore s L).sup.evq = (getCore σ L).sup.evq) : Same σ (tidy s σ L) := by
  unfold tidy
  simp only [cmoPump_quiet q, eachThread_fix (fun u hu => enterStep_quiet (q.entries u hu)), pumpUnits_quiet q]
  have m1 : Same σ (modCore σ L (fun c => { c with mtx := mqPump 4 c.mtx })) := by
    refine same_setCore o L ?_
    simp only [mqPump_quiet q.queue]
  have o1 : rising (modCore σ L (fun c => { c with mtx := mqPump 4 c.mtx })).cores = true := rising_setCore o _ _
  generalize modCore σ L (fun c => { c with mtx := mqPump 4 c.mtx }) = σ1 at m1 o1 ⊢
  have c1 : getCore σ1 L = getCore σ L := m1.cores L
  have q1 : Quiet (getCore σ1 L) := c1 ▸ q
  simp only [ringsPump_quiet q1]
  simp only [eachThread_fix (fun u hu => wakePlain_quiet (q1.waits u hu)), eachThread_fix (fun u hu => wakeSub_quiet (q1.waits u hu))]
  have m2 : Same σ1 (modCore σ1 L leaseNext) := same_setCore o1 L (leaseNext_quiet q1)
  have o2 : rising (modCore σ1 L leaseNext).cores = true := rising_setCore o1 _ _
  generalize modCore σ1 L leaseNext = σ2 at m2 o2 ⊢
  have c2 : getCore σ2 L = getCore σ1 L := m2.cores L
  have q2 : Quiet (getCore σ2 L) := c2 ▸ q1
  simp only [eachThread_fix (fun u hu => wakeUnit_quiet (q2.waits u hu)),
    eachThread_fix (fun u hu => askedLater_quiet (q2.asks u hu).1 (q2.asks u hu).2)]
  have m3 : Same σ2 (modCore σ2 L fencesSettle) := same_setCore o2 L (fencesSettle_quiet q2)
  have o3 : rising (modCore σ2 L fencesSettle).cores = true := rising_setCore o2 _ _
  generalize modCore σ2 L fencesSettle = σ3 at m3 o3 ⊢
  have c3 : getCore σ3 L = getCore σ2 L := m3.cores L
  have q3 : Quiet (getCore σ3 L) := c3 ▸ q2
  simp only [outqDrain_quiet q3]
  have cc : getCore σ3 L = getCore σ L := c3.trans (c2.trans c1)
  have m4 : Same σ3 (modCore σ3 L (fun c => eventsInOrder (getCore s L).sup.evq (allWait c (leftWait (getCore s L) c)))) := by
    refine same_setCore o3 L ?_
    show eventsInOrder _ (allWait _ (leftWait _ _)) = _
    rw [cc, hs, allWait_ready ht hr, he, eventsInOrder_same]
  have m : Same σ _ := m1.trans (m2.trans (m3.trans m4))
  rw [pressAll_rest (pr.of m.press)]
  exact m

/-! ### Issue -/

/-- What issue does with an instruction that runs and does not wait at issue. -/
theorem issue_runs {x : Issue} {a : Att} {s : State} (r : Runs x a s) {body : State → Nat → Nat → IRes}
    (hh : ∀ σ, body s x.core.toNat x.thread.toNat ≠ .hold σ) :
    issue x a s body = .next (tidy s
      (apply (counted s x a) x.core.toNat x.thread.toNat (body (counted s x a) x.core.toNat x.thread.toNat)) x.core.toNat) := by
  have h1 := r.issues
  have h2 := r.ctrl
  have h3 := r.ctx
  have h4 := r.inj
  have h5 := r.bp
  have h6 := r.skip
  have h7 := r.legal
  have h8 := r.seq
  have h9 := r.cond
  have hr : runBody s (counted s x a) x.core.toNat x.thread.toNat body =
      apply (counted s x a) x.core.toNat x.thread.toNat (body (counted s x a) x.core.toNat x.thread.toNat) := by
    unfold runBody
    split
    · next σ e => exact absurd e (hh σ)
    · rfl
  simp only [thrOf] at h3 h4 h5 h6 h8 h9
  have hu : upsetAll s x.core.toNat x.upsets = s := by rw [r.calm]; rfl
  have hf : stopFirst s x.core.toNat x.thread.toNat = none := by
    simp only [stopFirst, h2, thrOf, h3, Bool.false_eq_true, if_false]
  rw [← hr]
  simp only [issue, hu, h1, hf, h4, h5, h6, h7, h8, h9, counted, Bool.not_true, Bool.false_eq_true, if_false, reduceCtorEq]

theorem thrOf_modT {σ : State} {L t : Nat} (o : rising σ.cores = true) (ot : rising (getCore σ L).thr = true) (f : Thread → Thread) :
    thrOf (modT σ L t f) L t = f (thrOf σ L t) := by
  simp only [thrOf, modT, modCore, getCore_setCore o, modThr, getThr_setThr ot]

/-- An instruction that completes in a thread that nothing stops advances the thread. -/
theorem finish_plain {σ : State} {L t : Nat} (o : rising σ.cores = true) (ot : rising (getCore σ L).thr = true)
    (p : Plain (thrOf σ L t)) (nx : Nx) : finish σ L t nx = modT σ L t (fun h => after h nx) := by
  have e : thrOf (modT σ L t (fun h => after h nx)) L t = after (thrOf σ L t) nx := thrOf_modT o ot _
  have d : (after (thrOf σ L t) nx).dbg = (thrOf σ L t).dbg := by
    unfold after advance
    split <;> (try split) <;> rfl
  have st : (after (thrOf σ L t) nx).stopPend = (thrOf σ L t).stopPend := by
    unfold after advance
    split <;> (try split) <;> rfl
  show boundary (modT σ L t (fun h => after h nx)) L t = _
  unfold boundary
  simp only [takeAsked, e, d, st, p.pend, p.stepping, p.stop]
  split <;> rfl

/-- Counting an event changes only the performance counters. -/
theorem pmcEvent_perf (c : Core) (ev : Nat) (t : Option Nat) (n : Nat) : ∃ p, pmcEvent c ev t n = { c with perf := p } := by
  unfold pmcEvent
  split
  · exact ⟨c.perf, rfl⟩
  · exact ⟨_, rfl⟩

/-- Counting an issue changes only the performance counters. -/
theorem countIssue_perf (c : Core) (t : Nat) (a : Att) : ∃ p, countIssue c t a = { c with perf := p } := by
  have e : ∃ p, (if frozen c then c else { c with perf := { c.perf with issued := satAdd (2 ^ 48 - 1) c.perf.issued 1 } }) =
      { c with perf := p } := by
    split
    · exact ⟨c.perf, rfl⟩
    · exact ⟨_, rfl⟩
  obtain ⟨p, hp⟩ := e
  unfold countIssue
  simp only [hp]
  obtain ⟨p1, h1⟩ := pmcEvent_perf { c with perf := p } 0x02 (some t) 1
  rw [h1]
  obtain ⟨p2, h2⟩ := pmcEvent_perf { c with perf := p1 } (0x03 + a.port) (some t) 1
  exact ⟨p2, h2⟩

theorem after_st (h : Thread) (nx : Nx) : (after h nx).st = h.st := by
  unfold after advance
  split <;> (try split) <;> rfl

theorem after_fences (h : Thread) (nx : Nx) : (after h nx).fences = h.fences := by
  unfold after advance
  split <;> (try split) <;> rfl

/-- Going on to the next instruction changes nothing that keeps a thread plain. -/
theorem Plain.after {h : Thread} (p : Plain h) (nx : Nx) : Plain (after h nx) := by
  unfold Machine.after advance
  split <;> (try split) <;> exact ⟨p.pend, p.stepping, p.stop, p.entry⟩

/-- A quiet core stays quiet when a thread changes in nothing that quiet speaks of. -/
theorem Quiet.setThr {c : Core} (q : Quiet c) (o : rising c.thr = true) {t : Nat} {h : Thread} (h1 : h.st ≠ .wait) (h2 : h.fences = [])
    (p : Plain h) : Quiet (setThr c t h) where
  cmo := q.cmo
  entries := fun u hu => by
    by_cases e : u = t
    · subst e; rw [getThr_setThr o]; exact p.entry
    · rw [getThr_setThr_other c h e]; exact q.entries u hu
  asks := fun u hu => by
    by_cases e : u = t
    · subst e; rw [getThr_setThr o]; exact ⟨p.pend, p.stop⟩
    · rw [getThr_setThr_other c h e]; exact q.asks u hu
  slots := q.slots
  chans := q.chans
  queue := q.queue
  waiters := q.waiters
  dying := q.dying
  rings := q.rings
  vc2 := q.vc2
  outq := q.outq
  waits := fun u hu => by
    by_cases e : u = t
    · subst e; rw [getThr_setThr o]; exact h1
    · rw [getThr_setThr_other c h e]; exact q.waits u hu
  fences := fun u hu => by
    by_cases e : u = t
    · subst e; rw [getThr_setThr o]; exact h2
    · rw [getThr_setThr_other c h e]; exact q.fences u hu

theorem Quiet.perf {c : Core} (q : Quiet c) (p : Perf) : Quiet { c with perf := p } :=
  ⟨q.slots, q.chans, q.queue, q.waiters, q.dying, q.rings, q.vc2, q.outq, q.waits, q.fences, q.cmo, q.entries, q.asks⟩

theorem Runs.ready {x : Issue} {a : Att} {s : State} (r : Runs x a s) : (thrOf s x.core.toNat x.thread.toNat).st = .ready := by
  have h := r.issues
  simp only [canIssue, Bool.and_eq_true, beq_iff_eq] at h
  exact h.1.1.1.1.1.2

/-- An instruction that completes in the state σ1 of its body, in a quiet core: the thread has advanced, and nothing else follows. -/
theorem issue_done {x : Issue} {a : Att} {s σ1 : State} {body : State → Nat → Nat → IRes} {nx : Nx} (r : Runs x a s)
    (hh : ∀ σ, body s x.core.toNat x.thread.toNat ≠ .hold σ)
    (hb : body (counted s x a) x.core.toNat x.thread.toNat = .done σ1 nx) (o : rising σ1.cores = true) (pr : PressRest σ1)
    (he : (getCore s x.core.toNat).sup.evq = (getCore σ1 x.core.toNat).sup.evq)
    (ot : rising (getCore σ1 x.core.toNat).thr = true) (p : Plain (thrOf σ1 x.core.toNat x.thread.toNat))
    (hr : (thrOf σ1 x.core.toNat x.thread.toNat).st = .ready) (q : Quiet (getCore σ1 x.core.toNat))
    (qs : leftWait (getCore s x.core.toNat)
      (setThr (getCore σ1 x.core.toNat) x.thread.toNat (after (thrOf σ1 x.core.toNat x.thread.toNat) nx)) = false) :
    ∃ t, issue x a s body = .next t ∧ Same (modT σ1 x.core.toNat x.thread.toNat (fun h => after h nx)) t := by
  rw [issue_runs r hh, hb]
  simp only [apply]
  rw [finish_plain o ot p]
  refine ⟨_, rfl, ?_⟩
  have ht : x.thread.toNat < 16 := x.thread.isLt
  have e : getCore (modT σ1 x.core.toNat x.thread.toNat (fun h => after h nx)) x.core.toNat =
      setThr (getCore σ1 x.core.toNat) x.thread.toNat (after (thrOf σ1 x.core.toNat x.thread.toNat) nx) :=
    getCore_setCore o _ _
  refine tidy_quiet (rising_setCore o _ _) (t := x.thread.toNat) ?_ (pr.of rfl) ht ?_ ?_ ?_
  · rw [e]
    refine q.setThr ot ?_ ?_ (p.after nx)
    · rw [after_st, hr]; simp
    · rw [after_fences]; exact q.fences _ ht
  · rw [thrOf_modT o ot, after_st, hr]
  · rw [e]; exact qs
  · rw [e]; exact he

/-- An instruction whose body changes only its own thread, in a quiet core: only the thread changes, by f and the advance. -/
theorem issue_thread {x : Issue} {a : Att} {s : State} {body : State → Nat → Nat → IRes} {nx : Nx} (r : Runs x a s) (f : Thread → Thread)
    (hh : ∀ σ, body s x.core.toNat x.thread.toNat ≠ .hold σ)
    (hb : body (counted s x a) x.core.toNat x.thread.toNat = .done (modT (counted s x a) x.core.toNat x.thread.toNat f) nx)
    (o : rising s.cores = true) (pr : PressRest s) (ot : rising (getCore s x.core.toNat).thr = true)
    (q : Quiet (getCore s x.core.toNat)) (p : Plain (f (thrOf s x.core.toNat x.thread.toNat)))
    (fs : (f (thrOf s x.core.toNat x.thread.toNat)).st = .ready) (ff : (f (thrOf s x.core.toNat x.thread.toNat)).fences = []) :
    ∃ t, issue x a s body = .next t ∧
      OnlyThread s t x.core.toNat x.thread.toNat (after (f (thrOf s x.core.toNat x.thread.toNat)) nx) := by
  obtain ⟨pf, hpf⟩ := countIssue_perf (getCore s x.core.toNat) x.thread.toNat a
  have ht : x.thread.toNat < 16 := x.thread.isLt
  have oc : rising (counted s x a).cores = true := rising_setCore o _ _
  have e0 : getCore (counted s x a) x.core.toNat = { getCore s x.core.toNat with perf := pf } := by
    rw [← hpf]; exact getCore_setCore o _ _
  have t0 : thrOf (counted s x a) x.core.toNat x.thread.toNat = thrOf s x.core.toNat x.thread.toNat := by
    simp only [thrOf, e0]; rfl
  have otc : rising (getCore (counted s x a) x.core.toNat).thr = true := by rw [e0]; exact ot
  have e1 : getCore (modT (counted s x a) x.core.toNat x.thread.toNat f) x.core.toNat =
      setThr { getCore s x.core.toNat with perf := pf } x.thread.toNat (f (thrOf s x.core.toNat x.thread.toNat)) := by
    rw [← t0, ← e0]; exact getCore_setCore oc _ _
  have t1 : thrOf (modT (counted s x a) x.core.toNat x.thread.toNat f) x.core.toNat x.thread.toNat =
      f (thrOf s x.core.toNat x.thread.toNat) := by rw [thrOf_modT oc otc, t0]
  have o1 : rising (modT (counted s x a) x.core.toNat x.thread.toNat f).cores = true := rising_setCore oc _ _
  have ot1 : rising (getCore (modT (counted s x a) x.core.toNat x.thread.toNat f) x.core.toNat).thr = true := by
    rw [e1]; exact rising_setThr ot _ _
  have q1 : Quiet (getCore (modT (counted s x a) x.core.toNat x.thread.toNat f) x.core.toNat) := by
    rw [e1]; exact (q.perf pf).setThr ot (by rw [fs]; simp) ff p
  obtain ⟨t, h1, h2⟩ := issue_done r hh hb o1 (pr.of rfl) (by rw [e1]; rfl) ot1 (t1.symm ▸ p) (t1.symm ▸ fs) q1 (by
    refine leftWait_quiet q.waits (fun u hu hw => ?_)
    rw [e1, t1]
    by_cases e : u = x.thread.toNat
    · subst e
      exact absurd r.ready (by rw [thrOf, hw]; simp)
    · rw [getThr_setThr_other _ _ e, getThr_setThr_other _ _ e]; exact hw)
  refine ⟨t, h1, ?_⟩
  have c2 : getCore t x.core.toNat = setThr (setThr { getCore s x.core.toNat with perf := pf } x.thread.toNat
      (f (thrOf s x.core.toNat x.thread.toNat))) x.thread.toNat (after (f (thrOf s x.core.toNat x.thread.toNat)) nx) := by
    rw [h2.cores]
    simp only [modT, modCore] at e1 o1 t1 ⊢
    rw [getCore_setCore o1, e1]
    simp only [modThr]
    rw [getThr_setThr (c := { getCore s x.core.toNat with perf := pf }) ot]
  refine ⟨?_, fun k hk => ?_, ?_, fun K hK => ?_, ?_⟩
  · simp only [thrOf, c2]
    exact getThr_setThr (rising_setThr (c := { getCore s x.core.toNat with perf := pf }) ot _ _) _ _
  · simp only [thrOf, c2]
    rw [getThr_setThr_other _ _ hk, getThr_setThr_other _ _ hk]; rfl
  · rw [c2]; rfl
  · rw [h2.cores]
    simp only [modT, modCore, counted]
    rw [getCore_setCore_other _ _ hK, getCore_setCore_other _ _ hK, getCore_setCore_other _ _ hK]
  · have := h2.rest
    rw [show ({ t with cores := s.cores } : State) =
      { ({ t with cores := (modT (modT (counted s x a) x.core.toNat x.thread.toNat f) x.core.toNat x.thread.toNat (fun h => after h nx)).cores } : State)
        with cores := s.cores } from rfl, this]
    rfl

/-! ### Statements about an instruction -/

/-- Cores are listed in order. -/
theorem rising_of_ordered {s : State} (h : s.ordered = true) : rising s.cores = true := by
  simp only [State.ordered, Bool.and_eq_true] at h; exact h.1

/-- A read gives the default or a listed value. -/
theorem mget_mem {α : Type} {d : α} {m : SMap α} {k : Nat} : mget d m k = d ∨ ∃ e ∈ m, e.2 = mget d m k := by
  induction m with
  | nil => exact Or.inl rfl
  | cons e r ih =>
    obtain ⟨j, v⟩ := e
    simp only [mget]
    split
    · exact Or.inr ⟨(j, v), List.mem_cons_self .., rfl⟩
    · rcases ih with h | ⟨e, he, h⟩
      · exact Or.inl h
      · exact Or.inr ⟨e, List.mem_cons_of_mem _ he, h⟩

/-- Every core lists its threads in order. -/
theorem core_ordered {s : State} (h : s.ordered = true) (L : Nat) : (getCore s L).ordered = true := by
  simp only [State.ordered, Bool.and_eq_true, List.all_eq_true] at h
  rcases mget_mem (d := Core.reset) (m := s.cores) (k := L) with e | ⟨e, he, hh⟩
  · show (mget _ _ _ : Core).ordered = true
    rw [e]; rfl
  · show (mget _ _ _ : Core).ordered = true
    rw [← hh]; exact h.2 e he

/-- An instruction whose body changes its own thread by f, and nothing that decides its issue. -/
theorem thread_to {i : Instr} {x : Issue} {a : Att} {s : State} {body : State → Nat → Nat → IRes} {nx : Nx} (b : Before x a s)
    (f : Thread → Thread) (he : exec i s = issue x a s body) (hh : ∀ σ, body s x.core.toNat x.thread.toNat ≠ .hold σ)
    (hb : body (counted s x a) x.core.toNat x.thread.toNat = .done (modT (counted s x a) x.core.toNat x.thread.toNat f) nx)
    (hf : ∀ h : Thread, (f h).st = h.st ∧ (f h).fences = h.fences ∧ (f h).dbg = h.dbg ∧ (f h).stopPend = h.stopPend ∧
      (f h).entry = h.entry) :
    ThreadTo i x s (after (f (thr s x)) nx) := by
  unfold ThreadTo
  rw [he]
  have o := rising_of_ordered b.order
  have oc := core_ordered b.order x.core.toNat
  simp only [Core.ordered, Bool.and_eq_true] at oc
  obtain ⟨h1, h2, h3, h4, h5⟩ := hf (thr s x)
  refine issue_thread b.runs f hh hb o b.press oc.1.1.1.1 b.quiet ⟨?_, ?_, ?_, ?_⟩ ?_ ?_
  · rw [h3]; exact b.plain.pend
  · rw [h3]; exact b.plain.stepping
  · rw [h4]; exact b.plain.stop
  · rw [h5]; exact b.plain.entry
  · rw [h1]; exact b.runs.ready
  · rw [h2]; exact b.quiet.fences _ x.thread.isLt

/-- A register write changes nothing but registers. -/
theorem setG_keeps (h : Thread) (r : Nat) (v : Word) : (setG h r v).st = h.st ∧ (setG h r v).fences = h.fences ∧ (setG h r v).dbg = h.dbg ∧
    (setG h r v).stopPend = h.stopPend ∧ (setG h r v).entry = h.entry ∧ (setG h r v).flags = h.flags := by
  unfold setG; split <;> simp

/-- Counting the issue leaves the registers. -/
theorem rg_counted {x : Issue} {a : Att} {s : State} (o : s.ordered = true) (r : BitVec 5) :
    rg (counted s x a) x.core.toNat x.thread.toNat r = reg s x r := by
  obtain ⟨p, hp⟩ := countIssue_perf (getCore s x.core.toNat) x.thread.toNat a
  have e0 : getCore (counted s x a) x.core.toNat = { getCore s x.core.toNat with perf := p } := by
    rw [← hp]; exact getCore_setCore (rising_of_ordered o) _ _
  simp only [rg, reg, thr, thrOf, e0]; rfl

/-- A register-form ALU instruction. -/
theorem aluR_to {i : Instr} {x : Issue} {rd rs1 rs2 : BitVec 5} {sb : Bool} {g : Word → Word → Alu} {s : State} (b : Before x attAlu s)
    (he : exec i s = aluR x rd rs1 rs2 sb g s) :
    ThreadTo i x s (aluTo (thr s x) rd sb (g (reg s x rs1) (reg s x rs2)).val (g (reg s x rs1) (reg s x rs2)).c (g (reg s x rs1) (reg s x rs2)).v) := by
  have o := b.order
  have := thread_to (nx := .seq) (body := fun σ L t => .done (writeAlu σ L t rd sb (g (rg σ L t rs1) (rg σ L t rs2))) .seq) b
    (fun h => { setG h rd.toNat (g (reg s x rs1) (reg s x rs2)).val with flags := if sb then setNZCV h.flags (g (reg s x rs1) (reg s x rs2)) else h.flags }) he
    (fun σ => by simp) ?_ ?_
  · exact this
  · simp only [rg_counted o, writeAlu]
  · intro h
    have := setG_keeps h rd.toNat (g (reg s x rs1) (reg s x rs2)).val
    simp_all

end Sys2Proof.Machine
end

