-- ==== Sys2Proof/Laws/State.lean ====
section
/-! SUPPORT. What each update of the state leaves as it is: one lemma for each field of the state, of a core and of a thread, and each named
update of Machine/Mem.lean, so that no later proof unfolds a record update. -/

namespace Sys2Proof.Machine

/-! ### `setCore` -/

@[simp] theorem setCore_tick (s : State) (L : Nat) (c : Core) : (setCore s L c).tick = s.tick := rfl
@[simp] theorem setCore_cores (s : State) (L : Nat) (c : Core) : (setCore s L c).cores = mput Core.reset L c s.cores := rfl
@[simp] theorem setCore_net (s : State) (L : Nat) (c : Core) : (setCore s L c).net = s.net := rfl
@[simp] theorem setCore_nextId (s : State) (L : Nat) (c : Core) : (setCore s L c).nextId = s.nextId := rfl
@[simp] theorem setCore_hbm (s : State) (L : Nat) (c : Core) : (setCore s L c).hbm = s.hbm := rfl
@[simp] theorem setCore_hbmUE (s : State) (L : Nat) (c : Core) : (setCore s L c).hbmUE = s.hbmUE := rfl
@[simp] theorem setCore_comp (s : State) (L : Nat) (c : Core) : (setCore s L c).comp = s.comp := rfl
@[simp] theorem setCore_press (s : State) (L : Nat) (c : Core) : (setCore s L c).press = s.press := rfl
@[simp] theorem setCore_stations (s : State) (L : Nat) (c : Core) : (setCore s L c).stations = s.stations := rfl
@[simp] theorem setCore_disp (s : State) (L : Nat) (c : Core) : (setCore s L c).disp = s.disp := rfl
@[simp] theorem setCore_quince (s : State) (L : Nat) (c : Core) : (setCore s L c).quince = s.quince := rfl
@[simp] theorem setCore_fab (s : State) (L : Nat) (c : Core) : (setCore s L c).fab = s.fab := rfl
@[simp] theorem setCore_dict (s : State) (L : Nat) (c : Core) : (setCore s L c).dict = s.dict := rfl
@[simp] theorem setCore_power (s : State) (L : Nat) (c : Core) : (setCore s L c).power = s.power := rfl
@[simp] theorem setCore_boot (s : State) (L : Nat) (c : Core) : (setCore s L c).boot = s.boot := rfl
@[simp] theorem setCore_sec (s : State) (L : Nat) (c : Core) : (setCore s L c).sec = s.sec := rfl
@[simp] theorem setCore_pins (s : State) (L : Nat) (c : Core) : (setCore s L c).pins = s.pins := rfl
@[simp] theorem setCore_freeCtr (s : State) (L : Nat) (c : Core) : (setCore s L c).freeCtr = s.freeCtr := rfl
@[simp] theorem setCore_pending (s : State) (L : Nat) (c : Core) : (setCore s L c).pending = s.pending := rfl

/-! ### `modCore` -/

@[simp] theorem modCore_tick (s : State) (L : Nat) (f : Core → Core) : (modCore s L f).tick = s.tick := rfl
@[simp] theorem modCore_cores (s : State) (L : Nat) (f : Core → Core) : (modCore s L f).cores = mput Core.reset L (f (getCore s L)) s.cores := rfl
@[simp] theorem modCore_net (s : State) (L : Nat) (f : Core → Core) : (modCore s L f).net = s.net := rfl
@[simp] theorem modCore_nextId (s : State) (L : Nat) (f : Core → Core) : (modCore s L f).nextId = s.nextId := rfl
@[simp] theorem modCore_hbm (s : State) (L : Nat) (f : Core → Core) : (modCore s L f).hbm = s.hbm := rfl
@[simp] theorem modCore_hbmUE (s : State) (L : Nat) (f : Core → Core) : (modCore s L f).hbmUE = s.hbmUE := rfl
@[simp] theorem modCore_comp (s : State) (L : Nat) (f : Core → Core) : (modCore s L f).comp = s.comp := rfl
@[simp] theorem modCore_press (s : State) (L : Nat) (f : Core → Core) : (modCore s L f).press = s.press := rfl
@[simp] theorem modCore_stations (s : State) (L : Nat) (f : Core → Core) : (modCore s L f).stations = s.stations := rfl
@[simp] theorem modCore_disp (s : State) (L : Nat) (f : Core → Core) : (modCore s L f).disp = s.disp := rfl
@[simp] theorem modCore_quince (s : State) (L : Nat) (f : Core → Core) : (modCore s L f).quince = s.quince := rfl
@[simp] theorem modCore_fab (s : State) (L : Nat) (f : Core → Core) : (modCore s L f).fab = s.fab := rfl
@[simp] theorem modCore_dict (s : State) (L : Nat) (f : Core → Core) : (modCore s L f).dict = s.dict := rfl
@[simp] theorem modCore_power (s : State) (L : Nat) (f : Core → Core) : (modCore s L f).power = s.power := rfl
@[simp] theorem modCore_boot (s : State) (L : Nat) (f : Core → Core) : (modCore s L f).boot = s.boot := rfl
@[simp] theorem modCore_sec (s : State) (L : Nat) (f : Core → Core) : (modCore s L f).sec = s.sec := rfl
@[simp] theorem modCore_pins (s : State) (L : Nat) (f : Core → Core) : (modCore s L f).pins = s.pins := rfl
@[simp] theorem modCore_freeCtr (s : State) (L : Nat) (f : Core → Core) : (modCore s L f).freeCtr = s.freeCtr := rfl
@[simp] theorem modCore_pending (s : State) (L : Nat) (f : Core → Core) : (modCore s L f).pending = s.pending := rfl

/-! ### `modT` -/

@[simp] theorem modT_tick (s : State) (L t : Nat) (f : Thread → Thread) : (modT s L t f).tick = s.tick := rfl
@[simp] theorem modT_cores (s : State) (L t : Nat) (f : Thread → Thread) : (modT s L t f).cores = mput Core.reset L (modThr (getCore s L) t f) s.cores := rfl
@[simp] theorem modT_net (s : State) (L t : Nat) (f : Thread → Thread) : (modT s L t f).net = s.net := rfl
@[simp] theorem modT_nextId (s : State) (L t : Nat) (f : Thread → Thread) : (modT s L t f).nextId = s.nextId := rfl
@[simp] theorem modT_hbm (s : State) (L t : Nat) (f : Thread → Thread) : (modT s L t f).hbm = s.hbm := rfl
@[simp] theorem modT_hbmUE (s : State) (L t : Nat) (f : Thread → Thread) : (modT s L t f).hbmUE = s.hbmUE := rfl
@[simp] theorem modT_comp (s : State) (L t : Nat) (f : Thread → Thread) : (modT s L t f).comp = s.comp := rfl
@[simp] theorem modT_press (s : State) (L t : Nat) (f : Thread → Thread) : (modT s L t f).press = s.press := rfl
@[simp] theorem modT_stations (s : State) (L t : Nat) (f : Thread → Thread) : (modT s L t f).stations = s.stations := rfl
@[simp] theorem modT_disp (s : State) (L t : Nat) (f : Thread → Thread) : (modT s L t f).disp = s.disp := rfl
@[simp] theorem modT_quince (s : State) (L t : Nat) (f : Thread → Thread) : (modT s L t f).quince = s.quince := rfl
@[simp] theorem modT_fab (s : State) (L t : Nat) (f : Thread → Thread) : (modT s L t f).fab = s.fab := rfl
@[simp] theorem modT_dict (s : State) (L t : Nat) (f : Thread → Thread) : (modT s L t f).dict = s.dict := rfl
@[simp] theorem modT_power (s : State) (L t : Nat) (f : Thread → Thread) : (modT s L t f).power = s.power := rfl
@[simp] theorem modT_boot (s : State) (L t : Nat) (f : Thread → Thread) : (modT s L t f).boot = s.boot := rfl
@[simp] theorem modT_sec (s : State) (L t : Nat) (f : Thread → Thread) : (modT s L t f).sec = s.sec := rfl
@[simp] theorem modT_pins (s : State) (L t : Nat) (f : Thread → Thread) : (modT s L t f).pins = s.pins := rfl
@[simp] theorem modT_freeCtr (s : State) (L t : Nat) (f : Thread → Thread) : (modT s L t f).freeCtr = s.freeCtr := rfl
@[simp] theorem modT_pending (s : State) (L t : Nat) (f : Thread → Thread) : (modT s L t f).pending = s.pending := rfl

/-! ### `wg` -/

@[simp] theorem wg_tick (s : State) (L t : Nat) (r : BitVec 5) (v : Word) : (wg s L t r v).tick = s.tick := rfl
@[simp] theorem wg_cores (s : State) (L t : Nat) (r : BitVec 5) (v : Word) : (wg s L t r v).cores = mput Core.reset L (modThr (getCore s L) t (fun h => setG h r.toNat v)) s.cores := rfl
@[simp] theorem wg_net (s : State) (L t : Nat) (r : BitVec 5) (v : Word) : (wg s L t r v).net = s.net := rfl
@[simp] theorem wg_nextId (s : State) (L t : Nat) (r : BitVec 5) (v : Word) : (wg s L t r v).nextId = s.nextId := rfl
@[simp] theorem wg_hbm (s : State) (L t : Nat) (r : BitVec 5) (v : Word) : (wg s L t r v).hbm = s.hbm := rfl
@[simp] theorem wg_hbmUE (s : State) (L t : Nat) (r : BitVec 5) (v : Word) : (wg s L t r v).hbmUE = s.hbmUE := rfl
@[simp] theorem wg_comp (s : State) (L t : Nat) (r : BitVec 5) (v : Word) : (wg s L t r v).comp = s.comp := rfl
@[simp] theorem wg_press (s : State) (L t : Nat) (r : BitVec 5) (v : Word) : (wg s L t r v).press = s.press := rfl
@[simp] theorem wg_stations (s : State) (L t : Nat) (r : BitVec 5) (v : Word) : (wg s L t r v).stations = s.stations := rfl
@[simp] theorem wg_disp (s : State) (L t : Nat) (r : BitVec 5) (v : Word) : (wg s L t r v).disp = s.disp := rfl
@[simp] theorem wg_quince (s : State) (L t : Nat) (r : BitVec 5) (v : Word) : (wg s L t r v).quince = s.quince := rfl
@[simp] theorem wg_fab (s : State) (L t : Nat) (r : BitVec 5) (v : Word) : (wg s L t r v).fab = s.fab := rfl
@[simp] theorem wg_dict (s : State) (L t : Nat) (r : BitVec 5) (v : Word) : (wg s L t r v).dict = s.dict := rfl
@[simp] theorem wg_power (s : State) (L t : Nat) (r : BitVec 5) (v : Word) : (wg s L t r v).power = s.power := rfl
@[simp] theorem wg_boot (s : State) (L t : Nat) (r : BitVec 5) (v : Word) : (wg s L t r v).boot = s.boot := rfl
@[simp] theorem wg_sec (s : State) (L t : Nat) (r : BitVec 5) (v : Word) : (wg s L t r v).sec = s.sec := rfl
@[simp] theorem wg_pins (s : State) (L t : Nat) (r : BitVec 5) (v : Word) : (wg s L t r v).pins = s.pins := rfl
@[simp] theorem wg_freeCtr (s : State) (L t : Nat) (r : BitVec 5) (v : Word) : (wg s L t r v).freeCtr = s.freeCtr := rfl
@[simp] theorem wg_pending (s : State) (L t : Nat) (r : BitVec 5) (v : Word) : (wg s L t r v).pending = s.pending := rfl

/-! ### `inject` -/

@[simp] theorem inject_tick (s : State) (p : Packet) : (inject s p).tick = s.tick := rfl
@[simp] theorem inject_cores (s : State) (p : Packet) : (inject s p).cores = s.cores := rfl
@[simp] theorem inject_net (s : State) (p : Packet) : (inject s p).net = s.net ++ [p] := rfl
@[simp] theorem inject_nextId (s : State) (p : Packet) : (inject s p).nextId = s.nextId := rfl
@[simp] theorem inject_hbm (s : State) (p : Packet) : (inject s p).hbm = s.hbm := rfl
@[simp] theorem inject_hbmUE (s : State) (p : Packet) : (inject s p).hbmUE = s.hbmUE := rfl
@[simp] theorem inject_comp (s : State) (p : Packet) : (inject s p).comp = s.comp := rfl
@[simp] theorem inject_press (s : State) (p : Packet) : (inject s p).press = s.press := rfl
@[simp] theorem inject_stations (s : State) (p : Packet) : (inject s p).stations = s.stations := rfl
@[simp] theorem inject_disp (s : State) (p : Packet) : (inject s p).disp = s.disp := rfl
@[simp] theorem inject_quince (s : State) (p : Packet) : (inject s p).quince = s.quince := rfl
@[simp] theorem inject_fab (s : State) (p : Packet) : (inject s p).fab = s.fab := rfl
@[simp] theorem inject_dict (s : State) (p : Packet) : (inject s p).dict = s.dict := rfl
@[simp] theorem inject_power (s : State) (p : Packet) : (inject s p).power = s.power := rfl
@[simp] theorem inject_boot (s : State) (p : Packet) : (inject s p).boot = s.boot := rfl
@[simp] theorem inject_sec (s : State) (p : Packet) : (inject s p).sec = s.sec := rfl
@[simp] theorem inject_pins (s : State) (p : Packet) : (inject s p).pins = s.pins := rfl
@[simp] theorem inject_freeCtr (s : State) (p : Packet) : (inject s p).freeCtr = s.freeCtr := rfl
@[simp] theorem inject_pending (s : State) (p : Packet) : (inject s p).pending = s.pending := rfl

/-! ### `send` -/

@[simp] theorem send_tick (s : State) (a b : Ep) (d : Body) : (send s a b d).tick = s.tick := rfl
@[simp] theorem send_cores (s : State) (a b : Ep) (d : Body) : (send s a b d).cores = s.cores := rfl
@[simp] theorem send_net (s : State) (a b : Ep) (d : Body) : (send s a b d).net = s.net ++ [pkt a b d] := rfl
@[simp] theorem send_nextId (s : State) (a b : Ep) (d : Body) : (send s a b d).nextId = s.nextId := rfl
@[simp] theorem send_hbm (s : State) (a b : Ep) (d : Body) : (send s a b d).hbm = s.hbm := rfl
@[simp] theorem send_hbmUE (s : State) (a b : Ep) (d : Body) : (send s a b d).hbmUE = s.hbmUE := rfl
@[simp] theorem send_comp (s : State) (a b : Ep) (d : Body) : (send s a b d).comp = s.comp := rfl
@[simp] theorem send_press (s : State) (a b : Ep) (d : Body) : (send s a b d).press = s.press := rfl
@[simp] theorem send_stations (s : State) (a b : Ep) (d : Body) : (send s a b d).stations = s.stations := rfl
@[simp] theorem send_disp (s : State) (a b : Ep) (d : Body) : (send s a b d).disp = s.disp := rfl
@[simp] theorem send_quince (s : State) (a b : Ep) (d : Body) : (send s a b d).quince = s.quince := rfl
@[simp] theorem send_fab (s : State) (a b : Ep) (d : Body) : (send s a b d).fab = s.fab := rfl
@[simp] theorem send_dict (s : State) (a b : Ep) (d : Body) : (send s a b d).dict = s.dict := rfl
@[simp] theorem send_power (s : State) (a b : Ep) (d : Body) : (send s a b d).power = s.power := rfl
@[simp] theorem send_boot (s : State) (a b : Ep) (d : Body) : (send s a b d).boot = s.boot := rfl
@[simp] theorem send_sec (s : State) (a b : Ep) (d : Body) : (send s a b d).sec = s.sec := rfl
@[simp] theorem send_pins (s : State) (a b : Ep) (d : Body) : (send s a b d).pins = s.pins := rfl
@[simp] theorem send_freeCtr (s : State) (a b : Ep) (d : Body) : (send s a b d).freeCtr = s.freeCtr := rfl
@[simp] theorem send_pending (s : State) (a b : Ep) (d : Body) : (send s a b d).pending = s.pending := rfl

/-! ### `takePkt` -/

@[simp] theorem takePkt_tick (s : State) (i : Nat) : (takePkt s i).tick = s.tick := rfl
@[simp] theorem takePkt_cores (s : State) (i : Nat) : (takePkt s i).cores = s.cores := rfl
@[simp] theorem takePkt_net (s : State) (i : Nat) : (takePkt s i).net = dropAt i s.net := rfl
@[simp] theorem takePkt_nextId (s : State) (i : Nat) : (takePkt s i).nextId = s.nextId := rfl
@[simp] theorem takePkt_hbm (s : State) (i : Nat) : (takePkt s i).hbm = s.hbm := rfl
@[simp] theorem takePkt_hbmUE (s : State) (i : Nat) : (takePkt s i).hbmUE = s.hbmUE := rfl
@[simp] theorem takePkt_comp (s : State) (i : Nat) : (takePkt s i).comp = s.comp := rfl
@[simp] theorem takePkt_press (s : State) (i : Nat) : (takePkt s i).press = s.press := rfl
@[simp] theorem takePkt_stations (s : State) (i : Nat) : (takePkt s i).stations = s.stations := rfl
@[simp] theorem takePkt_disp (s : State) (i : Nat) : (takePkt s i).disp = s.disp := rfl
@[simp] theorem takePkt_quince (s : State) (i : Nat) : (takePkt s i).quince = s.quince := rfl
@[simp] theorem takePkt_fab (s : State) (i : Nat) : (takePkt s i).fab = s.fab := rfl
@[simp] theorem takePkt_dict (s : State) (i : Nat) : (takePkt s i).dict = s.dict := rfl
@[simp] theorem takePkt_power (s : State) (i : Nat) : (takePkt s i).power = s.power := rfl
@[simp] theorem takePkt_boot (s : State) (i : Nat) : (takePkt s i).boot = s.boot := rfl
@[simp] theorem takePkt_sec (s : State) (i : Nat) : (takePkt s i).sec = s.sec := rfl
@[simp] theorem takePkt_pins (s : State) (i : Nat) : (takePkt s i).pins = s.pins := rfl
@[simp] theorem takePkt_freeCtr (s : State) (i : Nat) : (takePkt s i).freeCtr = s.freeCtr := rfl
@[simp] theorem takePkt_pending (s : State) (i : Nat) : (takePkt s i).pending = s.pending := rfl

/-! ### `addOut` -/

@[simp] theorem addOut_tick (s : State) (L i : Nat) (k : OutKind) (h : Home) : (addOut s L i k h).tick = s.tick := rfl
@[simp] theorem addOut_cores (s : State) (L i : Nat) (k : OutKind) (h : Home) : (addOut s L i k h).cores = mput Core.reset L { getCore s L with outs := (getCore s L).outs ++ [{ id := i, kind := k, win := inWindow L h }] } s.cores := rfl
@[simp] theorem addOut_net (s : State) (L i : Nat) (k : OutKind) (h : Home) : (addOut s L i k h).net = s.net := rfl
@[simp] theorem addOut_nextId (s : State) (L i : Nat) (k : OutKind) (h : Home) : (addOut s L i k h).nextId = s.nextId := rfl
@[simp] theorem addOut_hbm (s : State) (L i : Nat) (k : OutKind) (h : Home) : (addOut s L i k h).hbm = s.hbm := rfl
@[simp] theorem addOut_hbmUE (s : State) (L i : Nat) (k : OutKind) (h : Home) : (addOut s L i k h).hbmUE = s.hbmUE := rfl
@[simp] theorem addOut_comp (s : State) (L i : Nat) (k : OutKind) (h : Home) : (addOut s L i k h).comp = s.comp := rfl
@[simp] theorem addOut_press (s : State) (L i : Nat) (k : OutKind) (h : Home) : (addOut s L i k h).press = s.press := rfl
@[simp] theorem addOut_stations (s : State) (L i : Nat) (k : OutKind) (h : Home) : (addOut s L i k h).stations = s.stations := rfl
@[simp] theorem addOut_disp (s : State) (L i : Nat) (k : OutKind) (h : Home) : (addOut s L i k h).disp = s.disp := rfl
@[simp] theorem addOut_quince (s : State) (L i : Nat) (k : OutKind) (h : Home) : (addOut s L i k h).quince = s.quince := rfl
@[simp] theorem addOut_fab (s : State) (L i : Nat) (k : OutKind) (h : Home) : (addOut s L i k h).fab = s.fab := rfl
@[simp] theorem addOut_dict (s : State) (L i : Nat) (k : OutKind) (h : Home) : (addOut s L i k h).dict = s.dict := rfl
@[simp] theorem addOut_power (s : State) (L i : Nat) (k : OutKind) (h : Home) : (addOut s L i k h).power = s.power := rfl
@[simp] theorem addOut_boot (s : State) (L i : Nat) (k : OutKind) (h : Home) : (addOut s L i k h).boot = s.boot := rfl
@[simp] theorem addOut_sec (s : State) (L i : Nat) (k : OutKind) (h : Home) : (addOut s L i k h).sec = s.sec := rfl
@[simp] theorem addOut_pins (s : State) (L i : Nat) (k : OutKind) (h : Home) : (addOut s L i k h).pins = s.pins := rfl
@[simp] theorem addOut_freeCtr (s : State) (L i : Nat) (k : OutKind) (h : Home) : (addOut s L i k h).freeCtr = s.freeCtr := rfl
@[simp] theorem addOut_pending (s : State) (L i : Nat) (k : OutKind) (h : Home) : (addOut s L i k h).pending = s.pending := rfl

/-! ### `dropOut` -/

@[simp] theorem dropOut_tick (s : State) (L i : Nat) : (dropOut s L i).tick = s.tick := rfl
@[simp] theorem dropOut_cores (s : State) (L i : Nat) : (dropOut s L i).cores = mput Core.reset L { getCore s L with outs := (getCore s L).outs.filter (fun o => o.id != i) } s.cores := rfl
@[simp] theorem dropOut_net (s : State) (L i : Nat) : (dropOut s L i).net = s.net := rfl
@[simp] theorem dropOut_nextId (s : State) (L i : Nat) : (dropOut s L i).nextId = s.nextId := rfl
@[simp] theorem dropOut_hbm (s : State) (L i : Nat) : (dropOut s L i).hbm = s.hbm := rfl
@[simp] theorem dropOut_hbmUE (s : State) (L i : Nat) : (dropOut s L i).hbmUE = s.hbmUE := rfl
@[simp] theorem dropOut_comp (s : State) (L i : Nat) : (dropOut s L i).comp = s.comp := rfl
@[simp] theorem dropOut_press (s : State) (L i : Nat) : (dropOut s L i).press = s.press := rfl
@[simp] theorem dropOut_stations (s : State) (L i : Nat) : (dropOut s L i).stations = s.stations := rfl
@[simp] theorem dropOut_disp (s : State) (L i : Nat) : (dropOut s L i).disp = s.disp := rfl
@[simp] theorem dropOut_quince (s : State) (L i : Nat) : (dropOut s L i).quince = s.quince := rfl
@[simp] theorem dropOut_fab (s : State) (L i : Nat) : (dropOut s L i).fab = s.fab := rfl
@[simp] theorem dropOut_dict (s : State) (L i : Nat) : (dropOut s L i).dict = s.dict := rfl
@[simp] theorem dropOut_power (s : State) (L i : Nat) : (dropOut s L i).power = s.power := rfl
@[simp] theorem dropOut_boot (s : State) (L i : Nat) : (dropOut s L i).boot = s.boot := rfl
@[simp] theorem dropOut_sec (s : State) (L i : Nat) : (dropOut s L i).sec = s.sec := rfl
@[simp] theorem dropOut_pins (s : State) (L i : Nat) : (dropOut s L i).pins = s.pins := rfl
@[simp] theorem dropOut_freeCtr (s : State) (L i : Nat) : (dropOut s L i).freeCtr = s.freeCtr := rfl
@[simp] theorem dropOut_pending (s : State) (L i : Nat) : (dropOut s L i).pending = s.pending := rfl

/-! ### `hbmWrite` -/

@[simp] theorem hbmWrite_tick (s : State) (a : Nat) (d : List Byte) (b : List Nat) : (hbmWrite s a d b).tick = s.tick := rfl
@[simp] theorem hbmWrite_cores (s : State) (a : Nat) (d : List Byte) (b : List Nat) : (hbmWrite s a d b).cores = s.cores := rfl
@[simp] theorem hbmWrite_net (s : State) (a : Nat) (d : List Byte) (b : List Nat) : (hbmWrite s a d b).net = s.net := rfl
@[simp] theorem hbmWrite_nextId (s : State) (a : Nat) (d : List Byte) (b : List Nat) : (hbmWrite s a d b).nextId = s.nextId := rfl
@[simp] theorem hbmWrite_hbm (s : State) (a : Nat) (d : List Byte) (b : List Nat) : (hbmWrite s a d b).hbm = writeBytes s.hbm a d := rfl
@[simp] theorem hbmWrite_hbmUE (s : State) (a : Nat) (d : List Byte) (b : List Nat) : (hbmWrite s a d b).hbmUE = addBad (clearBad s.hbmUE a d.length) (b.map (fun k => k + a / 8)) := rfl
@[simp] theorem hbmWrite_comp (s : State) (a : Nat) (d : List Byte) (b : List Nat) : (hbmWrite s a d b).comp = s.comp := rfl
@[simp] theorem hbmWrite_press (s : State) (a : Nat) (d : List Byte) (b : List Nat) : (hbmWrite s a d b).press = s.press := rfl
@[simp] theorem hbmWrite_stations (s : State) (a : Nat) (d : List Byte) (b : List Nat) : (hbmWrite s a d b).stations = s.stations := rfl
@[simp] theorem hbmWrite_disp (s : State) (a : Nat) (d : List Byte) (b : List Nat) : (hbmWrite s a d b).disp = s.disp := rfl
@[simp] theorem hbmWrite_quince (s : State) (a : Nat) (d : List Byte) (b : List Nat) : (hbmWrite s a d b).quince = s.quince := rfl
@[simp] theorem hbmWrite_fab (s : State) (a : Nat) (d : List Byte) (b : List Nat) : (hbmWrite s a d b).fab = s.fab := rfl
@[simp] theorem hbmWrite_dict (s : State) (a : Nat) (d : List Byte) (b : List Nat) : (hbmWrite s a d b).dict = s.dict := rfl
@[simp] theorem hbmWrite_power (s : State) (a : Nat) (d : List Byte) (b : List Nat) : (hbmWrite s a d b).power = s.power := rfl
@[simp] theorem hbmWrite_boot (s : State) (a : Nat) (d : List Byte) (b : List Nat) : (hbmWrite s a d b).boot = s.boot := rfl
@[simp] theorem hbmWrite_sec (s : State) (a : Nat) (d : List Byte) (b : List Nat) : (hbmWrite s a d b).sec = s.sec := rfl
@[simp] theorem hbmWrite_pins (s : State) (a : Nat) (d : List Byte) (b : List Nat) : (hbmWrite s a d b).pins = s.pins := rfl
@[simp] theorem hbmWrite_freeCtr (s : State) (a : Nat) (d : List Byte) (b : List Nat) : (hbmWrite s a d b).freeCtr = s.freeCtr := rfl
@[simp] theorem hbmWrite_pending (s : State) (a : Nat) (d : List Byte) (b : List Nat) : (hbmWrite s a d b).pending = s.pending := rfl

/-! ### `compWrite` -/

@[simp] theorem compWrite_tick (s : State) (a : Nat) (d : List Byte) : (compWrite s a d).tick = s.tick := rfl
@[simp] theorem compWrite_cores (s : State) (a : Nat) (d : List Byte) : (compWrite s a d).cores = s.cores := rfl
@[simp] theorem compWrite_net (s : State) (a : Nat) (d : List Byte) : (compWrite s a d).net = s.net := rfl
@[simp] theorem compWrite_nextId (s : State) (a : Nat) (d : List Byte) : (compWrite s a d).nextId = s.nextId := rfl
@[simp] theorem compWrite_hbm (s : State) (a : Nat) (d : List Byte) : (compWrite s a d).hbm = s.hbm := rfl
@[simp] theorem compWrite_hbmUE (s : State) (a : Nat) (d : List Byte) : (compWrite s a d).hbmUE = s.hbmUE := rfl
@[simp] theorem compWrite_comp (s : State) (a : Nat) (d : List Byte) : (compWrite s a d).comp = writeBytes s.comp a d := rfl
@[simp] theorem compWrite_press (s : State) (a : Nat) (d : List Byte) : (compWrite s a d).press = s.press := rfl
@[simp] theorem compWrite_stations (s : State) (a : Nat) (d : List Byte) : (compWrite s a d).stations = s.stations := rfl
@[simp] theorem compWrite_disp (s : State) (a : Nat) (d : List Byte) : (compWrite s a d).disp = s.disp := rfl
@[simp] theorem compWrite_quince (s : State) (a : Nat) (d : List Byte) : (compWrite s a d).quince = s.quince := rfl
@[simp] theorem compWrite_fab (s : State) (a : Nat) (d : List Byte) : (compWrite s a d).fab = s.fab := rfl
@[simp] theorem compWrite_dict (s : State) (a : Nat) (d : List Byte) : (compWrite s a d).dict = s.dict := rfl
@[simp] theorem compWrite_power (s : State) (a : Nat) (d : List Byte) : (compWrite s a d).power = s.power := rfl
@[simp] theorem compWrite_boot (s : State) (a : Nat) (d : List Byte) : (compWrite s a d).boot = s.boot := rfl
@[simp] theorem compWrite_sec (s : State) (a : Nat) (d : List Byte) : (compWrite s a d).sec = s.sec := rfl
@[simp] theorem compWrite_pins (s : State) (a : Nat) (d : List Byte) : (compWrite s a d).pins = s.pins := rfl
@[simp] theorem compWrite_freeCtr (s : State) (a : Nat) (d : List Byte) : (compWrite s a d).freeCtr = s.freeCtr := rfl
@[simp] theorem compWrite_pending (s : State) (a : Nat) (d : List Byte) : (compWrite s a d).pending = s.pending := rfl

/-! ### `setThr` -/

@[simp] theorem setThr_thr (c : Core) (t : Nat) (h : Thread) : (setThr c t h).thr = mput Thread.reset t h c.thr := rfl
@[simp] theorem setThr_sup (c : Core) (t : Nat) (h : Thread) : (setThr c t h).sup = c.sup := rfl
@[simp] theorem setThr_spad (c : Core) (t : Nat) (h : Thread) : (setThr c t h).spad = c.spad := rfl
@[simp] theorem setThr_cache (c : Core) (t : Nat) (h : Thread) : (setThr c t h).cache = c.cache := rfl
@[simp] theorem setThr_xlt (c : Core) (t : Nat) (h : Thread) : (setThr c t h).xlt = c.xlt := rfl
@[simp] theorem setThr_rings (c : Core) (t : Nat) (h : Thread) : (setThr c t h).rings = c.rings := rfl
@[simp] theorem setThr_vc2 (c : Core) (t : Nat) (h : Thread) : (setThr c t h).vc2 = c.vc2 := rfl
@[simp] theorem setThr_outq (c : Core) (t : Nat) (h : Thread) : (setThr c t h).outq = c.outq := rfl
@[simp] theorem setThr_sc (c : Core) (t : Nat) (h : Thread) : (setThr c t h).sc = c.sc := rfl
@[simp] theorem setThr_slots (c : Core) (t : Nat) (h : Thread) : (setThr c t h).slots = c.slots := rfl
@[simp] theorem setThr_stallMask (c : Core) (t : Nat) (h : Thread) : (setThr c t h).stallMask = c.stallMask := rfl
@[simp] theorem setThr_stallFreeze (c : Core) (t : Nat) (h : Thread) : (setThr c t h).stallFreeze = c.stallFreeze := rfl
@[simp] theorem setThr_stalls (c : Core) (t : Nat) (h : Thread) : (setThr c t h).stalls = c.stalls := rfl
@[simp] theorem setThr_chans (c : Core) (t : Nat) (h : Thread) : (setThr c t h).chans = c.chans := rfl
@[simp] theorem setThr_mtx (c : Core) (t : Nat) (h : Thread) : (setThr c t h).mtx = c.mtx := rfl
@[simp] theorem setThr_vlanes (c : Core) (t : Nat) (h : Thread) : (setThr c t h).vlanes = c.vlanes := rfl
@[simp] theorem setThr_dbg (c : Core) (t : Nat) (h : Thread) : (setThr c t h).dbg = c.dbg := rfl
@[simp] theorem setThr_perf (c : Core) (t : Nat) (h : Thread) : (setThr c t h).perf = c.perf := rfl
@[simp] theorem setThr_outs (c : Core) (t : Nat) (h : Thread) : (setThr c t h).outs = c.outs := rfl

/-! ### `setRing` -/

@[simp] theorem setRing_thr (c : Core) (r : Nat) (x : Ring) : (setRing c r x).thr = c.thr := rfl
@[simp] theorem setRing_sup (c : Core) (r : Nat) (x : Ring) : (setRing c r x).sup = c.sup := rfl
@[simp] theorem setRing_spad (c : Core) (r : Nat) (x : Ring) : (setRing c r x).spad = c.spad := rfl
@[simp] theorem setRing_cache (c : Core) (r : Nat) (x : Ring) : (setRing c r x).cache = c.cache := rfl
@[simp] theorem setRing_xlt (c : Core) (r : Nat) (x : Ring) : (setRing c r x).xlt = c.xlt := rfl
@[simp] theorem setRing_rings (c : Core) (r : Nat) (x : Ring) : (setRing c r x).rings = mput Ring.reset r x c.rings := rfl
@[simp] theorem setRing_vc2 (c : Core) (r : Nat) (x : Ring) : (setRing c r x).vc2 = c.vc2 := rfl
@[simp] theorem setRing_outq (c : Core) (r : Nat) (x : Ring) : (setRing c r x).outq = c.outq := rfl
@[simp] theorem setRing_sc (c : Core) (r : Nat) (x : Ring) : (setRing c r x).sc = c.sc := rfl
@[simp] theorem setRing_slots (c : Core) (r : Nat) (x : Ring) : (setRing c r x).slots = c.slots := rfl
@[simp] theorem setRing_stallMask (c : Core) (r : Nat) (x : Ring) : (setRing c r x).stallMask = c.stallMask := rfl
@[simp] theorem setRing_stallFreeze (c : Core) (r : Nat) (x : Ring) : (setRing c r x).stallFreeze = c.stallFreeze := rfl
@[simp] theorem setRing_stalls (c : Core) (r : Nat) (x : Ring) : (setRing c r x).stalls = c.stalls := rfl
@[simp] theorem setRing_chans (c : Core) (r : Nat) (x : Ring) : (setRing c r x).chans = c.chans := rfl
@[simp] theorem setRing_mtx (c : Core) (r : Nat) (x : Ring) : (setRing c r x).mtx = c.mtx := rfl
@[simp] theorem setRing_vlanes (c : Core) (r : Nat) (x : Ring) : (setRing c r x).vlanes = c.vlanes := rfl
@[simp] theorem setRing_dbg (c : Core) (r : Nat) (x : Ring) : (setRing c r x).dbg = c.dbg := rfl
@[simp] theorem setRing_perf (c : Core) (r : Nat) (x : Ring) : (setRing c r x).perf = c.perf := rfl
@[simp] theorem setRing_outs (c : Core) (r : Nat) (x : Ring) : (setRing c r x).outs = c.outs := rfl

/-! ### `setSc` -/

@[simp] theorem setSc_thr (c : Core) (n : Nat) (x : Counter) : (setSc c n x).thr = c.thr := rfl
@[simp] theorem setSc_sup (c : Core) (n : Nat) (x : Counter) : (setSc c n x).sup =
    { c.sup with endHit := c.sup.endHit || (n == c.sup.endCnt.toNat && decide (c.sup.endValue ≤ x.value)) } := rfl
@[simp] theorem setSc_spad (c : Core) (n : Nat) (x : Counter) : (setSc c n x).spad = c.spad := rfl
@[simp] theorem setSc_cache (c : Core) (n : Nat) (x : Counter) : (setSc c n x).cache = c.cache := rfl
@[simp] theorem setSc_xlt (c : Core) (n : Nat) (x : Counter) : (setSc c n x).xlt = c.xlt := rfl
@[simp] theorem setSc_rings (c : Core) (n : Nat) (x : Counter) : (setSc c n x).rings = c.rings := rfl
@[simp] theorem setSc_vc2 (c : Core) (n : Nat) (x : Counter) : (setSc c n x).vc2 = c.vc2 := rfl
@[simp] theorem setSc_outq (c : Core) (n : Nat) (x : Counter) : (setSc c n x).outq = c.outq := rfl
@[simp] theorem setSc_sc (c : Core) (n : Nat) (x : Counter) : (setSc c n x).sc = mput Counter.reset n x c.sc := rfl
@[simp] theorem setSc_slots (c : Core) (n : Nat) (x : Counter) : (setSc c n x).slots = c.slots := rfl
@[simp] theorem setSc_stallMask (c : Core) (n : Nat) (x : Counter) : (setSc c n x).stallMask = c.stallMask := rfl
@[simp] theorem setSc_stallFreeze (c : Core) (n : Nat) (x : Counter) : (setSc c n x).stallFreeze = c.stallFreeze := rfl
@[simp] theorem setSc_stalls (c : Core) (n : Nat) (x : Counter) : (setSc c n x).stalls = c.stalls := rfl
@[simp] theorem setSc_chans (c : Core) (n : Nat) (x : Counter) : (setSc c n x).chans = c.chans := rfl
@[simp] theorem setSc_mtx (c : Core) (n : Nat) (x : Counter) : (setSc c n x).mtx = c.mtx := rfl
@[simp] theorem setSc_vlanes (c : Core) (n : Nat) (x : Counter) : (setSc c n x).vlanes = c.vlanes := rfl
@[simp] theorem setSc_dbg (c : Core) (n : Nat) (x : Counter) : (setSc c n x).dbg = c.dbg := rfl
@[simp] theorem setSc_perf (c : Core) (n : Nat) (x : Counter) : (setSc c n x).perf = c.perf := rfl
@[simp] theorem setSc_outs (c : Core) (n : Nat) (x : Counter) : (setSc c n x).outs = c.outs := rfl

/-! ### `setWin` -/

@[simp] theorem setWin_thr (c : Core) (w : Nat) (x : Window) : (setWin c w x).thr = c.thr := rfl
@[simp] theorem setWin_sup (c : Core) (w : Nat) (x : Window) : (setWin c w x).sup = c.sup := rfl
@[simp] theorem setWin_spad (c : Core) (w : Nat) (x : Window) : (setWin c w x).spad = { c.spad with wins := mput Window.closed w x c.spad.wins } := rfl
@[simp] theorem setWin_cache (c : Core) (w : Nat) (x : Window) : (setWin c w x).cache = c.cache := rfl
@[simp] theorem setWin_xlt (c : Core) (w : Nat) (x : Window) : (setWin c w x).xlt = c.xlt := rfl
@[simp] theorem setWin_rings (c : Core) (w : Nat) (x : Window) : (setWin c w x).rings = c.rings := rfl
@[simp] theorem setWin_vc2 (c : Core) (w : Nat) (x : Window) : (setWin c w x).vc2 = c.vc2 := rfl
@[simp] theorem setWin_outq (c : Core) (w : Nat) (x : Window) : (setWin c w x).outq = c.outq := rfl
@[simp] theorem setWin_sc (c : Core) (w : Nat) (x : Window) : (setWin c w x).sc = c.sc := rfl
@[simp] theorem setWin_slots (c : Core) (w : Nat) (x : Window) : (setWin c w x).slots = c.slots := rfl
@[simp] theorem setWin_stallMask (c : Core) (w : Nat) (x : Window) : (setWin c w x).stallMask = c.stallMask := rfl
@[simp] theorem setWin_stallFreeze (c : Core) (w : Nat) (x : Window) : (setWin c w x).stallFreeze = c.stallFreeze := rfl
@[simp] theorem setWin_stalls (c : Core) (w : Nat) (x : Window) : (setWin c w x).stalls = c.stalls := rfl
@[simp] theorem setWin_chans (c : Core) (w : Nat) (x : Window) : (setWin c w x).chans = c.chans := rfl
@[simp] theorem setWin_mtx (c : Core) (w : Nat) (x : Window) : (setWin c w x).mtx = c.mtx := rfl
@[simp] theorem setWin_vlanes (c : Core) (w : Nat) (x : Window) : (setWin c w x).vlanes = c.vlanes := rfl
@[simp] theorem setWin_dbg (c : Core) (w : Nat) (x : Window) : (setWin c w x).dbg = c.dbg := rfl
@[simp] theorem setWin_perf (c : Core) (w : Nat) (x : Window) : (setWin c w x).perf = c.perf := rfl
@[simp] theorem setWin_outs (c : Core) (w : Nat) (x : Window) : (setWin c w x).outs = c.outs := rfl

/-! ### `setCred` -/

@[simp] theorem setCred_thr (c : Core) (e : Nat) (x : Credit) : (setCred c e x).thr = c.thr := rfl
@[simp] theorem setCred_sup (c : Core) (e : Nat) (x : Credit) : (setCred c e x).sup = c.sup := rfl
@[simp] theorem setCred_spad (c : Core) (e : Nat) (x : Credit) : (setCred c e x).spad = { c.spad with credits := mput Credit.free e x c.spad.credits } := rfl
@[simp] theorem setCred_cache (c : Core) (e : Nat) (x : Credit) : (setCred c e x).cache = c.cache := rfl
@[simp] theorem setCred_xlt (c : Core) (e : Nat) (x : Credit) : (setCred c e x).xlt = c.xlt := rfl
@[simp] theorem setCred_rings (c : Core) (e : Nat) (x : Credit) : (setCred c e x).rings = c.rings := rfl
@[simp] theorem setCred_vc2 (c : Core) (e : Nat) (x : Credit) : (setCred c e x).vc2 = c.vc2 := rfl
@[simp] theorem setCred_outq (c : Core) (e : Nat) (x : Credit) : (setCred c e x).outq = c.outq := rfl
@[simp] theorem setCred_sc (c : Core) (e : Nat) (x : Credit) : (setCred c e x).sc = c.sc := rfl
@[simp] theorem setCred_slots (c : Core) (e : Nat) (x : Credit) : (setCred c e x).slots = c.slots := rfl
@[simp] theorem setCred_stallMask (c : Core) (e : Nat) (x : Credit) : (setCred c e x).stallMask = c.stallMask := rfl
@[simp] theorem setCred_stallFreeze (c : Core) (e : Nat) (x : Credit) : (setCred c e x).stallFreeze = c.stallFreeze := rfl
@[simp] theorem setCred_stalls (c : Core) (e : Nat) (x : Credit) : (setCred c e x).stalls = c.stalls := rfl
@[simp] theorem setCred_chans (c : Core) (e : Nat) (x : Credit) : (setCred c e x).chans = c.chans := rfl
@[simp] theorem setCred_mtx (c : Core) (e : Nat) (x : Credit) : (setCred c e x).mtx = c.mtx := rfl
@[simp] theorem setCred_vlanes (c : Core) (e : Nat) (x : Credit) : (setCred c e x).vlanes = c.vlanes := rfl
@[simp] theorem setCred_dbg (c : Core) (e : Nat) (x : Credit) : (setCred c e x).dbg = c.dbg := rfl
@[simp] theorem setCred_perf (c : Core) (e : Nat) (x : Credit) : (setCred c e x).perf = c.perf := rfl
@[simp] theorem setCred_outs (c : Core) (e : Nat) (x : Credit) : (setCred c e x).outs = c.outs := rfl

/-! ### `setSlot` -/

@[simp] theorem setSlot_thr (c : Core) (k : Nat) (x : Slot) : (setSlot c k x).thr = c.thr := rfl
@[simp] theorem setSlot_sup (c : Core) (k : Nat) (x : Slot) : (setSlot c k x).sup = c.sup := rfl
@[simp] theorem setSlot_spad (c : Core) (k : Nat) (x : Slot) : (setSlot c k x).spad = c.spad := rfl
@[simp] theorem setSlot_cache (c : Core) (k : Nat) (x : Slot) : (setSlot c k x).cache = c.cache := rfl
@[simp] theorem setSlot_xlt (c : Core) (k : Nat) (x : Slot) : (setSlot c k x).xlt = c.xlt := rfl
@[simp] theorem setSlot_rings (c : Core) (k : Nat) (x : Slot) : (setSlot c k x).rings = c.rings := rfl
@[simp] theorem setSlot_vc2 (c : Core) (k : Nat) (x : Slot) : (setSlot c k x).vc2 = c.vc2 := rfl
@[simp] theorem setSlot_outq (c : Core) (k : Nat) (x : Slot) : (setSlot c k x).outq = c.outq := rfl
@[simp] theorem setSlot_sc (c : Core) (k : Nat) (x : Slot) : (setSlot c k x).sc = c.sc := rfl
@[simp] theorem setSlot_slots (c : Core) (k : Nat) (x : Slot) : (setSlot c k x).slots = mput Slot.reset k x c.slots := rfl
@[simp] theorem setSlot_stallMask (c : Core) (k : Nat) (x : Slot) : (setSlot c k x).stallMask = c.stallMask := rfl
@[simp] theorem setSlot_stallFreeze (c : Core) (k : Nat) (x : Slot) : (setSlot c k x).stallFreeze = c.stallFreeze := rfl
@[simp] theorem setSlot_stalls (c : Core) (k : Nat) (x : Slot) : (setSlot c k x).stalls = c.stalls := rfl
@[simp] theorem setSlot_chans (c : Core) (k : Nat) (x : Slot) : (setSlot c k x).chans = c.chans := rfl
@[simp] theorem setSlot_mtx (c : Core) (k : Nat) (x : Slot) : (setSlot c k x).mtx = c.mtx := rfl
@[simp] theorem setSlot_vlanes (c : Core) (k : Nat) (x : Slot) : (setSlot c k x).vlanes = c.vlanes := rfl
@[simp] theorem setSlot_dbg (c : Core) (k : Nat) (x : Slot) : (setSlot c k x).dbg = c.dbg := rfl
@[simp] theorem setSlot_perf (c : Core) (k : Nat) (x : Slot) : (setSlot c k x).perf = c.perf := rfl
@[simp] theorem setSlot_outs (c : Core) (k : Nat) (x : Slot) : (setSlot c k x).outs = c.outs := rfl

/-! ### `setChan` -/

@[simp] theorem setChan_thr (c : Core) (n : Nat) (x : Chan) : (setChan c n x).thr = c.thr := rfl
@[simp] theorem setChan_sup (c : Core) (n : Nat) (x : Chan) : (setChan c n x).sup = c.sup := rfl
@[simp] theorem setChan_spad (c : Core) (n : Nat) (x : Chan) : (setChan c n x).spad = c.spad := rfl
@[simp] theorem setChan_cache (c : Core) (n : Nat) (x : Chan) : (setChan c n x).cache = c.cache := rfl
@[simp] theorem setChan_xlt (c : Core) (n : Nat) (x : Chan) : (setChan c n x).xlt = c.xlt := rfl
@[simp] theorem setChan_rings (c : Core) (n : Nat) (x : Chan) : (setChan c n x).rings = c.rings := rfl
@[simp] theorem setChan_vc2 (c : Core) (n : Nat) (x : Chan) : (setChan c n x).vc2 = c.vc2 := rfl
@[simp] theorem setChan_outq (c : Core) (n : Nat) (x : Chan) : (setChan c n x).outq = c.outq := rfl
@[simp] theorem setChan_sc (c : Core) (n : Nat) (x : Chan) : (setChan c n x).sc = c.sc := rfl
@[simp] theorem setChan_slots (c : Core) (n : Nat) (x : Chan) : (setChan c n x).slots = c.slots := rfl
@[simp] theorem setChan_stallMask (c : Core) (n : Nat) (x : Chan) : (setChan c n x).stallMask = c.stallMask := rfl
@[simp] theorem setChan_stallFreeze (c : Core) (n : Nat) (x : Chan) : (setChan c n x).stallFreeze = c.stallFreeze := rfl
@[simp] theorem setChan_stalls (c : Core) (n : Nat) (x : Chan) : (setChan c n x).stalls = c.stalls := rfl
@[simp] theorem setChan_chans (c : Core) (n : Nat) (x : Chan) : (setChan c n x).chans = mput Chan.reset n x c.chans := rfl
@[simp] theorem setChan_mtx (c : Core) (n : Nat) (x : Chan) : (setChan c n x).mtx = c.mtx := rfl
@[simp] theorem setChan_vlanes (c : Core) (n : Nat) (x : Chan) : (setChan c n x).vlanes = c.vlanes := rfl
@[simp] theorem setChan_dbg (c : Core) (n : Nat) (x : Chan) : (setChan c n x).dbg = c.dbg := rfl
@[simp] theorem setChan_perf (c : Core) (n : Nat) (x : Chan) : (setChan c n x).perf = c.perf := rfl
@[simp] theorem setChan_outs (c : Core) (n : Nat) (x : Chan) : (setChan c n x).outs = c.outs := rfl

/-! ### `setV` and `setG` -/

@[simp] theorem setV_st (h : Thread) (v : Nat) (x : BitVec 1024) : (setV h v x).st = h.st := rfl
@[simp] theorem setV_mode (h : Thread) (v : Nat) (x : BitVec 1024) : (setV h v x).mode = h.mode := rfl
@[simp] theorem setV_ae (h : Thread) (v : Nat) (x : BitVec 1024) : (setV h v x).ae = h.ae := rfl
@[simp] theorem setV_startMode (h : Thread) (v : Nat) (x : BitVec 1024) : (setV h v x).startMode = h.startMode := rfl
@[simp] theorem setV_startAE (h : Thread) (v : Nat) (x : BitVec 1024) : (setV h v x).startAE = h.startAE := rfl
@[simp] theorem setV_injCause (h : Thread) (v : Nat) (x : BitVec 1024) : (setV h v x).injCause = h.injCause := rfl
@[simp] theorem setV_doorbellEn (h : Thread) (v : Nat) (x : BitVec 1024) : (setV h v x).doorbellEn = h.doorbellEn := rfl
@[simp] theorem setV_timerEn (h : Thread) (v : Nat) (x : BitVec 1024) : (setV h v x).timerEn = h.timerEn := rfl
@[simp] theorem setV_lrs (h : Thread) (v : Nat) (x : BitVec 1024) : (setV h v x).lrs = h.lrs := rfl
@[simp] theorem setV_cmdIgnored (h : Thread) (v : Nat) (x : BitVec 1024) : (setV h v x).cmdIgnored = h.cmdIgnored := rfl
@[simp] theorem setV_lastCause (h : Thread) (v : Nat) (x : BitVec 1024) : (setV h v x).lastCause = h.lastCause := rfl
@[simp] theorem setV_waitClasses (h : Thread) (v : Nat) (x : BitVec 1024) : (setV h v x).waitClasses = h.waitClasses := rfl
@[simp] theorem setV_wait (h : Thread) (v : Nat) (x : BitVec 1024) : (setV h v x).wait = h.wait := rfl
@[simp] theorem setV_held (h : Thread) (v : Nat) (x : BitVec 1024) : (setV h v x).held = h.held := rfl
@[simp] theorem setV_pendDoorbell (h : Thread) (v : Nat) (x : BitVec 1024) : (setV h v x).pendDoorbell = h.pendDoorbell := rfl
@[simp] theorem setV_pendTimer (h : Thread) (v : Nat) (x : BitVec 1024) : (setV h v x).pendTimer = h.pendTimer := rfl
@[simp] theorem setV_nest (h : Thread) (v : Nat) (x : BitVec 1024) : (setV h v x).nest = h.nest := rfl
@[simp] theorem setV_thrSp (h : Thread) (v : Nat) (x : BitVec 1024) : (setV h v x).thrSp = h.thrSp := rfl
@[simp] theorem setV_stackLimit (h : Thread) (v : Nat) (x : BitVec 1024) : (setV h v x).stackLimit = h.stackLimit := rfl
@[simp] theorem setV_regs (h : Thread) (v : Nat) (x : BitVec 1024) : (setV h v x).regs = h.regs := rfl
@[simp] theorem setV_flags (h : Thread) (v : Nat) (x : BitVec 1024) : (setV h v x).flags = h.flags := rfl
@[simp] theorem setV_loop0 (h : Thread) (v : Nat) (x : BitVec 1024) : (setV h v x).loop0 = h.loop0 := rfl
@[simp] theorem setV_loop1 (h : Thread) (v : Nat) (x : BitVec 1024) : (setV h v x).loop1 = h.loop1 := rfl
@[simp] theorem setV_pc (h : Thread) (v : Nat) (x : BitVec 1024) : (setV h v x).pc = h.pc := rfl
@[simp] theorem setV_slot (h : Thread) (v : Nat) (x : BitVec 1024) : (setV h v x).slot = h.slot := rfl
@[simp] theorem setV_shadow (h : Thread) (v : Nat) (x : BitVec 1024) : (setV h v x).shadow = h.shadow := rfl
@[simp] theorem setV_prog (h : Thread) (v : Nat) (x : BitVec 1024) : (setV h v x).prog = h.prog := rfl
@[simp] theorem setV_injPend (h : Thread) (v : Nat) (x : BitVec 1024) : (setV h v x).injPend = h.injPend := rfl
@[simp] theorem setV_stopPend (h : Thread) (v : Nat) (x : BitVec 1024) : (setV h v x).stopPend = h.stopPend := rfl
@[simp] theorem setV_vregs (h : Thread) (v : Nat) (x : BitVec 1024) : (setV h v x).vregs = mput 0#1024 v x h.vregs := rfl
@[simp] theorem setV_staged (h : Thread) (v : Nat) (x : BitVec 1024) : (setV h v x).staged = h.staged := rfl
@[simp] theorem setV_stagedN (h : Thread) (v : Nat) (x : BitVec 1024) : (setV h v x).stagedN = h.stagedN := rfl
@[simp] theorem setV_fsr (h : Thread) (v : Nat) (x : BitVec 1024) : (setV h v x).fsr = h.fsr := rfl
@[simp] theorem setV_fences (h : Thread) (v : Nat) (x : BitVec 1024) : (setV h v x).fences = h.fences := rfl
@[simp] theorem setV_dbg (h : Thread) (v : Nat) (x : BitVec 1024) : (setV h v x).dbg = h.dbg := rfl
@[simp] theorem setV_acc (h : Thread) (v : Nat) (x : BitVec 1024) : (setV h v x).acc = h.acc := rfl
@[simp] theorem setV_entry (h : Thread) (v : Nat) (x : BitVec 1024) : (setV h v x).entry = h.entry := rfl
@[simp] theorem setV_ctxBad (h : Thread) (v : Nat) (x : BitVec 1024) : (setV h v x).ctxBad = h.ctxBad := rfl

@[simp] theorem setG_st (h : Thread) (r : Nat) (v : Word) : (setG h r v).st = h.st := by unfold setG; split <;> rfl
@[simp] theorem setG_mode (h : Thread) (r : Nat) (v : Word) : (setG h r v).mode = h.mode := by unfold setG; split <;> rfl
@[simp] theorem setG_ae (h : Thread) (r : Nat) (v : Word) : (setG h r v).ae = h.ae := by unfold setG; split <;> rfl
@[simp] theorem setG_startMode (h : Thread) (r : Nat) (v : Word) : (setG h r v).startMode = h.startMode := by unfold setG; split <;> rfl
@[simp] theorem setG_startAE (h : Thread) (r : Nat) (v : Word) : (setG h r v).startAE = h.startAE := by unfold setG; split <;> rfl
@[simp] theorem setG_injCause (h : Thread) (r : Nat) (v : Word) : (setG h r v).injCause = h.injCause := by unfold setG; split <;> rfl
@[simp] theorem setG_doorbellEn (h : Thread) (r : Nat) (v : Word) : (setG h r v).doorbellEn = h.doorbellEn := by unfold setG; split <;> rfl
@[simp] theorem setG_timerEn (h : Thread) (r : Nat) (v : Word) : (setG h r v).timerEn = h.timerEn := by unfold setG; split <;> rfl
@[simp] theorem setG_lrs (h : Thread) (r : Nat) (v : Word) : (setG h r v).lrs = h.lrs := by unfold setG; split <;> rfl
@[simp] theorem setG_cmdIgnored (h : Thread) (r : Nat) (v : Word) : (setG h r v).cmdIgnored = h.cmdIgnored := by unfold setG; split <;> rfl
@[simp] theorem setG_lastCause (h : Thread) (r : Nat) (v : Word) : (setG h r v).lastCause = h.lastCause := by unfold setG; split <;> rfl
@[simp] theorem setG_waitClasses (h : Thread) (r : Nat) (v : Word) : (setG h r v).waitClasses = h.waitClasses := by unfold setG; split <;> rfl
@[simp] theorem setG_wait (h : Thread) (r : Nat) (v : Word) : (setG h r v).wait = h.wait := by unfold setG; split <;> rfl
@[simp] theorem setG_held (h : Thread) (r : Nat) (v : Word) : (setG h r v).held = h.held := by unfold setG; split <;> rfl
@[simp] theorem setG_pendDoorbell (h : Thread) (r : Nat) (v : Word) : (setG h r v).pendDoorbell = h.pendDoorbell := by unfold setG; split <;> rfl
@[simp] theorem setG_pendTimer (h : Thread) (r : Nat) (v : Word) : (setG h r v).pendTimer = h.pendTimer := by unfold setG; split <;> rfl
@[simp] theorem setG_nest (h : Thread) (r : Nat) (v : Word) : (setG h r v).nest = h.nest := by unfold setG; split <;> rfl
@[simp] theorem setG_thrSp (h : Thread) (r : Nat) (v : Word) : (setG h r v).thrSp = h.thrSp := by unfold setG; split <;> rfl
@[simp] theorem setG_stackLimit (h : Thread) (r : Nat) (v : Word) : (setG h r v).stackLimit = h.stackLimit := by unfold setG; split <;> rfl
@[simp] theorem setG_flags (h : Thread) (r : Nat) (v : Word) : (setG h r v).flags = h.flags := by unfold setG; split <;> rfl
@[simp] theorem setG_loop0 (h : Thread) (r : Nat) (v : Word) : (setG h r v).loop0 = h.loop0 := by unfold setG; split <;> rfl
@[simp] theorem setG_loop1 (h : Thread) (r : Nat) (v : Word) : (setG h r v).loop1 = h.loop1 := by unfold setG; split <;> rfl
@[simp] theorem setG_pc (h : Thread) (r : Nat) (v : Word) : (setG h r v).pc = h.pc := by unfold setG; split <;> rfl
@[simp] theorem setG_slot (h : Thread) (r : Nat) (v : Word) : (setG h r v).slot = h.slot := by unfold setG; split <;> rfl
@[simp] theorem setG_shadow (h : Thread) (r : Nat) (v : Word) : (setG h r v).shadow = h.shadow := by unfold setG; split <;> rfl
@[simp] theorem setG_prog (h : Thread) (r : Nat) (v : Word) : (setG h r v).prog = h.prog := by unfold setG; split <;> rfl
@[simp] theorem setG_injPend (h : Thread) (r : Nat) (v : Word) : (setG h r v).injPend = h.injPend := by unfold setG; split <;> rfl
@[simp] theorem setG_stopPend (h : Thread) (r : Nat) (v : Word) : (setG h r v).stopPend = h.stopPend := by unfold setG; split <;> rfl
@[simp] theorem setG_vregs (h : Thread) (r : Nat) (v : Word) : (setG h r v).vregs = h.vregs := by unfold setG; split <;> rfl
@[simp] theorem setG_staged (h : Thread) (r : Nat) (v : Word) : (setG h r v).staged = h.staged := by unfold setG; split <;> rfl
@[simp] theorem setG_stagedN (h : Thread) (r : Nat) (v : Word) : (setG h r v).stagedN = h.stagedN := by unfold setG; split <;> rfl
@[simp] theorem setG_fsr (h : Thread) (r : Nat) (v : Word) : (setG h r v).fsr = h.fsr := by unfold setG; split <;> rfl
@[simp] theorem setG_fences (h : Thread) (r : Nat) (v : Word) : (setG h r v).fences = h.fences := by unfold setG; split <;> rfl
@[simp] theorem setG_dbg (h : Thread) (r : Nat) (v : Word) : (setG h r v).dbg = h.dbg := by unfold setG; split <;> rfl
@[simp] theorem setG_acc (h : Thread) (r : Nat) (v : Word) : (setG h r v).acc = h.acc := by unfold setG; split <;> rfl
@[simp] theorem setG_entry (h : Thread) (r : Nat) (v : Word) : (setG h r v).entry = h.entry := by unfold setG; split <;> rfl
@[simp] theorem setG_ctxBad (h : Thread) (r : Nat) (v : Word) : (setG h r v).ctxBad = h.ctxBad := by unfold setG; split <;> rfl

end Sys2Proof.Machine
end

