-- ==== Sys2Proof/Laws/Memory.lean ====
section
/-! SUPPORT. Laws of the byte memories: a read after a write, and that every memory operation keeps the canonical form. -/

namespace Sys2Proof.Machine

/-! ### Bytes -/

/-- A write of bytes keeps the canonical form. -/
theorem wf_writeBytes {m : List Host.Cell} (h : Memory.wf m = true) (a : Nat) (d : List Byte) : Memory.wf (writeBytes m a d) = true := by
  induction d generalizing m a with
  | nil => exact h
  | cons b r ih => exact ih (mwf_mput h a b) (a + 1)

/-- A write of bytes leaves every byte below it. -/
theorem mget_writeBytes_below (m : List Host.Cell) (a : Nat) (d : List Byte) {k : Nat} (hk : k < a) :
    mget 0#8 (writeBytes m a d) k = mget 0#8 m k := by
  induction d generalizing m a with
  | nil => rfl
  | cons b r ih =>
    show mget 0#8 (writeBytes (mput 0#8 a b m) (a + 1) r) k = _
    rw [ih _ _ (by omega), mget_mput_other _ _ _ (by omega)]

/-- What a byte reads after a write of bytes: the written one inside, the old one outside. -/
theorem mget_writeBytes {m : List Host.Cell} (h : Memory.wf m = true) (a : Nat) (d : List Byte) (k : Nat) :
    mget 0#8 (writeBytes m a d) k = if a ≤ k ∧ k < a + d.length then d.getD (k - a) 0#8 else mget 0#8 m k := by
  induction d generalizing m a with
  | nil =>
    rw [if_neg (by simp only [List.length_nil]; omega)]
    rfl
  | cons b r ih =>
    show mget 0#8 (writeBytes (mput 0#8 a b m) (a + 1) r) k = _
    rw [ih (mwf_mput h a b)]
    simp only [List.length_cons]
    by_cases h1 : k = a
    · subst h1
      rw [if_neg (by omega), if_pos (by omega), mget_mput_same (rising_of_mwf h), Nat.sub_self]
      rfl
    · by_cases h2 : a + 1 ≤ k ∧ k < a + 1 + r.length
      · rw [if_pos h2, if_pos (by omega)]
        obtain ⟨j, rfl⟩ : ∃ j, k = a + 1 + j := ⟨k - (a + 1), by omega⟩
        rw [show a + 1 + j - (a + 1) = j by omega, show a + 1 + j - a = j + 1 by omega]
        rfl
      · rw [if_neg h2, if_neg (by omega), mget_mput_other _ _ _ h1]

@[simp] theorem length_readBytes (m : List Host.Cell) (a n : Nat) : (readBytes m a n).length = n := by
  induction n generalizing a with
  | zero => rfl
  | succ n ih => simp [readBytes, ih]

/-- The i-th byte of a read. -/
theorem getD_readBytes (m : List Host.Cell) (a : Nat) {n i : Nat} (hi : i < n) : (readBytes m a n).getD i 0#8 = mget 0#8 m (a + i) := by
  induction n generalizing a i with
  | zero => omega
  | succ n ih =>
    cases i with
    | zero => rfl
    | succ i =>
      show (readBytes m (a + 1) n).getD i 0#8 = _
      rw [ih (a + 1) (by omega), show a + 1 + i = a + (i + 1) by omega]

/-- A read of what was written gives it back. -/
theorem readBytes_writeBytes {m : List Host.Cell} (h : Memory.wf m = true) (a : Nat) (d : List Byte) :
    readBytes (writeBytes m a d) a d.length = d := by
  induction d generalizing m a with
  | nil => rfl
  | cons b r ih =>
    show mget 0#8 (writeBytes (mput 0#8 a b m) (a + 1) r) a :: readBytes (writeBytes (mput 0#8 a b m) (a + 1) r) (a + 1) r.length = _
    rw [ih (mwf_mput h a b), mget_writeBytes_below _ _ _ (by omega), mget_mput_same (rising_of_mwf h)]

/-- A read outside what was written gives the old bytes. -/
theorem readBytes_writeBytes_other {m : List Host.Cell} (h : Memory.wf m = true) (a b n : Nat) (d : List Byte)
    (hd : b + n ≤ a ∨ a + d.length ≤ b) : readBytes (writeBytes m a d) b n = readBytes m b n := by
  induction n generalizing b with
  | zero => rfl
  | succ n ih =>
    simp only [readBytes]
    rw [ih (b + 1) (by omega), mget_writeBytes h, if_neg (by omega)]

/-! ### The memories of the module -/

/-- What holds of the entry written and of every other entry holds of a map after the write. -/
theorem all_mput {α : Type} [DecidableEq α] {d : α} {p : Nat × α → Bool} {m : SMap α} (h : m.all p = true) (k : Nat) {v : α}
    (hv : p (k, v) = true) : (mput d k v m).all p = true := by
  induction m with
  | nil =>
    simp only [mput]
    split
    · rfl
    · simp [hv]
  | cons e r ih =>
    obtain ⟨j, w⟩ := e
    simp only [List.all_cons, Bool.and_eq_true] at h
    simp only [mput]
    split
    · split
      · simp only [List.all_cons, Bool.and_eq_true]; exact h
      · simp only [List.all_cons, Bool.and_eq_true]; exact ⟨hv, h⟩
    · split
      · split
        · exact h.2
        · simp only [List.all_cons, Bool.and_eq_true]; exact ⟨hv, h.2⟩
      · simp only [List.all_cons, Bool.and_eq_true]; exact ⟨h.1, ih h.2⟩

/-- The three parts of the canonical form of a module's memories. -/
theorem memWf_iff (s : State) : s.memWf = true ↔
    Memory.wf s.hbm = true ∧ Memory.wf s.comp = true ∧ s.cores.all (fun e => Memory.wf e.2.spad.mem) = true := by
  simp [State.memWf, Bool.and_eq_true, and_assoc]

/-- The scratchpad of a core of a canonical module is canonical. -/
theorem spad_wf {s : State} (h : s.memWf = true) (L : Nat) : Memory.wf (getCore s L).spad.mem = true := by
  have hc := ((memWf_iff s).1 h).2.2
  unfold getCore
  generalize s.cores = m at hc
  induction m with
  | nil => rfl
  | cons e r ih =>
    obtain ⟨j, w⟩ := e
    simp only [List.all_cons, Bool.and_eq_true] at hc
    simp only [mget]
    split
    · exact hc.1
    · exact ih hc.2

/-- Replacing a core by one with a canonical scratchpad keeps the memories canonical. -/
theorem memWf_setCore {s : State} (h : s.memWf = true) (L : Nat) {c : Core} (hc : Memory.wf c.spad.mem = true) :
    (setCore s L c).memWf = true := by
  obtain ⟨h1, h2, h3⟩ := (memWf_iff s).1 h
  exact (memWf_iff _).2 ⟨h1, h2, all_mput h3 L hc⟩

/-- A change of a core that leaves its scratchpad's bytes keeps the memories canonical. -/
theorem memWf_modCore {s : State} (h : s.memWf = true) (L : Nat) {f : Core → Core} (hf : ∀ c, (f c).spad.mem = c.spad.mem) :
    (modCore s L f).memWf = true :=
  memWf_setCore h L (by rw [hf]; exact spad_wf h L)

/-- A change that leaves the memories keeps them canonical. -/
theorem memWf_of_eq {s t : State} (h : s.memWf = true) (h1 : t.hbm = s.hbm) (h2 : t.comp = s.comp) (h3 : t.cores = s.cores) :
    t.memWf = true := by
  rw [memWf_iff] at h ⊢
  rw [h1, h2, h3]
  exact h

theorem memWf_hbmWrite {s : State} (h : s.memWf = true) (a : Nat) (d : List Byte) (b : List Nat) : (hbmWrite s a d b).memWf = true := by
  obtain ⟨h1, h2, h3⟩ := (memWf_iff s).1 h
  exact (memWf_iff _).2 ⟨wf_writeBytes h1 a d, h2, h3⟩

theorem memWf_compWrite {s : State} (h : s.memWf = true) (a : Nat) (d : List Byte) : (compWrite s a d).memWf = true := by
  obtain ⟨h1, h2, h3⟩ := (memWf_iff s).1 h
  exact (memWf_iff _).2 ⟨h1, wf_writeBytes h2 a d, h3⟩

theorem memWf_spadWrite {s : State} (h : s.memWf = true) (L off : Nat) (d : List Byte) : (spadWrite s L off d).memWf = true := by
  unfold spadWrite
  extract_lets c n partials old eff ws mended pf d sp z base
  have e : d.spad.mem = c.spad.mem := by
    show (if _ then _ else _ : Core).spad.mem = _
    split <;> rfl
  have hz : z.memWf = true := memWf_setCore h L (wf_writeBytes (e ▸ spad_wf h L) _ _)
  split
  · exact hz
  · exact memWf_of_eq hz rfl rfl rfl

theorem memWf_spadMark {s : State} (h : s.memWf = true) (L : Nat) (ks : List Nat) : (spadMark s L ks).memWf = true :=
  memWf_modCore h L (fun _ => rfl)

theorem memWf_spadWriteBad {s : State} (h : s.memWf = true) (L off : Nat) (d : List Byte) (b : List Nat) :
    (spadWriteBad s L off d b).memWf = true :=
  memWf_spadMark (memWf_spadWrite h L off d) L _

theorem memWf_homePut {s : State} (h : s.memWf = true) (a : Home) (d : List Byte) (b : List Nat) : (homePut s a d b).memWf = true := by
  cases a with
  | spad L off => exact memWf_spadWriteBad h L off d b
  | hbm a => exact memWf_hbmWrite h a d b
  | comp a => exact memWf_compWrite h a d

/-! ### Uncorrectable words: what noting one leaves -/

/-- The two states hold the same memories: HBM, companion memory and the scratchpads' bytes in the cores. -/
structure SameMem (s t : State) : Prop where
  hbm : t.hbm = s.hbm
  comp : t.comp = s.comp
  cores : t.cores = s.cores

theorem SameMem.refl (s : State) : SameMem s s := ⟨rfl, rfl, rfl⟩

theorem SameMem.trans {a b c : State} (h : SameMem a b) (k : SameMem b c) : SameMem a c :=
  ⟨k.hbm.trans h.hbm, k.comp.trans h.comp, k.cores.trans h.cores⟩

theorem sameMem_errRecord (s : State) (a b c d e f g h : Nat) (p : Pair) : SameMem s (errRecord s a b c d e f g h p) := by
  unfold errRecord
  simp only
  split <;> exact ⟨rfl, rfl, rfl⟩

theorem sameMem_unreserve (s : State) (L : Nat) : SameMem s (unreserve s L) := by
  unfold unreserve
  split <;> exact ⟨rfl, rfl, rfl⟩

theorem sameMem_reserveSpare (s : State) (L : Nat) : SameMem s (reserveSpare s L) := by
  unfold reserveSpare
  split <;> exact ⟨rfl, rfl, rfl⟩

theorem sameMem_foldl {α : Type} {f : State → α → State} (hf : ∀ s a, SameMem s (f s a)) (l : List α) (s : State) :
    SameMem s (l.foldl f s) := by
  induction l generalizing s with
  | nil => exact SameMem.refl s
  | cons a r ih => exact (hf s a).trans (ih (f s a))

/-- Marking a core for retirement touches no memory. -/
theorem sameMem_markRetire (s : State) (L : Nat) : SameMem s (markRetire s L) := by
  unfold markRetire
  simp only
  split
  · exact SameMem.refl s
  · have h1 : SameMem s (setMap s (posOf s L) 3 L) := ⟨rfl, rfl, rfl⟩
    have h2 := sameMem_foldl sameMem_unreserve (insertNat L s.boot.markedNow) (setMap s (posOf s L) 3 L)
    have h3 := sameMem_foldl sameMem_reserveSpare (insertNat L s.boot.markedNow)
      ((insertNat L s.boot.markedNow).foldl unreserve (setMap s (posOf s L) 3 L))
    exact ((h1.trans h2).trans h3).trans ⟨rfl, rfl, rfl⟩

theorem SameMem.memWf {s t : State} (e : SameMem s t) (h : s.memWf = true) : t.memWf = true := memWf_of_eq h e.hbm e.comp e.cores

/-- Noting an uncorrectable word keeps the memories canonical. -/
theorem memWf_noteSpadUE {s : State} (h : s.memWf = true) (L off : Nat) : (noteSpadUE s L off).memWf = true := by
  have h1 : ∀ p : Perf, (setCore s L { getCore s L with perf := p }).memWf = true := fun p => memWf_setCore h L (spad_wf h L)
  unfold noteSpadUE
  simp only
  generalize hz : (if frozen (getCore s L) = true then s else _) = z
  have hw : z.memWf = true := by
    subst hz
    split
    · exact h
    · exact h1 _
  generalize hy : errRecord z 1 1 L _ _ _ _ _ _ = y
  have hv : y.memWf = true := hy ▸ (sameMem_errRecord z 1 1 L _ _ _ _ _ _).memWf hw
  split
  · split
    · exact (sameMem_markRetire y L).memWf hv
    · exact hv
  · exact hv
  · split
    · exact (sameMem_markRetire _ L).memWf (memWf_of_eq hv rfl rfl rfl)
    · exact memWf_of_eq hv rfl rfl rfl

theorem memWf_foldl {α : Type} {f : State → α → State} (hf : ∀ s a, s.memWf = true → (f s a).memWf = true) (l : List α) {s : State}
    (h : s.memWf = true) : (l.foldl f s).memWf = true := by
  induction l generalizing s with
  | nil => exact h
  | cons a r ih => exact ih (hf s a h)

/-- A write from the network keeps the memories canonical. -/
theorem memWf_netWrite {s : State} (h : s.memWf = true) (L off : Nat) (d : List Byte) (b : List Nat) : (netWrite s L off d b).memWf = true :=
  memWf_foldl (fun _ _ hs => memWf_noteSpadUE hs L _) _ (memWf_modCore (memWf_spadWrite h L off d) L (fun _ => rfl))

end Sys2Proof.Machine
end

