-- ==== Sys2Proof/Laws/Ops.lean ====
section
/-! SUPPORT. What each shared operation can do, said once: issuing an instruction, entering a handler, raising a fault, writing a scratchpad,
a packet that may arrive. Later proofs cite these and do not unfold the operation. -/

namespace Sys2Proof.Machine

/-- Issuing an instruction always answers a next state. -/
theorem issue_answers (x : Issue) (a : Att) (s : State) (body : State → Nat → Nat → IRes) : ∃ t, issue x a s body = .next t := by
  generalize ho : issue x a s body = o
  unfold issue at ho
  simp only at ho
  repeat' split at ho
  all_goals exact ⟨_, ho.symm⟩

/-- What an instruction of thread n of core L does once its debug state is set to s1: an injected fault, a fault of decoding, nothing where its
condition is false, or its own effect. -/
def IssueRest (s1 : State) (L n : Nat) (k : Thread) (a : Att) (cond : BitVec 4) (body : State → Nat → Nat → IRes) (z : State) : Prop :=
  let s2 := modCore s1 L (fun c => countIssue c n a)
  z = raise s1 L n (faultOf k.injCause) ∨ z = raise s2 L n (faultOf 0x01) ∨ z = raise s2 L n (faultOf 0x08) ∨
  (condHolds k.flags cond = false ∧ z = finish s2 L n (skipped k a)) ∨ z = runBody s1 s2 L n body

/-- The last part of an issue: a pending injection, which waits while rows of a tile are under way, or the instruction. -/
theorem issue_rest {s s1 t : State} {L n : Nat} {k : Thread} {a : Att} {cond : BitVec 4} {m : Bool} {body : State → Nat → Nat → IRes}
    (h : (if k.injPend = true then
        (.next (if m = true then s else tidy s (raise s1 L n (faultOf k.injCause)) L) : Host.Outcome State Fault Refusal) else
      .next (tidy s (if (!a.legal) = true then raise (modCore s1 L (fun c => countIssue c n a)) L n (faultOf 0x01)
        else if (a.seqBad || badSequence k a) = true then raise (modCore s1 L (fun c => countIssue c n a)) L n (faultOf 0x08)
        else if (!condHolds k.flags cond) = true then finish (modCore s1 L (fun c => countIssue c n a)) L n (skipped k a)
        else runBody s1 (modCore s1 L (fun c => countIssue c n a)) L n body) L)) = .next t) :
    (k.injPend = true ∧ m = true ∧ t = s) ∨ ∃ z, t = tidy s z L ∧ IssueRest s1 L n k a cond body z := by
  split at h
  · injection h with h
    split at h
    · exact .inl ⟨‹_›, ‹_›, h.symm⟩
    · exact .inr ⟨_, h.symm, .inl rfl⟩
  · injection h with h
    refine .inr ⟨_, h.symm, .inr ?_⟩
    split
    · exact .inl rfl
    · split
      · exact .inr (.inl rfl)
      · split
        · next hc => exact .inr (.inr (.inl ⟨by simpa using hc, rfl⟩))
        · exact .inr (.inr (.inr rfl))

/-- Everything that issuing an instruction can do, in the state s that the command's errors leave: nothing where the thread cannot issue, or
where an injection waits for tile rows; else, before the settling, a core stop, a debug hit, or the rest (`IssueRest`) with the debug state of a
breakpoint noted or passed. -/
theorem issue_cases {x : Issue} {a : Att} {s0 t : State} {body : State → Nat → Nat → IRes} (h : issue x a s0 body = .next t) :
    let L := x.core.toNat
    let n := x.thread.toNat
    let s := upsetAll s0 L x.upsets
    let k := getThr (getCore s L) n
    ((canIssue s L n a = false ∨ (k.injPend = true ∧ midTile (getCore s L) n = true)) ∧ t = s) ∨ (canIssue s L n a = true ∧
      ∃ z, t = tidy s z L ∧
        (z = coreStop s L 5 0 ∨ z = coreStop s L 2 n ∨ (∃ i, z = debugHit s L n 1 i k.pc.toNat) ∨
          ∃ s1, (s1 = s ∨ (∃ i, s1 = setCore s L (haltAsk (getCore s L) n (1, i, k.pc.toNat))) ∨
              s1 = modT s L n (fun h => { h with dbg := { h.dbg with skip := none } })) ∧ IssueRest s1 L n k a x.cond body z)) := by
  intro L n s k
  unfold issue at h
  simp only at h
  change (if (!canIssue s L n a) = true then Host.Outcome.next s else _) = _ at h
  cases hc : canIssue s L n a with
  | false =>
    rw [if_pos (by simp [hc])] at h
    injection h with h
    exact .inl ⟨.inl rfl, h.symm⟩
  | true =>
    rw [if_neg (by simp [hc])] at h
    split at h
    · next σ hs =>
      injection h with h
      refine .inr ⟨rfl, σ, h.symm, ?_⟩
      change stopFirst s L n = some σ at hs
      simp only [stopFirst] at hs
      split at hs
      · exact .inl (Option.some.inj hs).symm
      · split at hs
        · exact .inr (.inl (Option.some.inj hs).symm)
        · cases hs
    · split at h
      · injection h with h
        exact .inr ⟨rfl, _, h.symm, .inr (.inr (.inl ⟨_, rfl⟩))⟩
      · next bp _ _ _ =>
        obtain ⟨h1, h2, h3⟩ | ⟨z, hz, hr⟩ := issue_rest h
        · exact .inl ⟨.inr ⟨h1, h2⟩, h3⟩
        · refine .inr ⟨rfl, z, hz, .inr (.inr (.inr ⟨_, ?_, hr⟩))⟩
          split
          · exact .inr (.inl ⟨_, rfl⟩)
          · split
            · exact .inr (.inr rfl)
            · exact .inl rfl

/-- A packet that may arrive stands at its place, and no older packet of its channel has its endpoints. -/
theorem mayArrive_some {s : State} {i : Nat} {p : Packet} (h : mayArrive s i = some p) :
    s.net[i]? = some p ∧ ∀ q ∈ s.net.take i, ¬(vcOf q.body = vcOf p.body ∧ q.src = p.src ∧ q.dst = p.dst) := by
  unfold mayArrive at h
  split at h
  · cases h
  · next q hq =>
    split at h
    · cases h
    · next hn =>
      cases h
      refine ⟨hq, fun r hr hh => hn ?_⟩
      rw [List.any_eq_true]
      exact ⟨r, hr, by simp [hh.1, hh.2.1, hh.2.2]⟩

/-- A write to a scratchpad changes that scratchpad's bytes, marks and pending write-backs, the count of corrected words, and the record of
words replaced; nothing else. -/
theorem spadWrite_frame (s : State) (L off : Nat) (d : List Byte) :
    ∃ m u v x p w, spadWrite s L off d =
      { setCore s L { getCore s L with
          spad := { (getCore s L).spad with mem := m, ue := u, ce := v, scrubFix := x }, perf := { (getCore s L).perf with spadCorr := p } } with
        boot := { s.boot with spadWords := w } } := by
  unfold spadWrite
  extract_lets c n partials old eff ws mended pf e sp z base
  have he : ∃ p, e = { c with perf := { c.perf with spadCorr := p } } := by
    simp only [e]
    split
    · exact ⟨c.perf.spadCorr, rfl⟩
    · exact ⟨_, rfl⟩
  obtain ⟨p, he⟩ := he
  split
  · exact ⟨_, _, _, _, p, s.boot.spadWords, by simp only [z, sp, he]; rfl⟩
  · exact ⟨_, _, _, _, p, _, by simp only [z, sp, he]; rfl⟩

/-- A fault that is raised becomes a debug hit, or the entry of its cause at the thread's address. -/
theorem raise_cases (s : State) (L t : Nat) (f : FInfo) :
    let s1 := modT s L t (fun h => dropWatch { h with held := .none })
    (∃ k i a, (thrOf s1 L t).dbg.pend = some (k, i, a) ∧ raise s L t f = debugHit s1 L t k i a) ∨
    raise s L t f = takeException (modT s1 L t (fun h => noteFsr h f)) L t
      { cause := f.cause, int := 0, trap := 0, async := false, addr := f.addr, detail := detailOf f, pc := (thrOf s1 L t).pc } := by
  intro s1
  unfold raise
  simp only
  split
  · next k i a hp =>
    split
    · exact .inl ⟨k, i, a, hp, rfl⟩
    · exact .inr rfl
  · exact .inr rfl

/-- Everything that a step of an entry in progress can do: nothing while a request of it is in flight; the last resort after a failed check
or a failed access; waiting for a walk, a line or a home; or the handler's state, with the frame below sp and the halt of a stepped thread. -/
theorem enterStep_cases {s : State} {L t : Nat} {e : Entry} (he : (thrOf s L t).entry = some e) :
    let h := thrOf s L t
    let sp := (greg h 31).toNat
    let f := faultAt 0x0D (sp - 128) true 128
    let frame := bytesOf (frameWords h t e false)
    let enters (z : State) : State := modCore z L (fun c =>
      pmcEvent (modThr c t (fun h => enterThread h c.sup.vbar (BitVec.ofNat 64 (sp - 128)) e)) 0x10 (some t) 1)
    (h.held ≠ .none ∧ enterStep s L t = s) ∨ enterStep s L t = lastResort s L t e ∨
    (sp % 16 = 0 ∧ 128 + h.stackLimit.toNat ≤ sp ∧
      ((∃ z g, resolve s L t h.mode .store (sp - 128) 128 f = .fault z g ∧ enterStep s L t = lastResort z L t e) ∨
        resolve s L t h.mode .store (sp - 128) 128 f = .hold (enterStep s L t) ∨
        ∃ z ps, resolve s L t h.mode .store (sp - 128) 128 f = .ok z ps ∧
          ((∃ y g, writePlaces z L t f true ps frame = .fault y g ∧ enterStep s L t = lastResort y L t e) ∨
            writePlaces z L t f true ps frame = .hold (enterStep s L t) ∨
            ∃ y u, writePlaces z L t f true ps frame = .ok y u ∧
              enterStep s L t = (if (thrOf (enters y) L t).dbg.stepping then
                haltThread (modT (enters y) L t (fun h => { h with dbg := { h.dbg with stepping := false } })) L t 3 0 0
                else enters y)))) := by
  intro h sp f frame enters
  unfold enterStep
  simp only [he]
  split
  · next hh => exact .inl ⟨hh, rfl⟩
  · split
    · exact .inr (.inl rfl)
    · next hc =>
      have hs : sp % 16 = 0 ∧ 128 + h.stackLimit.toNat ≤ sp := by
        simp only [sp, h]
        omega
      refine .inr (.inr ⟨hs.1, hs.2, ?_⟩)
      split
      · next z g hr => exact .inl ⟨z, g, hr, rfl⟩
      · next z hr => exact .inr (.inl hr)
      · next z ps hr =>
        refine .inr (.inr ⟨z, ps, hr, ?_⟩)
        split
        · next y g hw => exact .inl ⟨y, g, hw, rfl⟩
        · next y hw => exact .inr (.inl hw)
        · next y u hw => exact .inr (.inr ⟨y, u, hw, rfl⟩)

end Sys2Proof.Machine
end

