-- ==== Sys2Proof/Tests/Slice0.lean ====
section
/-! SUPPORT. Tests: ill-formed commands are refused, single commands give what the spec's rules give on small states (worked out by hand from
the rules that each test names), and for every statement with hypotheses a state and operands that meet them (witness_…). -/

namespace Sys2Proof.Tests

open Sys2Proof Sys2Proof.Machine Sys2Proof.Claims

set_option Elab.async false

/-! ### Helper states -/

/-- Thread 1, READY in supervisor mode, g1 = 5, g2 = 3, sp = 0x1000. -/
def thread1 : Thread :=
  { Thread.reset with st := .ready, mode := .supervisor, pc := 0x10000001000#64, regs := [(1, 5#64), (2, 3#64), (31, 0x1000#64)] }

/-- A core after the invalidation of its caches (R294). -/
def coreReady : Core := { Core.reset with cache := { Caches.reset with dcBusy := false, icBusy := false } }

/-- The running module whose core 0 is c. -/
def onCore (c : Core) : State :=
  { State.reset with power := { Power.reset with st := 0 }, boot := { Boot.reset with modState := 2, rom := 0 }, cores := [(0, c)] }

/-- Core 0 with thread 1 as h. -/
def core0 (h : Thread) : Core := setThr coreReady 1 h

/-- The running module with thread 1 of core 0 as h; with thread 1 as above. -/
def withThread (h : Thread) : State := onCore (core0 h)
def running1 : State := withThread thread1

/-- The running module with core 0 changed by f. -/
def withCore (f : Core → Core) : State := onCore (f (core0 thread1))

/-- The running module with packet p in flight, and core 0 changed by f. -/
def withPacket (p : Packet) (f : Core → Core) : State := { withCore f with net := [p] }

/-- Thread 1 of core 0 issues. -/
def at1 : Issue := { core := 0#13, thread := 1#4, cond := 0#4 }
def at0 : Issue := { core := 0#13, thread := 0#4, cond := 0#4 }

/-- Thread 1 of core 0 in a state. -/
def t1 (s : State) : Thread := thrOf s 0 1

/-- The outcome is a next state of which p holds. -/
def nextIs (o : Host.Outcome State Fault Refusal) (p : State → Bool) : Bool :=
  match o with
  | .next t => p t
  | _ => false

/-- Without press queues none is due. -/
theorem restNil (s : State) (h : s.press = []) : PressRest s := by
  intro e he
  rw [h] at he
  exact absurd he List.not_mem_nil

/-- The thread issues; it issues with nothing under way beside it; n bytes of its core's scratchpad that it may read, or write. -/
theorem issues {x : Issue} {a : Att} {s : State} (order : s.ordered = true := by decide) (runs : Runs x a s := by constructor <;> decide) :
    Ready x a s := ⟨order, runs⟩
theorem begun {x : Issue} {a : Att} {s : State} (order : s.ordered = true := by decide) (press : s.press = [] := by rfl)
    (quiet : Quiet (Claims.core s x) := by constructor <;> decide) (runs : Runs x a s := by constructor <;> decide)
    (plain : Plain (thr s x) := by constructor <;> decide) : Before x a s := ⟨order, restNil s press, quiet, runs, plain⟩
theorem inPlace {x : Issue} {s : State} {off n : Nat} {write : Bool} (h : Local s x off n write := by constructor <;> decide +kernel) :
    Local s x off n write := h

/-! ### Ill-formed commands are refused -/

theorem test_wf_role : (Instr.report (.reserved 2#8) .tap).wf = true ∧ (Instr.retireReq (.reserved 2#8) .tap 0).wf = false := by decide
theorem test_wf_session_header : (Instr.retireReq .observer (.rind (2 ^ 32) true) 0).wf = false := by decide
theorem test_wf_retire_id : (Instr.retireReq .observer .tap (2 ^ 16)).wf = false := by decide
theorem test_wf_reinstate : (Instr.reinstate .observer .tap (2 ^ 16)).wf = false := by decide
theorem test_wf_port : (Instr.portDown 24).wf = false ∧ (Instr.portDown 23).wf = true := by decide
theorem test_wf_port_enable : (Instr.portEnable .observer .tap 24 true).wf = false := by decide
theorem test_wf_group_enable : (Instr.groupEnable .observer .tap (2 ^ 16) true).wf = false := by decide
theorem test_wf_session : (Instr.sessionTimeout (2 ^ 32)).wf = false := by decide
theorem test_wf_train_lanes : (Instr.portRetrain 0 { lanes := 3, mask := 0, peerModule := 0, peerPort := 0 }).wf = false := by decide
theorem test_wf_train_peer : (Instr.portRetrain 0 { lanes := 4, mask := 15, peerModule := 256, peerPort := 0 }).wf = false := by decide
theorem test_wf_recall_line : (Instr.recallAnswer 0#5 32 none).wf = false := by decide
theorem test_wf_recall_data : (Instr.recallAnswer 0#5 64 (some [0#8])).wf = false := by decide
theorem test_wf_companion_hbm : (Instr.companionAccess 0#2 (.hbmRead 0xC000000000 64 false ⟨[], []⟩)).wf = false := by decide
theorem test_wf_companion_length : (Instr.companionAccess 0#2 (.hbmRead 0 129 false ⟨[], []⟩)).wf = false := by decide
theorem test_wf_companion_register : (Instr.companionAccess 0#2 (.regRead 65536 8)).wf = false := by decide
/-- An item and a frame with every field in its range. -/
def item0 : Item := { index := 0, sub := 0, type := 0, write := false, hold := false, holdId := 0, len := 0, offset := 0, value := [] }
def frame0 : RindFrame :=
  { wellFormed := true, source := 0, seq := 0#16, role := .observer, session := 0, tagged := false, tagOk := false, node := 0, items := [item0] }

theorem test_wf_item_direction : (Instr.dictRead .observer .tap item0).wf = true ∧ (Instr.dictWrite .observer .tap item0).wf = false := by decide
theorem test_wf_item_length : (Instr.dictWrite .observer .tap { item0 with write := true, len := 2, value := [0#8] }).wf = false := by decide
theorem test_wf_item_index : (Instr.dictRead .observer .tap { item0 with index := 2 ^ 16 }).wf = false := by decide
theorem test_wf_item_sub : (Instr.dictRead .observer .tap { item0 with sub := 256 }).wf = false := by decide
theorem test_wf_item_type : (Instr.dictRead .observer .tap { item0 with type := 256 }).wf = false := by decide
theorem test_wf_item_hold : (Instr.dictRead .observer .tap { item0 with holdId := 16 }).wf = false := by decide
theorem test_wf_item_offset : (Instr.dictRead .observer .tap { item0 with offset := 2 ^ 32 }).wf = false := by decide
theorem test_wf_item_len : (Instr.dictRead .observer .tap { item0 with len := 2 ^ 16 }).wf = false := by decide
theorem test_wf_hold : (Instr.holdRead .observer .tap item0).wf = false := by decide
theorem test_wf_frame_source : (Instr.discover frame0).wf = true ∧ (Instr.discover { frame0 with source := 2 ^ 48 }).wf = false := by decide
theorem test_wf_frame_session : (Instr.discover { frame0 with session := 2 ^ 32 }).wf = false := by decide
theorem test_wf_frame_items : (Instr.request { frame0 with items := List.replicate 65 item0 }).wf = false := by decide
theorem test_wf_frame_item : (Instr.dict { frame0 with items := [{ item0 with sub := 256 }] }).wf = false := by decide
/-- A frame with one part of one slot. -/
def part0 : FabPart := { cls := 0#2, lane := false, slots := 1, src := 0, dst := 0, fage := 0, packet := none }
def fab0 (l : List FabPart) : FabFrame :=
  { decoded := true, corrected := false, crcOk := true, kind := 0#4, seq := 0#12, ack := none, pause := 0#3, credits := List.replicate 8 0#6, parts := l }
theorem test_wf_fabric : (Instr.fabricFrame 0 (fab0 [part0])).wf = true := by decide
theorem test_wf_fabric_module : (Instr.fabricFrame 0 (fab0 [{ part0 with src := 256 }])).wf = false := by decide
theorem test_wf_fabric_age : (Instr.fabricFrame 0 (fab0 [{ part0 with fage := 2 ^ 15 }])).wf = false := by decide
theorem test_wf_fabric_part : (Instr.fabricFrame 0 (fab0 [{ part0 with slots := 10 }])).wf = false ∧
    (Instr.fabricFrame 0 (fab0 [{ part0 with slots := 0 }])).wf = false := by decide
theorem test_wf_fabric_slots : (Instr.fabricFrame 0 (fab0 (List.replicate 3 { part0 with slots := 9 }))).wf = false := by decide
theorem test_wf_fabric_credits : (Instr.fabricFrame 0 { fab0 [] with credits := [] }).wf = false := by decide
set_option maxRecDepth 4096 in
theorem test_wf_companion_write : (Instr.companionAccess 0#2 (.hbmWrite 0 (List.replicate 129 0#8))).wf = false := by decide
theorem test_wf_companion_back : (Instr.companionAccess 0#2 (.writeBack 0 [0#8])).wf = false := by decide
theorem test_wf_companion_atomic : (Instr.companionAccess 0#2 (.hbmAtomic 0xC000000000 .add true 0#64 0#64 ⟨[], []⟩)).wf = false := by decide
theorem test_wf_macs : (Instr.bootStepAttempt { component := 0, pass := true, detail := 0#64, duration := 0, failing := [], peer := 0, macs := [4] }).wf = false := by decide

/-! ### Queue, tick, reset, scalar and control -/

theorem witness_quiet : Quiet (getCore running1 0) := by constructor <;> decide
theorem witness_empty_queue : running1.pending = [] ∧ running1.power.held = [] ∧ running1.boot.rom ≠ 3 ∧ State.reset.boot.rom = 3 := by decide
theorem witness_keeps : running1.ordered = true ∧ running1.memWf = true ∧ ∃ t, step running1 = .next t := ⟨by decide, by decide, _, rfl⟩
theorem witness_leave_queue : ∃ t, exec .interruptSend running1 = .next t := ⟨_, rfl⟩
theorem witness_register_file : thread1.ordered = true := by decide
theorem witness_alu : Before at1 attAlu running1 :=
  begun
theorem witness_predicates : 1 ≤ (1#4).toNat ∧ (10#4).toNat ≤ 10 := by decide
theorem witness_branch : Before at1 attXfer running1 ∧ (reg running1 at1 31#5).toNat % 4 = 0 :=
  ⟨begun, by decide⟩
theorem witness_false_condition : condHolds (thr running1 at1).flags 1#4 = false ∧ Before { at1 with cond := 0#4 } attAlu running1 ∧
    Before { at1 with cond := 0#4 } attMem running1 ∧ Before { at1 with cond := 0#4 } attXfer running1 :=
  ⟨by decide, begun,
    begun,
    begun⟩

/-- A thread in a slot; at the end of level 1 (count 2), of level 0 (count 2), of both with count 1, of none. -/
def ends (n1 n0 : BitVec 32) (e1 e0 : Word) : Thread :=
  { thread1 with loop1 := { lc := n1, ls := 0x10000000F00#64, le := e1 }, loop0 := { lc := n0, ls := 0x10000000E00#64, le := e0 } }
theorem witness_where_control_goes :
    { thread1 with slot := some 8#64 }.slot = some 8#64 ∧ thread1.slot = none ∧
    (let h := ends 2#32 2#32 thread1.pc thread1.pc; h.slot = none ∧ h.loop1.lc ≠ 0#32 ∧ h.loop1.le = h.pc ∧ h.loop1.lc ≠ 1#32) ∧
    (let h := ends 0#32 2#32 thread1.pc thread1.pc; (h.loop1.lc = 0#32 ∨ h.loop1.le ≠ h.pc) ∧ h.loop0.lc ≠ 0#32 ∧ h.loop0.le = h.pc ∧
      h.loop0.lc ≠ 1#32) ∧
    (let h := ends 1#32 1#32 thread1.pc thread1.pc; h.loop1.lc = 1#32 ∧ h.loop1.le = h.pc ∧ h.loop0.lc = 1#32 ∧ h.loop0.le = h.pc) ∧
    (let h := ends 1#32 1#32 0#64 0#64; (h.loop1.lc = 0#32 ∨ h.loop1.le ≠ h.pc) ∧ (h.loop0.lc = 0#32 ∨ h.loop0.le ≠ h.pc)) := by decide

/-- Level 1 active; level 0 active, ending before the new level's end. -/
def loopy1 : State := withThread (ends 1#32 0#32 0#64 0#64)
def loopy0 : State := withThread (ends 0#32 1#32 0#64 0#64)
theorem witness_loops : Before at1 (attLp false) running1 ∧ (1#12) ≠ 0#12 ∧ (0#2) ≠ 3#2 ∧ (thr running1 at1).loop1.lc = 0#32 ∧
    (thr running1 at1).loop0.lc = 0#32 ∧ (reg running1 at1 31#5).toNat % 4 = 0 ∧ (reg running1 at1 1#5).toNat % 4 ≠ 0 :=
  ⟨begun, by decide⟩
theorem witness_loop_clash : Before at1 (attLp false) loopy1 ∧ (thr loopy1 at1).loop1.lc ≠ 0#32 ∧
    Before at1 (attLp false) loopy0 ∧ (thr loopy0 at1).loop0.lc ≠ 0#32 ∧
    (thr loopy0 at1).loop0.le.toNat < ((thr loopy0 at1).pc + 4#64 * (1#12).zeroExtend 64).toNat :=
  ⟨begun, by decide,
    begun, by decide⟩
theorem witness_setmode : serialBusy (Claims.core running1 at1) (th at1) = false ∧ Before at1 attSys running1 ∧ (thr running1 at1).mode = .supervisor ∧
    Before at1 { attSys with atEnd := true } running1 :=
  ⟨by decide, begun, by decide,
    begun⟩
theorem witness_calls : Before at1 attStack running1 ∧ (0x1000 : Nat) % 16 = 0 ∧
    16 + (thr running1 at1).stackLimit.toNat ≤ (greg (thr running1 at1) 31).toNat ∧
    Local running1 at1 (0x1000 - 16) 16 true ∧ ((thr running1 at1).pc + (1#22).signExtend 64 * 4#64).toNat % 4 = 0 ∧
    (reg running1 at1 31#5).toNat % 4 = 0 :=
  ⟨begun, by decide, by decide,
    inPlace, by decide⟩
theorem witness_returns : Before at1 attStack running1 ∧ Local running1 at1 0x1000 16 false ∧
    (BitVec.ofNat 64 (ofBytes (spadBytes running1 at1 0x1000 8))).toNat % 4 = 0 :=
  ⟨begun, inPlace, by decide⟩
theorem witness_entry : running1.ordered = true ∧ (greg (thr running1 at1) 31).toNat % 16 = 0 ∧
    128 + (thr running1 at1).stackLimit.toNat ≤ (greg (thr running1 at1) 31).toNat ∧ Local running1 at1 (0x1000 - 128) 128 true ∧
    (thr running1 at1).dbg.stepping = false :=
  ⟨by decide, by decide, by decide, inPlace, by decide⟩

/-- Thread 0 with a stack pointer; with one in D-space that no memory backs; with a push of its entry refused by its home. -/
def thread0 (sp : Word) : Thread := { thread1 with regs := [(31, sp)] }
def lowStack : State := onCore (setThr coreReady 0 (thread0 64#64))
def farStack : State := onCore (setThr coreReady 0 (thread0 0x300000#64))
def frame0Of : Entry := { cause := 0x10, int := 0, trap := 0, async := false, addr := 0, detail := 0#64, pc := 0#64 }
def pushFault : FInfo := faultAt 0x0D (0x300000 - 128) true 128
def farPush : State :=
  { onCore { setThr coreReady 0 { thread0 0x300000#64 with held := .access 7, entry := some frame0Of } with
      outs := [{ id := 7, kind := .accWrite 0#4 (.hbm 0x4000) [] pushFault none }] } with
    net := [pkt (.stack 0) (.core 0) (.errorResp 7 3)] }
theorem witness_last_resort : (greg (thrOf lowStack 0 0) 31).toNat < 128 + (thrOf lowStack 0 0).stackLimit.toNat ∧
    (greg (thrOf farStack 0 0) 31).toNat % 16 = 0 ∧ 128 + (thrOf farStack 0 0).stackLimit.toNat ≤ (greg (thrOf farStack 0 0) 31).toNat ∧
    (∃ z f, resolve (modT farStack 0 0 (fun h =>
        { h with st := .ready, wait := .none, waitClasses := 0#6, held := .none, acc := [], entry := some frame0Of })) 0 0
      (thrOf farStack 0 0).mode .store (0x300000 - 128) 128 pushFault = .fault z f) ∧
    (farPush.ordered = true ∧ running farPush = true ∧ mayArrive farPush 0 = farPush.net.head? ∧
      (findOut (getCore farPush 0) 7).map (·.kind) = some (.accWrite 0#4 (.hbm 0x4000) [] pushFault none) ∧
      (thrOf farPush 0 0).held = .access 7 ∧ (thrOf farPush 0 0).entry = some frame0Of) :=
  ⟨by decide, by decide, by decide, ⟨_, _, rfl⟩, by decide +kernel⟩

def userThread : State := withThread { thread1 with mode := .user }
theorem witness_traps : Before at1 attSys running1 ∧ wordIllegal 0xFFFFFFFF#32 = true ∧ Before at1 attSys userThread ∧
    (thr userThread at1).mode = .user ∧ Local userThread at1 (0x1000 - 128) 128 true :=
  ⟨begun, by decide,
    begun, by decide, inPlace⟩
theorem witness_eret : Before at1 { attSys with obs := 0, mem := true } running1 ∧ (thr running1 at1).mode = .supervisor ∧
    serialBusy (Claims.core running1 at1) (th at1) = false ∧ Local running1 at1 0x1000 128 false ∧
    frameMisaligned (wordsOf 16 (spadBytes running1 at1 0x1000 128)) = false :=
  ⟨begun, by decide, by decide,
    inPlace, by decide⟩

/-- Thread 1 with AE and a pending enabled doorbell, or timer; thread 0 with AE and an event in the queue. -/
def rung : State := withThread { thread1 with ae := true, pendDoorbell := true, doorbellEn := true }
def timed : State := withThread { thread1 with ae := true, pendTimer := true, timerEn := true }
def evented : State :=
  onCore { setThr coreReady 0 { thread1 with ae := true } with sup := { Sup.reset with evq := [eventRecord 4 3 0 false 0x0B] } }
/-- Nothing of core 0 comes before the interrupt or event that thread t takes. -/
def Taking (s : State) (x : Issue) : Prop :=
  s.ordered = true ∧ coreOn s (co x) = true ∧ (Claims.core s x).sup.ctrlBad = false ∧ (thr s x).ctxBad = false ∧
    mayTake (Claims.core s x) (th x) = true ∧ (thr s x).st = .ready
theorem witness_interrupts : Taking rung at1 ∧ PressRest rung ∧ Quiet (Claims.core rung at1) ∧ Plain (thr rung at1) ∧
    Local rung at1 (0x1000 - 128) 128 true ∧ th at1 ≠ 0 ∧ (thr rung at1).pendDoorbell = true ∧ (thr rung at1).doorbellEn = true :=
  ⟨by unfold Taking; decide, restNil _ rfl, by constructor <;> decide, by constructor <;> decide, inPlace, by decide⟩
theorem witness_timer_interrupt : Taking timed at1 ∧ PressRest timed ∧ Quiet (Claims.core timed at1) ∧ Plain (thr timed at1) ∧
    Local timed at1 (0x1000 - 128) 128 true ∧ (thr timed at1).pendDoorbell = false ∧ (thr timed at1).pendTimer = true ∧
    (thr timed at1).timerEn = true :=
  ⟨by unfold Taking; decide, restNil _ rfl, by constructor <;> decide, by constructor <;> decide, inPlace, by decide⟩
theorem witness_events : Taking evented at0 ∧ PressRest evented ∧ Quiet (Claims.core evented at0) ∧ Plain (thr evented at0) ∧
    Local evented at0 (0x1000 - 128) 128 true ∧ th at0 = 0 ∧ (Claims.core evented at0).sup.evq = eventRecord 4 3 0 false 0x0B :: [] :=
  ⟨by unfold Taking; decide, restNil _ rfl, by constructor <;> decide, by constructor <;> decide, inPlace, by decide⟩
theorem witness_quiet_stays : running1.ordered = true ∧ (thrOf running1 0 1).st = .ready ∧ Quiet (getCore running1 0) :=
  ⟨by decide, by decide, witness_quiet⟩

/-- Table: ALU functions of major 0x01: 5 + 3 = 8 with no flag set; −1 + 5 = 4 with carry; 3 − 5 borrows and is negative (R47). -/
theorem test_add : nextIs (exec (.add at1 3#5 1#5 2#5 true) running1) (fun t => greg (t1 t) 3 == 8#64 && (t1 t).flags == Flags.zero &&
    (t1 t).pc == 0x10000001004#64) = true := by decide +kernel
theorem test_addi_carry : nextIs (exec (.addi at1 3#5 1#5 0x7FF#11 true) running1) (fun t => greg (t1 t) 3 == 4#64 && (t1 t).flags.c) = true := by decide +kernel
theorem test_sub_borrow : nextIs (exec (.sub at1 3#5 2#5 1#5 true) running1) (fun t => greg (t1 t) 3 == BitVec.ofInt 64 (-2) &&
    (t1 t).flags.n && !(t1 t).flags.c && !(t1 t).flags.v) = true := by decide +kernel
/-- R81: division by zero gives all ones, the remainder rs1, and V with S = 1. -/
theorem test_div_zero : nextIs (exec (.div at1 3#5 1#5 0#5 true) running1) (fun t => greg (t1 t) 3 == BitVec.allOnes 64 && (t1 t).flags.v) = true := by decide +kernel
theorem test_rem_zero : nextIs (exec (.rem at1 3#5 1#5 0#5 false) running1) (fun t => greg (t1 t) 3 == 5#64) = true := by decide +kernel
/-- R45: g0 discards writes. -/
theorem test_g0 : nextIs (exec (.add at1 0#5 1#5 2#5 false) running1) (fun t => greg (t1 t) 0 == 0#64) = true := by decide +kernel
theorem test_movk : nextIs (exec (.movk at1 1#5 0xABCD#16 1#2) running1) (fun t => greg (t1 t) 1 == 0xABCD0005#64) = true := by decide +kernel
theorem test_pcmp : nextIs (exec (.pcmp at1 3#4 true 2#5 1#5) running1) (fun t => (t1 t).flags.p1 && !(t1 t).flags.p0) = true := by decide +kernel
/-- R11, R12, R43: a nonzero reserved field of `fence`, `ldx` and `lp.clr`, kind 3 of major 0x06 and the zero word are illegal. -/
theorem test_illegal_words : [0x05800001#32, 0x05000002#32, 0x08200001#32, 0x01800006#32, 0#32].all wordIllegal = true ∧
    [0x05800000#32, 0x05000000#32, 0x08200000#32, 0x01800004#32].any wordIllegal = false := by decide
/-- R61: the slot comes next, then the target. -/
theorem test_branch : nextIs (exec (.b at1 4#22) running1) (fun t => (t1 t).pc == 0x10000001004#64 && (t1 t).slot == some 0x10000001010#64) = true := by decide +kernel
/-- R66: the return address (the transfer's address + 8) at sp − 16. -/
theorem test_call : nextIs (exec (.call at1 4#22) running1) (fun t => greg (t1 t) 31 == 0xFF0#64 &&
    readBytes (getCore t 0).spad.mem 0xFF0 8 == toBytes 8 0x10000001008) = true := by decide +kernel
/-- R75, Table: vectors: trap 7 enters cause 0x10 at 32 × 0x10 with the following instruction in the frame. -/
theorem test_trap : nextIs (exec (.trap at1 7#8) running1) (fun t => (t1 t).pc == 0x200#64 && (t1 t).lastCause == 0x10 &&
    greg (t1 t) 31 == 0xF80#64 && readBytes (getCore t 0).spad.mem 0xF80 8 == toBytes 8 0x10000001004) = true := by decide +kernel
/-- R76: `setmode` in user mode raises 0x02. -/
theorem test_setmode_user : nextIs (exec (.setmode at1 1#8) userThread) (fun t => (t1 t).lastCause == 2 && (t1 t).mode == .supervisor) = true := by decide +kernel
/-- R69: a loop of count 0 is skipped past its last word. -/
theorem test_loop_zero : nextIs (exec (.lpSetupi at1 false 0#7 2#12) running1) (fun t => (t1 t).pc == 0x1000000100C#64) = true := by decide +kernel
/-- Table: vectors: a doorbell enters at 0x800. -/
theorem test_doorbell : nextIs (exec (.takeInterrupt 0#13 1#4) rung) (fun t => (t1 t).pc == 0x800#64 && !(t1 t).pendDoorbell) = true := by decide +kernel

/-! ### Loads, stores, atomics, responses -/

theorem witness_mem : Before at1 attMem running1 ∧ noWatch running1 at1 ∧ ((1#1 == 0#1) && (2#2 == 3#2)) = false ∧
    (reg running1 at1 31#5 + (0#9).signExtend 64 * BitVec.ofNat 64 4).toNat % 4 = 0 ∧ Local running1 at1 0x1000 4 false ∧
    Local running1 at1 0x1000 4 true ∧ relBusy (Claims.core running1 at1) (th at1) = false ∧ (reg running1 at1 31#5).toNat % 8 = 0 ∧
    Local running1 at1 0x1000 8 true :=
  ⟨begun, rfl, by decide, by decide,
    inPlace, inPlace, by decide, by decide, inPlace⟩
theorem witness_misaligned : (reg running1 at1 1#5 + (0#9).signExtend 64 * BitVec.ofNat 64 (2 ^ (2#2).toNat)).toNat % 2 ^ (2#2).toNat ≠ 0 ∧
    Local running1 at1 (0x1000 - 128) 128 true := ⟨by decide, inPlace⟩

/-- Thread 1 held by request 7 of kind k, whose answer b is in flight. -/
def held1 (k : OutKind) (b : Body) : State :=
  withPacket (pkt (.stack 0) (.core 0) b) (fun c => { setThr c 1 { thread1 with held := .access 7 } with outs := [{ id := 7, kind := k }] })
theorem witness_responses : ∀ r ∈ [(OutKind.load 1#4 3#5 4 false false 0, Body.readData 7 [1#8, 2#8, 3#8, 4#8] [] false),
      (.fillLoad 1#4 3#5 4 false 0 DLine.empty true, .readData 7 (List.replicate 64 0#8) [] false),
      (.fillStore 1#4 0 [5#8] DLine.empty, .readData 7 (List.replicate 64 0#8) [] false),
      (.atomic 1#4 3#5 true false 0, .atomicData 7 9#64 false), (.store 1#4 0 4 [], .writeAck 7)],
    let s := held1 r.1 r.2
    s.ordered = true ∧ mayArrive s 0 = s.net.head? ∧ coreOn s 0 = true ∧ (thrOf s 0 1).held = .access 7 ∧
      (findOut (getCore s 0) 7).map (·.kind) = some r.1 := by decide +kernel
theorem witness_line_installed : (installLine (withCore id) 0 DLine.empty).isSome = true := by decide +kernel

/-- R10: least significant byte first; a load of what was stored. -/
theorem test_store : nextIs (exec (.st at1 1#5 31#5 2#2 false 0#9) running1) (fun t => readBytes (getCore t 0).spad.mem 0x1000 4 == [5#8, 0#8, 0#8, 0#8]) = true := by decide +kernel
def stored1 : State := withCore (fun c => { c with spad := { c.spad with mem := writeBytes [] 0x1000 [0x80#8, 0xFF#8] } })
theorem test_load_signed : nextIs (exec (.ld at1 3#5 31#5 1#2 true 0#9) stored1) (fun t => greg (t1 t) 3 == BitVec.ofInt 64 (-128)) = true := by decide +kernel
theorem test_load_unsigned : nextIs (exec (.ld at1 3#5 31#5 1#2 false 0#9) stored1) (fun t => greg (t1 t) 3 == 0xFF80#64) = true := by decide +kernel
/-- R58: a misaligned access raises 0x03, at vector 3 × 32. -/
theorem test_misaligned : nextIs (exec (.ld at1 3#5 1#5 2#2 false 0#9) running1) (fun t => (t1 t).lastCause == 3 && (t1 t).pc == 0x60#64) = true := by decide +kernel
theorem test_amo_add : nextIs (exec (.amoAdd at1 3#5 31#5 1#5 true false) stored1) (fun t => greg (t1 t) 3 == 0xFF80#64 &&
    readBytes (getCore t 0).spad.mem 0x1000 8 == toBytes 8 0xFF85) = true := by decide +kernel
/-- R234: READ_DATA completes the held load. -/
theorem test_read_data : nextIs (exec (.readData 0) (held1 (.load 1#4 3#5 4 false false 0) (.readData 7 [1#8, 2#8, 3#8, 4#8] [] false)))
    (fun t => greg (t1 t) 3 == 0x04030201#64 && (t1 t).held == .none && t.net == []) = true := by decide +kernel

/-! ### Vectors -/

theorem witness_vector : Before at1 (attVec true) running1 ∧ (0#3).toNat ≤ 4 ∧ (3#3).toNat ≤ 3 ∧ (4#3).toNat = 4 ∧ (1#3).toNat = 1 ∧
    (31#7).toNat < lanesOf (laneFmt (0#3).toNat) ∧ (6#3).toNat ≤ 6 :=
  ⟨begun, by decide⟩
theorem witness_int_lanes : (Fmt.int8 = .int8 ∨ Fmt.int8 = .int32) ∧ 127 < lanesOf .int8 ∧ 31 < lanesOf .int32 := by decide

/-- Control words for `v.cvt` FP32 to FP32 at part 0 and for `v.pack4`, `v.unpack4` with E2M1, part 7. -/
def cvtThread : State := withThread { thread1 with regs := [(1, 0x1C01#64), (31, 0x1000#64)] }
theorem witness_conversions : Before at1 (attVec true) cvtThread ∧
    (let w := reg cvtThread at1 0#5
     cvtResv w = false ∧ bits w 31 24 = 0 ∧ bits w 2 0 ≠ 7 ∧
      bits w 12 10 < max (lanesOf (laneFmt 0)) (lanesOf (laneFmt (bits w 2 0))) / min (lanesOf (laneFmt 0)) (lanesOf (laneFmt (bits w 2 0)))) ∧
    (let w := reg cvtThread at1 1#5
     cvtResv w = false ∧ bits w 23 16 = 0 ∧ bits w 2 0 < 2 ∧ lanesOf (laneFmt 0) / 32 * bits w 12 10 < 8) :=
  ⟨begun, by decide⟩
theorem witness_vector_memory : Before at1 attVmem running1 ∧ noWatch running1 at1 ∧ (reg running1 at1 31#5 + reg running1 at1 0#5).toNat % 64 = 0 ∧
    Local running1 at1 0x1000 128 false ∧ Local running1 at1 0x1000 128 true :=
  ⟨begun, rfl, by decide,
    inPlace, inPlace⟩

/-- The worked example after R208: −7.0 / 4 = −1.75 is a tie between 1.5 and 2, and rounds to −2, nibble 0xC; 20.0 / 4 = 5.0 to 4, 0x6. -/
def packThread : State := withThread { thread1 with regs := [(5, 0x81000161#64)], vregs := [(1, ofElems 32 [0x41A00000, 0xC0E00000, 0x40200000, 0x3E99999A])] }
theorem test_pack4 : nextIs (exec (.vPack4 at1 3#4 1#4 5#5 0#3) packThread) (fun t => (elems 4 (vreg (t1 t) 3)).take 4 == [0x6, 0xC, 0x1, 0x0]) = true := by decide +kernel
theorem test_bscale : nextIs (exec (.vBscale at1 2#4 1#4 false 0#3) packThread) (fun t => (elems 8 (vreg (t1 t) 2)).head? == some 0x81) = true := by decide +kernel
/-- R196: integer lanes saturate. -/
def intThread : State := withThread { thread1 with vregs := [(1, ofElems 8 [127, 200]), (2, ofElems 8 [1, 128])] }
theorem test_vadd_int8 : nextIs (exec (.vAdd at1 3#4 1#4 2#4 false 4#3) intThread) (fun t => (elems 8 (vreg (t1 t) 3)).take 2 == [127, 128]) = true := by decide +kernel

/-! ### Threads, IO-space, timers -/

/-- Thread 2 in a state. -/
def second (h : Thread) : State := withCore (fun c => setThr c 2 h)
theorem witness_thread_commands : ∀ st ∈ [TState.free, .stopped, .wait, .faultWait, .ready],
    let s := second { Thread.reset with st := st }
    (s.ordered = true ∧ canIssue s 0 1 (attOut 64) = true) ∧ (thr s at1).mode = .supervisor ∧ serialBusy (Claims.core s at1) (th at1) = false ∧
      (2#4).toNat ≠ th at1 ∧ (thrOf s 0 2).st = st ∧ (thrOf s 0 2).dbg.pend = none ∧ (thrOf s 0 2).dbg.stepping = false ∧
      (thrOf s 0 2).stopPend = false ∧ (thrOf s 0 2).lrs = false ∧ atBoundary (thrOf s 0 2) = true ∧ (Claims.core s at1).mtx.lease ≠ some 2 := by decide
theorem witness_thread_commands_issue : Ready at1 (attOut 64) (second Thread.reset) ∧ Ready at1 (attOut 0) running1 ∧
    1 ≤ (0x300#64).toNat / 256 % 256 ∧ (0x1500#64).toNat / 256 % 256 ≤ 0x15 :=
  ⟨issues, issues, by decide⟩
theorem witness_in : Ready at1 { attAlu with port := 3 } running1 ∧ Ready at1 { attAlu with port := 3 } userThread ∧
    ((reg running1 at1 1#5).toNat + (0#12).toNat) % 65536 % 8 ≠ 0 ∧
    (let a := ((reg running1 at1 0#5).toNat + (0x300#12).toNat) % 65536; a % 8 = 0 ∧ 0x300 ≤ a ∧ a < 0x400) ∧
    (let a := ((reg running1 at1 0#5).toNat + (0xF40#12).toNat) % 65536; a % 8 = 0 ∧ 0xF40 ≤ a) ∧
    (let a := ((reg userThread at1 0#5).toNat + (0x2F8#12).toNat) % 65536; a % 8 = 0 ∧ a < 0x300 ∧ (thr userThread at1).mode = .user) :=
  ⟨issues, issues, by decide⟩
theorem witness_out : Ready at1 (attOut 0x200) running1 ∧ Ready at1 (attOut 5) running1 ∧ Ready at1 (attOut 0x300) running1 ∧
    Ready at1 (attOut 0x5F8) userThread ∧ (thr running1 at1).mode = .supervisor ∧ serialBusy (Claims.core running1 at1) (th at1) = false :=
  ⟨issues, issues, issues,
    issues, by decide⟩
def firstThread : State := onCore (setThr coreReady 0 thread1)
theorem witness_kick : Ready at0 (attOut 0x210) firstThread ∧ (thr firstThread at0).mode = .supervisor ∧
    serialBusy (Claims.core firstThread at0) (th at0) = false ∧ th at0 = 0 :=
  ⟨issues, by decide⟩

/-- The watchdog of core 0 has run out with thread 0 READY; its timer has run out, periodic or not. -/
def barking : State := onCore { setThr coreReady 0 thread1 with sup := { Sup.reset with wdEnable := true, wdPeriod := 5, wdCount := 0 } }
def rungTimer (p : Bool) : State := withCore (fun c => { c with sup := { c.sup with tmEnable := true, tmInterval := 9, tmCount := 0, tmPeriodic := p, tmThread := 1 } })
theorem witness_timers : barking.ordered = true ∧ coreOn barking 0 = true ∧ (getCore barking 0).sup.wdEnable = true ∧ (getCore barking 0).sup.wdPeriod ≠ 0 ∧
    (getThr (getCore barking 0) 0).st = .ready ∧ (getCore barking 0).sup.stopped = false ∧ (getCore barking 0).sup.wdCount = 0 ∧
    (rungTimer true).ordered = true ∧ (getCore (rungTimer true) 0).sup.tmEnable = true ∧ (getCore (rungTimer true) 0).sup.tmInterval ≠ 0 ∧
    (getCore (rungTimer true) 0).sup.tmCount = 0 := by decide
/-- R114: the watchdog stops the core with subcode 6. -/
theorem test_watchdog : nextIs (exec (.watchdogExpiry 0#13) barking) (fun t => (getCore t 0).sup.stopped && (getCore t 0).sup.stopSub == 6) = true := by decide +kernel
theorem test_start : nextIs (exec (.start at1 2#4 0x19#64) (second { Thread.reset with pc := 0x40#64, thrSp := 0x800#64 })) (fun t =>
    (thrOf t 0 2).st == .ready && (thrOf t 0 2).mode == .supervisor && (thrOf t 0 2).ae && (thrOf t 0 2).pc == 0x40#64 && greg (thrOf t 0 2) 31 == 0x800#64) = true := by decide +kernel
/-- R54: IO address 0x0300 raises 0x05. -/
theorem test_in_absent : nextIs (exec (.ioIn at1 3#5 0#5 0x300#12) running1) (fun t => (t1 t).lastCause == 5) = true := by decide +kernel
theorem test_out_vbar : nextIs (exec (.ioOut at1 31#5 0#5 0x200#12) running1) (fun t => (getCore t 0).sup.vbar == 0x1000#64) = true := by decide +kernel

/-! ### The matrix engine -/

/-- Thread 1 holds the lease of an engine m. -/
def engine (m : Mtx) : State := withCore (fun c => { c with mtx := { m with lease := some 1 } })
def leased : State := engine Mtx.reset
theorem witness_lease : Ready at1 attMtx running1 ∧ (Claims.core running1 at1).mtx.lease = none ∧ Ready at1 attMtx leased ∧
    (Claims.core leased at1).mtx.lease = some (th at1) ∧ (Claims.core leased at1).mtx.dying = false ∧ (Claims.core leased at1).mtx.queue = [] ∧
    (Claims.core leased at1).mtx.rows = [] ∧ Ready at1 { attMtx with legal := (0#2) != 3#2, inSlot := false } leased ∧
    relBusy (Claims.core leased at1) (th at1) = false :=
  ⟨issues, by decide, issues, by decide, by decide, by decide, by decide,
    issues, by decide⟩
def leasedByTwo : State := withCore (fun c => { c with mtx := { c.mtx with lease := some 2 } })
theorem witness_lease_of_another : Ready at1 attMtx leasedByTwo ∧ (Claims.core leasedByTwo at1).mtx.lease = some 2 ∧ 2 ≠ th at1 :=
  ⟨issues, by decide⟩

/-- Shape words in g1 (M = N = K = 1, INT8) and g2 (the same with ACC), reserved in g3, an absent pair in g4; the tag in force is 2 × 1. -/
def shapes : State := withCore (fun c =>
  { setThr c 1 { thread1 with regs := [(2, 0x100000000#64), (3, 0x8000000000000000#64), (4, 0x50000000#64)] } with
    mtx := { c.mtx with lease := some 1, curI := { type := 1, m := 2, n := 1 } } })
theorem witness_queue : Ready at1 attMtx shapes ∧ (Claims.core shapes at1).mtx.lease = some (th at1) ∧ (Claims.core shapes at1).mtx.dying = false ∧
    (Claims.core shapes at1).mtx.queue.length < 4 ∧ (0#4).toNat < layTiles (Claims.core shapes at1).mtx.layout ∧
    layTiles (Claims.core shapes at1).mtx.layout ≤ (15#4).toNat ∧
    shapeResv (reg shapes at1 3#5) = true ∧ shapeResv (reg shapes at1 1#5) = false ∧
    (bits (reg shapes at1 1#5) 27 24 = 0 ∧ bits (reg shapes at1 1#5) 31 28 = 0) ∧ 1 ≤ layRows (Claims.core shapes at1).mtx.layout ∧
    1 ≤ layRow (Claims.core shapes at1).mtx.layout ∧ (reg shapes at1 1#5).getLsbD 32 = false ∧ (reg shapes at1 2#5).getLsbD 32 = true ∧
    (Claims.core shapes at1).mtx.curI.type ≠ 0 ∧ (Claims.core shapes at1).mtx.curI ≠ { type := 1, m := 1, n := 1 } ∧
    shapeResv (reg shapes at1 4#5) = false ∧ (bits (reg shapes at1 4#5) 27 24 = 0 ∧ bits (reg shapes at1 4#5) 31 28 = 5) :=
  ⟨issues, by decide⟩

/-- Drain words: g1 into a tile; g2 to the scratchpad at g3. -/
def drains : State := withCore (fun c =>
  { setThr c 1 { thread1 with regs := [(2, 0x40#64), (3, 0x1000#64)] } with mtx := { c.mtx with lease := some 1 } })
theorem witness_drain : Ready at1 attMtx drains ∧ drainResv (reg drains at1 1#5) = false ∧ (reg drains at1 1#5).getLsbD 6 = false ∧
    drainRows (reg drains at1 1#5) (Claims.core drains at1).mtx.drnI ≤ layRows (Claims.core drains at1).mtx.layout ∧
    drainCols (reg drains at1 1#5) (Claims.core drains at1).mtx.drnI * ((drainFmt (reg drains at1 1#5)).bits / 8) ≤ layRow (Claims.core drains at1).mtx.layout ∧
    drainResv (reg drains at1 2#5) = false ∧ (reg drains at1 2#5).getLsbD 6 = true ∧ (reg drains at1 3#5).toNat % 64 = 0 ∧
    (reg drains at1 3#5).toNat + (drainRows (reg drains at1 2#5) (Claims.core drains at1).mtx.drnI - 1) * bits (reg drains at1 2#5) 55 32 +
      drainCols (reg drains at1 2#5) (Claims.core drains at1).mtx.drnI * ((drainFmt (reg drains at1 2#5)).bits / 8) ≤ 0x280000 :=
  ⟨issues, by decide⟩

/-- An engine with a product, or a drain, at the head of its queue; with a poisoned row 0 of tile 0. -/
def queued (op : MqOp) (p : List Nat) : State := engine { Mtx.reset with queue := [{ id := 0, op := op }], poison := p }
theorem witness_engine : (queued (.mma 0 1 0#64) []).ordered = true ∧ coreOn (queued (.mma 0 1 0#64) []) 0 = true ∧
    (getCore (queued (.mma 0 1 0#64) []) 0).sup.stopped = false ∧ (getCore (queued (.mma 0 1 0#64) []) 0).mtx.rows = [] ∧
    rowBad (getCore (queued (.mma 0 1 0#64) []) 0).mtx 0 0 = false ∧ rowBad (getCore (queued (.mma 0 1 0#64) []) 0).mtx 1 0 = false ∧
    rowBad (getCore (queued (.mma 0 1 0#64) [0]) 0).mtx 0 0 = true ∧
    (getCore (queued (.drain 0 0#64 0 0 0) []) 0).mtx.queue = [{ id := 0, op := .drain 0 0#64 0 0 0 }] := by decide
theorem witness_product : 63 < 64 ∧ bits 0x100000000#64 27 24 = 0 ∧ bits 0x100000000#64 31 28 = 0 := by decide

/-- R134, R164: one product of INT8 elements, −2 × 3 = −6. -/
def tiles : Mtx := { Mtx.reset with tile := [(0, 0xFE#8 :: List.replicate 63 0#8), (64, 3#8 :: List.replicate 63 0#8)] }
theorem test_mma : accAt (mmaAcc tiles 0 1 (shapeOf 0#64)) 0 0 = BitVec.ofInt 32 (-6) := by decide +kernel

/-- Descriptors of one row: at g1 = 0x1000 with stride 0 (g2 = 0 for `t.ld`, `t.st`). -/
def tileThread : State := withCore (fun c => { setThr c 1 { thread1 with regs := [(1, 0x1000#64)] } with mtx := { c.mtx with lease := some 1 } })
theorem witness_tiles : Ready at1 attMtx tileThread ∧ (0#4).toNat < layTiles (Claims.core tileThread at1).mtx.layout ∧
    bits (reg tileThread at1 2#5) 13 8 + (bits (reg tileThread at1 2#5) 5 0 + 1) ≤ layRows (Claims.core tileThread at1).mtx.layout ∧
    lineBusy (Claims.core tileThread at1).mtx 0 2 true = false ∧ (Claims.core tileThread at1).mtx.queue = [] ∧
    (thr tileThread at1).prog.getLsbD 63 = false ∧ descResv (reg tileThread at1 2#5) false = false ∧
    (∀ i < 1, Local tileThread at1 0x1000 (layRow (Claims.core tileThread at1).mtx.layout) false) ∧
    (∀ i < 1, Local tileThread at1 0x1000 (layRow (Claims.core tileThread at1).mtx.layout) true) ∧
    (∀ k < layRows (Claims.core tileThread at1).mtx.layout, rowBad (Claims.core tileThread at1).mtx 0 k = false) ∧
    (∀ l, (getLine (Claims.core tileThread at1).mtx l).length = 64) ∧ descResv (reg tileThread at1 2#5) true = false ∧
    (reg tileThread at1 1#5).toNat % (layRow (Claims.core tileThread at1).mtx.layout / 2) = 0 ∧
    (reg tileThread at1 1#5).toNat % (layRow (Claims.core tileThread at1).mtx.layout / 32) = 0 ∧
    Local tileThread at1 0x1000 (layRow (Claims.core tileThread at1).mtx.layout / 2) false ∧
    Local tileThread at1 0x1000 (layRow (Claims.core tileThread at1).mtx.layout / 32) false :=
  ⟨issues, by decide, by decide, by decide, by decide, by decide, by decide,
    fun _ _ => inPlace, fun _ _ => inPlace, by decide, fun _ => rfl, by decide, by decide,
    by decide, inPlace, inPlace⟩

/-- A row that has come in. -/
def row0 (bad : Bool) : TileRow := { id := 0, kind := 0, line := 0, bytes := 128, row := [.got (List.replicate 128 1#8) bad], scl := [], data := [], bad := false }
def landing (bad : Bool) : State := engine { Mtx.reset with rows := [row0 bad] }
theorem witness_row_land : (landing true).ordered = true ∧ coreOn (landing true) 0 = true ∧ (getCore (landing true) 0).sup.stopped = false ∧
    (getCore (landing true) 0).mtx.rows[0]? = some (row0 true) ∧ (row0 true).row = [(List.replicate 128 1#8, true)].map (fun d => .got d.1 d.2) ∧ (row0 true).scl = [] ∧
    (row0 true).kind = 0 := by decide
theorem test_row_land : nextIs (exec (.tileRowLand 0#13 0) (landing true)) (fun t => rowBad (getCore t 0).mtx 0 0 && (getCore t 0).mtx.rows == [] &&
    (getCore t 0).mtx.poisonRows == 1) = true := by decide +kernel
def userMatrix : State := withCore (fun c => setThr c 1 { thread1 with mode := .user })
theorem witness_context : Ready at1 attMtx userMatrix ∧ (thr userMatrix at1).mode = .user ∧ Before at1 attMtx running1 ∧
    (thr running1 at1).mode = .supervisor ∧ (reg running1 at1 31#5).toNat % 64 = 0 ∧ (Claims.core running1 at1).mtx.rows = [] ∧
    Local running1 at1 0x1000 0x10A80 true ∧ Local running1 at1 0x1000 0x10A80 false ∧ (Claims.core running1 at1).mtx.poison = [] ∧
    (curLanes (Claims.core running1 at1).mtx).length = 64 ∧ (∀ l, (getLine (Claims.core running1 at1).mtx l).length = 64) ∧
    Ready at1 (attOut 0xC10) running1 ∧ Ready at1 (attOut 0xC18) running1 ∧ (0#64).getLsbD 9 = false :=
  ⟨issues, by decide,
    begun, by decide, by decide, by decide,
    inPlace, inPlace, by decide, by decide +kernel, fun _ => rfl,
    issues, issues, by decide⟩
theorem test_csave_user : nextIs (exec (.tCsave at1 31#5) userMatrix) (fun t => (t1 t).lastCause == 2) = true := by decide +kernel

/-- The image of zeros at 0 has no reserved bit set. -/
theorem witness_restore : imageResv (wordsOf 16 (List.replicate 128 0#8)) = false := by decide +kernel

/-! ### Tile rows, gathers, fills; windows, credits, remote writes -/

theorem witness_tile_rows : Ready at1 attVmem leased ∧ bits (reg leased at1 2#5) 6 0 < layRows (Claims.core leased at1).mtx.layout ∧
    (0#4).toNat < layTiles (Claims.core leased at1).mtx.layout ∧ lineBusy (Claims.core leased at1).mtx 0 2 true = false ∧ rowBad (Claims.core leased at1).mtx 0 3 = false ∧ Ready at1 attVmem (engine { Mtx.reset with poison := [3] }) :=
  ⟨issues, by decide, by decide, by decide, by decide, issues⟩
theorem witness_poisoned_row : ((List.range 512).any (fun p => rowBad { Mtx.reset with poison := [p] } 0 3)) = true := by decide +kernel
theorem witness_gather : Ready at1 attVmem running1 ∧ noWatch running1 at1 ∧ (thr running1 at1).dbg.pend = none ∧ (reg running1 at1 2#5).toNat < 5 ∧
    (∀ i < 32, (reg running1 at1 31#5 + (BitVec.ofNat 32 ((elems 32 (vec running1 at1 0#4)).getD i 0)).signExtend 64 * BitVec.ofNat 64 2).toNat % 2 = 0) ∧
    (laneFmt (reg running1 at1 2#5).toNat).bits / 8 = 2 ∧ Local running1 at1 0x1000 2 false ∧ Local running1 at1 0x1000 2 true :=
  ⟨issues, rfl, by decide, by decide, by decide +kernel, by decide, inPlace,
    inPlace⟩
def fillThread : State := withThread { thread1 with regs := [(1, 128#64), (2, 3#64), (31, 0x1000#64)] }
theorem witness_fill : Before at1 attMem fillThread ∧ noWatch fillThread at1 ∧ (thr fillThread at1).prog.getLsbD 63 = false ∧
    (reg fillThread at1 31#5).toNat % 64 = 0 ∧ bits (reg fillThread at1 1#5) 31 0 % 64 = 0 ∧ Local fillThread at1 0x1000 128 true :=
  ⟨begun, rfl, by decide, by decide, by decide,
    inPlace⟩

/-- g1: base 0x1000, size 0x1000; g2: window 0, one credit, this module. g3 a base that is not a multiple of 64; g4 one that meets the last-resort
slots; g5 = 0: no credit. Window 1 is open at 0x1000. -/
def windowThread (f : Core → Core) : State := withCore (fun c => setThr (f c) 1 { thread1 with
  regs := [(1, 0x100000001000#64), (2, 0x102000000#64), (3, 0x100000001001#64), (4, 0x10000007F800#64)] })
def windowOpen (c : Core) : Core := setWin c 1 { Window.closed with opened := true, base := 0x1000, size := 0x1000, maxCredits := 1 }
theorem witness_window : Ready at1 attPort (windowThread id) ∧
    (let s := windowThread id
     let a := reg s at1 1#5
     let b := reg s at1 2#5
     (getWin (Claims.core s at1) (bits b 3 0)).opened = false ∧ (bits a 21 0 % 64 = 0 ∧ bits a 53 32 % 64 = 0 ∧ bits a 53 32 ≠ 0 ∧ bits a 21 0 + bits a 53 32 ≤ 0x280000) ∧
      (∀ j < 16, (getWin (Claims.core s at1) j).opened = false) ∧ ¬(bits a 21 0 < 0x80000 ∧ 0x7F800 < bits a 21 0 + bits a 53 32) ∧
      (bits a 63 54 = 0 ∧ bits a 31 22 = 0 ∧ bits b 63 39 = 0 ∧ bits b 31 27 = 0 ∧ bits b 7 4 = 0 ∧ 1 ≤ bits b 38 32 ∧ bits b 38 32 ≤ 64 ∧
        (b.getLsbD 24 = true → bits b 23 8 = 0) ∧ (b.getLsbD 25 = true ∨ b.getLsbD 26 = true)) ∧
      bits (reg s at1 3#5) 21 0 % 64 ≠ 0 ∧ (bits (reg s at1 4#5) 21 0 < 0x80000 ∧ 0x7F800 < bits (reg s at1 4#5) 21 0 + bits (reg s at1 4#5) 53 32)) :=
  ⟨issues, by decide⟩
theorem witness_window_meets : (let s := windowThread windowOpen
     (getWin (Claims.core s at1) 1).opened = true ∧ (getWin (Claims.core s at1) 1).base < 0x2000 ∧ 0x1000 < (getWin (Claims.core s at1) 1).base + (getWin (Claims.core s at1) 1).size ∧
      winCredits (Claims.core s at1) 1 = []) ∧
    (let s := windowThread (fun c => setCred (windowOpen c) 5 (.held 1 0 9 (.dma 0#2) 0 64 0 ⟨0#12, 0#4⟩))
     winCredits (Claims.core s at1) 1 = [(5, 0, 9, .dma 0#2)]) := by decide +kernel
theorem test_lwopen : nextIs (exec (.lwopen at1 3#5 1#5 2#5) (windowThread id)) (fun t => greg (t1 t) 3 == 0#64 && (getWin (getCore t 0) 0).opened) = true ∧
    nextIs (exec (.lwopen at1 3#5 1#5 2#5) (windowThread windowOpen)) (fun t => greg (t1 t) 3 == 3#64 && !(getWin (getCore t 0) 0).opened) = true := by
  decide +kernel

/-! ### Credits and remote writes -/

/-- A request for 64 bytes at 0x1000 of window 1. -/
def asks (off : Nat) : Packet := pkt (.core 9) (.core 0) (.creditReq 9 (.dma 0#2) 0 0 1 off 64 ⟨0#12, 0#4⟩)
def wide (c : Core) : Core := setWin c 1 { Window.closed with opened := true, base := 0x1000, size := 0x1000, maxCredits := 2, ownPair := true, thisModule := true }
theorem witness_credit_request :
    (let s := withPacket (asks 0x1000) id; s.ordered = true ∧ mayArrive s 0 = s.net.head? ∧ coreOn s 0 = true ∧ (getWin (getCore s 0) 1).opened = false) ∧
    (let s := withPacket (asks 0x1000) windowOpen; (getWin (getCore s 0) 1).opened = true ∧ (getWin (getCore s 0) 1).thisModule = false) ∧
    (let s := withPacket (asks 0x1000) (fun c => setWin (wide c) 1 { getWin (wide c) 1 with ownPair := false, pair := ⟨1#12, 0#4⟩ })
     (getWin (getCore s 0) 1).opened = true ∧ (getWin (getCore s 0) 1).thisModule = true ∧ (⟨0#12, 0#4⟩ : Pair) ≠ (getWin (getCore s 0) 1).pair) ∧
    (let s := withPacket (asks 0x1FC1) wide; ¬((getWin (getCore s 0) 1).base ≤ 0x1FC1 ∧ 0x1FC1 + 64 ≤ (getWin (getCore s 0) 1).base + (getWin (getCore s 0) 1).size)) ∧
    (let s := withPacket (asks 0x1FC0) wide; moduleId s = 0 ∧ (getWin (getCore s 0) 1).base ≤ 0x1FC0 ∧
      0x1FC0 + 64 ≤ (getWin (getCore s 0) 1).base + (getWin (getCore s 0) 1).size ∧ (winCredits (getCore s 0) 1).length < (getWin (getCore s 0) 1).maxCredits ∧
      getCred (getCore s 0) 0 = .free ∧ (getCore s 0).sup.pair = ⟨0#12, 0#4⟩) ∧
    (let s := withPacket (asks 0x1FC0) (fun c => setCred (setWin (wide c) 1 { getWin (wide c) 1 with maxCredits := 1 }) 0 (.held 1 0 9 (.dma 0#2) 0x1000 64 0 ⟨0#12, 0#4⟩))
     ¬(winCredits (getCore s 0) 1).length < (getWin (getCore s 0) 1).maxCredits) := by decide +kernel
theorem test_credit_grant : nextIs (exec (.creditReq 0) (withPacket (asks 0x1FC0) wide)) (fun t => t.net.map (·.body) == [.creditGrant (.dma 0#2) 0]) = true ∧
    nextIs (exec (.creditReq 0) (withPacket (asks 0x1000) id)) (fun t => t.net.map (·.body) == [.creditRefuse (.dma 0#2) 1]) = true := by decide +kernel

/-- Channel 0 of core 0, which writes to core 9 of the module, with a credit in a state. -/
def creditChan (k : CreditSt) (c : Core) : Core :=
  setChan c 0 { Chan.reset with st := 1, started := true, credit := k, desc := [1#64, 0#64, 0x900#64, 0#64, 0#64, 0#64, 0#64, 0#64] }
theorem witness_credit_answers :
    (let s := withPacket (pkt (.core 9) (.core 0) (.creditGrant (.dma 0#2) 3)) (creditChan (.asked 0 none))
     s.ordered = true ∧ mayArrive s 0 = s.net.head? ∧ engCredit (getCore s 0) (.dma 0#2) = .asked 0 none ∧
      engTarget s (getCore s 0) (.dma 0#2) = some (.core 9) ∧ (∀ b ∈ s.net, behindMessage (getCore s 0) b.body = false)) ∧
    (let s := withPacket (pkt (.core 8) (.core 0) (.creditGrant (.dma 0#2) 3)) (creditChan (.asked 0 none))
     mayArrive s 0 = s.net.head? ∧ engTarget s (getCore s 0) (.dma 0#2) ≠ some (.core 8)) ∧
    (let s := withPacket (pkt (.core 9) (.core 0) (.creditRefuse (.dma 0#2) 5)) (creditChan (.asked 0 (some 4999)))
     mayArrive s 0 = s.net.head? ∧ engCredit (getCore s 0) (.dma 0#2) = .asked 0 (some 4999)) ∧
    (let s := withPacket (pkt (.core 9) (.core 0) (.creditRevoke (.dma 0#2) 3)) (creditChan (.held 3))
     mayArrive s 0 = s.net.head? ∧ engCredit (getCore s 0) (.dma 0#2) = .held 3 ∧ engTarget s (getCore s 0) (.dma 0#2) = some (.core 9)) ∧
    (let s := withCore (creditChan (.again 4999)); engCredit (getCore s 0) (.dma 0#2) = .again 4999 ∧ engRuns (getCore s 0) (.dma 0#2) = true ∧
      coreOn s 0 = true ∧ (getCore s 0).sup.stopped = false) ∧
    (let s := withCore (creditChan (.asked 50000 none)); engCredit (getCore s 0) (.dma 0#2) = .asked 50000 none) ∧
    (let s := withCore (fun c => setCred c 3 (.quarantine 21000)); getCred (getCore s 0) 3 = .quarantine 21000) := by decide +kernel

/-- Eight bytes that come in under credit 0, held over 64 bytes at 0x1000. -/
def writes (off : Nat) (sig : Option RSig) (done : Nat) : State :=
  withPacket (pkt (.core 9) (.core 0) (.remoteWrite 9 (.dma 0#2) 0 off ⟨0#12, 0#4⟩ (List.replicate 8 7#8) true sig 0))
    (fun c => setCred (wide c) 0 (.held 1 0 9 (.dma 0#2) 0x1000 64 done ⟨0#12, 0#4⟩))
theorem witness_remote_write :
    (let s := writes 0x1000 none 0; s.ordered = true ∧ mayArrive s 0 = s.net.head? ∧ coreOn s 0 = true ∧
      getCred (getCore s 0) 0 = .held 1 0 9 (.dma 0#2) 0x1000 64 0 ⟨0#12, 0#4⟩ ∧ 0x1000 + 8 ≤ 0x1000 + 64 ∧ 0 + 8 < 64) ∧
    (let s := writes 0x1038 (some { mode := 1#2, cnt := 3#6 }) 56; mayArrive s 0 = s.net.head? ∧ 0x1038 + 8 ≤ 0x1000 + 64 ∧ 64 ≤ 56 + 8) ∧
    ¬(0x103C + 8 ≤ 0x1000 + 64) := by decide +kernel
theorem test_remote_write : nextIs (exec (.remoteWrite 0) (writes 0x1038 (some { mode := 1#2, cnt := 3#6 }) 56)) (fun t =>
    readBytes (getCore t 0).spad.mem 0x1038 8 == List.replicate 8 7#8 && getCred (getCore t 0) 0 == .free && (getSc (getCore t 0) 3).value == 8 &&
    t.net.map (·.body) == [.landingAck (.dma 0#2) 0]) = true := by decide +kernel
theorem witness_landing_ack :
    (let s := withPacket (pkt (.core 9) (.core 0) (.landingAck (.dma 0#2) 3)) (creditChan (.held 3))
     mayArrive s 0 = s.net.head? ∧ engTarget s (getCore s 0) (.dma 0#2) = some (.core 9) ∧ (getChan (getCore s 0) 0).started = true ∧ (getChan (getCore s 0) 0).nxt = ddLen (getChan (getCore s 0) 0).desc) ∧
    (let d : Desc := { w := [0#64, 0#64, 0x900#64], thread := 1#4, mode := .user }
     let s := withPacket (pkt (.core 9) (.core 0) (.landingAck (.slot 2#3) 3)) (fun c => setSlot c 2 { Slot.reset with st := 1, queue := [d], started := true, credit := .held 3, nxt := sdUnits d.w })
     s.ordered = true ∧ mayArrive s 0 = s.net.head? ∧ engTarget s (getCore s 0) (.slot 2#3) = some (.core 9) ∧
      (getSlot (getCore s 0) 2).queue = [d] ∧ (getSlot (getCore s 0) 2).nxt = sdUnits d.w ∧
      (getSlot (getCore s 0) 2).got = [] ∧ slotOuts (getCore s 0) 2 = [] ∧ sdCntEn d.w = false) := by decide +kernel
theorem witness_window_requests :
    (let s := withPacket (pkt (.core 9) (.core 0) (.read 4 (.spad 0 0x100) 8 (.tile 9))) id; mayArrive s 0 = s.net.head? ∧
      badIn (getCore s 0).spad.ue 0x100 8 = [] ∧ badIn (getCore s 0).spad.ce 0x100 8 = []) ∧
    (let s := withPacket (pkt (.core 9) (.core 0) (.write 4 (.spad 0 0x100) [(0, [1#8])] [] (.tile 9))) id; mayArrive s 0 = s.net.head?) ∧
    (let p := (getCore running1 0).spad
     badIn p.ue p.scrubPos 64 = [] ∧ badIn p.ce p.scrubPos 64 = [] ∧ p.scrubPos % 64 = 0) ∧ frozen (getCore running1 0) = false := by decide +kernel

/-! ### Streams, counters, DMA -/

/-- Descriptors: STORE of 64 bytes in one segment; LOAD_LOCAL of 64 bytes from 0x2000 to 0x1000; one of a reserved kind. -/
def storeDesc : Desc := { w := [0x6002#64, 0x2000#64, 0x1000#64, 64#64, 1#64, 1#64, 1#64, 1#64], thread := 1#4, mode := .supervisor }
def loadDesc : Desc := { w := [0x6000#64, 0x2000#64, 0x1000#64, 0x100000040#64, 1#64, 1#64, 1#64, 1#64], thread := 1#4, mode := .supervisor }
def badDesc : Desc := { w := [0x6003#64, 0x2000#64, 0x1000#64, 64#64, 1#64, 1#64, 1#64, 1#64], thread := 1#4, mode := .supervisor }
def slots (q : Slot) : State := withCore (fun c => setSlot c 2 q)
def runSlot (d : Desc) : Slot := { Slot.reset with st := 1, queue := [d] }
theorem witness_stream_queue : Ready at1 attMem running1 ∧ noWatch running1 at1 ∧ (reg running1 at1 1#5).toNat % 64 ≠ 0 ∧
    ((reg fillThread at1 31#5).toNat % 64 = 0 ∧ 0x1000 + 64 ≤ 0x280000) ∧ badIn (Claims.core running1 at1).spad.ue 0x1000 64 = [] ∧
    (getSlot (Claims.core running1 at1) 2).queue.length < 4 :=
  ⟨issues, rfl, by decide⟩
def edgeThread : State := withThread { thread1 with regs := [(1, 0x280000#64)] }
theorem witness_stream_queue_outside : Ready at1 attMem edgeThread ∧ (reg edgeThread at1 1#5).toNat % 64 = 0 ∧ 0x280000 < (reg edgeThread at1 1#5).toNat + 64 :=
  ⟨issues, by decide⟩
def markedThread : State := withCore (fun c => { c with spad := { c.spad with ue := [0x1038 / 8] } })
theorem witness_stream_queue_bad : Ready at1 { attStream with mem := true } markedThread ∧ (reg markedThread at1 31#5).toNat % 64 = 0 ∧
    badIn (Claims.core markedThread at1).spad.ce 0x1000 64 = [] ∧ badIn (Claims.core markedThread at1).spad.ue 0x1000 64 ≠ [] :=
  ⟨issues, by decide⟩
theorem witness_stream_wait : Ready at1 attUnit (slots Slot.reset) ∧ (getSlot (Claims.core (slots Slot.reset) at1) 2).queue = [] ∧
    Ready at1 attUnit (slots (runSlot storeDesc)) ∧
    (let s := slots { runSlot storeDesc with started := true }
     (getSlot (Claims.core s at1) 2).queue ≠ [] ∧ segAvail (Claims.core s at1) 2 (getSlot (Claims.core s at1) 2).rel = true ∧ (getSlot (Claims.core s at1) 2).st = 1 ∧
      (Claims.core s at1).mtx.rows = []) ∧ segAvail (Claims.core (slots (runSlot storeDesc)) at1) 2 0 = false :=
  ⟨issues, by decide, issues, by decide⟩
theorem witness_stream_control : Ready at1 (attOut (0x810 + 0x18 * 2)) (slots Slot.reset) ∧ (getSlot (Claims.core (slots Slot.reset) at1) 2).st ≠ 1 ∧
    (let s := withCore (fun c => { setSlot c 2 (runSlot loadDesc) with outs := [{ id := 1, kind := .stream 2#3 false 0 64 false }] })
     (getSlot (Claims.core s at1) 2).st = 1 ∧ (getSlot (Claims.core s at1) 2).stopping = none ∧ slotOuts (Claims.core s at1) 2 ≠ []) ∧
    (let s := slots { runSlot loadDesc with st := 2, queue := [loadDesc, storeDesc] }
     (getSlot (Claims.core s at1) 2).st = 2 ∧ (getSlot (Claims.core s at1) 2).queue = [loadDesc, storeDesc] ∧ (getSlot (Claims.core s at1) 2).early = false) ∧
    Ready at1 (attOut 0x8C0) running1 :=
  ⟨issues, by decide, by decide, by decide, issues⟩
theorem witness_stream_start : (let s := slots (runSlot loadDesc)
     s.ordered = true ∧ coreOn s 0 = true ∧ (getSlot (getCore s 0) 2).queue = [loadDesc] ∧ (getCore s 0).sup.stopped = false ∧
      (getSlot (getCore s 0) 2).started = false ∧ sdCheck s loadDesc.mode loadDesc.w = 0) ∧ sdCheck running1 badDesc.mode badDesc.w ≠ 0 := by decide +kernel
theorem witness_stream_response :
    (let s := withPacket (pkt (.stack 0) (.core 0) (.readData 1 (List.replicate 64 0#8) [] false)) (fun c =>
       { setSlot c 2 { runSlot loadDesc with started := true, nxt := 64 } with outs := [{ id := 1, kind := .stream 2#3 false 0 64 false }] })
     mayArrive s 0 = s.net.head? ∧ (findOut (getCore s 0) 1).map (·.kind) = some (.stream 2#3 false 0 64 false)) ∧
    (let s := withPacket (pkt (.stack 0) (.core 0) (.writeAck 1)) (fun c =>
       { setSlot c 2 { runSlot storeDesc with started := true, nxt := 64 } with outs := [{ id := 1, kind := .stream 2#3 false 0 64 true }] })
     mayArrive s 0 = s.net.head? ∧ (findOut (getCore s 0) 1).map (·.kind) = some (.stream 2#3 false 0 64 true)) := by decide +kernel
/-- R248: a reserved kind fails the first check, ERR 1, and the slot is FAULTED (3). -/
theorem test_stream_bad : nextIs (exec (.streamDescStart 0#13 2#3) (slots (runSlot badDesc))) (fun t => (getSlot (getCore t 0) 2).err == 1 &&
    (getSlot (getCore t 0) 2).st == 3) = true := by decide +kernel

theorem witness_counters : Ready at1 attUnit running1 ∧ relBusy (Claims.core running1 at1) (th at1) = false ∧ (getSc (Claims.core running1 at1) 3).value + 5 < 2 ^ 32 ∧
    (let s := withCore (fun c => setSc c 3 { Counter.reset with value := 2 ^ 32 - 5 }); 2 ^ 32 ≤ (getSc (Claims.core s at1) 3).value + (reg s at1 1#5).toNat) ∧
    (reg running1 at1 3#5).toNat ≤ (getSc (Claims.core running1 at1) 3).value ∧ (getSc (Claims.core running1 at1) 3).value < (reg running1 at1 1#5).toNat ∧
    Ready at1 (attOut (0x600 + 8 * 3)) running1 ∧ Ready at1 attPort running1 :=
  ⟨issues, by decide, by decide, by decide, by decide, by decide, issues,
    issues⟩
/-- Signal words: counter 3 of core 0 of this module (g1), of core 1 (g2), a reserved bit (g4). -/
def signals : State := withThread { thread1 with regs := [(1, 0x30000#64), (2, 0x30001#64), (4, 0x8000000000030000#64)] }
theorem witness_signal_words : sigWordOk signals 0 .supervisor (reg signals at1 1#5) = true ∧ sigWordOk signals 0 .supervisor (reg signals at1 2#5) = true ∧
    sigWordOk signals 0 .supervisor (reg signals at1 4#5) = false ∧ bits (reg signals at1 1#5) 31 24 = moduleId signals ∧
    bits (reg signals at1 1#5) 12 0 = co at1 ∧ bits (reg signals at1 2#5) 12 0 ≠ co at1 := by decide
theorem witness_signal_arrival :
    (let s := withPacket (pkt (.core 9) (.core 0) (.signal 3#6 1#32 ⟨0#12, 0#4⟩ 9)) id
     s.ordered = true ∧ mayArrive s 0 = s.net.head? ∧ coreOn s 0 = true ∧ (getCore s 0).sup.pair = ⟨0#12, 0#4⟩) ∧
    (let s := withPacket (pkt (.core 9) (.core 0) (.signal 3#6 1#32 ⟨5#12, 0#4⟩ 9)) id; mayArrive s 0 = s.net.head? ∧ (getCore s 0).sup.pair ≠ ⟨5#12, 0#4⟩) ∧
    (let s := withPacket (pkt (.core 9) (.core 0) (.atomic 4 (.spad 0 0x100) .add true 5#64 0#64 (.tile 9))) id
     mayArrive s 0 = s.net.head? ∧ badIn (getCore s 0).spad.ue 0x100 8 = [] ∧ badIn (getCore s 0).spad.ce 0x100 8 = [] ∧
      (∀ b ∈ s.net, behindMessage (getCore s 0) b.body = false)) := by decide +kernel
/-- R354: a sum past the largest value stays there and sets OVF. -/
theorem test_sc_saturates : nextIs (exec (.scAdd at1 1#5 3#6 false) (withCore (fun c => setSc c 3 { Counter.reset with value := 2 ^ 32 - 5 })))
    (fun t => (getSc (getCore t 0) 3).value == 2 ^ 32 - 1 && (getSc (getCore t 0) 3).ovf) = true := by decide +kernel
theorem test_sc_under : nextIs (exec (.scSub at1 1#5 3#6 false) running1) (fun t => (getSc (getCore t 0) 3).value == 0 && (getSc (getCore t 0) 3).under &&
    (getCore t 0).sup.evq.length == 1) = true := by decide +kernel
/-- R362: a signal of another pair is dropped and counted. -/
theorem test_stale_signal : nextIs (exec (.signalArrival 0) (withPacket (pkt (.core 9) (.core 0) (.signal 3#6 1#32 ⟨5#12, 0#4⟩ 9)) id))
    (fun t => (getSc (getCore t 0) 3).value == 0 && (getSc (getCore t 0) 3).staleSig == 1) = true := by decide +kernel

def chans (q : Chan) : State := withCore (fun c => setChan c 1 q)
theorem witness_dma_start : Ready at1 attStream running1 ∧ (reg running1 at1 1#5).toNat % 64 ≠ 0 ∧ Ready at1 attStream edgeThread ∧
    (reg running1 at1 31#5).toNat % 64 = 0 ∧ (getChan (Claims.core running1 at1) 1).st = 0 ∧ (getChan (Claims.core (chans { Chan.reset with st := 1 }) at1) 1).st ≠ 0 :=
  ⟨issues, by decide, issues, by decide⟩
/-- A COPY descriptor without link. -/
def copyDesc : List Word := [0#64, 0x1000#64, 0x2000#64, 64#64, 0#64, 0#64, 0#64, 0#64]
theorem witness_dma_control : Ready at1 (attOut (0x918 + 0x40 * 1)) running1 ∧
    (let s := withCore (fun c => { setChan c 1 { Chan.reset with st := 1 } with outs := [{ id := 1, kind := .dma 1#2 0 64 false [] }] })
     (getChan (Claims.core s at1) 1).st = 1 ∧ (getChan (Claims.core s at1) 1).stopping = none ∧ chanOuts (Claims.core s at1) 1 ≠ []) ∧
    (let q := getChan (Claims.core (chans { Chan.reset with st := 2, started := true, desc := copyDesc }) at1) 1
     q.st = 2 ∧ q.started = true ∧ q.desc ≠ [] ∧ ddWb q.desc = false) :=
  ⟨issues, by decide⟩
theorem witness_dma_fetch :
    (let s := chans { Chan.reset with st := 1, cur := 0x1000 }
     s.ordered = true ∧ coreOn s 0 = true ∧ (getCore s 0).sup.stopped = false ∧ (getChan (getCore s 0) 1).st = 1 ∧ (getChan (getCore s 0) 1).desc = [] ∧
      (getChan (getCore s 0) 1).stopping = none ∧ (getChan (getCore s 0) 1).cur + 64 ≤ 0x280000 ∧ badIn (getCore s 0).spad.ue 0x1000 64 = [] ∧
      badIn (getCore s 0).spad.ce 0x1000 64 = []) ∧
    (let s := chans { Chan.reset with st := 1, cur := 0x280000 - 63 }; 0x280000 < (getChan (getCore s 0) 1).cur + 64) := by decide
theorem witness_dma_done :
    (let s := chans { Chan.reset with st := 1, started := true, desc := copyDesc, nxt := ddLen copyDesc }
     let q := getChan (getCore s 0) 1
     q.st = 1 ∧ q.stopping = none ∧ q.started = true ∧ chanOuts (getCore s 0) 1 = [] ∧ q.again = [] ∧ q.nxt = ddLen q.desc ∧ ddKind q.desc = 0 ∧
      ddRsigEn q.desc = false ∧ ddWb q.desc = false) := by decide
theorem witness_dma_responses :
    (let s := withPacket (pkt (.stack 0) (.core 0) (.writeAck 1)) (fun c =>
       { setChan c 1 { Chan.reset with st := 1, started := true, desc := copyDesc } with outs := [{ id := 1, kind := .dma 1#2 0 64 true [] }] })
     mayArrive s 0 = s.net.head? ∧ (findOut (getCore s 0) 1).map (·.kind) = some (.dma 1#2 0 64 true [])) := by decide +kernel
/-- A REMOTE descriptor; reads of 64 bytes answered for channel 1. -/
def remoteDesc : List Word := [1#64, 0x1000#64, 0x900#64, 64#64, 0#64, 0#64, 0#64, 0#64]
def reads (d : List Word) : State :=
  withPacket (pkt (.stack 0) (.core 0) (.readData 1 [7#8] [] false)) (fun c =>
    { setChan c 1 { Chan.reset with st := 1, started := true, desc := d } with outs := [{ id := 1, kind := .dma 1#2 0 64 false [] }] })
theorem witness_dma_reads : ddSrcFix (0x10#64 :: copyDesc.drop 1) = true ∧ ∀ d ∈ [0x10#64 :: copyDesc.drop 1, remoteDesc], let s := reads d
    s.ordered = true ∧ coreOn s 0 = true ∧ (getCore s 0).sup.stopped = false ∧ mayArrive s 0 = s.net.head? ∧
      (findOut (getCore s 0) 1).map (·.kind) = some (.dma 1#2 0 64 false []) ∧ (ddSrcFix d = true ∨ (ddSrcFix d = false ∧ ddKind d = 1)) := by
  decide +kernel
theorem witness_dma_retry : (let s := chans { Chan.reset with st := 1, started := true, desc := remoteDesc, again := [(0, 1, some [7#8])] }
    let q := getChan (getCore s 0) 1
    q.st = 1 ∧ q.stopping = none ∧ (chanOuts (getCore s 0) 1).length < 32 ∧ q.again[0]? = some (0, 1, some [7#8]) ∧ ddKind q.desc = 1) := by decide
theorem witness_dma_abort : (let s := withCore (fun c =>
      { setChan c 1 { Chan.reset with st := 1, stopping := some (2 ^ 64, .stopCmd) } with outs := [{ id := 1, kind := .dma 1#2 0 64 false [] }] })
    (getChan (getCore s 0) 1).st = 1 ∧ (getChan (getCore s 0) 1).stopping = some (2 ^ 64, .stopCmd) ∧ chanOuts (getCore s 0) 1 ≠ []) := by decide
theorem test_dm_start : nextIs (exec (.dmStart at1 3#5 1#2 31#5) running1) (fun t => greg (t1 t) 3 == 0#64 && (getChan (getCore t 0) 1).cur == 0x1000) = true := by decide +kernel

/-! ### Caches and translation -/

theorem witness_cache : Ready at1 (attOut 0xA10) running1 ∧ (thr running1 at1).mode = .supervisor ∧ serialBusy (Claims.core running1 at1) (th at1) = false ∧
    Ready at1 (attOut 0xA28) running1 ∧ cmoFillPending (Claims.core running1 at1) 0 = false ∧
    (let k := (Claims.core running1 at1).cache
     k.cmo = none ∧ k.cmoWait = [] ∧ rising k.d = true ∧ ∀ e ∈ k.d, e.1 < 1024) ∧ bits 0x40#64 7 6 ≠ 0 ∧ (0#64).getLsbD 5 = false ∧ bits 0#64 4 3 = 0 ∧
    (Claims.core running1 at1).cache.cmoAddr < 0x10000000000 ∧ bits 0x18#64 4 3 = 3 :=
  ⟨issues, by decide, by decide, issues, by decide⟩

/-- A page of HBM at the start of the translated range, and a locked line of it in way 1 of set 64. -/
def page : Tlb := { va := 0x10000000000, log2 := 30, addr := 0, comp := false, r := true, w := true, x := true, u := true, cls := 0 }
def line1 : DLine := { DLine.empty with valid := true, va := 0x10000001000, home := .hbm 0x1000, locked := true, data := List.replicate 64 0#8 }
def lockedLine : State := withCore (fun c => { c with
  xlt := { c.xlt with tlb := [page] }, cache := { c.cache with d := [(257, line1)], cmoAddr := 0x10000001000 } })
theorem witness_locked : Ready at1 (attOut 0xA10) lockedLine ∧
    (let k := (Claims.core lockedLine at1).cache
     0x10000000000 ≤ k.cmoAddr ∧ (∀ w < 4, (mget DLine.empty k.d (4 * (k.cmoAddr / 64 % 256) + w)).tagBad = false) ∧
      findLine k.d 256 k.cmoAddr = some (257, line1) ∧ line1.flips = [] ∧ line1.locked = true ∧ rising k.d = true ∧ ∀ e ∈ k.d, e.1 < 1024) :=
  ⟨issues, by decide⟩

def faulted (o : Bool) : State := withCore (fun c => setThr c 2 { Thread.reset with fsr := { Fsr.reset with reason := 2, outstanding := o } })
theorem witness_translation : Ready at1 (attOut 0xB08) running1 ∧ Ready at1 (attOut 0xB00) running1 ∧ Ready at1 (attOut 0xB18) running1 ∧
    (thrOf running1 (co at1) (bits 0x2000000000000#64 51 48)).fsr.reason = 0 ∧ Ready at1 (attOut 0xB18) (faulted false) ∧
    (thrOf (faulted false) (co at1) (bits 0x2000000000000#64 51 48)).fsr.reason ≠ 0 ∧
    (thrOf (faulted false) (co at1) (bits 0x2000000000000#64 51 48)).fsr.outstanding = false :=
  ⟨issues, issues, issues, by decide,
    issues, by decide⟩

/-- Tables at 0x1000 and 0x2000 that map the first GiB of the translated range; a walk of page 0x10000001 under way. -/
def walking : State := { withCore (fun c => { c with
  xlt := { c.xlt with root := 0x1001#64, walks := [{ page := 0x10000001, waiters := [] }] } }) with hbm := [(0x1010, 0x01#8), (0x1011, 0x20#8), (0x2000, 0x3F#8)] }
theorem witness_walk : walking.ordered = true ∧ running walking = true ∧ coreOn walking 0 = true ∧
    (getCore walking 0).xlt.walks[0]? = some { page := 0x10000001, waiters := [] } ∧
    (match walkFrom walking (getCore walking 0).xlt.root (0x10000001 * 4096) with | .ok _ => true | _ => false) = true := by decide +kernel
theorem test_walk : nextIs (exec (.walkComplete 0#13 0) walking) (fun t => (tlbFind (getCore t 0).xlt 0x10000001000).map (·.log2) == some 30 &&
    (getCore t 0).xlt.walks == []) = true := by decide +kernel

/-- Limjo link 0 UP, LJL_ENABLE 1, the fault ring in companion memory. -/
def linked (s : State) : State := { s with
  fab := { s.fab with ljl := [(0, 2)] }, dict := { s.dict with val := [(256 * 0x2010 + 3, some (2 ^ 63)), (256 * 0x5000 + 1, some 1)] } }
def record0 : FaultRec := { w0 := 1#64, w1 := 2#64, w2 := 3#64 }
theorem witness_fault_ring :
    (let s := linked (withPacket (pkt (.core 0) .disp (.faultRecord record0 1)) id)
     s.ordered = true ∧ running s = true ∧ mayArrive s 0 = s.net.head? ∧ s.disp.faultWait = [] ∧ faultRoom s = true ∧ linkUp s = true ∧
      ringPlace (dv s 0x2010 3 0) (32 * s.disp.faultTail) = .comp 0) ∧
    (let s := linked (withPacket (pkt (.core 0) .disp (.faultRecord record0 1)) id)
     faultRoom { s with disp := { s.disp with faultTail := 62, faultHead := 63 } } = false) ∧
    (let s := linked running1; windowOn s = true ∧ bits 0#64 55 48 = moduleId s % 256 ∧ bits 0#64 12 8 ≠ 31 ∧ bits 0#64 28 16 < gradeOf s) := by
  decide +kernel
theorem witness_fault_reply :
    (let s := withPacket (pkt .disp (.core 0) (.faultReply 2 7#8 ⟨0#12, 0#4⟩ true)) (fun c =>
       setThr c 2 { Thread.reset with fsr := { Fsr.reset with reason := 2, outstanding := true, seq := 7#8 } })
     s.ordered = true ∧ mayArrive s 0 = s.net.head? ∧ coreOn s 0 = true ∧ (getThr (getCore s 0) 2).fsr.outstanding = true ∧
      (getThr (getCore s 0) 2).fsr.seq = 7#8 ∧ (getThr (getCore s 0) 2).fsr.cntEn = false ∧ (getCore s 0).sup.pair = ⟨0#12, 0#4⟩) := by decide +kernel
theorem witness_shootdown :
    (let s := linked running1; windowOn s = true ∧ s.disp.shoot = none ∧ s.disp.shootWait = [] ∧ s.disp.shootLen = 0) ∧
    (let s := linked running1
     let s := { s with disp := { s.disp with shoot := some { seq := 1#16, lo := 0, len := 1, waiting := [.core 0] } } }
     windowOn s = true ∧ s.disp.shoot.isSome = true) ∧
    (let s := withPacket (pkt .disp (.core 0) (.shootdown 0 4096)) id
     mayArrive s 0 = s.net.head? ∧ coreOn s 0 = true ∧ (getCore s 0).xlt.shoot = none ∧ rising (getCore s 0).cache.d = true ∧
      requestIds (getCore s 0) = []) ∧
    requestIds (getCore (withCore (fun c => { c with outs := [{ id := 7, kind := .store 1#4 0 4 [] }] })) 0) ≠ [] ∧
    (let s := withPacket (pkt (.core 0) .disp .shootdownAck) id
     let s := { s with disp := { s.disp with shoot := some { seq := 1#16, lo := 0, len := 1, waiting := [.core 0] } } }
     mayArrive s 0 = s.net.head? ∧ s.disp.shootWait = [] ∧ (s.disp.shoot.map (·.waiting)) = some [.core 0]) := by decide +kernel
theorem witness_cache_events : coreOn running1 0 = true ∧
    (let s := withPacket (pkt (.core 0) (.stack 0) (.victim 0x1000)) id
     mayArrive s 0 = s.net.head? ∧ ¬(0x1000 ∈ s.disp.msc ∨ 32 < s.net.length ∨ stackUp s 0 = false)) ∧
    (let s := withPacket (pkt (.core 0) (.stack 0) (.victim 0x1000)) id; 0x1000 ∈ { s.disp with msc := [0x1000] }.msc) := by decide +kernel

/-! ### Channels, rings, press queues -/

/-- One word staged; g1 a destination of ring 0 of core 1, g2 one with a reserved bit; g3 = 1, the length. -/
def staging (n : Nat) : State := withThread { thread1 with
  stagedN := n, staged := [(0, 9#64)], regs := [(1, 0x1#64), (2, 0x100000000#64), (3, 1#64)] }
theorem witness_channel_send : Ready at1 attUnit (staging 1) ∧ (thr (staging 1) at1).stagedN < 8 ∧ 8 ≤ (thr (staging 8) at1).stagedN ∧
    bits (reg (staging 1) at1 3#5) 3 0 = (thr (staging 1) at1).stagedN ∧ destFault (staging 1) 0 .supervisor (reg (staging 1) at1 1#5) = none ∧
    destFault (staging 1) 0 .supervisor (reg (staging 1) at1 2#5) = some 0x09 ∧ (Claims.core (staging 1) at1).outq.length < 16 ∧
    bits (reg (staging 1) at1 1#5) 3 0 = (thr (staging 1) at1).stagedN ∧ bits (reg (staging 1) at1 0#5) 3 0 ≠ (thr (staging 1) at1).stagedN :=
  ⟨issues, by decide⟩
/-- Ring 2 with one message of one word at 0x1000. -/
def ring1 : Ring := { Ring.reset with base := 0x1000, sizeLog2 := 8, enable := true, tail := 16, msgs := 1 }
def rings (q : Ring) : State := withCore (fun c => setRing { c with spad := { c.spad with mem := [(0x1000, 1#8), (0x1008, 0x2A#8)] } } 2 q)
theorem witness_channel_receive : Ready at1 attUnit (rings Ring.reset) ∧ (getRing (Claims.core (rings Ring.reset) at1) 2).enable = false ∧
    Ready at1 attUnit (rings ring1) ∧ (getRing (Claims.core (rings ring1) at1) 2).pause = false ∧ (getRing (Claims.core (rings ring1) at1) 2).msgs ≠ 0 ∧
    (getRing (Claims.core (rings { ring1 with msgs := 0, tail := 0 }) at1) 2).msgs = 0 ∧
    (let c := Claims.core (rings ring1) at1
     let q := getRing c 2
     let n := 8 + 8 * bits (ringWord c q q.head) 3 0
     badIn c.spad.ue (q.base + q.head) n = [] ∧ badIn c.spad.ce (q.base + q.head) n = []) :=
  ⟨issues, by decide, issues, by decide⟩
theorem test_recv : nextIs (exec (.chRecv at1 3#5 4#4 2#4) (rings ring1)) (fun t => bits (greg (t1 t) 3) 3 0 == 1 && vreg (t1 t) 4 == 0x2A#1024 &&
    (getRing (getCore t 0) 2).msgs == 0) = true := by decide +kernel
def described : State := withThread { thread1 with stagedN := 2, staged := [(0, 0x1000#64), (1, 64#64)], regs := [(1, 0x1#64)] }
theorem witness_channel_block : Ready at1 attMem described ∧ noWatch described at1 ∧ (thr described at1).prog.getLsbD 63 = false ∧
    (thr described at1).dbg.pend = none ∧ (thr described at1).stagedN = 2 ∧ Local described at1 0x1000 64 false ∧
    destFault described 0 .supervisor (reg described at1 1#5) = none ∧ (thr (staging 1) at1).stagedN ≠ 2 :=
  ⟨issues, rfl, by decide, by decide, by decide, inPlace, by decide⟩

def message1 (g : Nat) : Msg := { header := BitVec.ofNat 64 (1 + 2 ^ 28 * g), words := [7#64], bad := [] }
def arriving (q : Ring) (g : Nat) : State := withPacket (pkt (.core 9) (.core 0) (.message 2#4 (message1 g))) (fun c => setRing c 2 q)
theorem witness_rings :
    (let s := arriving ring1 0
     s.ordered = true ∧ mayArrive s 0 = s.net.head? ∧ coreOn s 0 = true ∧ (getCore s 0).vc2 = [] ∧ hdrPair (message1 0).header = ring1.pair ∧
      ring1.enable = true ∧ ring1.discard = false ∧ ring1.parked = none ∧ ring1.head ≤ ring1.tail ∧ ring1.tail ≠ ring1.head ∧
      8 + 8 * (message1 0).words.length ≤ 2 ^ ring1.sizeLog2 - ring1.tail ∧ (message1 0).bad = [] ∧ ring1.arrCntEn = false) ∧
    hdrPair (message1 1).header ≠ ring1.pair ∧
    (let s := withCore (fun c => setRing c 2 { ring1 with parked := some (message1 0), parkAge := 100 })
     let q := getRing (getCore s 0) 2
     coreOn s 0 = true ∧ q.parked ≠ none ∧ q.enable = true ∧ q.stallEv = true ∧ q.pause = false ∧ q.stalled = false ∧
      dv s 0x2300 2 100 ≤ q.parkAge ∧ dv s 0x2300 1 1 = 1) := by decide +kernel
theorem test_message : nextIs (exec (.message 0) (arriving ring1 0)) (fun t => (getRing (getCore t 0) 2).msgs == 2 && (getRing (getCore t 0) 2).tail == 32 &&
    readBytes (getCore t 0).spad.mem 0x1018 1 == [7#8]) = true ∧
    nextIs (exec (.message 0) (arriving ring1 1)) (fun t => (getRing (getCore t 0) 2).staleDrops == 1 && (getRing (getCore t 0) 2).msgs == 1) = true := by decide +kernel
/-- RING_CFG words: base 0x1000, 256 bytes, and with ENABLE. -/
theorem witness_ring_config : Ready at1 (attOut (0x400 + 0x18 * 2)) (rings Ring.reset) ∧ (thr (rings Ring.reset) at1).mode = .supervisor ∧
    (getRing (Claims.core (rings Ring.reset) at1) 2).parked = none ∧
    (let v := 0xA001000#64
     8 ≤ bits v 26 22 ∧ bits v 26 22 ≤ 18 ∧ bits v 21 0 % 64 = 0 ∧ bits v 21 0 + 2 ^ bits v 26 22 ≤ 0x280000 ∧ bits v 21 0 + 2 ^ bits v 26 22 ≤ 0x7F800 ∧
      v.getLsbD 27 = true ∧ bits v 21 0 = ring1.base ∧ bits v 26 22 = ring1.sizeLog2) ∧
    (∀ j < 16, j ≠ 2 → (getRing (Claims.core (rings Ring.reset) at1) j).enable = false) ∧ Ready at1 (attOut (0x400 + 0x18 * 2)) (rings ring1) :=
  ⟨issues, by decide, by decide, by decide, by decide, issues⟩

/-- g1: queue 0, FP32, one element; g2: a reserved bit. -/
def pressing : State := withThread { thread1 with regs := [(2, 0x100#64), (31, 0x1000#64)] }
theorem witness_press : Ready at1 attMem pressing ∧ noWatch pressing at1 ∧
    (let b := reg pressing at1 0#5
     bits b 63 26 = 0 ∧ b.getLsbD 19 = false ∧ bits b 15 14 = 0 ∧ bits b 8 0 < 320 ∧ bits b 63 14 = 0) ∧
    (reg pressing at1 31#5).toNat % 64 = 0 ∧ (badIn (Claims.core pressing at1).spad.ue 0x1000 64 = [] ∧
      badIn (Claims.core pressing at1).spad.ce 0x1000 64 = []) ∧ (Claims.core pressing at1).outq.length < 16 ∧
    Ready at1 attUnit pressing ∧ Ready at1 attMem userThread ∧ (thr userThread at1).mode = .user :=
  ⟨issues, rfl, by decide, by decide, by decide, by decide, issues,
    issues, by decide⟩
def press0 : PressQ := { PressQ.closed with opened := true, cfg := 0x300000000#64 }
def atPress (b : Body) (q : PressQ) : State := { withPacket (pkt (.core 0) (.press 4) b) id with press := if q.opened then [(4, q)] else [] }
theorem witness_press_queue :
    (let s := withPacket (pkt (.press 4) (.core 0) (.pressReply 1#4 0#64)) (fun c => setThr c 1 { thread1 with st := .wait, wait := .press 3#5, waitClasses := 2#6 })
     s.ordered = true ∧ running s = true ∧ mayArrive s 0 = s.net.head? ∧ coreOn s 0 = true ∧ (thrOf s 0 1).st = .wait ∧ (thrOf s 0 1).wait = .press 3#5) ∧
    (let s := atPress (.pressCtl (.cfg 0x100000000#64 [0#32]) 0 1#4 ⟨0#12, 0#4⟩) PressQ.closed
     mayArrive s 0 = s.net.head? ∧ pressCfgResult s (getPress s 4) 0x100000000#64 [0#32] = 0 ∧ pressCfgResult s press0 0x100000000#64 [0#32] = 3) ∧
    (let s := atPress (.pressCtl .close 0 1#4 ⟨0#12, 0#4⟩) press0
     mayArrive s 0 = s.net.head? ∧ (getPress s 4).opened = true ∧ (getPress s 4).norm = false ∧ (getPress s 4).pair = ⟨0#12, 0#4⟩) ∧
    (let s := atPress (.pressContrib ⟨0#12, 0#4⟩ 0 [0x3F800000#32] false 9) press0
     mayArrive s 0 = s.net.head? ∧ 0 = bits (getPress s 4).cfg 15 14 ∧ [0x3F800000#32].length = bits (getPress s 4).cfg 21 16 + 1 ∧
      false = (getPress s 4).round ∧ (getPress s 4).norm = false ∧ (getPress s 4).curN + 1 < bits (getPress s 4).cfg 47 32) := by decide +kernel

/-! ### Homes of HBM, errors, commands at cores -/

/-- Core 0 asks stack 0 for body b; the companion holds the lines d. -/
def atStack (b : Body) (d : List (Nat × Bool)) : State :=
  let s := withPacket (pkt (.core 0) (.stack 0) b) id
  { linked s with disp := { s.disp with dir := d } }
def readLine : Body := .read 4 (.hbm 0x1000) 8 (.tile 9)
def writeLine : Body := .write 4 (.hbm 0x1000) [(0, [7#8])] [] (.tile 9)
def stackOut (s : State) : State := { s with boot := { s.boot with stackState := [(0, 3)] } }
def recalling : State :=
  let s := linked running1
  { s with disp := { s.disp with dir := [(0x1000, true)], recalls := [{ h := 0, line := 0x1000, invalidate := true, held := [] }] } }
theorem witness_homes :
    (let s := atStack readLine []
     running s = true ∧ mayArrive s 0 = s.net.head? ∧ stackUp s 0 = true ∧ mustRecall s (.hbm 0x1000) 8 false = none ∧ badIn s.hbmUE 0x1000 8 = []) ∧
    (let s := stackOut (atStack readLine []); mayArrive s 0 = s.net.head? ∧ stackUp s 0 = false) ∧
    (let s := atStack readLine [(0x1000, true)]
     running s = true ∧ mayArrive s 0 = s.net.head? ∧ stackUp s 0 = true ∧ mustRecall s (.hbm 0x1000) 8 false = some (0x1000, false)) ∧
    (let s := atStack writeLine [(0x1000, false)]; mayArrive s 0 = s.net.head? ∧ mustRecall s (.hbm 0x1000) 1 true = some (0x1000, true)) ∧
    (let s := atStack writeLine []; mayArrive s 0 = s.net.head? ∧ stackUp s 0 = true ∧ mustRecall s (.hbm 0x1000) 1 true = none) ∧
    (let s := stackOut (atStack writeLine []); mayArrive s 0 = s.net.head? ∧ stackUp s 0 = false) ∧
    running recalling = true ∧ linkUp recalling = true ∧
    recalling.disp.recalls.find? (fun q => q.h == (0#5).toNat && q.line == 0x1000) = recalling.disp.recalls.head? := by decide +kernel
theorem test_hbm : nextIs (exec (.hbmWrite 0) (atStack writeLine [])) (fun t => t.hbm == [(0x1000, 7#8)] && t.net.map (·.body) == [.writeAck 4]) = true ∧
    nextIs (exec (.hbmRead 0 { corrected := [], uncorrectable := [] }) { atStack readLine [] with hbm := [(0x1001, 9#8)] }) (fun t =>
      t.net.map (·.body) == [.readData 4 [0#8, 9#8, 0#8, 0#8, 0#8, 0#8, 0#8, 0#8] [] false]) = true := by decide +kernel

/-- An answer to the request of kind k, number 4, of core 0. -/
def answered (b : Body) (k : OutKind) (f : Core → Core) : State := withPacket (pkt (.stack 0) (.core 0) b) (fun c => { f c with outs := [{ id := 4, kind := k }] })
def aged (b : Body) : State := { running1 with net := [{ pkt (.core 0) (.stack 0) b with age := 999 }] }
theorem witness_errors :
    (let s := answered (.errorResp 4 3) (.load 1#4 3#5 8 false false 0x10000001000) (fun c => setThr c 1 { thread1 with held := .access 4 })
     s.ordered = true ∧ running s = true ∧ mayArrive s 0 = s.net.head? ∧ (findOut (getCore s 0) 4).isSome = true ∧
      (thrOf s 0 1).held = .access 4 ∧ (thrOf s 0 1).entry = none ∧ (thrOf s 0 1).dbg.pend = none) ∧
    (let s := answered (.errorResp 4 3) (.stream 2#3 false 0 0 false) id; mayArrive s 0 = s.net.head? ∧ (findOut (getCore s 0) 4).isSome = true) ∧
    (let s := answered (.errorResp 4 3) (.dma 0#2 0 64 false []) id; mayArrive s 0 = s.net.head? ∧ (findOut (getCore s 0) 4).isSome = true) ∧
    (let s := withPacket (pkt .io (.core 0) (.dropNotice 1 2 none 0 none)) id; mayArrive s 0 = s.net.head? ∧ frozen (getCore s 0) = false) ∧
    (aged readLine).net[0]? = (aged readLine).net.head? ∧ (aged (.message 2#4 (message1 0))).net.map (·.age) = [999] := by decide +kernel
theorem test_errors :
    nextIs (exec (.errorResp 0) (answered (.errorResp 4 3) (.load 1#4 3#5 8 false false 0x10000001000) (fun c =>
      setThr c 1 { thread1 with held := .access 4 }))) (fun t => (t1 t).lastCause == 0x0D && (getCore t 0).outs == []) = true ∧
    nextIs (exec (.packetAged 0) (aged readLine)) (fun t => t.net.map (·.body) == [.errorResp 4 1]) = true := by decide +kernel

/-- A dispatcher command at core 0. -/
def commanded (b : CoreCmd) (f : Core → Core) : State := withPacket (pkt .disp (.core 0) (.command b)) f
def waiting (c : Core) : Core := setThr c 1 { thread1 with st := .wait, wait := .lease, waitClasses := 16#6 }
def haltedThread (c : Core) : Core := setThr c 1 { thread1 with st := .halted }
def switching (c : Core) : Core := { setThr c 1 { Thread.reset with st := .free } with sup := { c.sup with switching := 2 } }
def paired (c : Core) : Core := { c with sup := { c.sup with pair := ⟨5#12, 0#4⟩ } }
theorem witness_core_commands :
    (let s := commanded (.halt 2#16) waiting
     s.ordered = true ∧ coreOn s 0 = true ∧ mayArrive s 0 = s.net.head? ∧ (getCore s 0).dbg.haltAll = false ∧
      (getCore s 0).dbg.haltUnits = false ∧ (2#16).toNat = 2 ^ 1 ∧ (thrOf s 0 1).st = .wait) ∧
    (let s := commanded (.resume 2#16) haltedThread; mayArrive s 0 = s.net.head? ∧ (getCore s 0).dbg.stopped = [] ∧ (thrOf s 0 1).st = .halted) ∧
    (let s := commanded (.step 2#16) haltedThread; mayArrive s 0 = s.net.head?) ∧
    (let s := commanded (.stopAll 3) (fun c => { c with sup := { c.sup with stopped := true } })
     mayArrive s 0 = s.net.head? ∧ (getCore s 0).sup.stopped = true) ∧
    (let s := commanded (.endSteps 3) switching
     s.ordered = true ∧ mayArrive s 0 = s.net.head? ∧ (getCore s 0).sup.stopped = false ∧ (getCore s 0).sup.switching = 2 ∧
      switchPassed (tidy s s 0) 0 = true ∧ (getCore (tidy s s 0) 0).cache.cmo = none ∧ (getCore (tidy s s 0) 0).outs = []) ∧
    (let s := commanded (.endSteps 3) (fun c => { switching c with outs := [{ id := 4, kind := .wback }] })
     (getCore s 0).sup.switching = 2 ∧ switchPassed (tidy s s 0) 0 = true ∧ (getCore (tidy s s 0) 0).outs ≠ []) ∧
    (let s := commanded (.endSteps 3) (fun c => paired (switching c))
     switchPassed (tidy s s 0) 0 = false ∧ groupReady (tidy s s 0) 3 0 2 = true) ∧
    (let s := commanded (.endSteps 3) (fun c => { paired (switching c) with outs := [{ id := 4, kind := .wback }] })
     switchPassed (tidy s s 0) 0 = false ∧ groupReady (tidy s s 0) 3 0 2 = false) := by decide +kernel
theorem test_end_steps : nextIs (exec (.command 0) (commanded (.endSteps 3) switching)) (fun t => t.net.map (·.body) == [.commandAck 3 0]) = true := by decide +kernel

/-! ### Companion, fabric -/

/-- The module with Limjo link 0 UP and LJL_ENABLE 0. -/
def notEnabled : State := { running1 with fab := { running1.fab with ljl := [(0, 2)] } }
theorem witness_companion :
    (let s := linked running1
     s.power.st ≠ 5 ∧ mget 0 s.fab.ljl (0#2).toNat = 2 ∧ dv s 0x5000 1 0 = 1 ∧ running s = true ∧ stackUp s (stackOf 0x1000) = true ∧
      0x1000 + 64 ≤ hbmSize ∧ badIn s.hbmUE 0x1000 64 = [] ∧ windowOn s = true) ∧
    (notEnabled.power.st ≠ 5 ∧ mget 0 notEnabled.fab.ljl (0#2).toNat = 2 ∧ dv notEnabled 0x5000 1 0 ≠ 1) := by decide +kernel
theorem test_companion :
    nextIs (exec (.companionAccess 0#2 (.hbmRead 0x1000 2 true ⟨[], []⟩)) { linked running1 with hbm := [(0x1001, 9#8)] }) (fun t =>
      t.disp.answers == [[0#8, 9#8]] && t.disp.dir == [(0x1000, true)]) = true ∧
    nextIs (exec (.companionAccess 0#2 (.hbmWrite 0x1000 [7#8])) notEnabled) (fun t => t.hbm == []) = true := by decide +kernel

/-- A DATA frame with a message for core 9 of this module, sequence number 0; an IDLE frame. -/
def partA : FabPart :=
  { cls := 1#2, lane := false, slots := 2, src := 1, dst := 0, fage := 5,
    packet := some (pkt (.remote 1 0) (.core 9) (.message 2#4 (message1 0))) }
def frameOf (x : FabPart) : FabFrame := { fab0 [x] with kind := 1#4 }
def frameA : FabFrame := frameOf partA
/-- Port 3 UP with 4 lanes. -/
def port3 : Port := { Port.reset with st := 2, lanes := 4 }
def withPort (q : Port) : State := { running1 with fab := { running1.fab with ports := [(3, q)] } }
def request3 : Packet := pkt (.core 0) (.remote 1 5) (.read 4 (.hbm 0x1000) 8 (.tile 9))
def sent3 : List (BitVec 12 × List Packet) := [(7#12, [request3])]
def held3 : Packet := { request3 with age := 18000 }
theorem witness_frames :
    (let q := getPort (withPort port3) 3
     running (withPort port3) = true ∧ portUp q = true ∧ q.cut = none ∧ q.owed = [] ∧ q.heldPk = []) ∧
    (frameA.decoded = true ∧ frameA.crcOk = true ∧ frameA.ack = none ∧ frameA.kind = 1#4 ∧ frameA.seq = (getPort (withPort port3) 3).rxNext ∧
      frameA.parts = [partA] ∧ (partA.packet.map (·.body)) = some (.message 2#4 (message1 0)) ∧ partA.dst = moduleId (withPort port3) ∧
      { partA with dst := 1 }.dst ≠ moduleId (withPort port3) ∧ partA.fage + 100 < 18000 ∧ 18000 ≤ { partA with fage := 17900 }.fage + 100 ∧
      9 < gradeOf (withPort port3) ∧ gradeOf (withPort port3) ≤ 4608 ∧ 3 ≤ (3#4).toNat ∧ 1#12 ≠ (getPort (withPort port3) 3).rxNext ∧
      mget 0 (getPort (withPort port3) 3).rxHeld 2 = 0) ∧
    (let s := withPort { port3 with heldPk := [request3] }
     let q := getPort s 3
     q.heldPk = [request3] ∧ q.lost = [] ∧ q.holding = false ∧ q.replay.length < 1024 ∧ fcOf request3.body ≠ 0 ∧
      (0#3).getLsbD (fcOf request3.body - 1) = false ∧ (7#3).getLsbD (fcOf request3.body - 1) = true ∧ slotsOf request3.body ≤ 512) ∧
    (let s := withPort { port3 with replay := sent3 }
     (getPort s 3).heldPk = [] ∧ (getPort s 3).replay = sent3 ∧ ∀ x ∈ sent3, x.1 ≠ 7#12 - 1#12) ∧
    (let s := withPort { port3 with heldPk := [held3] }
     (getPort s 3).heldPk[0]? = some held3 ∧ 18000 ≤ held3.age) := by decide +kernel
/-- R426: a request that waits leaves when FC1 is not paused, and takes as many of the far end's slots as it fills. -/
theorem test_pause :
    nextIs (exec (.fabricFrame 3 (fab0 [])) (withPort { port3 with heldPk := [request3] })) (fun t => (getPort t 3).heldPk == [] &&
      mget 0 (getPort t 3).used (2 * fcOf request3.body) + mget 0 (getPort t 3).used (2 * fcOf request3.body + 1) == slotsOf request3.body) = true ∧
    nextIs (exec (.fabricFrame 3 { fab0 [] with pause := 7#3 }) (withPort { port3 with heldPk := [request3] })) (fun t =>
      (getPort t 3).heldPk == [request3]) = true := by decide +kernel
theorem test_frames :
    nextIs (exec (.fabricFrame 3 frameA) (withPort port3)) (fun t => t.net.map (·.dst) == [.core 9] && (getPort t 3).rxNext == 1#12) = true ∧
    nextIs (exec (.fabricFrame 3 { frameA with seq := 1#12 }) (withPort port3)) (fun t => t.net == [] && (getPort t 3).nakSent &&
      (getPort t 3).out.map (·.kind) == [2#4]) = true := by decide +kernel
def lost3 : State := withPort { port3 with st := 4, lost := sent3 }
theorem witness_ports :
    (let s := withPort { port3 with replay := sent3 }; running s = true ∧ portUp (getPort s 3) = true ∧ (getPort s 3).replay ≠ []) ∧
    (running lost3 = true ∧ (getPort lost3 3).lost ≠ [] ∧ (getPort lost3 3).lost = [(7#12, [request3])] ∧
      request3.body = .read 4 (.hbm 0x1000) 8 (.tile 9)) ∧
    (let s := withPort { port3 with holding := true }; (getPort s 3).holding = true) ∧
    (let s := withPort { Port.reset with st := 4 }; (getPort s 3).st = 4 ∧ sv s (0x5110 + 3) 1 = 1 ∧
      ({ lanes := 4, mask := 0, peerModule := 1, peerPort := 2 } : TrainEnd).lanes ≠ 0) ∧
    mget 0 (linked running1).fab.ljl (0#2).toNat = 2 := by decide +kernel
theorem test_ports : nextIs (exec (.portSeqTimeout 3) lost3) (fun t => t.net.map (·.body) == [.errorResp 4 3]) = true ∧
    nextIs (exec .seamFailure running1) (fun t => t.boot.modState == 3 && t.cores == []) = true := by decide +kernel

/-! ### The dispatcher -/

/-- The running module with link 0 UP and dictionary values. -/
def valued (d : SMap (Option Nat)) : State := { linked running1 with dict := { running1.dict with val := d } }
/-- Submission ring 0 of 2^4 slots at 0x1000, one order in it; completion ring 0 of 2^4 slots at 0x2000. -/
def ringed : State :=
  let s := valued [(0x200001, some 1), (0x201001, some 1), (0x220001, some 1), (0x220002, some 0x1000), (0x220003, some 4),
    (0x240001, some 1), (0x240002, some 0x2000), (0x240003, some 0x24), (0x500001, some 1)]
  { s with disp := { s.disp with sqTail := [(0, 1)] } }
def nap (s : State) : State := { s with power := { s.power with st := 3 } }
theorem witness_submission :
    windowOn ringed = true ∧ asleep ringed = false ∧ (15#64).toNat < 2 ^ sqLog ringed 0 ∧ 2 ^ sqLog ringed 0 ≤ (16#64).toNat ∧
    (windowOn (nap ringed) = true ∧ asleep (nap ringed) = true) ∧ bits 0x1000F#64 15 0 < 2 ^ cqLog ringed 0 ∧ 2 ^ cqLog ringed 0 ≤ bits 16#64 15 0 ∧
    running ringed = true ∧ gradeOf ringed ≤ 4608 ∧ bits 7#64 12 0 < gradeOf ringed ∧ gradeOf ringed ≤ bits 4608#64 12 0 ∧ dv ringed 0x2010 1 0 = 1 ∧
    ringed.disp.orders.length < 512 ∧ nextRing ringed = some 0 ∧ ringPlace (dv ringed (0x2200 + 0) 2 0) 0 = .hbm 0x1000 ∧
    mustRecall ringed (.hbm 0x1000) 128 false = none ∧ homeUp ringed (.hbm 0x1000) = true ∧ (homeBytes ringed (.hbm 0x1000) 128).2 = [] := by decide +kernel
theorem test_fetch : nextIs (exec (.orderFetch 0#8) ringed) (fun t => t.disp.orders.map (·.w) == [List.replicate 16 0#64] && mget 0 t.disp.sqHead 0 == 1) = true := by
  decide +kernel

/-- A LAUNCH on cores 2 and 3 with pair (7, 0), entry 0x10000000000, stack 0x2000, TIMEOUT 1 ms, 5 for the end counter to reach. -/
def launchWords : List Word := [0x10001#64, 0x100020007#64, 0x10000000000#64, 0x10000001000#64, 0#64, 99#64, 0x2000#64, 0x1000#64, 0#64, 0x500000000#64]
def order1 (w : List Word) (st : OrdSt) : Order := {
  k := 1, ring := 0, w := w ++ List.replicate (16 - w.length) 0#64, st := st, status := 0, reason := 0, detail := 0#64, ticks := 1000, hasPair := false,
  done := [], acks := [], dead := [], preempt := none, saveSpad := false, word9 := wat w 9, pieces := [], started := false, prev := none }
def ordered1 (s : State) (w : List Word) (st : OrdSt) : State := { s with disp := { s.disp with orders := [order1 w st] } }
theorem witness_start :
    (let s := ordered1 ringed launchWords .queued
     let o := order1 launchWords .queued
     s.ordered = true ∧ running s = true ∧ findOrder s 1 = some o ∧ mayStart s o = true ∧ ordKind o = 1 ∧ ordFormed o = true ∧ dv s 0x2000 1 0 = 1 ∧
      (startCheck s o none).1 = 0 ∧ ordFirst o = 2 ∧ ordCount o = 2) ∧
    (let s := ordered1 (valued []) launchWords .queued; mayStart s (order1 launchWords .queued) = true ∧ dv s 0x2000 1 0 ≠ 1) ∧
    (let o := order1 [5#64, 0#64] .queued; (startCheck (ordered1 ringed [5#64, 0#64] .queued) o none).1 = 0 ∧ ordKind o = 5) ∧
    (let o := order1 [5#64, 0#64, 1#64] .queued; ordFormed o = false ∧ startCheck (ordered1 ringed [5#64, 0#64, 1#64] .queued) o none = (1, 0#64)) ∧
    (let o := order1 (launchWords.set 2 0x10000000002#64) .queued; ordFormed o = true ∧ ordRanges ringed o = false) := by decide +kernel
theorem test_launch : nextIs (exec (.orderStart 1) (ordered1 ringed launchWords .queued)) (fun t => (thrOf t 3 0).pc == 0x10000000000#64 &&
    greg (thrOf t 3 0) 3 == 1#64 && (getCore t 3).sup.pair == ⟨7#12, 0#4⟩ && (getThr (getCore t 0) 1).st == .ready) = true := by decide +kernel

/-- The launch runs; core 3 has reported, core 2 has reached the end value. -/
def runningOrder (d : List Nat) (v : Nat) : State :=
  let s := ordered1 ringed launchWords .running
  let c := { coreReady with sup := { coreReady.sup with order := some 1, endValue := 5 }, sc := [(0, { (getSc coreReady 0) with value := v })] }
  { s with cores := [(2, c)], disp := { s.disp with orders := s.disp.orders.map (fun o => { o with done := d }) } }
def ack1 (a : List Nat) (st : OrdSt) : State :=
  let s := ordered1 ringed launchWords st
  { s with net := [pkt (.core 2) .disp (.commandAck 1 2)], disp := { s.disp with orders := s.disp.orders.map (fun o => { o with acks := a }) } }
theorem witness_order_end :
    (let s := ordered1 ringed launchWords .running
     let o := order1 launchWords .running
     running s = true ∧ findOrder s 1 = some o ∧ o.k = 1 ∧ o.st = .running ∧ bits (wat o.w 0) 31 16 = 1 ∧ 1 * 1000 ≤ o.ticks ∧ isTask o = true) ∧
    (let s := ordered1 ringed [0x10009#64] .running
     let o := order1 [0x10009#64] .running
     ordKind o = 9 ∧ isTask o = false ∧ isPass o = false ∧ s.hbmUE = [] ∧ bit (wat o.w 2) 32 = false) ∧
    (let o := order1 [0x10009#64, 0#64, 1#64] .running; bit (wat o.w 2) 32 = false ∧ ([64] ++ [128]).Nodup ∧
      (∀ l ∈ [64] ++ [128], l % 64 = 0 ∧ bit (wat o.w 2) (stackOf l) = true ∧ stackOf l < 32 ∧ stackUp ringed (stackOf l) = true)) ∧
    (let o := order1 [0x10009#64, 0x20000#64, 0x100000000#64] .running
     bit (wat o.w 2) 32 = true ∧ ordCount o = 1 ∧ ordFirst o < gradeOf ringed) ∧
    (let o := order1 [0x20009#64] .running; o.ticks < bits (wat o.w 0) 31 16 * 1000) ∧
    (let s := { runningOrder [] 0 with net := [pkt (.core 2) .disp (.coreStop 2 3)] }
     arrivalAt s 0 .disp = s.net.head? ∧ (getCore s 2).sup.order = some 1) ∧
    (∃ o, findOrder (runningOrder [] 5) 1 = some o ∧ 3 ∈ ordGroup o ∧ 3 ∉ insertNat 2 o.done) ∧
    (∃ o, findOrder (runningOrder [3] 5) 1 = some o ∧ ∀ l ∈ ordGroup o, l ∈ insertNat 2 o.done) ∧
    (let c := getCore (runningOrder [3] 5) 2
     c.sup.order = some 1 ∧ c.sup.doneSent = false ∧ c.sup.stopped = false ∧ c.sup.endValue ≤ (getSc c c.sup.endCnt.toNat).value) ∧
    (let s := ack1 [2, 3] .stopping; arrivalAt s 0 .disp = s.net.head? ∧ [2, 3].filter (· != 2) = [3]) ∧
    (let s := ack1 [2] .stopping; arrivalAt s 0 .disp = s.net.head? ∧ [2].filter (· != 2) = []) ∧
    (let s := ack1 [2] .running; arrivalAt s 0 .disp = s.net.head?) :=
  ⟨by decide +kernel, by decide +kernel, by decide +kernel, by decide +kernel, by decide, by decide +kernel, ⟨_, rfl, by decide +kernel⟩,
    ⟨_, rfl, by decide +kernel⟩, by decide +kernel⟩

/-- The order is COMPLETING and asks for its vector. -/
def ends1 (tail head : Nat) : State :=
  let s := ordered1 ringed [0x205#64, 0#64] .completing
  { s with disp := { s.disp with cqTail := [(0, tail)], cqHead := [(0, head)] } }
theorem witness_completion :
    (let s := ends1 3 2
     running s = true ∧ findOrder s 1 = some (order1 [0x205#64, 0#64] .completing) ∧ dv s (0x2400 + 0) 1 0 = 1 ∧ (3 % 65536 ≠ 2 % 65536) ∧
      dv s 0x2400 2 0 < 2 ^ 63 ∧ stackUp s (stackOf (0x2000 + 32 * 3)) = true ∧ mustRecall s (.hbm (0x2000 + 32 * 3)) 32 true = none ∧
      (∀ q ∈ s.disp.orders, ordKind q ≠ 8) ∧ noSpare s = false ∧ bit (wat (order1 [0x205#64, 0#64] .completing).w 0) 9 = true ∧
      nbit (dv s 0x2400 3 0) 5 = true) ∧
    (let s := ends1 3 65539; mget 0 s.disp.cqTail 0 % 65536 = mget 0 s.disp.cqHead 0 % 65536 ∧
      mget 0 s.disp.cqTail 0 / 65536 ≠ mget 0 s.disp.cqHead 0 / 65536) := by decide +kernel
theorem test_completion : nextIs (exec (.completionWrite 1) (ends1 3 2)) (fun t => t.disp.orders == [] && mget 0 t.disp.cqTail 0 == 4 &&
    t.disp.raised == [0]) = true := by decide +kernel

/-- A REDUCE of one FP32 element at station 5, root module 0, two modules; or root module 1, and for the norm. -/
def reduceWords (norm : Bool) : List Word := [0xA#64, 7#64, if norm then 0x1010105#64 else 0x1000005#64, 1#64]
def reducing (norm : Bool) (sum : Bool) (g : Station) : State :=
  let s := ordered1 ringed (reduceWords norm) .running
  { s with net := [pkt (.remote 1 5) .io (.reducePiece 5 ⟨7#12, 0#4⟩ 0 [0x3F800000#32] sum)], stations := [(5, g)] }
def station5 (l : List Nat) : Station := { opened := true, pair := ⟨7#12, 0#4⟩, fmt := 0, parts := 2, sums := [], srcs := if l = [] then [] else [(0, l)] }
theorem witness_reduce :
    (let s := reducing false false (station5 [])
     let o := order1 (reduceWords false) .running
     running s = true ∧ findOrder s 1 = some o ∧ ordKind o = 0xA ∧ o.st = .running ∧ rdStation o = 5 ∧ ordPair o = ⟨7#12, 0#4⟩ ∧
      (getStation s 5).opened = true ∧ (getStation s 5).pair = ordPair o ∧ mget [] (getStation s 5).srcs 0 = [] ∧ 1 < (getStation s 5).parts) ∧
    1 ∈ mget [] (getStation (reducing false false (station5 [1])) 5).srcs 0 ∧ (getStation (reducing false false Station.closed) 5).opened = false ∧
    (let s := reducing true true Station.closed
     let o := order1 (reduceWords true) .running
     findOrder s 1 = some o ∧ rdNorm o = true ∧ rdElems o = 1 ∧ o.pieces = [] ∧ rdRoot o ≠ moduleId s) := by decide +kernel
theorem test_reduce : nextIs (exec (.reducePiece 1 0 1 [0x3F800000#32] true) (reducing true true Station.closed)) (fun t =>
    dv t 0x7100 4 0 == 0x3F800000 && t.disp.orders.map (·.st) == [.completing]) = true := by decide +kernel

/-! ### Quince -/

/-- A pass under order 1 with stack 0 alone; the shard table at HBM 0, through the map of witness_walk; its bytes. -/
def passing (p : Nat) (fin : Bool) (b : List Host.Cell) : State :=
  let s := ordered1 ringed [3#64, 7#64] .running
  { s with
    hbm := b ++ [(0x1010, 0x01#8), (0x1011, 0x20#8), (0x2000, 0x3F#8)],
    quince := { Quince.reset with
      eng := [(0, { Engine.reset with st := p, fin := fin })], pass := p, order := 1, exclude := 0xFFFFFFFE#32, tableVa := 0x10000000000, root := 0x1001#64 } }
/-- One record, with KMIN above K; and a record of one block at 0x1000000 (W), with eta 1 and g = 1. -/
def badRecord : List Host.Cell := [(0, 1#8), (64, 1#8), (66, 1#8)]
def normed (n : Nat) : State :=
  setPress (passing 1 true []) normQueue { normOpen 1 with cur := [(0, 0x40000000#32)], curN := n }
theorem witness_quince :
    (let s := passing 1 false []
     running s = true ∧ takesPart s 0 = true ∧ (getEng s 0).st = 1 ∧ (getEng s 0).fin = false ∧
      (match engPass1 s 0 with | .ok z _ => (List.range 32).all (fun k => !takesPart z k || (getEng z k).st != 4) | _ => false) = true) ∧
    (match engPass1 (passing 1 false badRecord) 0 with | .stop z .malformed => takesPart z 0 | _ => false) = true ∧
    (let s := normed 1
     running s = true ∧ s.quince.pass = 1 ∧ (getPress s normQueue).norm = true ∧ pqContribs (getPress s normQueue).cfg ≤ (getPress s normQueue).curN ∧
      findOrder s s.quince.order = some (order1 [3#64, 7#64] .running) ∧ s.fab.dims = 0) ∧
    (let s := passing 2 true []
     running s = true ∧ s.quince.pass = 2 ∧ (findOrder s s.quince.order).isSome = true ∧ ∀ k ∈ passStacks s, (getEng s k).fin = true) ∧
    (let s := passing 2 false []
     passStacks s = [(0#5).toNat] ∧ (getEng s 0).st = 2 ∧ (match engPass2 s 0 with | .ok z _ => z.quince.exclude == s.quince.exclude | _ => false) = true) ∧
    (match eng2Block { passing 2 false [] with quince := Quince.reset } 0 [] 0 with | .stop _ _ => true | _ => false) = true := by decide +kernel
theorem test_norm : nextIs (exec .normDelivery (normed 1)) (fun t => t.quince.localNorm == 0x40000000#32 && dv t 0x7100 4 0 == 0x40000000 &&
    t.disp.orders.map (·.st) == [.completing]) = true := by decide +kernel
/-- R449: the squares of two elements 3 and 4 sum to 25 in binary64. -/
theorem test_squares : (sumSquares 0#64 [0x40400000#32, 0x40800000#32]).toNat = 0x4039000000000000 := by decide +kernel
/-- R447: K = 0 in −1 to 1, half of the updates lost against LOST_HI 655/65536: K goes to 1, and SR_ON is set at KMAX. -/
theorem test_step_rule : stepRule { Snap.zero with lostHi := 655, bigHi := 655, srShare := 3277 }
    [0x01FF0001#64, 0#64, 0#64, 0#64, 0#64, 0#64, 0#64, 0#64, 0x100000000#64, 0#64, 1#64] = 0x01FF0111#64 := by decide +kernel
theorem witness_step : let l : LRec := [0x01FF0001#64]
    lrKmin l ≤ lrK l ∧ lrK l ≤ lrKmax l ∧ (∀ k < 12, lrTally l (k + 4) = 0) ∧ lrTally l 1 = 0 := by decide +kernel

/-! ### The dictionary -/

def dicted : State := linked running1
/-- The debug unit enabled on core 0, position 5000 RETIRED, a firmware image of SVN 0 staged, coolant sound. -/
def serviced : State := { dicted with
  dict := { dicted.dict with val := [(256 * 0x5000 + 1, some 1), (256 * 0x8300 + 1, some 1)] }, boot := { dicted.boot with cmap := [(5000, some (4, 0x1FFF))] },
  sec := { dicted.sec with stage := [(0, 0x53#8), (1, 0x57#8), (2, 0x49#8), (3, 0x4D#8), (4, 1#8), (116, 1#8)] } }
/-- The OWNER's request through the mailbox, and the checks that its item passes or fails. -/
def judge (it : Item) : Nat × Nat := writeJudge serviced (pathNum .mailbox) (Claims.roleAt .owner .mailbox) it 0
def stageItem : Item := { wItem 0x9020 1 9 0 0 with len := 1, offset := 3, value := [7#8] }
def nonceItem : Item := { wItem 0x9010 1 10 0 0 with len := 32, value := List.replicate 32 1#8 }
theorem witness_commands : Claims.reaches .owner .mailbox serviced ∧ serviced.power.st ≠ 5 ∧ serviced.pins.coolant = false ∧
    judge (wItem 0x2000 3 1 1 1) = (0, 0) ∧ judge (wItem 0x2000 3 1 1 0) = (0, 0) ∧ judge (wItem 0x3000 5 1 1 1) = (0, 0) ∧
    judge (wItem 0x3000 5 1 1 0) = (0, 0) ∧ judge (wItem 0x6020 2 3 2 5) = (0, 0) ∧ judge (wItem 0x6020 3 3 2 5000) = (0, 0) ∧
    judge stageItem = (0, 0) ∧ judge (wItem 0x9020 2 2 1 1) = (0, 0) ∧ judge nonceItem = (0, 0) ∧ judge (wItem 0x5100 1 1 1 1) = (0, 0) ∧
    judge (wItem 0x5100 1 1 1 0) = (0, 0) ∧ judge (wItem 0x5113 1 1 1 1) = (0, 0) ∧ judge (wItem 0x5113 1 1 1 0) = (0, 0) ∧
    sv serviced (0x5110 + 3) 1 = 1 ∧ judge (wItem 0x7100 2 7 4 0) = (0, 0) ∧ judge (wItem 0x7100 3 4 4 9) = (0, 0) ∧
    judge (wItem 0x7100 4 7 4 0) = (0, 0) ∧ judge (wItem 0x8300 4 2 1 1) = (0, 0) ∧ judge (wItem 0x8300 4 2 1 2) = (0, 0) ∧
    judge (wItem 0x8300 4 2 1 3) = (0, 0) ∧ judge (wItem 0x8300 6 5 8 1) = (0, 0) ∧ judge (wItem 0x1010 1 1 1 0) = (0, 0) :=
  ⟨⟨by decide +kernel, trivial⟩, by decide +kernel⟩
theorem witness_port_off : (let s := { serviced with dict := { serviced.dict with val := [(256 * 0x5000 + 1, some 1), (256 * 0x5113 + 1, some 0)] } }
    sv s (0x5110 + 3) 1 = 0 ∧ writeJudge s 0 1 (wItem 0x5113 1 1 1 1) 0 = (0, 0)) := by decide +kernel

/-- The port in use, one OPERATOR session. -/
def portOn : State := { serviced with
  pins := { serviced.pins with straps := 5 }, dict := { serviced.dict with sessions := [{ n := 1, key := 0, ks := 0, lastSeq := none, age := 0 }] } }
/-- The entry is there, and f holds of it. -/
def entryIs (ix sub : Nat) (f : DictEntry → Bool) : Bool :=
  match entryOf serviced ix sub with
  | some e => f e
  | none => false
theorem witness_judgment : Claims.reaches .owner .mailbox serviced ∧ serviced.boot.rom ≠ 2 ∧ pathOn running1 0 = false ∧ pathOn portOn 1 = true ∧
    frameBad portOn (Claims.roleAt .operator (.rind 0 true)) 0 true = true ∧ frameBad portOn (Claims.roleAt .operator (.rind 1 true)) 1 true = false ∧
    badRole 1 1 = true ∧ badRole 0 1 = false ∧ entryOf serviced 0x2000 9 = none ∧
    entryIs 0x2000 1 (fun e => (wItem 0x2000 1 1 1 1).type = e.ty ∧ (wItem 0x2000 1 2 1 1).type ≠ e.ty ∧
      lenFits e (wItem 0x2000 1 1 1 1) = true ∧ lenFits e (wItem 0x2000 1 1 2 1) = false ∧ roleMay e (3 - 1) true = false) ∧
    judge { wItem 0x2000 1 1 1 1 with holdId := 1 } = (1, 0) ∧
    judge (wItem 0x9020 2 2 1 3) = (1, 0) ∧
    (hasEnable 0x2010 = true ∧ 0x2010 ∉ [0x5100, 0x7100, 0x9040] ∧ judge (wItem 0x2010 1 1 1 0) = (0, 0)) :=
  ⟨⟨by decide +kernel, trivial⟩, by decide +kernel⟩
theorem test_write : nextIs (exec (.dictWrite .owner .mailbox (wItem 0x7100 3 4 4 9)) serviced) (fun t => dv t 0x7100 3 0 == 9 && t.dict.gen == 1 &&
    t.dict.logHead == 1 && (t.dict.answer.map (·.reason)) == some 0) = true := by decide +kernel

def held (n : Nat) : HoldRec := { n := n, path := 0, role := 1, index := 0x8100, sub := 2, data := [], age := 5 }
theorem witness_reads :
    entryIs 0x7100 3 (fun e => (rItem 0x7100 3 4 4).type = e.ty ∧ readsOff serviced 0x7100 3 = false ∧ roleMay e 0 false = true ∧ e.ty ≤ 7 ∧
      e.size ≤ 4 ∧ 3 < e.size) ∧
    entryIs 0x9010 2 (fun e => e.ty = 10) ∧
    entryIs 0x8100 2 (fun e => e.ty = 9 ∧ roleMay e 0 false = true ∧ readsOff serviced 0x8100 2 = false) ∧
    (serviced.dict.holds.filter holdLive).length < 4 ∧
    4 ≤ ({ serviced.dict with holds := [held 1, held 2, held 3, held 4] }.holds.filter holdLive).length ∧
    (running serviced = true ∧ sv serviced 0x8300 1 = 1 ∧ debugRead serviced 6 = 0) ∧
    entryIs 0x9020 1 (fun e => e.ty = 9 ∧ roleMay e (3 - 1) false = false) := by decide +kernel
theorem test_read : nextIs (exec (.dictRead .owner .mailbox (rItem 0x2000 2 2 1)) serviced) (fun t =>
    t.dict.answer.map (fun a => (a.reason, a.value)) == some (0, [2#8])) = true := by decide +kernel

/-! ### Mailbox, rind port, sessions -/

def mail (b : Bool) : State := { dicted with dict := { dicted.dict with mbBusy := b } }
def resp1 : Resp := { path := 0, source := 0, session := 0, seq := 3, role := 1, tick := 0, items := [], age := 0, op := 2, body := [] }
def flashing (i : Option (Nat × Image)) : State := { dicted with dict := { dicted.dict with flash := some 9 }, sec := { dicted.sec with inst := i } }
theorem witness_mailbox : pathOn (mail false) 0 = true ∧ (mail false).dict.mbBusy = false ∧ pathOn (mail true) 0 = true ∧ (mail true).dict.mbBusy = true ∧
    { dicted.dict with mbJudged := some resp1, mbIntr := true }.mbJudged = some resp1 ∧ pathOn running1 0 = false ∧
    (flashing none).dict.flash = some 9 ∧ (flashing none).sec.inst = none ∧ (flashing (some (1, Image.zero))).sec.inst = some (1, Image.zero) ∧
    (flashing (some (2, Image.zero))).sec.inst = some (2, Image.zero) ∧ dicted.dict.flash = none := by decide +kernel
theorem test_go : nextIs (exec (.go 0x30007#64) (mail false)) (fun t => t.dict.mbBusy && t.dict.mbNewSeq == 7 && t.dict.mbIntr && t.dict.waiting.length == 1) = true := by
  decide +kernel

/-- A request of one item in session 1, SEQ 8. -/
def frame1 : RindFrame := {
  wellFormed := true, source := 6, seq := 8#16, role := .operator, session := 1, tagged := true, tagOk := true, node := 5, items := [wItem 0x7100 3 4 4 9] }
def kept1 : Resp := { resp1 with path := 1, source := 6, session := 1, seq := 8, role := 2 }
def plca (b : Bool) : State := { portOn with dict := { portOn.dict with plcaOk := b, txq := [kept1] } }
def lastSeq1 (n : BitVec 16) : State := { portOn with
  dict := { portOn.dict with sessions := [{ n := 1, key := 0, ks := 0, lastSeq := some n, age := 0 }] } }
def req4 : Req := { path := 1, source := 6, session := 1, seq := 4, role := 2, wellFormed := true, items := [] }
def waiting4 : State := { portOn with dict := { portOn.dict with waiting := [req4, req4, req4, req4] } }
theorem witness_frame : pathOn portOn 1 = true ∧ frame1.wellFormed = true ∧ frame1.items ≠ [] ∧ frame1.items.length ≤ 64 ∧
    frameBad portOn 2 frame1.session frame1.tagged = false ∧ frameBad portOn 2 0 true = true ∧ keptFor portOn frame1 = none ∧
    keptFor { portOn with dict := { portOn.dict with kept := [kept1] } } frame1 = some kept1 ∧
    (∀ q ∈ (lastSeq1 7#16).dict.sessions, seqNew q frame1.seq = true) ∧ (∀ q ∈ (lastSeq1 8#16).dict.sessions, seqNew q frame1.seq = false) ∧
    4 ≤ (waiting4.dict.waiting.filter (fun q => q.path == 1)).length ∧ pathOn dicted 1 = false ∧ (plca true).dict.plcaOk = true ∧
    (plca false).dict.plcaOk = false ∧ pathOn (plca true) 1 = true := by decide +kernel
theorem test_request : nextIs (exec (.request frame1) (lastSeq1 7#16)) (fun t => t.dict.waiting.map (·.seq) == [8] &&
    t.dict.sessions.map (·.lastSeq) == [some 8#16]) = true ∧
    nextIs (exec (.request frame1) (lastSeq1 8#16)) (fun t => t.dict.waiting == [] && t.dict.authFail == 1) = true ∧
    nextIs (exec .transmitOpportunity (plca true)) (fun t => t.dict.sentFrames == [kept1]) = true := by decide +kernel

/-- OPERATOR keys in use; key 0 is set. -/
def keyed (on : Bool) : State := { portOn with
  dict := { portOn.dict with val := if on then [(256 * 0x5000 + 1, some 1), (256 * 0x9040 + 1, some 1)] else [] }, sec := { portOn.sec with opKeys := [(0, 77)] } }
theorem witness_sessions : rindUp (keyed true) = true ∧ rindPortOn (keyed true) = true ∧ sv (keyed true) 0x9040 1 = 1 ∧ sv (keyed false) 0x9040 1 ≠ 1 ∧
    rindPortOn (keyed false) = true ∧ mget 0 (keyed true).sec.opKeys 0 ≠ 0 ∧ ¬(1 < 8 ∧ mget 0 (keyed true).sec.opKeys 1 ≠ 0) ∧ ¬(8 < 8) ∧
    (keyed true).dict.sessions.length < 4 ∧ (findSession (keyed true) 1).isSome = true ∧ findSession (keyed true) 2 = none ∧
    (let s := { keyed true with dict := { (keyed true).dict with sessions := List.replicate 4 { n := 1, key := 0, ks := 0, lastSeq := none, age := 0 } } }
     4 ≤ s.dict.sessions.length ∧ rindUp s = true) := by decide +kernel

/-! ### Debug, counters, TAP, instruction fetch -/

/-- Thread 2 in a state, selected with register 1. -/
def selected (st : TState) : State := withCore (fun c =>
  { setThr c 2 { Thread.reset with st := st, regs := [(1, 9#64)] } with dbg := { c.dbg with selThread := 2, selReg := 1 } })
theorem witness_debug :
    ((thr (selected .halted) at1).mode = .supervisor ∧ Ready at1 (attOut 0xE00) (selected .halted) ∧ Ready at1 { attAlu with port := 3 } (selected .halted) ∧
      Ready at1 (attOut 0xE90) (selected .halted) ∧ Ready at1 (attOut 0xD20) (selected .halted) ∧ Ready at1 (attOut 0xD80) (selected .halted)) ∧
    ((Claims.core (selected .halted) at1).dbg.haltAll = false ∧ (Claims.core (selected .halted) at1).dbg.haltUnits = false ∧
      (Claims.core (selected .halted) at1).dbg.stopped = [] ∧ (thrOf (selected .halted) (co at1) 2).st = .halted ∧
      (thrOf (selected .wait) (co at1) 2).st = .wait ∧ bits 4#64 15 0 = 2 ^ 2 ∧ bits 4#64 47 16 = 0 ∧
      bits 0x40000#64 31 0 = 2 ^ (2 + 16) ∧ bits 0x40000#64 47 32 = 0 ∧ bits 0x400000000#64 31 0 = 0 ∧ bits 0x400000000#64 47 32 = 2 ^ 2 ∧ 2 ≠ th at1) ∧
    (dbgPut (getThr (Claims.core (selected .halted) at1) 2) 1 5#64).isSome = true ∧ dbgPut (getThr (Claims.core (selected .halted) at1) 2) 0x20 5#64 = none ∧
    ((thrOf (selected .wait) (co at1) 2).st ≠ .halted ∧ (thrOf (selected .wait) (co at1) 2).st ≠ .stopped ∧ (thrOf (selected .wait) (co at1) 2).st ≠ .free ∧
      (Claims.core (selected .wait) at1).dbg.selThread = 2) :=
  ⟨⟨by decide, issues, issues, issues,
    issues, issues⟩, by decide +kernel⟩
theorem test_dbg_data : nextIs (exec (.dbgDataRead at1 3#5) (selected .halted)) (fun t => greg (t1 t) 3 == 9#64) = true ∧
    nextIs (exec (.dbgDataRead at1 3#5) (selected .wait)) (fun t => (getCore t 0).dbg.selErr) = true := by decide +kernel

theorem witness_tap : { running1.boot with modState := 3 }.modState = 3 ∧ running1.boot.modState ≠ 3 ∧ running1.power.st ≠ 5 ∧ pathOn running1 2 = true ∧
    (running1.dict.waiting.any (fun q => q.path == 2) || running1.dict.flashHeld.any (fun p => p.path == 2)) = false ∧
    pathOn { running1 with boot := { running1.boot with rom := 1 } } 2 = false := by decide +kernel
theorem test_extest : nextIs (exec (.extest 7) running1) (fun t => t.pins.driven == none && t.pins.tapIr == 0) = true := by decide +kernel

/-- The page of witness_locked mapped; the PC where no page is mapped; without execute permission; of class 2; a line in the I-cache. -/
def fetching (e : Tlb) (i : SMap DLine) : State := withCore (fun c => { c with xlt := { c.xlt with tlb := [e] }, cache := { c.cache with i := i } })
def lineI : DLine := { lockedLine.cores.foldl (fun _ c => mget DLine.empty c.2.cache.d 257) DLine.empty with locked := false }
theorem witness_fetch :
    (let s := fetching page []
     let c := getCore s 0
     s.ordered = true ∧ canIssue s 0 1 attAlu = true ∧ c.sup.ctrlBad = false ∧ (thrOf s 0 1).ctxBad = false ∧ bpMatch c 1 (thrOf s 0 1) = none ∧
      0x10000000000 ≤ (thrOf s 0 1).pc.toNat ∧ (thrOf s 0 1).pc.toNat < 2 ^ 48 ∧ tlbFind c.xlt (thrOf s 0 1).pc.toNat = some page ∧
      permReason page .supervisor .fetch = 0 ∧ page.cls < 2 ∧ page.comp = false ∧
      (∀ w < 4, (mget DLine.empty c.cache.i (4 * ((thrOf s 0 1).pc.toNat / 64 % 128) + w)).tagBad = false) ∧
      findLine c.cache.i 128 (thrOf s 0 1).pc.toNat = none ∧ fetchOut c (thrOf s 0 1).pc.toNat = false) ∧
    permReason { page with x := false } .supervisor .fetch ≠ 0 ∧
    (let s := fetching { page with cls := 2 } []
     tlbFind (getCore s 0).xlt (thrOf s 0 1).pc.toNat = some { page with cls := 2 } ∧ permReason { page with cls := 2 } .supervisor .fetch = 0 ∧
      (thrOf s 0 1).acc = []) ∧
    (let s := fetching page [(4 * (0x10000001000 / 64 % 128), lineI)]
     (findLine (getCore s 0).cache.i 128 0x10000001000).map (·.2) = some lineI ∧ lineI.flips = []) ∧
    (let s := withThread { thread1 with pc := 0x1000#64 }; canIssue s 0 1 attAlu = true ∧ (thrOf s 0 1).pc.toNat < 0x10000000000) ∧
    (let f : FInfo := { faultAt 0x0D 0x10000001000 false 4 with fetch := true }
     let s := held1 (.fetch 1#4 lineI f) (.readData 7 (List.replicate 64 0#8) [] false)
     mayArrive s 0 = s.net.head? ∧ coreOn s 0 = true ∧ (findOut (getCore s 0) 7).map (·.kind) = some (.fetch 1#4 lineI f) ∧
      (thrOf s 0 1).held = .access 7) := by decide +kernel
theorem test_fetch_fault : nextIs (exec (.instructionFetch 0#13 1#4) (withThread { thread1 with pc := 0x1000#64 })) (fun t => (t1 t).lastCause == 5) = true := by
  decide +kernel

/-! ### Power, start-up -/

/-- The module with power management on, DEEPEST a state, every tolerance unlimited, and the target it gives standing for 100 µs. -/
def sleepy (d : Nat) : State := { State.reset with
  tick := 1000, power := { Power.reset with st := 0, target := d, since := 900 }, boot := { Boot.reset with modState := 2, rom := 0 },
  dict := { Dict.reset with val := [(256 * 0x2100 + 1, some 0xFFFFFFFF), (256 * 0x2100 + 2, some 0xFFFFFFFF), (256 * 0x2100 + 3, some 0xFFFFFFFF),
    (256 * 0x3000 + 1, some 1), (256 * 0x3000 + 2, some d), (256 * 0x3000 + 3, some 100), (256 * 0x5100 + 1, some 0)] } }
def asleepIn (n : Nat) : State := { sleepy 2 with power := { (sleepy 2).power with st := n } }
theorem witness_power :
    (running (sleepy 2) = true ∧ (sleepy 2).power.wake = false ∧ (sleepy 2).power.since + sv (sleepy 2) 0x3000 3 ≤ (sleepy 2).tick ∧
      (sleepy 2).power.target = chooseTarget (sleepy 2) ∧ chooseTarget (sleepy 2) = 2) ∧
    (running (sleepy 4) = true ∧ (sleepy 4).power.since + sv (sleepy 4) 0x3000 3 ≤ (sleepy 4).tick ∧ chooseTarget (sleepy 4) = 4 ∧
      (sleepy 4).disp.dir = [] ∧ (sleepy 4).disp.recalls = [] ∧ (sleepy 4).ordered = true) ∧
    (chooseTarget running1 < 2 ∧ running running1 = true) ∧ (running1.boot.rom = 0 ∧ running1.power.trip = false ∧ running1.boot.run = none ∧ running1.power.st = 0) ∧
    ((asleepIn 2).boot.rom = 0 ∧ (asleepIn 2).power.st = 2 ∧ (asleepIn 2).boot.run = none) ∧ (asleepIn 3).power.st = 3 := by decide +kernel
theorem test_power : nextIs (exec .stateEntry (sleepy 4)) (fun t => t.power.st == 4) = true ∧
    nextIs (exec .wake (asleepIn 3)) (fun t => t.boot.run.map (fun r => (r.kind, r.step)) == some (2, 8)) = true := by decide +kernel

def runningLaunch : State := ordered1 ringed launchWords .running
theorem witness_losses : running runningLaunch = true ∧ runningLaunch.power.st ≠ 5 ∧ runningLaunch.boot.modState ≠ 3 ∧ runningLaunch.power.trip = false ∧
    (runningLaunch.disp.orders.map (·.k)).Nodup ∧ runningLaunch.boot.rom ≠ 3 ∧ State.reset.power.st = 5 := by decide +kernel
/-- The companion holds two lines; a trip in the tick of a coolant loss, and in a later one. -/
theorem witness_trip :
    (let s := { runningLaunch with disp := { runningLaunch.disp with dir := [(0x1000, true), (0x2000, false)] } }
     s.disp.dir ≠ [] ∧ s.power.st ≠ 5 ∧ (s.disp.orders.map (·.k)).Nodup) ∧
    (let p := { Power.reset with st := 5, offWhy := 3, since := 0 }; p.st = 5 ∧ p.offWhy = 3 ∧ p.since = State.reset.tick) ∧
    { Power.reset with offWhy := 2 }.offWhy ≠ 3 := by decide
theorem test_trip : nextIs (exec .thermalTrip runningLaunch) (fun t => t.power.st == 4 && t.disp.orders.map (fun o => (o.status, o.reason)) == [(3, 5)] &&
    dv t 0x2000 1 0 == 0) = true := by decide +kernel
theorem test_throttle : nextIs (exec (.throttlePeriod { hot := [3], cool := [], overPower := false, underPower := false }) runningLaunch) (fun t =>
    mget 16 t.power.duty 3 == 15 && mget 16 t.power.duty 2 == 16) = true := by decide +kernel

/-- The rind runs, the module in Off; at B3 and without a start; in Run with a reset requested, RESET_L low. -/
def off1 (r : Option BootRun) : State := { State.reset with boot := { Boot.reset with rom := 0, run := r } }
def atStep (k : Nat) : BootRun := { kind := 0, step := k, ended := [], fails := [], variant := [], retire := [] }
def resets (q low : Bool) : State := { running1 with boot := { running1.boot with resetReq := q }, pins := { running1.pins with resetLow := low } }
theorem witness_starts : State.reset.boot.rom = 3 ∧ running1.boot.rom ≠ 3 ∧
    ((off1 none).boot.rom = 0 ∧ (off1 none).power.st = 5 ∧ (off1 none).power.offReq = false ∧ (off1 none).pins.coolant = false ∧ (off1 none).boot.run = none) ∧
    ((off1 (some (atStep 3))).boot.run = some (atStep 3) ∧ (atStep 3).step = 3) ∧ running1.power.st ≠ 5 ∧
    ((resets true false).boot.rom = 0 ∧ (resets true false).boot.resetReq = true ∧ (resets true false).pins.resetLow = false) ∧
    (resets false false).boot.resetReq = false ∧ (resets false true).pins.resetLow = true ∧ (resets false false).boot.run = none := by decide
theorem test_starts : nextIs (exec (.powerOnResetExit 5#5) State.reset) (fun t => t.boot.run == some (atStep 1) && t.pins.straps == 5) = true ∧
    nextIs (exec .moduleReset (resets true false)) (fun t => t.boot.run == some { atStep 3 with kind := 1 } && t.cores == []) = true := by decide +kernel

/-- A step under way at a start with the dies supplied; component 0 has failed n times. -/
def booting (k : Nat) (n : Nat) : State := { State.reset with
  power := { Power.reset with st := 0 }, boot := { Boot.reset with rom := 0, run := some { atStep k with fails := if n = 0 then [] else [(0, n)] } } }
def bootEnd (pass : Bool) : BootEnd := { component := 0, pass := pass, detail := 0#64, duration := 5, failing := [], peer := 0 }
theorem witness_boot :
    (∀ k, k = 3 ∨ k = 4 ∨ k = 9 ∨ k = 12 → ∀ n, n = 0 ∨ n = 2 →
      ((booting k n).boot.run.map (fun r => attemptOk (booting k n) r 0 && !inAlternative (booting k n) r 0 && r.ended == [] && r.kind == 0 &&
        mget 0 r.fails 0 == n && r.step == k)) = some true) ∧ stepVariants 9 ≠ 0 ∧
    (∀ k, k = 3 ∨ k = 4 → imageOk (macSeen (booting k 0) k (bootEnd true)) k false = true) ∧
    imageOk (macSeen (booting 3 0) 3 { bootEnd true with macs := [2, 3] }) 3 false = false ∧
    posCount (booting 12 0) 0 = gradeOf (booting 12 0) := by
  refine ⟨?_, by decide, ?_, by decide +kernel, by decide +kernel⟩
  rotate_left
  · rintro k (rfl | rfl) <;> decide +kernel
  rintro k (rfl | rfl | rfl | rfl) n (rfl | rfl) <;> decide +kernel
theorem test_boot : nextIs (exec (.bootStepAttempt (bootEnd true)) (booting 3 0)) (fun t => t.boot.run == some (atStep 4) && t.boot.journalHead == 1) = true ∧
    nextIs (exec (.bootStepAttempt (bootEnd false)) (booting 12 2)) (fun t => t.boot.modState == 3 && t.boot.run == none) = true ∧
    nextIs (exec (.bootStepAttempt (bootEnd true)) (booting 12 0)) (fun t => t.boot.modState == 1) = true := by decide +kernel

end Sys2Proof.Tests
end

section
/-! SUPPORT. What every step keeps, said once for a state, a core, a thread and each kind of answer, and the rules by which it passes
through the operations that all others are made of. -/

namespace Sys2Proof.Machine

/-! ### What is kept -/

/-- Which of the forms are asked for: the order of lists, the canonical form of byte memories; and the queue that waits. One walk through
the model serves each statement about what a step keeps. -/
structure Keeping where
  order : Prop
  memory : Prop
  queue : List Instr

/-- A map lists its keys in order, where order is asked for. -/
def KeptList {α : Type} (p : Keeping) (m : SMap α) : Prop := p.order → rising m = true

/-- A byte memory is canonical, where that is asked for. -/
def KeptBytes (p : Keeping) (m : List Host.Cell) : Prop := p.memory → Memory.wf m = true

/-- A thread's register files are in order. -/
structure KeptThread (p : Keeping) (h : Thread) : Prop where
  regs : KeptList p h.regs
  vregs : KeptList p h.vregs

/-- Threads are in order, and each of them is. -/
structure KeptThreads (p : Keeping) (m : SMap Thread) : Prop where
  list : KeptList p m
  each : ∀ e ∈ m, KeptThread p e.2

/-- A core's lists are in order and its scratchpad is canonical. -/
structure KeptCore (p : Keeping) (c : Core) : Prop where
  thr : KeptThreads p c.thr
  slots : KeptList p c.slots
  chans : KeptList p c.chans
  rings : KeptList p c.rings
  mem : KeptBytes p c.spad.mem

/-- Cores are in order, and each of them is. -/
structure KeptCores (p : Keeping) (m : SMap Core) : Prop where
  list : KeptList p m
  each : ∀ e ∈ m, KeptCore p e.2

/-- The module's cores, memories and queue are as asked for. -/
structure Kept (p : Keeping) (s : State) : Prop where
  cores : KeptCores p s.cores
  hbm : KeptBytes p s.hbm
  comp : KeptBytes p s.comp
  queue : s.pending = p.queue

/-- An optional state is, where there is one. -/
structure KeptOpt (p : Keeping) (o : Option State) : Prop where
  each : ∀ s, o = some s → Kept p s

/-- The state of an operation that may have to wait is, and what it answers is as `q` asks. -/
structure KeptEx (p : Keeping) {α : Type} (q : α → Prop) (r : Except State α) : Prop where
  error : ∀ s, r = .error s → Kept p s
  ok : ∀ a, r = .ok a → q a

/-! ### The state that an answer carries -/

/-- The state of an access, however it ends. -/
@[reducible] def AR.state {α : Type} : AR α → State
  | .ok s _ | .fault s _ | .hold s => s

/-- The state of an instruction's body, whatever the instruction does. -/
@[reducible] def IRes.state : IRes → State
  | .done s _ | .hold s | .wait s _ _ | .exc s _ | .trap s _ | .set s => s

/-- The state of a unit's access, however it ends. -/
@[reducible] def UA.state : UA → State
  | .data s _ _ | .done s | .sent s | .wait s | .fail s _ _ => s

/-- The state in which a unit waits for a translation. -/
@[reducible] def UX.waits : UX → Option State
  | .wait s => some s
  | _ => none

/-- The state in which a long instruction stops. -/
@[reducible] def Units.state : Units → State
  | .all s | .fault s _ _ | .wait s _ | .hit s _ => s

/-- The state of an engine's operation, however it ends. -/
@[reducible] def ER.state {α : Type} : ER α → State
  | .ok s _ | .stop s _ => s

/-- The state in which places wait for a recall. -/
@[reducible] def VP.waits : VP → Option State
  | .wait s => some s
  | _ => none

/-- The next state of a command. -/
@[reducible] def nextOf : Host.Outcome State Fault Refusal → Option State
  | .next s => some s
  | _ => none

/-! ### The kept forms are those of the statements -/

theorem keptThread_iff {p : Keeping} {h : Thread} : KeptThread p h ↔ (p.order → h.ordered = true) := by
  simp only [Thread.ordered, Bool.and_eq_true]
  exact ⟨fun k o => ⟨k.regs o, k.vregs o⟩, fun k => ⟨fun o => (k o).1, fun o => (k o).2⟩⟩

theorem keptThreads_iff {p : Keeping} {m : SMap Thread} :
    KeptThreads p m ↔ (p.order → rising m = true ∧ m.all (fun e => e.2.ordered) = true) := by
  simp only [List.all_eq_true]
  exact ⟨fun k o => ⟨k.list o, fun e he => keptThread_iff.1 (k.each e he) o⟩,
    fun k => ⟨fun o => (k o).1, fun e he => keptThread_iff.2 (fun o => (k o).2 e he)⟩⟩

theorem keptCore_iff {p : Keeping} {c : Core} :
    KeptCore p c ↔ (p.order → c.ordered = true) ∧ (p.memory → Memory.wf c.spad.mem = true) := by
  simp only [Core.ordered, Bool.and_eq_true]
  constructor
  · intro k
    exact ⟨fun o => ⟨⟨⟨keptThreads_iff.1 k.thr o, k.slots o⟩, k.chans o⟩, k.rings o⟩, k.mem⟩
  · rintro ⟨k, m⟩
    exact ⟨keptThreads_iff.2 (fun o => (k o).1.1.1), fun o => (k o).1.1.2, fun o => (k o).1.2, fun o => (k o).2, m⟩

/-- The kept forms of a state: its lists in order, its memories canonical, its queue the one named. -/
theorem kept_iff {p : Keeping} {s : State} :
    Kept p s ↔ (p.order → s.ordered = true) ∧ (p.memory → s.memWf = true) ∧ s.pending = p.queue := by
  simp only [State.ordered, Bool.and_eq_true, memWf_iff, List.all_eq_true]
  constructor
  · intro k
    exact ⟨fun o => ⟨k.cores.list o, fun e he => (keptCore_iff.1 (k.cores.each e he)).1 o⟩,
      fun m => ⟨k.hbm m, k.comp m, fun e he => (k.cores.each e he).mem m⟩, k.queue⟩
  · rintro ⟨o, m, q⟩
    exact ⟨⟨fun h => (o h).1, fun e he => keptCore_iff.2 ⟨fun h => (o h).2 e he, fun h => (m h).2.2 e he⟩⟩,
      fun h => (m h).1, fun h => (m h).2.1, q⟩

section
variable {p : Keeping}

/-! ### Maps -/

theorem keptList_nil {α : Type} : KeptList p ([] : SMap α) := fun _ => rfl

theorem keptList_mput {α : Type} [DecidableEq α] {d : α} {m : SMap α} {k : Nat} {v : α} (h : KeptList p m) : KeptList p (mput d k v m) :=
  fun o => rising_mput (h o) k v

theorem keptList_map {α β : Type} {m : SMap α} {f : Nat × α → Nat × β} (hf : ∀ e, (f e).1 = e.1) (h : KeptList p m) :
    KeptList p (m.map f) := fun o => risingFrom_map f hf (h o)

/-- The keys that a listed register file gives rise with the index. -/
theorem risingFrom_zipIdx {α : Type} [DecidableEq α] (d : α) (l : List α) (n : Nat) :
    risingFrom n ((l.zipIdx n).filterMap (fun e => if e.1 = d then none else some (e.2, e.1))) = true := by
  induction l generalizing n with
  | nil => rfl
  | cons a r ih =>
    rw [List.zipIdx_cons, List.filterMap_cons]
    by_cases h : a = d
    · simpa only [h, if_pos] using risingFrom_mono (ih (n + 1)) (Nat.le_succ n)
    · simpa only [h, if_false, risingFrom, Nat.le_refl, decide_true, Bool.true_and] using ih (n + 1)

theorem keptList_mapOf {α : Type} [DecidableEq α] {d : α} {l : List α} : KeptList p (mapOf d l) := fun _ => risingFrom_zipIdx d l 0

theorem keptBytes_nil : KeptBytes p [] := fun _ => rfl

theorem keptBytes_filter {m : List Host.Cell} {f : Host.Cell → Bool} (h : KeptBytes p m) : KeptBytes p (m.filter f) :=
  fun w => mwfFrom_filter f (h w)

theorem keptBytes_writeBytes {m : List Host.Cell} {a : Nat} {d : List Byte} (h : KeptBytes p m) : KeptBytes p (writeBytes m a d) :=
  fun w => wf_writeBytes (h w) a d

/-- What is listed after a write was listed before it, or is what was written. -/
theorem mem_mput {α : Type} [DecidableEq α] {d : α} {m : SMap α} {k : Nat} {v : α} {e : Nat × α} (h : e ∈ mput d k v m) :
    e = (k, v) ∨ e ∈ m := by
  have := List.all_eq_true.1 (all_mput (d := d) (p := fun e => decide (e = (k, v) ∨ e ∈ m)) (m := m) (v := v)
    (List.all_eq_true.2 (fun e he => by simp [he])) k (by simp)) e h
  simpa using this

/-! ### Threads -/

theorem KeptThread.of_eq {h k : Thread} (w : KeptThread p h) (e1 : k.regs = h.regs := by with_reducible rfl)
    (e2 : k.vregs = h.vregs := by with_reducible rfl) :
    KeptThread p k := ⟨e1 ▸ w.regs, e2 ▸ w.vregs⟩

theorem keptThread_reset : KeptThread p Thread.reset := ⟨keptList_nil, keptList_nil⟩

theorem keptThread_setG {h : Thread} {r : Nat} {v : Word} (w : KeptThread p h) : KeptThread p (setG h r v) := by
  unfold setG
  split
  · exact w
  · exact ⟨keptList_mput w.regs, w.vregs⟩

theorem keptThread_setV {h : Thread} {v : Nat} {x : BitVec 1024} (w : KeptThread p h) : KeptThread p (setV h v x) :=
  ⟨w.regs, keptList_mput w.vregs⟩

theorem keptThread_ite {c : Prop} [Decidable c] {h k : Thread} (w : KeptThread p h) (v : KeptThread p k) :
    KeptThread p (if c then h else k) := by
  split
  · exact w
  · exact v

/-- Of two optional threads, whichever is taken. -/
theorem keptThread_ite_some {c : Prop} [Decidable c] {a b : Option Thread} (ha : ∀ x, a = some x → KeptThread p x)
    (hb : ∀ x, b = some x → KeptThread p x) : ∀ x, (if c then a else b) = some x → KeptThread p x := by
  split
  · exact ha
  · exact hb

/-! ### Cores -/

theorem KeptCore.of_eq {c d : Core} (w : KeptCore p c) (e1 : d.thr = c.thr := by with_reducible rfl)
    (e2 : d.slots = c.slots := by with_reducible rfl) (e3 : d.chans = c.chans := by with_reducible rfl)
    (e4 : d.rings = c.rings := by with_reducible rfl) (e5 : d.spad.mem = c.spad.mem := by with_reducible rfl) : KeptCore p d :=
  ⟨e1 ▸ w.thr, e2 ▸ w.slots, e3 ▸ w.chans, e4 ▸ w.rings, e5 ▸ w.mem⟩

theorem keptThreads_nil : KeptThreads p [] := ⟨keptList_nil, by simp⟩

theorem keptCore_reset : KeptCore p Core.reset := ⟨keptThreads_nil, keptList_nil, keptList_nil, keptList_nil, keptBytes_nil⟩

theorem keptThread_getThr {c : Core} {t : Nat} (w : KeptCore p c) : KeptThread p (getThr c t) := by
  unfold getThr
  rcases mget_mem (d := Thread.reset) (m := c.thr) (k := t) with e | ⟨e, he, h⟩
  · rw [e]; exact keptThread_reset
  · rw [← h]; exact w.thr.each e he

theorem keptThreads_mput {m : SMap Thread} {t : Nat} {h : Thread} (w : KeptThreads p m) (k : KeptThread p h) :
    KeptThreads p (mput Thread.reset t h m) := by
  refine ⟨keptList_mput w.list, fun e he => ?_⟩
  rcases mem_mput he with rfl | he
  · exact k
  · exact w.each e he

/-- Changing every thread of a map. -/
theorem keptThreads_map {m : SMap Thread} {f : Nat × Thread → Thread} (w : KeptThreads p m)
    (hf : ∀ e, KeptThread p e.2 → KeptThread p (f e)) : KeptThreads p (m.map (fun e => (e.1, f e))) := by
  refine ⟨keptList_map (fun _ => rfl) w.list, fun e he => ?_⟩
  obtain ⟨a, ha, rfl⟩ := List.mem_map.1 he
  exact hf a (w.each a ha)

theorem keptCore_setThr {c : Core} {t : Nat} {h : Thread} (w : KeptCore p c) (k : KeptThread p h) : KeptCore p (setThr c t h) :=
  ⟨keptThreads_mput w.thr k, w.slots, w.chans, w.rings, w.mem⟩

theorem keptCore_modThr {c : Core} {t : Nat} {f : Thread → Thread} (w : KeptCore p c) (hf : ∀ h, KeptThread p h → KeptThread p (f h)) :
    KeptCore p (modThr c t f) := keptCore_setThr w (hf _ (keptThread_getThr w))

theorem keptCore_setSlot {c : Core} {s : Nat} {x : Slot} (w : KeptCore p c) : KeptCore p (setSlot c s x) :=
  ⟨w.thr, keptList_mput w.slots, w.chans, w.rings, w.mem⟩

theorem keptCore_setChan {c : Core} {n : Nat} {x : Chan} (w : KeptCore p c) : KeptCore p (setChan c n x) :=
  ⟨w.thr, w.slots, keptList_mput w.chans, w.rings, w.mem⟩

theorem keptCore_setRing {c : Core} {r : Nat} {x : Ring} (w : KeptCore p c) : KeptCore p (setRing c r x) :=
  ⟨w.thr, w.slots, w.chans, keptList_mput w.rings, w.mem⟩

theorem keptCore_foldl {α : Type} {f : Core → α → Core} {c : Core} {l : List α} (hf : ∀ c a, KeptCore p c → KeptCore p (f c a))
    (w : KeptCore p c) : KeptCore p (l.foldl f c) := by
  induction l generalizing c with
  | nil => exact w
  | cons a r ih => exact ih (hf c a w)

theorem keptCore_ite {q : Prop} [Decidable q] {c d : Core} (h : KeptCore p c) (k : KeptCore p d) : KeptCore p (if q then c else d) := by
  split
  · exact h
  · exact k

/-! ### The module -/

theorem Kept.of_eq {s t : State} (h : Kept p s) (e1 : t.cores = s.cores := by with_reducible rfl)
    (e2 : t.hbm = s.hbm := by with_reducible rfl) (e3 : t.comp = s.comp := by with_reducible rfl)
    (e4 : t.pending = s.pending := by with_reducible rfl) : Kept p t :=
  ⟨e1 ▸ h.cores, e2 ▸ h.hbm, e3 ▸ h.comp, e4 ▸ h.queue⟩

theorem kept_ctxSide {s : State} {m : SMap Word} (h : Kept p s) : Kept p { s with disp := { s.disp with ctxSide := m } } := h.of_eq

theorem Kept.core {s : State} (h : Kept p s) {L : Nat} : KeptCore p (getCore s L) := by
  unfold getCore
  rcases mget_mem (d := Core.reset) (m := s.cores) (k := L) with e | ⟨e, he, k⟩
  · rw [e]; exact keptCore_reset
  · rw [← k]; exact h.cores.each e he

theorem Kept.thread {s : State} (h : Kept p s) {L t : Nat} : KeptThread p (thrOf s L t) := keptThread_getThr h.core

theorem keptCores_nil : KeptCores p [] := ⟨keptList_nil, by simp⟩

theorem keptCores_mput {m : SMap Core} {L : Nat} {c : Core} (w : KeptCores p m) (k : KeptCore p c) :
    KeptCores p (mput Core.reset L c m) := by
  refine ⟨keptList_mput w.list, fun e he => ?_⟩
  rcases mem_mput he with rfl | he
  · exact k
  · exact w.each e he

/-- Changing every core of a map. -/
theorem keptCores_map {m : SMap Core} {f : Nat × Core → Core} (w : KeptCores p m) (hf : ∀ e, KeptCore p e.2 → KeptCore p (f e)) :
    KeptCores p (m.map (fun e => (e.1, f e))) := by
  refine ⟨keptList_map (fun _ => rfl) w.list, fun e he => ?_⟩
  obtain ⟨a, ha, rfl⟩ := List.mem_map.1 he
  exact hf a (w.each a ha)

theorem kept_setCore {s : State} {L : Nat} {c : Core} (h : Kept p s) (k : KeptCore p c) : Kept p (setCore s L c) :=
  ⟨keptCores_mput h.cores k, h.hbm, h.comp, h.queue⟩

theorem kept_modCore {s : State} {L : Nat} {f : Core → Core} (h : Kept p s) (hf : ∀ c, KeptCore p c → KeptCore p (f c)) :
    Kept p (modCore s L f) := kept_setCore h (hf _ h.core)

theorem kept_modT {s : State} {L t : Nat} {f : Thread → Thread} (h : Kept p s) (hf : ∀ k, KeptThread p k → KeptThread p (f k)) :
    Kept p (modT s L t f) := kept_modCore h (fun _ w => keptCore_modThr w hf)

theorem kept_foldl {α : Type} {f : State → α → State} {s : State} {l : List α} (hf : ∀ s a, Kept p s → Kept p (f s a))
    (h : Kept p s) : Kept p (l.foldl f s) := by
  induction l generalizing s with
  | nil => exact h
  | cons a r ih => exact ih (hf s a h)

/-- Cores listed anew from a rising list, each as `f` gives it. -/
theorem keptCores_range {f : Nat → Core} {n : Nat} (hf : ∀ L, KeptCore p (f L)) : KeptCores p ((List.range n).map (fun L => (L, f L))) := by
  refine ⟨fun _ => ?_, fun e he => ?_⟩
  · have from_any (k : Nat) : risingFrom k ((List.range' k n).map (fun L => (L, f L))) = true := by
      induction n generalizing k with
      | zero => rfl
      | succ n ih =>
        simp [List.range'_succ, risingFrom, ih]
    rw [List.range_eq_range']
    exact from_any 0
  · obtain ⟨L, -, rfl⟩ := List.mem_map.1 he
    exact hf L

/-- Cores listed anew one after another, each as `f` makes it. -/
theorem keptCores_foldl {f : Core → Core} {l m : SMap Core} (hl : ∀ e ∈ l, KeptCore p (f e.2)) (hm : KeptCores p m) :
    KeptCores p (l.foldl (fun m e => mput Core.reset e.1 (f e.2) m) m) := by
  induction l generalizing m with
  | nil => exact hm
  | cons e r ih =>
    exact ih (fun e he => hl e (List.mem_cons_of_mem _ he)) (keptCores_mput hm (hl e List.mem_cons_self))

/-- Steps that carry a state and what they have gathered. -/
theorem kept_foldl_fst {α β : Type} {f : State × β → α → State × β} {r : State × β} {l : List α}
    (hf : ∀ r a, Kept p r.1 → Kept p (f r a).1) (h : Kept p r.1) : Kept p (l.foldl f r).1 := by
  induction l generalizing r with
  | nil => exact h
  | cons a l ih => exact ih (hf r a h)

theorem kept_ite {c : Prop} [Decidable c] {s t : State} (h : Kept p s) (k : Kept p t) : Kept p (if c then s else t) := by
  split
  · exact h
  · exact k

/-- Of two answers that carry a state, whichever is given. -/
theorem kept_ite_of {β : Type} {g : β → State} {c : Prop} [Decidable c] {a b : β} (h : Kept p (g a)) (k : Kept p (g b)) :
    Kept p (g (if c then a else b)) := by
  split
  · exact h
  · exact k

theorem kept_exc {s : State} {f : FInfo} (h : Kept p s) : Kept p (IRes.exc s f).state := h

theorem kept_done {s : State} {n : Nx} (h : Kept p s) : Kept p (IRes.done s n).state := h

/-! ### Answers -/

/-- What an operation answers is kept with its other name. -/
theorem Kept.along {β : Type} {g : β → State} {a b : β} (h : Kept p (g a)) (e : a = b) : Kept p (g b) := e ▸ h

theorem KeptOpt.along {β : Type} {g : β → Option State} {a b : β} (h : KeptOpt p (g a)) (e : a = b) : KeptOpt p (g b) := e ▸ h

theorem KeptOpt.none : KeptOpt p Option.none := ⟨fun _ e => nomatch e⟩

theorem KeptOpt.some {s : State} (h : Kept p s) : KeptOpt p (Option.some s) := ⟨fun _ e => Option.some.inj e ▸ h⟩

theorem KeptOpt.getD {o : Option State} {s : State} (h : KeptOpt p o) (k : Kept p s) : Kept p (o.getD s) := by
  cases o with
  | none => exact k
  | some a => exact h.each a rfl

theorem KeptOpt.ite {c : Prop} [Decidable c] {a b : Option State} (h : KeptOpt p a) (k : KeptOpt p b) : KeptOpt p (if c then a else b) := by
  split
  · exact h
  · exact k

theorem KeptOpt.ite_of {β : Type} {g : β → Option State} {c : Prop} [Decidable c] {a b : β} (h : KeptOpt p (g a)) (k : KeptOpt p (g b)) :
    KeptOpt p (g (if c then a else b)) := by
  split
  · exact h
  · exact k

theorem KeptEx.of_error {α : Type} {q : α → Prop} {s : State} (h : Kept p s) : KeptEx p q (.error s) :=
  ⟨fun _ e => Except.error.inj e ▸ h, fun _ e => (nomatch e)⟩

theorem KeptEx.of_ok {α : Type} {q : α → Prop} {a : α} (h : q a) : KeptEx p q (.ok a) :=
  ⟨fun _ e => (nomatch e), fun _ e => Except.ok.inj e ▸ h⟩

theorem kept_andThen {α β : Type} {r : AR α} {f : State → α → AR β} (h : Kept p r.state) (hf : ∀ s v, Kept p s → Kept p (f s v).state) :
    Kept p (andThen r f).state := by
  cases r
  · exact hf _ _ h
  · exact h
  · exact h

theorem kept_erThen {α β : Type} {r : ER α} {f : State → α → ER β} (h : Kept p r.state) (hf : ∀ s v, Kept p s → Kept p (f s v).state) :
    Kept p (erThen r f).state := by
  cases r
  · exact hf _ _ h
  · exact h

theorem keptEx_foldlM {α : Type} {f : State → α → Except State State} {l : List α} {s : State}
    (hf : ∀ s a, Kept p s → KeptEx p (fun x => Kept p x) (f s a)) (h : Kept p s) : KeptEx p (fun x => Kept p x) (l.foldlM f s) := by
  induction l generalizing s with
  | nil => exact .of_ok h
  | cons a l ih =>
    rw [List.foldlM_cons]
    cases e : f s a with
    | error t => exact .of_error ((hf s a h).error t e)
    | ok t => exact ih ((hf s a h).ok t e)

/-! ### Memories -/

theorem kept_hbmWrite {s : State} {a : Nat} {d : List Byte} {b : List Nat} (h : Kept p s) : Kept p (hbmWrite s a d b) :=
  ⟨h.cores, keptBytes_writeBytes h.hbm, h.comp, h.queue⟩

theorem kept_compWrite {s : State} {a : Nat} {d : List Byte} (h : Kept p s) : Kept p (compWrite s a d) :=
  ⟨h.cores, h.hbm, keptBytes_writeBytes h.comp, h.queue⟩

theorem kept_spadWrite {s : State} {L off : Nat} {d : List Byte} (h : Kept p s) : Kept p (spadWrite s L off d) := by
  unfold spadWrite
  extract_lets c n partials old eff ws mended pf c' sp z base
  have hc : KeptCore p c' := by
    simp only [c']
    split
    · exact h.core
    · exact h.core.of_eq
  have hz : Kept p z := kept_setCore h ⟨hc.thr, hc.slots, hc.chans, hc.rings, keptBytes_writeBytes hc.mem⟩
  split
  · exact hz
  · exact hz.of_eq

end

end Sys2Proof.Machine
end

section
/-! PROOFS. Every operation of the model passes on what is kept: one lemma for each function, in the order of the model's files, by the
lemmas about the functions it calls. -/

namespace Sys2Proof.Machine

-- One theorem at a time: the threads that would check these side by side do not fit in the memory of the check.
set_option Elab.async false

section
variable {p : Keeping}

/-! ### Threads, memories, packets -/

theorem kept_wg {σ : State} {L t : Nat} {r : BitVec 5} {v : Word} (h : Kept p σ) : Kept p (wg σ L t r v) :=
  kept_modT h (fun _ k => keptThread_setG k)

theorem keptCore_setSc {c : Core} {n : Nat} {x : Counter} (w : KeptCore p c) : KeptCore p (setSc c n x) := by
  unfold setSc
  exact w.of_eq

theorem keptCore_setWin {c : Core} {w1 : Nat} {x : Window} (w : KeptCore p c) : KeptCore p (setWin c w1 x) := by
  unfold setWin
  exact w.of_eq

theorem keptCore_setCred {c : Core} {e : Nat} {x : Credit} (w : KeptCore p c) : KeptCore p (setCred c e x) := by
  unfold setCred
  exact w.of_eq

theorem kept_fresh {σ : State} (h : Kept p σ) : Kept p (fresh σ).2 := by
  unfold fresh
  exact h.of_eq

theorem kept_errRecord {σ : State} {cls sev L pos stk bank cause off : Nat} {pair : Pair} (h : Kept p σ) :
    Kept p (errRecord σ cls sev L pos stk bank cause off pair) := by
  unfold errRecord
  dsimp only
  split
  · exact h.of_eq
  · exact h.of_eq

theorem keptCore_pmcEvent {c : Core} {ev : Nat} {t : Option Nat} {n : Nat} (w : KeptCore p c) : KeptCore p (pmcEvent c ev t n) :=
  keptCore_ite w w.of_eq

theorem kept_setMap {σ : State} {p1 st id : Nat} (h : Kept p σ) : Kept p (setMap σ p1 st id) := by
  unfold setMap
  exact h.of_eq

theorem kept_mapCommit {σ : State} (h : Kept p σ) : Kept p (mapCommit σ) := by
  unfold mapCommit
  exact h.of_eq

theorem kept_spareMissing {σ : State} (h : Kept p σ) : Kept p (spareMissing σ) := by
  unfold spareMissing
  exact h.of_eq

theorem kept_unreserve {σ : State} {L : Nat} (h : Kept p σ) : Kept p (unreserve σ L) := by
  unfold unreserve
  split
  · exact kept_setMap h
  · exact h

theorem kept_reserveSpare {σ : State} {L : Nat} (h : Kept p σ) : Kept p (reserveSpare σ L) := by
  unfold reserveSpare
  split
  · exact kept_setMap h
  · exact kept_spareMissing h

theorem kept_markRetire {σ : State} {L : Nat} (h : Kept p σ) : Kept p (markRetire σ L) :=
  kept_ite h (kept_mapCommit (kept_foldl (fun _ _ h1 => kept_reserveSpare h1) (kept_foldl (fun _ _ h1 => kept_unreserve h1)
    (kept_setMap h))).of_eq)

theorem kept_noteSpadUE {σ : State} {L off : Nat} (h : Kept p σ) : Kept p (noteSpadUE σ L off) := by
  unfold noteSpadUE
  extract_lets _ _ σ1 _ _ σ2 _ _ _ _ σ3
  have hσ : Kept p σ1 := kept_ite h (kept_setCore h h.core.of_eq)
  have hσ1 : Kept p σ2 := kept_errRecord hσ
  have hσ2 : Kept p σ3 := hσ1.of_eq
  split
  · exact kept_ite (kept_markRetire hσ1) hσ1
  · exact hσ1
  · exact kept_ite (kept_markRetire hσ2) hσ2

theorem kept_spadMeet {σ : State} {L off n : Nat} (h : Kept p σ) : Kept p (spadMeet σ L off n) := by
  unfold spadMeet
  dsimp only
  split
  · exact h
  · exact kept_setCore h (keptCore_ite h.core.of_eq h.core.of_eq)

theorem kept_netWrite {σ : State} {L off : Nat} {data : List Byte} {bad : List Nat} (h : Kept p σ) : Kept p (netWrite σ L off data bad) :=
  kept_foldl (fun _ _ h1 => kept_noteSpadUE h1) (kept_modCore (kept_spadWrite h) (fun _ w => w.of_eq))

theorem kept_spadMark {σ : State} {L : Nat} {ks : List Nat} (h : Kept p σ) : Kept p (spadMark σ L ks) := kept_modCore h (fun _ w => w.of_eq)

theorem kept_spadWriteBad {σ : State} {L off : Nat} {data : List Byte} {bad : List Nat} (h : Kept p σ) :
    Kept p (spadWriteBad σ L off data bad) :=
  kept_spadMark (kept_spadWrite h)

theorem kept_homePut {σ : State} {h1 : Home} {data : List Byte} {bad : List Nat} (h : Kept p σ) : Kept p (homePut σ h1 data bad) := by
  unfold homePut
  split
  · exact kept_spadWriteBad h
  · exact kept_hbmWrite h
  · exact kept_compWrite h

theorem kept_homePutRuns {σ : State} {h1 : Home} {rs : List (Nat × List Byte)} {bad : List Nat} (h : Kept p σ) :
    Kept p (homePutRuns σ h1 rs bad) :=
  kept_foldl (fun _ _ h1 => kept_homePut h1) h

theorem kept_startRecall {σ : State} {line : Nat} {inv : Bool} {pk : List Packet} (h : Kept p σ) : Kept p (startRecall σ line inv pk) := by
  unfold startRecall
  dsimp only
  split
  · exact h.of_eq
  · exact h.of_eq

theorem kept_inject {σ : State} {p1 : Packet} (h : Kept p σ) : Kept p (inject σ p1) := by
  unfold inject
  exact h.of_eq

theorem kept_send {σ : State} {src dst : Ep} {b : Body} (h : Kept p σ) : Kept p (send σ src dst b) := kept_inject h

theorem kept_takePkt {σ : State} {i : Nat} (h : Kept p σ) : Kept p (takePkt σ i) := by
  unfold takePkt
  exact h.of_eq

theorem kept_newId {σ : State} (h : Kept p σ) : Kept p (newId σ).2 := by
  unfold newId
  exact h.of_eq

theorem kept_addOut {σ : State} {L id : Nat} {k1 : OutKind} {h1 : Home} (h : Kept p σ) : Kept p (addOut σ L id k1 h1) :=
  kept_modCore h (fun _ w => w.of_eq)

theorem kept_dropOut {σ : State} {L id : Nat} (h : Kept p σ) : Kept p (dropOut σ L id) := kept_modCore h (fun _ w => w.of_eq)

theorem kept_sendRead {σ : State} {L id : Nat} {h1 : Home} {n : Nat} {w1 : Who} (h : Kept p σ) : Kept p (sendRead σ L id h1 n w1) := by
  unfold sendRead
  split
  · exact kept_ite (kept_send h) (kept_send h)
  · exact kept_send h

theorem kept_sendRuns {σ : State} {L id : Nat} {h1 : Home} {rs : List (Nat × List Byte)} {bad : List Nat} {w1 : Who} (h : Kept p σ) :
    Kept p (sendRuns σ L id h1 rs bad w1) := by
  unfold sendRuns
  split
  · exact kept_ite (kept_send (kept_homePutRuns h)) (kept_send h)
  · exact kept_send h

theorem kept_sendWrite {σ : State} {L id : Nat} {h1 : Home} {data : List Byte} {bad : List Nat} {w1 : Who} (h : Kept p σ) :
    Kept p (sendWrite σ L id h1 data bad w1) :=
  kept_sendRuns h

theorem kept_sendAtomic {σ : State} {L id : Nat} {h1 : Home} {op : AmoOp} {eight : Bool} {a rd : Word} {w1 : Who} (h : Kept p σ) :
    Kept p (sendAtomic σ L id h1 op eight a rd w1) := by
  unfold sendAtomic
  split
  · exact kept_ite (kept_send (kept_homePut h)) (kept_send h)
  · exact kept_send h

theorem keptCore_queueEvent {c : Core} {unit index thread : Nat} {fw : Bool} {cause : Nat} (w : KeptCore p c) :
    KeptCore p (queueEvent c unit index thread fw cause) :=
  keptCore_ite w.of_eq (keptCore_pmcEvent w.of_eq)

/-! ### Reaching D-space and I-space -/

theorem kept_coreStop {σ : State} {L sub thread : Nat} (h : Kept p σ) : Kept p (coreStop σ L sub thread) := by
  unfold coreStop
  extract_lets _ c _ _ _ _ c1 σ1
  have hc : KeptCore p c := keptCore_foldl (fun _ _ w => keptCore_modThr w (fun _ k => k.of_eq)) h.core
  have hc1 : KeptCore p c1 := hc.of_eq
  have hσ : Kept p σ1 := kept_setCore h.of_eq hc1
  exact kept_ite h (kept_send hσ)

theorem keptCore_countWalk {c : Core} (w : KeptCore p c) : KeptCore p (countWalk c) := keptCore_pmcEvent w.of_eq

theorem kept_joinWalk {σ : State} {L page : Nat} {w1 : Waiter} (h : Kept p σ) : Kept p (joinWalk σ L page w1) := by
  unfold joinWalk
  dsimp only
  split
  · exact kept_ite h (kept_setCore h h.core.of_eq)
  · exact kept_ite h (kept_setCore h (keptCore_countWalk h.core).of_eq)

theorem kept_threadXlate {σ : State} {L t : Nat} {mode : Mode} {acc : Acc} {va : Nat} {f : FInfo} (h : Kept p σ) :
    Kept p (threadXlate σ L t mode acc va f).state := by
  unfold threadXlate
  dsimp only
  split
  · split
    · exact h
    · exact h
  · exact kept_ite_of (kept_modT (kept_joinWalk h) (fun _ k => k.of_eq)) h

theorem kept_checkTags {σ : State} {L va : Nat} (h : Kept p σ) : Kept p (checkTags σ L va) :=
  kept_foldl (fun _ _ h1 => kept_ite h1 (kept_ite (kept_coreStop h1) (kept_setCore h1 h1.core.of_eq))) h

theorem kept_dcMeet {σ : State} {L va n : Nat} (h : Kept p σ) : Kept p (dcMeet σ L va n) := by
  unfold dcMeet
  dsimp only
  split
  · exact kept_checkTags h
  · exact kept_ite (kept_checkTags h) (kept_setCore (kept_checkTags h) (kept_checkTags h).core.of_eq)

theorem kept_writeBack {σ : State} {L : Nat} {l : DLine} (h : Kept p σ) : Kept p (writeBack σ L l) :=
  kept_sendWrite (kept_modCore (kept_addOut (kept_newId h)) (fun _ w => w.of_eq))

theorem kept_evict {σ : State} {L : Nat} {l : DLine} (h : Kept p σ) : Kept p (evict σ L l) := by
  unfold evict
  refine kept_ite h ?_
  refine kept_ite (kept_writeBack h) ?_
  split
  · exact kept_send h
  · exact h

theorem kept_installLine {σ : State} {L : Nat} {l : DLine} (h : Kept p σ) : KeptOpt p (installLine σ L l) :=
  KeptOpt.ite .none (.some (kept_modCore (kept_evict h.of_eq) (fun _ w => w.of_eq)))

theorem keptCore_acquire {c : Core} (w : KeptCore p c) : KeptCore p (acquire c) := by
  unfold acquire
  exact w.of_eq

theorem kept_sideTake {c : Core} {va : Nat} (w : KeptCore p c) : ∀ x, sideTake c va = some x → KeptCore p x.2 := by
  intro x e
  unfold sideTake at e
  split at e
  · cases e
    exact w.of_eq
  · cases e

theorem kept_noteCacheUE {σ : State} {L va : Nat} (h : Kept p σ) : Kept p (noteCacheUE σ L va) := by
  unfold noteCacheUE
  extract_lets _ _ _ σ1 σ2 _ _ σ3
  have hσ : Kept p σ1 := kept_setCore h h.core.of_eq
  have hσ1 : Kept p σ2 := kept_errRecord hσ
  have hσ2 : Kept p σ3 := hσ1.of_eq
  exact kept_ite (kept_markRetire hσ2) hσ2

theorem kept_placesOf {σ : State} {L t : Nat} {mode : Mode} {acc : Acc} {f : FInfo} {l : List (Nat × Nat)} (h : Kept p σ) :
    Kept p (placesOf σ L t mode acc f l).state := by
  induction l generalizing σ L t mode acc f with
  | nil => exact h
  | cons a r ih =>
    rw [placesOf]
    exact kept_andThen (kept_threadXlate h) (fun _ _ h1 => kept_andThen (ih h1) (fun _ _ h1 => h1))

theorem kept_resolve {σ : State} {L t : Nat} {mode : Mode} {acc : Acc} {va n : Nat} {f : FInfo} (h : Kept p σ) :
    Kept p (resolve σ L t mode acc va n f).state := by
  unfold resolve
  split
  · exact h
  · exact kept_ite_of h h
  · exact kept_ite_of h (kept_placesOf h)

theorem kept_accKeep {σ : State} {L t : Nat} {r : AccRec} (h : Kept p σ) : Kept p (accKeep σ L t r) := kept_modT h (fun _ k => k.of_eq)

theorem kept_accClear {σ : State} {L t : Nat} (h : Kept p σ) : Kept p (accClear σ L t) := kept_modT h (fun _ k => k.of_eq)

theorem kept_threadAsks {σ : State} {L t : Nat} {k1 : OutKind} {h1 : Home} (h : Kept p σ) : Kept p (threadAsks σ L t k1 h1).2 := by
  unfold threadAsks
  split
  · next e => exact kept_modT (kept_addOut ((kept_newId h).along e)) (fun _ k => k.of_eq)

theorem kept_homeRead {σ : State} {L t : Nat} {f : FInfo} {h1 : Home} {n : Nat} (h : Kept p σ) : Kept p (homeRead σ L t f h1 n).state := by
  unfold homeRead
  dsimp only
  split
  · refine kept_ite_of (kept_spadMeet h) ?_
    split
    · exact h
    · exact kept_ite_of h (kept_sendRead (kept_threadAsks h))
  split
  · exact h
  · exact kept_ite_of h (kept_sendRead (kept_threadAsks h))

theorem kept_homeWrite {σ : State} {L t : Nat} {f : FInfo} {h1 : Home} {data : List Byte} {merge : Option Nat} (h : Kept p σ) :
    Kept p (homeWrite σ L t f h1 data merge).state := by
  unfold homeWrite
  extract_lets ask
  have hask : Kept p ask.state := by
    dsimp only [ask]
    split
    · exact h
    · exact kept_ite_of h (kept_sendWrite (kept_threadAsks h))
  split
  · refine kept_ite_of hask ?_
    split
    · exact kept_spadWrite h
    · exact kept_foldl (fun _ _ h1 => kept_noteSpadUE h1) h
  · exact hask

theorem kept_prefetch {σ : State} {L va : Nat} (h : Kept p σ) : Kept p (prefetch σ L va) := by
  unfold prefetch
  dsimp only
  split
  · exact h
  · exact kept_ite h (kept_foldl (fun _ _ h1 => kept_ite h1 (kept_sendRead (kept_addOut (kept_newId h1)))) h)

theorem kept_readPlace {σ : State} {L t : Nat} {f : FInfo} {alloc : Bool} {p1 : Place} (h : Kept p σ) :
    Kept p (readPlace σ L t f alloc p1).state := by
  unfold readPlace
  refine kept_ite_of (kept_homeRead h) ?_
  extract_lets _ _ _ σ1 _ keep σ2
  have hσ : Kept p σ1 := kept_dcMeet h
  have hkeep : ∀ x x1 x2, Kept p x → Kept p (keep x x1 x2).state := fun _ _ _ h1 => kept_accKeep h1
  have hσ1 : Kept p σ2 := kept_setCore hσ (keptCore_pmcEvent hσ.core)
  split
  · exact h
  · exact h
  refine kept_ite_of hσ ?_
  split
  · exact hkeep _ _ _ (kept_setCore hσ (keptCore_pmcEvent hσ.core))
  refine kept_ite_of hσ ?_
  refine kept_ite_of ?_ ?_
  · split
    · exact hσ
    · exact kept_homeRead hσ
  · refine kept_ite_of hσ ?_
    split
    · next e =>
        split
        · next e1 => exact hkeep _ _ _ ((kept_installLine (kept_setCore hσ1 (keptCore_pmcEvent (kept_sideTake hσ1.core _ e)))).each _ e1)
        · exact hσ1
    split
    · next e => exact kept_prefetch (kept_sendRead ((kept_threadAsks hσ1).along e))

theorem kept_sideDrop {σ : State} {L va : Nat} (h : Kept p σ) : Kept p (sideDrop σ L va) := by
  unfold sideDrop
  split
  · next e => exact kept_setCore h (kept_sideTake h.core _ e)
  · exact h

theorem kept_sideMove {σ : State} {L va : Nat} (h : Kept p σ) : KeptOpt p (sideMove σ L va) := by
  unfold sideMove
  split
  · next e => exact kept_installLine (kept_setCore h (kept_sideTake h.core _ e))
  · exact .some h

theorem kept_mergeAt {σ : State} {L va : Nat} {data : List Byte} {dirty : Bool} (h : Kept p σ) : Kept p (mergeAt σ L va data dirty) := by
  unfold mergeAt
  dsimp only
  split
  · exact kept_setCore h h.core.of_eq
  · exact h

theorem kept_writePlace {σ : State} {L t : Nat} {f : FInfo} {alloc : Bool} {p1 : Place} {data : List Byte} (h : Kept p σ) :
    Kept p (writePlace σ L t f alloc p1 data).state := by
  unfold writePlace
  refine kept_ite_of (kept_homeWrite h) ?_
  extract_lets _ _ σ1 _ put σ2 σ3
  have hσ : Kept p σ1 := kept_dcMeet h
  have hput : ∀ x, Kept p x → Kept p (put x).state := fun _ h1 => kept_accKeep (kept_mergeAt h1)
  have hσ1 : Kept p σ2 := kept_setCore hσ (keptCore_pmcEvent hσ.core)
  have hσ2 : Kept p σ3 := kept_setCore hσ (keptCore_pmcEvent hσ.core)
  split
  · exact h
  refine kept_ite_of hσ ?_
  split
  · exact kept_ite_of (hput _ hσ1) (kept_homeWrite hσ1)
  refine kept_ite_of hσ ?_
  refine kept_ite_of (kept_homeWrite (kept_sideDrop hσ2)) ?_
  refine kept_ite_of ?_ ?_
  · split
    · next e => exact hput _ (kept_modCore ((kept_sideMove hσ).each _ e) (fun _ w => keptCore_pmcEvent w))
    · exact hσ
  · refine kept_ite_of (kept_homeWrite hσ) ?_
    refine kept_ite_of hσ ?_
    split
    · next e => exact kept_sendRead ((kept_threadAsks hσ2).along e)

theorem kept_readPlaces {σ : State} {L t : Nat} {f : FInfo} {alloc : Bool} {l : List Place} (h : Kept p σ) :
    Kept p (readPlaces σ L t f alloc l).state := by
  induction l generalizing σ L t f alloc with
  | nil => exact h
  | cons a r ih =>
    rw [readPlaces]
    exact kept_andThen (kept_readPlace h) (fun _ _ h1 => kept_andThen (ih h1) (fun _ _ h1 => h1))

theorem kept_writePlaces {σ : State} {L t : Nat} {f : FInfo} {alloc : Bool} {l : List Place} {l1 : List Byte} (h : Kept p σ) :
    Kept p (writePlaces σ L t f alloc l l1).state := by
  induction l generalizing σ L t f alloc l1 with
  | nil => exact h
  | cons a r ih =>
    rw [writePlaces]
    exact kept_andThen (kept_writePlace h) (fun _ _ h1 => ih h1)

theorem kept_readNow {σ : State} {L t : Nat} {mode : Mode} {alloc : Bool} {va n : Nat} {f : FInfo} (h : Kept p σ) :
    Kept p (readNow σ L t mode alloc va n f).state :=
  kept_andThen (kept_resolve h) (fun _ _ h1 => kept_readPlaces h1)

theorem kept_writeNow {σ : State} {L t : Nat} {mode : Mode} {alloc : Bool} {va : Nat} {data : List Byte} {f : FInfo} (h : Kept p σ) :
    Kept p (writeNow σ L t mode alloc va data f).state :=
  kept_andThen (kept_resolve h) (fun _ _ h1 => kept_writePlaces h1)

theorem kept_noteLocalUE {σ : State} {L va n : Nat} (h : Kept p σ) : Kept p (noteLocalUE σ L va n) := by
  unfold noteLocalUE
  split
  · exact kept_ite (kept_foldl (fun _ _ h1 => kept_noteSpadUE h1) h) h
  · exact h

/-! ### Cache maintenance under way -/

theorem kept_modCmo {σ : State} {L : Nat} {f : CmoRun → CmoRun} (h : Kept p σ) : Kept p (modCmo σ L f) :=
  kept_modCore h (fun _ w => w.of_eq)

theorem kept_cmoResult {σ : State} {L r n : Nat} (h : Kept p σ) : Kept p (cmoResult σ L r n) := kept_modCmo h

theorem kept_cmoWalk {n : Nat} {σ : State} {n1 : Nat} (h : Kept p σ) : Kept p (cmoWalk n σ n1) := by
  induction n generalizing σ n1 with
  | zero => exact h
  | succ n ih =>
    rw [cmoWalk]
    split
    · exact h
    dsimp only
    split
    · exact kept_cmoResult h
    · exact kept_ite h (ih (kept_modCmo (kept_modCore (kept_ite (kept_writeBack h) h) (fun _ w => w.of_eq))))

theorem kept_lockPut {σ : State} {L key : Nat} {l : DLine} (h : Kept p σ) : Kept p (lockPut σ L key l) := by
  unfold lockPut
  exact kept_modCore (kept_evict h.of_eq) (fun _ w => w.of_eq)

theorem kept_cmoLock {σ : State} {L : Nat} {x : CmoRun} (h : Kept p σ) : Kept p (cmoLock σ L x) := by
  unfold cmoLock
  extract_lets _ σ1 _ _
  have hσ : Kept p σ1 := kept_dcMeet h
  refine kept_ite hσ ?_
  split
  · refine kept_ite (kept_cmoResult hσ) ?_
    split
    · exact kept_cmoResult hσ
    refine kept_ite (kept_cmoResult (kept_modCore hσ (fun _ w => w.of_eq))) ?_
    refine kept_ite hσ ?_
    extract_lets σ2
    have hσ1 : Kept p σ2 := kept_modCore hσ (fun _ w => w.of_eq)
    exact kept_cmoResult (kept_lockPut hσ1)
  · exact kept_cmoResult hσ
  split
  · exact kept_ite hσ (kept_cmoResult (kept_lockPut hσ))
  refine kept_ite hσ ?_
  split
  · exact kept_ite hσ (kept_joinWalk hσ)
  refine kept_ite (kept_cmoResult hσ) ?_
  refine kept_ite (kept_cmoResult hσ) ?_
  extract_lets _ _
  refine kept_ite hσ ?_
  split
  · next e => exact kept_cmoResult (kept_lockPut (kept_setCore hσ (kept_sideTake hσ.core _ e)))
  split
  · next e => exact kept_modCmo (kept_sendRead (kept_addOut ((kept_newId hσ).along e)))

theorem kept_cmoStep {σ : State} {L : Nat} (h : Kept p σ) : Kept p (cmoStep σ L) := by
  unfold cmoStep
  dsimp only
  split
  · exact h
  · exact kept_ite h (kept_ite (kept_cmoResult h) (kept_ite h (kept_ite (kept_cmoResult (kept_setCore h h.core.of_eq))
      (kept_ite (kept_cmoLock h) (kept_cmoWalk (kept_modCore h (fun _ w => w.of_eq)))))))

theorem kept_cmoBegin {σ : State} {L : Nat} {who : CmoBy} {v : Word} (h : Kept p σ) : Kept p (cmoBegin σ L who v) :=
  kept_modCore h (fun _ w => w.of_eq)

theorem kept_cmoEnd {σ : State} {L : Nat} {x : CmoRun} (h : Kept p σ) : Kept p (cmoEnd σ L x) := kept_modCore h (fun _ w => w.of_eq)

theorem kept_lockFill {σ : State} {L : Nat} {l : DLine} {data : Option (List Byte)} (h : Kept p σ) : Kept p (lockFill σ L l data) :=
  kept_modCmo h

/-! ### Sending a packet -/

theorem kept_fabDrop {σ : State} {k1 : Nat} (h : Kept p σ) : Kept p (fabDrop σ k1) := by
  unfold fabDrop
  exact h.of_eq

theorem kept_netDrop {σ : State} {L k1 : Nat} (h : Kept p σ) : Kept p (netDrop σ L k1) := kept_ite h (kept_setCore h h.core.of_eq)

theorem kept_portPush {σ : State} {p1 : Nat} {k1 : Packet} (h : Kept p σ) : Kept p (portPush σ p1 k1) := by
  unfold portPush
  exact h.of_eq

theorem kept_deliver {σ : State} {k1 : Packet} (h : Kept p σ) : Kept p (deliver σ k1) := by
  unfold deliver
  split
  · refine kept_ite (kept_inject h) ?_
    split
    · exact kept_netDrop h
    · exact kept_netDrop h
    · exact kept_netDrop h
    split
    · exact kept_inject h
    · exact h
  · exact kept_inject h

theorem kept_fabPut {σ : State} {k : Packet} {m : Nat} (h : Kept p σ) : KeptOpt p (fabPut σ k m) := by
  unfold fabPut
  cases (if fabricOn σ then routeGroup σ m else none) with
  | none => exact .none
  | some g =>
    refine .some ?_
    dsimp only
    split
    · exact h.of_eq
    · exact kept_portPush h

theorem kept_fabSend {σ : State} {k1 : Packet} {m : Nat} (h : Kept p σ) : Kept p (fabSend σ k1 m) := by
  unfold fabSend
  split
  · next e => exact (kept_fabPut h).each _ e
  dsimp only
  split
  · exact (kept_fabPut (kept_fabDrop h)).getD (kept_fabDrop (kept_fabDrop h))
  · exact kept_deliver (kept_fabDrop h)
  · exact kept_fabDrop h

theorem kept_sendPk {σ : State} {k1 : Packet} (h : Kept p σ) : Kept p (sendPk σ k1) := by
  unfold sendPk
  split
  · exact kept_fabSend h
  · exact kept_deliver h

theorem kept_sendTo {σ : State} {src dst : Ep} {b : Body} (h : Kept p σ) : Kept p (sendTo σ src dst b) := kept_sendPk h

/-! ### Stream slots and DMA channels -/

theorem keptCore_scAdd {c : Core} {k1 n : Nat} (w : KeptCore p c) : KeptCore p (scAdd c k1 n) :=
  keptCore_ite (keptCore_setSc w) (keptCore_setSc w)

theorem kept_unitXlate {σ : State} {L : Nat} {u : Eng} {mode : Mode} {acc : Acc} {va : Nat} (h : Kept p σ) :
    KeptOpt p (unitXlate σ L u mode acc va).waits := by
  unfold unitXlate
  dsimp only
  refine KeptOpt.ite_of (.some h) ?_
  split
  · split
    · exact .none
    · exact .none
  · exact .some (kept_joinWalk h)

theorem kept_unitRead {σ : State} {L : Nat} {u : Eng} {mode : Mode} {va n : Nat} {k1 : OutKind} (h : Kept p σ) :
    Kept p (unitRead σ L u mode va n k1).state := by
  unfold unitRead
  dsimp only
  split
  · exact h
  · exact kept_ite_of h (kept_ite_of (kept_foldl (fun _ _ h1 => kept_noteSpadUE h1) (kept_spadMeet h))
      (kept_ite_of h (kept_sendRead (kept_addOut (kept_newId h)))))
  split
  · next e => exact ((kept_unitXlate h).along e).each _ rfl
  · exact h
  refine kept_ite_of (kept_ite_of h (kept_sendRead (kept_addOut (kept_newId h)))) ?_
  refine kept_ite_of (kept_dcMeet h) ?_
  split
  · exact kept_dcMeet h
  split
  · exact kept_dcMeet h
  · exact kept_ite_of (kept_dcMeet h) (kept_ite_of (kept_dcMeet h) (kept_sendRead (kept_addOut (kept_newId (kept_dcMeet h)))))

theorem kept_unitWrite {σ : State} {L : Nat} {u : Eng} {mode : Mode} {va : Nat} {runs : List (Nat × List Byte)} {k1 : OutKind}
    (h : Kept p σ) : Kept p (unitWrite σ L u mode va runs k1).state := by
  unfold unitWrite
  extract_lets _ _ ask σ1 _
  have hask : ∀ x x1, Kept p x → Kept p (ask x x1).state := by
    intro _ _ h1
    dsimp only [ask]
    exact kept_ite_of h1 (kept_sendRuns (kept_addOut (kept_newId h1)))
  have hσ : Kept p σ1 := kept_dcMeet h
  split
  · exact h
  · refine kept_ite_of h ?_
    refine kept_ite_of ?_ (hask _ _ h)
    split
    · exact kept_spadWrite h
    · exact kept_foldl (fun _ _ h1 => kept_noteSpadUE h1) (kept_spadWrite h)
  split
  · next e => exact ((kept_unitXlate h).along e).each _ rfl
  · exact h
  extract_lets _
  refine kept_ite_of (hask _ _ h) ?_
  refine kept_ite_of hσ ?_
  refine kept_ite_of (kept_ite_of (kept_mergeAt hσ) (hask _ _ (kept_mergeAt hσ))) ?_
  refine kept_ite_of (hask _ _ (kept_sideDrop hσ)) ?_
  split
  · exact hask _ _ hσ
  · next e => exact kept_mergeAt ((kept_sideMove hσ).each _ e)
  · exact hσ

theorem kept_askCredit {σ : State} {L : Nat} {u : Eng} {m id win off len : Nat} (h : Kept p σ) :
    Kept p (askCredit σ L u m id win off len) :=
  kept_sendTo (kept_modCore h (fun _ w => keptCore_pmcEvent w))

theorem kept_modSlot {σ : State} {L s : Nat} {f : Slot → Slot} (h : Kept p σ) : Kept p (modSlot σ L s f) :=
  kept_modCore h (fun _ w => keptCore_setSlot w)

theorem kept_ringPut {σ : State} {L base size fuel o : Nat} {data : List Byte} (h : Kept p σ) :
    Kept p (ringPut σ L base size fuel o data) := by
  induction fuel generalizing σ o data with
  | zero => exact h
  | succ n ih =>
    cases data with
    | nil => exact h
    | cons b r => exact ih (kept_spadWrite h)

theorem kept_ringMeet {σ : State} {L base size o n : Nat} (h : Kept p σ) : Kept p (ringMeet σ L base size o n) :=
  kept_spadMeet (kept_spadMeet h)

theorem kept_slotLose {σ : State} {L s u hi : Nat} {w1 : Why} (h : Kept p σ) : Kept p (slotLose σ L s u hi w1) := kept_modSlot h

theorem kept_slotFail {σ : State} {L s u : Nat} {w1 : Why} (h : Kept p σ) : Kept p (slotFail σ L s u w1) := kept_slotLose h

theorem kept_unitForward {σ : State} {L source va reason level : Nat} {write : Bool} (h : Kept p σ) :
    Kept p (unitForward σ L source va reason level write) :=
  kept_sendTo (kept_setCore h h.core.of_eq)

theorem kept_slotEnter {σ : State} {L s : Nat} {w1 : Why} (h : Kept p σ) : Kept p (slotEnter σ L s w1) := by
  unfold slotEnter
  dsimp only
  split
  · exact kept_modSlot h
  · exact kept_setCore h (keptCore_queueEvent (keptCore_setSlot (keptCore_ite (keptCore_modThr h.core (fun _ k => k.of_eq)) h.core)))
  · exact kept_setCore h (keptCore_queueEvent (keptCore_setSlot (keptCore_ite (keptCore_modThr h.core (fun _ k => k.of_eq)) h.core)))
  · exact kept_setCore h (keptCore_queueEvent (keptCore_setSlot (keptCore_ite (keptCore_modThr h.core (fun _ k => k.of_eq)) h.core)))
  · exact kept_ite (kept_setCore h (keptCore_queueEvent
      (keptCore_setSlot (keptCore_ite (keptCore_modThr h.core (fun _ k => k.of_eq)) h.core))))
        (kept_setCore h (keptCore_queueEvent (keptCore_setSlot (keptCore_ite (keptCore_modThr h.core (fun _ k => k.of_eq)) h.core))))
  · exact kept_unitForward (kept_modSlot h)

theorem kept_slotSettle {σ : State} {L s : Nat} (h : Kept p σ) : Kept p (slotSettle σ L s) := by
  unfold slotSettle
  dsimp only
  split
  · exact h
  · exact kept_ite h (kept_slotEnter (kept_setCore h (keptCore_setSlot h.core)))

theorem kept_slotStop {σ : State} {L s : Nat} (h : Kept p σ) : Kept p (slotStop σ L s) := kept_slotSettle (kept_modSlot h)

theorem kept_slotNext {σ : State} {L s : Nat} (h : Kept p σ) : Kept p (slotNext σ L s) :=
  kept_modCore h (fun _ w => (keptCore_setSlot w).of_eq)

theorem kept_slotSendOne {σ : State} {L s : Nat} {d : List Word} (h : Kept p σ) : KeptOpt p (slotSendOne σ L s d) := by
  unfold slotSendOne
  dsimp only
  split
  · split
    · exact .none
    · exact .some (kept_sendTo (kept_setCore h (keptCore_setSlot h.core)))
  · exact .none

theorem kept_bufPut {σ : State} {L s : Nat} {d : List Word} {early : Bool} {u : Nat} {b : List Byte} (h : Kept p σ) :
    Kept p (bufPut σ L s d early u b) :=
  kept_foldl (fun _ _ h1 => kept_ite (kept_modSlot (kept_noteSpadUE h1)) (kept_slotFail (kept_noteSpadUE h1)))
    (kept_ringPut (kept_modCore h (fun _ w => keptCore_pmcEvent w)))

theorem kept_slotLand {σ : State} {L s : Nat} {d : List Word} {early : Bool} {a0 : Nat} {data : List Byte} {bad : List Nat} {n u : Nat}
    (h : Kept p σ) : Kept p (slotLand σ L s d early a0 data bad n u) :=
  kept_foldl (fun _ _ h1 => kept_ite (kept_ite (kept_modSlot h1) (kept_slotFail h1))
    (kept_ite h1 (kept_ite (kept_modSlot h1) (kept_bufPut h1)))) (kept_ite h (kept_ite (kept_modSlot h) (kept_bufPut h)))

theorem kept_blockRead {σ : State} {L base e : Nat} {stride : Int} (h : Kept p σ) : Kept p (blockRead σ L base e stride).2.2 :=
  kept_foldl (fun _ _ h1 => kept_spadMeet h1) h

theorem kept_slotRequest {σ : State} {L s : Nat} {dd : Desc} {early : Bool} {u rel : Nat} (h : Kept p σ) :
    KeptOpt p (slotRequest σ L s dd early u rel).1 ∧ Kept p (slotRequest σ L s dd early u rel).2 := by
  unfold slotRequest
  extract_lets _ _ _ _ _ adv fail r σ1 _ _ _ _ _ _ _ _ _ _ σ2 _
  have moves : ∀ s v, Kept p s → Kept p (adv s v) := fun _ _ k => kept_modSlot k
  have fails : ∀ s w, Kept p s → Kept p (fail s w) := fun _ _ k => kept_ite (kept_modSlot k) (kept_slotFail k)
  have block : Kept p r.2.2 := kept_blockRead h
  have met : Kept p σ2 := kept_ringMeet h
  split
  · exact ⟨.none, h⟩
  split
  · split
    · exact ⟨.some (fails _ _ (kept_foldl (fun _ _ k => kept_noteSpadUE k) block)), block⟩
    · split
      · exact ⟨.some (moves _ _ (kept_modSlot block)), block⟩
      · exact ⟨.some (moves _ _ (kept_bufPut block)), block⟩
  split
  · split
    · exact ⟨.some (fails _ _ (kept_foldl (fun _ _ k => kept_noteSpadUE k) h)), h⟩
    split <;> rename_i e <;> have k := (kept_unitWrite met).along e
    · exact ⟨.some (moves _ _ (kept_modCore k (fun _ w => keptCore_pmcEvent w))), k⟩
    · exact ⟨.some (moves _ _ k), k⟩
    · exact ⟨.some (moves _ _ k), k⟩
    · exact ⟨.none, k⟩
    · exact ⟨.some (fails _ _ k), k⟩
  · split <;> rename_i e <;> have k := (kept_unitRead h).along e
    · exact ⟨.some (moves _ _ (kept_slotLand k)), k⟩
    · exact ⟨.some (moves _ _ k), k⟩
    · exact ⟨.some (moves _ _ k), k⟩
    · exact ⟨.none, k⟩
    · exact ⟨.some (fails _ _ k), k⟩

theorem kept_slotStep {σ : State} {L s : Nat} (h : Kept p σ) : KeptOpt p (slotStep σ L s).1 ∧ Kept p (slotStep σ L s).2 := by
  unfold slotStep
  extract_lets c q rel
  split
  · exact ⟨.none, kept_modSlot h⟩
  · next d r _ =>
    split
    · exact ⟨.none, h⟩
    split
    · exact ⟨.none, h⟩
    extract_lets k _ σ1 ready
    have asked : Kept p σ1 := kept_ite (kept_askCredit (kept_modSlot h)) h
    split
    · exact ⟨.some (kept_slotNext h), h⟩
    split
    · exact ⟨.some (kept_slotNext (kept_ite (kept_modCore h (fun _ w => keptCore_scAdd w)) h)), h⟩
    split
    · next s' e =>
      have sent : Kept p s' := (KeptOpt.ite (kept_slotSendOne asked) .none).each _ e
      exact ⟨.some sent, sent⟩
    split
    · exact ⟨.none, asked⟩
    have request : KeptOpt p (if ready then slotRequest σ1 L s d false q.nxt rel else (none, σ1)).1 ∧ Kept p
      (if ready then slotRequest σ1 L s d false q.nxt rel else (none, σ1)).2 := by
      split
      · exact kept_slotRequest asked
      · exact ⟨.none, asked⟩
    split
    · next e =>
      rw [e] at request
      exact ⟨request.1, request.1.each _ rfl⟩
    · next e =>
      rw [e] at request
      split
      · split
        · exact ⟨.none, request.2⟩
        · split
          · exact kept_slotRequest request.2
          · exact ⟨.none, request.2⟩
      · exact ⟨.none, request.2⟩

theorem kept_slotCount {σ : State} {L s : Nat} (h : Kept p σ) : Kept p (slotCount σ L s) := by
  unfold slotCount
  dsimp only
  split
  · next d _ _ => exact kept_ite h (kept_ite h (kept_setCore h (keptCore_ite (keptCore_scAdd (keptCore_setSlot h.core))
      (keptCore_setSlot h.core))))
  · exact h

theorem kept_slotPump {n : Nat} {σ : State} {n1 n2 : Nat} (h : Kept p σ) : Kept p (slotPump n σ n1 n2) := by
  induction n generalizing σ n1 n2 with
  | zero => exact h
  | succ n ih =>
    rw [slotPump]
    split
    · next e => exact ih (kept_slotCount (((kept_slotStep h).1.along e).each _ rfl))
    · next e => exact kept_slotSettle (kept_slotCount ((kept_slotStep h).2.along e))

theorem kept_modChan {σ : State} {L c : Nat} {f : Chan → Chan} (h : Kept p σ) : Kept p (modChan σ L c f) :=
  kept_modCore h (fun _ w => keptCore_setChan w)

theorem kept_chanWriteBack {σ : State} {L c result : Nat} {done : Bool} {crc : BitVec 32} {bytes : Nat} (h : Kept p σ) :
    Kept p (chanWriteBack σ L c result done crc bytes) :=
  kept_ite h (kept_spadWrite h)

theorem kept_chanFail {σ : State} {L c u : Nat} {w1 : Why} {addr : Nat} (h : Kept p σ) : Kept p (chanFail σ L c u w1 addr) := kept_modChan h

theorem kept_chanFault {σ : State} {L c st cause err result : Nat} (h : Kept p σ) : Kept p (chanFault σ L c st cause err result) :=
  kept_ite (kept_setCore h (keptCore_queueEvent (keptCore_setChan (keptCore_ite (keptCore_modThr h.core (fun _ k => k.of_eq)) h.core))))
    (kept_chanWriteBack (kept_setCore h (keptCore_queueEvent
      (keptCore_setChan (keptCore_ite (keptCore_modThr h.core (fun _ k => k.of_eq)) h.core)))))

theorem kept_chanAbort {σ : State} {L c : Nat} (h : Kept p σ) : Kept p (chanAbort σ L c) := by
  unfold chanAbort
  exact kept_modChan (kept_chanWriteBack h)

theorem kept_chanEnter {σ : State} {L c : Nat} {w1 : Why} (h : Kept p σ) : Kept p (chanEnter σ L c w1) := by
  unfold chanEnter
  dsimp only
  refine kept_ite (kept_chanAbort h) ?_
  split
  · exact kept_chanWriteBack (kept_modChan h)
  · exact kept_chanFault h
  · exact kept_chanFault h
  · exact kept_chanFault h
  · exact kept_ite (kept_chanFault (kept_modChan h)) (kept_chanFault (kept_modChan h))
  · exact kept_unitForward (kept_chanWriteBack (kept_modChan h))

theorem kept_chanSettle {σ : State} {L c : Nat} (h : Kept p σ) : Kept p (chanSettle σ L c) := by
  unfold chanSettle
  dsimp only
  split
  · exact h
  · exact kept_ite h (kept_chanEnter (kept_setCore h (keptCore_setChan h.core)))

theorem kept_chanStop {σ : State} {L c : Nat} {abort : Bool} (h : Kept p σ) : Kept p (chanStop σ L c abort) :=
  kept_chanSettle (kept_modChan h)

theorem kept_chanRead {σ : State} {L c lo : Nat} {b : List Byte} (h : Kept p σ) : Kept p (chanRead σ L c lo b) := kept_modChan h

theorem kept_chanFold {σ : State} {L c : Nat} (h : Kept p σ) : Kept p (chanFold σ L c) :=
  kept_ite (kept_setCore h (keptCore_setChan h.core)) h

theorem kept_chanFree {σ : State} {d : List Word} {lo : Nat} {b : List Byte} (h : Kept p σ) : Kept p (chanFree σ d lo b).2 :=
  kept_ite_of h h.of_eq

theorem kept_chanPut {σ : State} {L c lo : Nat} {b : List Byte} (h : Kept p σ) : Kept p (chanPut σ L c lo b).1 := by
  unfold chanPut
  extract_lets _ _ r
  have room : Kept p r.2 := kept_chanFree h
  split
  · dsimp only
    exact kept_modChan h
  split <;> rename_i e <;> have k := (kept_unitWrite room).along e
  · exact kept_modCore k (fun _ w => keptCore_pmcEvent w)
  · exact k
  · exact k
  · exact k
  · exact kept_chanFail k

theorem kept_chanLand {σ : State} {L c lo : Nat} {data : List Byte} {bad : List Nat} (h : Kept p σ) :
    Kept p (chanLand σ L c lo data bad).1 := by
  unfold chanLand
  extract_lets _ _ _ good
  have put : Kept p (if good.isEmpty then (σ, true) else chanPut σ L c lo good).1 := kept_ite_of h (kept_chanPut h)
  split
  · split
    · dsimp only
      exact kept_modChan h
    · exact kept_chanFail h
  split <;> rename_i e <;> have k := put.along e
  · exact k
  · extract_lets σ2
    have read : Kept p σ2 := kept_ite k (kept_chanRead k)
    exact kept_ite read (kept_chanFail read)

theorem kept_chanBlockMove {σ : State} {L c lo hi : Nat} (h : Kept p σ) : Kept p (chanBlockMove σ L c lo hi).1 := by
  unfold chanBlockMove
  dsimp only
  refine kept_ite_of (kept_chanFail (kept_foldl (fun _ _ h1 => kept_noteSpadUE h1) (kept_blockRead h))) ?_
  split
  · next e => exact kept_chanRead ((kept_chanPut (kept_blockRead h)).along e)
  · exact kept_chanPut (kept_blockRead h)

theorem kept_chanSendOne {σ : State} {L c : Nat} (h : Kept p σ) : KeptOpt p (chanSendOne σ L c) := by
  unfold chanSendOne
  dsimp only
  split
  · split
    · exact .none
    · exact .some (kept_sendTo (kept_setCore h (keptCore_setChan h.core)))
  · exact .none

theorem kept_chanStep {σ : State} {L c : Nat} (h : Kept p σ) : KeptOpt p (chanStep σ L c).1 ∧ Kept p (chanStep σ L c).2 := by
  unfold chanStep
  extract_lets _ _ _ _ σ1 _ go read _ r
  have asked : Kept p σ1 := kept_ite (kept_askCredit (kept_modChan h)) h
  have goes : ∀ hi r, Kept p r.1 → KeptOpt p (go hi r).1 ∧ Kept p (go hi r).2 := by
    intro hi r k
    dsimp only [go]
    split
    · exact ⟨.some (kept_modChan k), k⟩
    · exact ⟨.none, k⟩
  have reads : ∀ a n hi, KeptOpt p (read a n hi).1 ∧ Kept p (read a n hi).2 := by
    intro a n hi
    dsimp only [read]
    split <;> rename_i e <;> have k := (kept_unitRead asked).along e
    · exact goes _ _ (kept_chanLand k)
    · exact goes _ _ k
    · exact goes _ _ k
    · exact ⟨.none, k⟩
    · exact ⟨.some (kept_chanFail k), k⟩
  have put : Kept p r.1 := kept_chanPut asked
  split
  · exact ⟨.none, h⟩
  split
  · next s e =>
    have sent : Kept p s := (KeptOpt.ite (kept_chanSendOne asked) .none).each _ e
    exact ⟨.some sent, sent⟩
  split
  · exact ⟨.none, asked⟩
  split
  · split
    · exact goes _ _ (kept_ite (kept_chanRead put) put)
    · split
      · exact ⟨.none, asked⟩
      · exact reads _ _ _
  · split
    · exact goes _ _ (kept_chanBlockMove asked)
    · exact reads _ _ _

theorem kept_chanPump {n : Nat} {σ : State} {n1 n2 : Nat} (h : Kept p σ) : Kept p (chanPump n σ n1 n2) := by
  induction n generalizing σ n1 n2 with
  | zero => exact h
  | succ n ih =>
    rw [chanPump]
    split
    · next e => exact ih (kept_chanFold (((kept_chanStep h).1.along e).each _ rfl))
    · next e => exact kept_chanSettle (kept_chanFold ((kept_chanStep h).2.along e))

theorem kept_pumpUnits {σ : State} {L : Nat} (h : Kept p σ) : Kept p (pumpUnits σ L) :=
  kept_ite h (kept_foldl (fun _ _ h1 => kept_ite (kept_chanPump h1) h1) (kept_foldl (fun _ _ h1 => kept_ite (kept_slotPump h1) h1) h))

/-! ### The ring interface -/

theorem keptCore_ringWakes {c : Core} {r : Nat} (w : KeptCore p c) : KeptCore p (ringWakes c r) :=
  keptCore_foldl (fun _ _ w => keptCore_modThr w (fun _ k => keptThread_ite k.of_eq k)) w

theorem kept_ringTake {σ : State} {L r : Nat} {m : Msg} {o : RingOut} (h : Kept p σ) : Kept p (ringTake σ L r m o) := by
  unfold ringTake
  split
  · exact h
  · exact kept_modCore h (fun _ w => keptCore_setRing w)
  · exact kept_modCore h (fun _ w => keptCore_setRing w)
  dsimp only
  refine kept_modCore ?_ (fun _ w => keptCore_ringWakes
    (keptCore_pmcEvent (keptCore_ite (keptCore_ite (keptCore_scAdd (keptCore_setRing w)) (keptCore_setRing w))
      (keptCore_queueEvent (keptCore_ite (keptCore_scAdd (keptCore_setRing w)) (keptCore_setRing w))))))
  refine kept_spadWriteBad ?_
  split
  · exact kept_spadWrite h
  · exact h

theorem kept_ringRetry {σ : State} {L r : Nat} (h : Kept p σ) : Kept p (ringRetry σ L r) := by
  unfold ringRetry
  dsimp only
  split
  · exact h
  split
  · exact h
  · exact kept_ringTake (kept_modCore h (fun _ w => keptCore_setRing w))

theorem keptCore_overPut {c : Core} {r : Nat} {m : Msg} (w : KeptCore p c) : KeptCore p (overPut c r m) := keptCore_ite w.of_eq w.of_eq

theorem kept_ringSink {σ : State} {L r : Nat} {m : Msg} (h : Kept p σ) : KeptOpt p (ringSink σ L r m) := by
  unfold ringSink
  dsimp only
  split
  · exact KeptOpt.ite (.some (kept_modCore h (fun _ w => keptCore_overPut w)))
      (KeptOpt.ite .none (.some (kept_modCore h (fun _ w => keptCore_setRing w))))
  · exact .some (kept_ringTake h)

theorem kept_vc2Drain {n : Nat} {σ : State} {n1 : Nat} (h : Kept p σ) : Kept p (vc2Drain n σ n1) := by
  induction n generalizing σ n1 with
  | zero => exact h
  | succ n ih =>
    rw [vc2Drain]
    split
    · exact h
    split
    · split
      · next e => exact ih (kept_modCore ((kept_ringSink h).each _ e) (fun _ w => w.of_eq))
      · exact h
    · exact ih (kept_setCore h h.core.of_eq)

theorem kept_ringsPump {σ : State} {L : Nat} (h : Kept p σ) : Kept p (ringsPump σ L) :=
  kept_vc2Drain (kept_foldl (fun _ _ h1 => kept_ite (kept_ringRetry h1) h1) h)

theorem kept_outqDrain {n : Nat} {σ : State} {n1 : Nat} (h : Kept p σ) : Kept p (outqDrain n σ n1) := by
  induction n generalizing σ n1 with
  | zero => exact h
  | succ n ih =>
    rw [outqDrain]
    split
    · exact h
    · exact kept_ite h (ih (kept_sendPk (kept_setCore h h.core.of_eq)))

theorem kept_setPress {σ : State} {q : Nat} {x : PressQ} (h : Kept p σ) : Kept p (setPress σ q x) := by
  unfold setPress
  exact h.of_eq

theorem kept_pressDeliver {σ : State} {q : Nat} (h : Kept p σ) : Kept p (pressDeliver σ q) :=
  kept_setPress (kept_foldl (fun _ _ h1 => kept_foldl (fun _ _ h1 => kept_sendTo h1) h1) h)

theorem kept_pressAll {σ : State} (h : Kept p σ) : Kept p (pressAll σ) := kept_foldl (fun _ _ h1 => kept_ite (kept_pressDeliver h1) h1) h

/-! ### Threads: boundaries, exceptions, waits, issue -/

theorem kept_ofAR {α : Type} {r : AR α} {k1 : State → α → IRes} (h : Kept p r.state) (hk1 : ∀ x1 x2, Kept p x1 → Kept p (k1 x1 x2).state) :
    Kept p (ofAR r k1).state := by
  unfold ofAR
  split
  · exact hk1 _ _ h
  · exact h
  · exact h

theorem keptThread_haltedThread {h1 : Thread} {skip : Option Word} (k : KeptThread p h1) : KeptThread p (haltedThread h1 skip) := by
  unfold haltedThread
  exact k.of_eq

theorem kept_haltUnits {σ : State} {L : Nat} (h : Kept p σ) : Kept p (haltUnits σ L) :=
  kept_ite h (kept_foldl (fun _ _ h1 => kept_chanStop h1) (kept_foldl (fun _ _ h1 => kept_slotStop h1) (kept_setCore h h.core.of_eq)))

theorem keptCore_haltAsk {c : Core} {t : Nat} {r : Nat × Nat × Nat} (w : KeptCore p c) : KeptCore p (haltAsk c t r) :=
  keptCore_modThr w (fun _ k => k.of_eq)

theorem kept_haltThread {σ : State} {L t kind index addr : Nat} (h : Kept p σ) : Kept p (haltThread σ L t kind index addr) := by
  unfold haltThread
  extract_lets _ c _ c1 c2
  have hc : KeptCore p c := keptCore_modThr h.core (fun _ k => keptThread_haltedThread k.of_eq)
  have hc1 : KeptCore p c1 := keptCore_ite hc hc.of_eq
  have hc2 : KeptCore p c2 := by
    dsimp only [c2]
    exact keptCore_ite (keptCore_foldl (fun _ _ w => keptCore_ite w
      (keptCore_ite (keptCore_modThr w (fun _ k => keptThread_haltedThread k)) (keptCore_haltAsk w))) hc1) hc1
  exact kept_haltUnits (kept_setCore h hc2)

theorem keptThread_enterThread {h1 : Thread} {vbar newSp : Word} {e : Entry} (k : KeptThread p h1) :
    KeptThread p (enterThread h1 vbar newSp e) :=
  keptThread_setG k.of_eq

theorem kept_lastResort {σ : State} {L t : Nat} {e : Entry} (h : Kept p σ) : Kept p (lastResort σ L t e) :=
  kept_ite (kept_coreStop (kept_spadWrite h)) (kept_modCore (kept_spadWrite h) (fun _ w => keptCore_queueEvent
    (keptCore_modThr w (fun _ k => k.of_eq))))

theorem kept_enterStep {σ : State} {L t : Nat} (h : Kept p σ) : Kept p (enterStep σ L t) := by
  unfold enterStep
  extract_lets _ _ _
  split
  · exact h
  refine kept_ite h ?_
  refine kept_ite (kept_lastResort h) ?_
  split
  · next e => exact kept_lastResort ((kept_resolve h).along e)
  · next e => exact (kept_resolve h).along e
  · next σ1 _ e1 =>
      have h1 : Kept p σ1 := (kept_resolve h).along e1
      split
      · next e => exact kept_lastResort ((kept_writePlaces h1).along e)
      · next e => exact (kept_writePlaces h1).along e
      · next e =>
          extract_lets σ2
          have hσ : Kept p σ2 := kept_modCore ((kept_writePlaces h1).along e) (fun _ w => keptCore_pmcEvent
            (keptCore_modThr w (fun _ k => keptThread_enterThread k)))
          exact kept_ite (kept_haltThread (kept_modT hσ (fun _ k => k.of_eq))) hσ

theorem kept_takeException {σ : State} {L t : Nat} {e : Entry} (h : Kept p σ) : Kept p (takeException σ L t e) :=
  kept_enterStep (kept_modT h (fun _ k => k.of_eq))

theorem kept_debugHit {σ : State} {L t kind index addr : Nat} (h : Kept p σ) : Kept p (debugHit σ L t kind index addr) := by
  unfold debugHit
  extract_lets _ c _ c1
  have hc : KeptCore p c := keptCore_modThr h.core (fun _ k => k.of_eq)
  have hc1 : KeptCore p c1 := hc.of_eq
  exact kept_ite (kept_takeException (kept_setCore h hc1)) (kept_haltThread h)

theorem keptThread_noteFsr {h1 : Thread} {f : FInfo} (k : KeptThread p h1) : KeptThread p (noteFsr h1 f) := keptThread_ite k k.of_eq

theorem keptThread_dropWatch {h1 : Thread} (k : KeptThread p h1) : KeptThread p (dropWatch h1) := by
  unfold dropWatch
  exact k.of_eq

theorem kept_raise {σ : State} {L t : Nat} {f : FInfo} (h : Kept p σ) : Kept p (raise σ L t f) := by
  unfold raise
  dsimp only
  split
  · exact kept_ite (kept_debugHit (kept_modT h (fun _ k => keptThread_dropWatch k.of_eq)))
      (kept_takeException (kept_modT (kept_modT h (fun _ k => keptThread_dropWatch k.of_eq)) (fun _ k => keptThread_noteFsr k)))
  · exact kept_takeException (kept_modT (kept_modT h (fun _ k => keptThread_dropWatch k.of_eq)) (fun _ k => keptThread_noteFsr k))

theorem kept_accessFault {σ : State} {L t : Nat} {f : FInfo} (h : Kept p σ) : Kept p (accessFault σ L t f) := by
  unfold accessFault
  split
  · exact kept_lastResort h
  · exact kept_raise h

theorem keptThread_restoreThread {h1 : Thread} {w1 : List Word} (k : KeptThread p h1) : KeptThread p (restoreThread h1 w1) :=
  keptThread_setG (keptThread_setG (keptThread_setG (keptThread_setG (keptThread_setG k.of_eq))))

theorem keptThread_advance {h1 : Thread} {nx : Nx} (k : KeptThread p h1) : KeptThread p (advance h1 nx) := by
  unfold advance
  split
  · exact k.of_eq
  split
  · exact k.of_eq
  · exact k.of_eq
  · exact k.of_eq
  · exact k.of_eq

theorem kept_takeAsked {σ : State} {L t : Nat} (h : Kept p σ) : Kept p (takeAsked σ L t) := by
  unfold takeAsked
  dsimp only
  split
  · exact kept_debugHit h
  · exact kept_ite (kept_modT h (fun _ k => k.of_eq)) h

theorem kept_boundary {σ : State} {L t : Nat} (h : Kept p σ) : Kept p (boundary σ L t) :=
  kept_ite h (kept_ite (kept_debugHit h) (kept_takeAsked h))

theorem kept_askedLater {σ : State} {L t : Nat} (h : Kept p σ) : Kept p (askedLater σ L t) := by
  unfold askedLater
  dsimp only
  refine kept_ite h ?_
  split
  · exact h
  · exact kept_takeAsked h

theorem kept_finish {σ : State} {L t : Nat} {nx : Nx} (h : Kept p σ) : Kept p (finish σ L t nx) :=
  kept_boundary (kept_modT h (fun _ k => keptThread_advance k.of_eq))

theorem kept_wakeDone {σ : State} {L t : Nat} (h : Kept p σ) : Kept p (wakeDone σ L t) := kept_finish (kept_modT h (fun _ k => k.of_eq))

theorem kept_wakePlain {σ : State} {L t : Nat} (h : Kept p σ) : Kept p (wakePlain σ L t) := by
  unfold wakePlain
  dsimp only
  split
  · exact kept_ite (kept_wakeDone (kept_ite (kept_setCore h (keptCore_acquire h.core)) h)) h
  · exact h

theorem kept_wakeSub {σ : State} {L t : Nat} (h : Kept p σ) : Kept p (wakeSub σ L t) := by
  unfold wakeSub
  dsimp only
  split
  · exact kept_ite (kept_wakeDone (kept_setCore h (keptCore_ite (keptCore_acquire (keptCore_setSc h.core)) (keptCore_setSc h.core)))) h
  · exact h

theorem kept_wakeUnit {σ : State} {L t : Nat} (h : Kept p σ) : Kept p (wakeUnit σ L t) := by
  unfold wakeUnit
  dsimp only
  split
  · exact kept_ite (kept_wakeDone h) h
  · exact kept_ite (kept_wakeDone (kept_modT h (fun _ k => keptThread_setG k)))
      (kept_ite (kept_wakeDone (kept_modT h (fun _ k => keptThread_setG k))) h)
  · exact kept_ite (kept_wakeDone h) h
  · exact h

theorem keptCore_leaseNext {c : Core} (w : KeptCore p c) : KeptCore p (leaseNext c) := by
  unfold leaseNext
  dsimp only
  split
  · exact w.of_eq
  · exact w.of_eq

theorem keptCore_fencesSettle {c : Core} (w : KeptCore p c) : KeptCore p (fencesSettle c) :=
  keptCore_foldl (fun _ _ w => keptCore_ite w (keptCore_ite (keptCore_acquire (keptCore_setThr w (keptThread_getThr w).of_eq))
    (keptCore_setThr w (keptThread_getThr w).of_eq))) w

theorem keptCore_allWait {c : Core} {left : Bool} (w : KeptCore p c) : KeptCore p (allWait c left) :=
  keptCore_ite (keptCore_queueEvent w.of_eq) w.of_eq

theorem kept_cmoPump {σ : State} {L : Nat} (h : Kept p σ) : Kept p (cmoPump σ L) := by
  unfold cmoPump
  extract_lets σ1
  have hσ : Kept p σ1 := kept_cmoStep h
  split
  · exact hσ
  extract_lets σ2 σ3
  have hσ1 : Kept p σ2 := kept_cmoEnd hσ
  have hσ2 : Kept p σ3 := by
    dsimp only [σ3]
    split
    · exact kept_modCore (kept_cmoBegin hσ1) (fun _ w => w.of_eq)
    · exact hσ1
  split
  · exact kept_ite (kept_finish hσ2) hσ2
  · exact hσ2

theorem kept_eachThread {f : State → Nat → Nat → State} {σ : State} {L : Nat} (hf : ∀ x1 x2 x3, Kept p x1 → Kept p (f x1 x2 x3))
    (h : Kept p σ) : Kept p (eachThread f σ L) :=
  kept_foldl (fun _ _ h1 => hf _ _ _ h1) h

theorem keptCore_eventsInOrder {old : List Word} {c : Core} (w : KeptCore p c) : KeptCore p (eventsInOrder old c) := by
  unfold eventsInOrder
  exact w.of_eq

theorem kept_tidy {s σ : State} {L : Nat} (h : Kept p σ) : Kept p (tidy s σ L) :=
  kept_pressAll (kept_modCore (kept_outqDrain (kept_modCore (kept_eachThread (fun _ _ _ h => kept_askedLater h)
    (kept_eachThread (fun _ _ _ h => kept_wakeUnit h) (kept_modCore (kept_eachThread (fun _ _ _ h => kept_wakeSub h)
      (kept_eachThread (fun _ _ _ h => kept_wakePlain h)
        (kept_ringsPump (kept_modCore (kept_pumpUnits (kept_eachThread (fun _ _ _ h => kept_enterStep h) (kept_cmoPump h)))
          (fun _ w => w.of_eq))))) (fun _ w => keptCore_leaseNext w)))) (fun _ w => keptCore_fencesSettle w)))
            (fun _ w => keptCore_eventsInOrder (keptCore_allWait w)))

theorem keptCore_countIssue {c : Core} {t : Nat} {a : Att} (w : KeptCore p c) : KeptCore p (countIssue c t a) := by
  unfold countIssue
  exact keptCore_pmcEvent (keptCore_pmcEvent (keptCore_ite w w.of_eq))

theorem kept_apply {σ : State} {L t : Nat} {r : IRes} (h : Kept p r.state) : Kept p (apply σ L t r) := by
  unfold apply
  split
  · exact kept_finish h
  · exact h
  · exact kept_modT h (fun _ k => k.of_eq)
  · exact kept_raise h
  · exact kept_takeException h
  · exact h

theorem kept_upset {σ : State} {L : Nat} {u : Upset} (h : Kept p σ) : Kept p (upset σ L u) := by
  unfold upset
  dsimp only
  refine kept_modCore h ?_
  intro _ w
  split
  · exact keptCore_modThr w (fun _ k => k.of_eq)
  · exact w.of_eq
  · exact keptCore_ite w.of_eq w
  · exact w.of_eq
  · exact w.of_eq
  · exact w.of_eq
  · exact w.of_eq
  · exact w.of_eq
  · exact w.of_eq
  · exact keptCore_ite w.of_eq w
  · exact keptCore_ite w.of_eq w

theorem kept_upsetAll {σ : State} {L : Nat} {us : List Upset} (h : Kept p σ) : Kept p (upsetAll σ L us) :=
  kept_foldl (fun _ _ h1 => kept_upset h1) h

theorem kept_stopFirst {σ : State} {L t : Nat} (h : Kept p σ) : KeptOpt p (stopFirst σ L t) :=
  KeptOpt.ite (.some (kept_coreStop h)) (KeptOpt.ite (.some (kept_coreStop h)) .none)

theorem kept_runBody {σ counted : State} {L t : Nat} {body : State → Nat → Nat → IRes} (h : Kept p σ) (h1 : Kept p counted)
    (hbody : ∀ x1 x2 x3, Kept p x1 → Kept p (body x1 x2 x3).state) : Kept p (runBody σ counted L t body) := by
  unfold runBody
  split
  · next e => exact (hbody _ _ _ h).along e
  · exact kept_apply (hbody _ _ _ h1)

theorem kept_issue {x : Issue} {a : Att} {s0 : State} {body : State → Nat → Nat → IRes} (h : Kept p s0) (hbody : ∀ x1 x2 x3, Kept p x1 →
    Kept p (body x1 x2 x3).state) : KeptOpt p (nextOf (issue x a s0 body)) := by
  unfold issue
  extract_lets _ _ s _ _
  have hs : Kept p s := kept_upsetAll h
  refine KeptOpt.ite_of (.some hs) ?_
  split
  · next e => exact .some (kept_tidy ((kept_stopFirst hs).each _ e))
  split
  · exact .some (kept_tidy (kept_debugHit hs))
  extract_lets s1 s2
  have hs1 : Kept p s1 := by
    dsimp only [s1]
    split
    · exact kept_setCore hs (keptCore_haltAsk hs.core)
    · exact kept_ite (kept_modT hs (fun _ k => k.of_eq)) hs
  have hs2 : Kept p s2 := kept_modCore hs1 (fun _ w => keptCore_countIssue w)
  exact KeptOpt.ite_of (.some (kept_ite hs (kept_tidy (kept_raise hs1))))
    (.some (kept_tidy (kept_ite (kept_raise hs2) (kept_ite (kept_raise hs2) (kept_ite (kept_finish hs2) (kept_runBody hs1 hs2
      (fun _ _ _ h1 => hbody _ _ _ h1)))))))

theorem kept_watch {σ : State} {L t va n : Nat} {rd wr : Bool} (h : Kept p σ) : Kept p (watch σ L t va n rd wr) := by
  unfold watch
  dsimp only
  split
  · exact kept_setCore h (keptCore_haltAsk h.core)
  · exact h

theorem kept_setProg {σ : State} {L t major pos : Nat} (h : Kept p σ) : Kept p (setProg σ L t major pos) := kept_modT h (fun _ k => k.of_eq)

theorem kept_clearProg {σ : State} {L t : Nat} (h : Kept p σ) : Kept p (clearProg σ L t) := kept_modT h (fun _ k => k.of_eq)

/-! ### Operand forms -/

theorem kept_writeAlu {σ : State} {L t : Nat} {rd : BitVec 5} {s : Bool} {r : Alu} (h : Kept p σ) : Kept p (writeAlu σ L t rd s r) :=
  kept_modT h (fun _ k => (keptThread_setG k).of_eq)

theorem kept_aluR {x : Issue} {rd rs1 rs2 : BitVec 5} {s : Bool} {f : Word → Word → Alu} {σ : State} (h : Kept p σ) :
    KeptOpt p (nextOf (aluR x rd rs1 rs2 s f σ)) :=
  kept_issue h (fun _ _ _ h1 => kept_writeAlu h1)

theorem kept_aluI {x : Issue} {rd rs1 : BitVec 5} {i : Word} {s : Bool} {f : Word → Word → Alu} {σ : State} (h : Kept p σ) :
    KeptOpt p (nextOf (aluI x rd rs1 i s f σ)) :=
  kept_issue h (fun _ _ _ h1 => kept_writeAlu h1)

/-! ### Commands that registers give -/

theorem kept_cmdIgnored {σ : State} {L n : Nat} (h : Kept p σ) : Kept p (cmdIgnored σ L n) := kept_modT h (fun _ k => k.of_eq)

theorem keptThread_startedThread {h : Thread} (k : KeptThread p h) : KeptThread p (startedThread h) :=
  keptThread_setG ⟨keptList_nil, k.vregs⟩

theorem keptThread_killedThread {h1 : Thread} (k : KeptThread p h1) : KeptThread p (killedThread h1) := by
  unfold killedThread
  exact k.of_eq

theorem kept_killThread {σ : State} {L n : Nat} (h : Kept p σ) : Kept p (killThread σ L n) :=
  kept_modCore h (fun _ w => keptCore_ite (keptCore_modThr w (fun _ k => keptThread_killedThread k)).of_eq
    (keptCore_modThr w (fun _ k => keptThread_killedThread k)))

theorem kept_resumeLrs {σ : State} {L n : Nat} (h : Kept p σ) : Kept p (resumeLrs σ L n) :=
  kept_ite (kept_cmdIgnored (kept_foldl (fun _ _ h1 => kept_noteSpadUE h1) (kept_spadMeet h)))
    (kept_ite (kept_cmdIgnored (kept_spadMeet h)) (kept_modT (kept_spadMeet h) (fun _ k => (keptThread_restoreThread k).of_eq)))

theorem kept_threadCmd {σ : State} {L n cmd : Nat} (h : Kept p σ) : Kept p (threadCmd σ L n cmd) := by
  unfold threadCmd
  dsimp only
  refine kept_ite h ?_
  refine kept_ite (kept_cmdIgnored h) ?_
  split
  · exact kept_modT h (fun _ k => keptThread_startedThread k)
  · exact kept_modT h (fun _ k => keptThread_startedThread k)
  · exact kept_ite (kept_modT h (fun _ k => k.of_eq)) (kept_modT h (fun _ k => k.of_eq))
  · exact kept_modT h (fun _ k => k.of_eq)
  · exact kept_modT h (fun _ k => k.of_eq)
  · exact kept_cmdIgnored h
  · exact kept_killThread h
  · exact kept_modT h (fun _ k => k.of_eq)
  · exact kept_ite (kept_modT h (fun _ k => k.of_eq)) (kept_cmdIgnored h)
  · exact kept_ite (kept_modT h (fun _ k => k.of_eq)) (kept_cmdIgnored h)
  · exact kept_ite (kept_modT h (fun _ k => k.of_eq)) (kept_cmdIgnored h)
  · exact kept_ite (kept_resumeLrs h) (kept_modT h (fun _ k => k.of_eq))
  · exact kept_cmdIgnored h

theorem kept_thrCtlWrite {σ : State} {L t n : Nat} {v : Word} (h : Kept p σ) : Kept p (thrCtlWrite σ L t n v) :=
  kept_ite (kept_boundary (kept_threadCmd (kept_modT h (fun _ k => k.of_eq)))) (kept_threadCmd (kept_modT h (fun _ k => k.of_eq)))

theorem kept_cancelForward {σ : State} {L source : Nat} (h : Kept p σ) : Kept p (cancelForward σ L source) :=
  kept_modCore h (fun _ w => w.of_eq)

theorem keptCore_dropSlotOuts {c : Core} {s : Nat} (w : KeptCore p c) : KeptCore p (dropSlotOuts c s) := by
  unfold dropSlotOuts
  exact w.of_eq

theorem kept_slotFlush {σ : State} {L s : Nat} (h : Kept p σ) : Kept p (slotFlush σ L s) :=
  kept_cancelForward (kept_modCore h (fun _ w => keptCore_dropSlotOuts (keptCore_setSlot w)))

theorem kept_slotCmd {σ : State} {L s cmd : Nat} {sup : Bool} (h : Kept p σ) : Kept p (slotCmd σ L s cmd sup) := by
  unfold slotCmd
  extract_lets ignored _ _ σ1
  have hignored : Kept p ignored := kept_modSlot h
  have hσ : Kept p σ1 := kept_cancelForward (kept_slotNext (kept_modCore h (fun _ w => keptCore_dropSlotOuts w)))
  split
  · exact h
  · exact kept_ite (kept_slotStop h) hignored
  · exact kept_ite (kept_modSlot h) hignored
  · exact kept_ite (kept_modSlot hσ) hignored
  · exact kept_ite h (kept_slotFlush h)
  · exact hignored

theorem kept_chanStart {σ : State} {L c : Nat} (h : Kept p σ) : Kept p (chanStart σ L c) := by
  unfold chanStart
  dsimp only
  split
  · exact kept_modChan h
  · exact kept_chanFault (kept_modChan h)

theorem kept_chanLeave {σ : State} {L c : Nat} (h : Kept p σ) : Kept p (chanLeave σ L c) := kept_modChan h

theorem kept_chanCmd {σ : State} {L c cmd : Nat} {sup : Bool} (h : Kept p σ) : Kept p (chanCmd σ L c cmd sup) := by
  unfold chanCmd
  dsimp only
  split
  · exact h
  · exact kept_ite (kept_chanStop h) (kept_modChan h)
  · exact kept_ite (kept_ite (kept_modChan h) (kept_chanStart (kept_modChan h))) (kept_modChan h)
  · exact kept_ite (kept_cancelForward (kept_chanLeave (kept_chanWriteBack h))) (kept_modChan h)
  · exact kept_ite (kept_chanStop h) (kept_ite (kept_cancelForward (kept_chanAbort h)) (kept_modChan h))
  · exact kept_modChan h

theorem kept_forwardThread {σ : State} {L t : Nat} {va : BitVec 48} {cntEn : Bool} {cnt : BitVec 6} (h : Kept p σ) :
    Kept p (forwardThread σ L t va cntEn cnt) :=
  kept_sendTo (kept_modCore (kept_modT h (fun _ k => k.of_eq)) (fun _ w => w.of_eq))

theorem kept_fwdWrite {σ : State} {L : Nat} {v : Word} (h : Kept p σ) : Kept p (fwdWrite σ L v) :=
  kept_ite (kept_modCore h (fun _ w => w.of_eq)) (kept_forwardThread h)

theorem kept_tlbInvWrite {σ : State} {L : Nat} {v : Word} (h : Kept p σ) : Kept p (tlbInvWrite σ L v) := kept_modCore h (fun _ w => w.of_eq)

theorem kept_dbgHalt {σ : State} {L mask kind : Nat} {self : Option Nat} (h : Kept p σ) : Kept p (dbgHalt σ L mask kind self) := by
  unfold dbgHalt
  refine kept_foldl ?_ h
  intro _ _ h1
  refine kept_ite h1 ?_
  dsimp only
  split
  · exact kept_ite (kept_modCore h1 (fun _ w => keptCore_haltAsk w)) (kept_haltThread h1)
  · exact kept_haltThread h1
  · exact kept_modCore h1 (fun _ w => w.of_eq)

theorem kept_unitsResume {σ : State} {L : Nat} (h : Kept p σ) : Kept p (unitsResume σ L) := by
  unfold unitsResume
  exact kept_modCore (kept_foldl (fun _ _ h1 => kept_ite (kept_slotCmd h1) (kept_chanCmd h1)) h) (fun _ w => w.of_eq)

theorem kept_dbgGo {σ : State} {L mask : Nat} {step group : Bool} (h : Kept p σ) : Kept p (dbgGo σ L mask step group) := by
  unfold dbgGo
  refine kept_foldl ?_ h
  intro _ _ h1
  refine kept_ite h1 ?_
  split
  · exact kept_unitsResume (kept_modT h1 (fun _ k => k.of_eq))
  · exact kept_modCore h1 (fun _ w => w.of_eq)

theorem kept_dbgHaltWrite {σ : State} {L t : Nat} {v : Word} (h : Kept p σ) : Kept p (dbgHaltWrite σ L t v) :=
  kept_dbgGo (kept_dbgGo (kept_dbgHalt h))

theorem kept_dbgPut {h : Thread} {r : Nat} {v : Word} (k : KeptThread p h) : ∀ x, dbgPut h r v = some x → KeptThread p x := by
  have given {t : Thread} (w : KeptThread p t) : ∀ x, some t = some x → KeptThread p x := fun _ e => Option.some.inj e ▸ w
  have refused : ∀ x : Thread, none = some x → KeptThread p x := fun _ e => nomatch e
  unfold dbgPut
  refine keptThread_ite_some (given (keptThread_setG k)) ?_
  refine keptThread_ite_some (keptThread_ite_some (given k.of_eq) refused) ?_
  iterate 8 refine keptThread_ite_some (given k.of_eq) ?_
  refine keptThread_ite_some (keptThread_ite_some (given k.of_eq) refused) ?_
  exact keptThread_ite_some (given (keptThread_setV k)) (given k)

theorem kept_dbgDataRead {σ : State} {L : Nat} (h : Kept p σ) : Kept p (dbgDataRead σ L).1 := kept_ite_of h (kept_setCore h h.core.of_eq)

theorem kept_dbgDataWrite {σ : State} {L : Nat} {v : Word} (h : Kept p σ) : Kept p (dbgDataWrite σ L v) := by
  unfold dbgDataWrite
  dsimp only
  split
  · next k e =>
    split at e
    · exact kept_setCore h (keptCore_setThr h.core (kept_dbgPut (keptThread_getThr h.core) _ e))
    · cases e
  · exact kept_setCore h h.core.of_eq

/-! ### IO-space -/

theorem kept_ioReadThr {σ : State} {L : Nat} {t : Option Nat} {a : Nat} (h : Kept p σ) : Kept p (ioReadThr σ L t a).1 := by
  unfold ioReadThr
  dsimp only
  refine kept_ite_of ?_ (kept_ite_of h (kept_ite_of h (kept_ite_of (kept_setCore h h.core.of_eq)
    (kept_ite_of (kept_setCore h h.core.of_eq) (kept_ite_of h (kept_ite_of h (kept_ite_of (kept_setCore h h.core.of_eq)
      (kept_ite_of h h))))))))
  split
  · exact h
  · exact kept_setCore h (keptCore_setThr h.core (keptThread_getThr h.core).of_eq)
  · exact h
  · exact h

theorem kept_ioReadUnit {σ : State} {L a : Nat} (h : Kept p σ) : Kept p (ioReadUnit σ L a).1 := by
  unfold ioReadUnit
  dsimp only
  refine kept_ite_of ?_ ?_
  · split
    · exact h
    · exact h
    · exact kept_setCore h (keptCore_setRing h.core)
  · refine kept_ite_of h ?_
    refine kept_ite_of (kept_setCore h (keptCore_setSc h.core)) ?_
    refine kept_ite_of ?_ ?_
    · split
      · exact kept_setCore h (keptCore_setSlot h.core)
      · exact h
      · exact h
    · refine kept_ite_of h ?_
      refine kept_ite_of h ?_
      split
      · exact kept_setCore h (keptCore_setChan h.core)
      · exact h
      · exact h
      · exact h
      · exact h
      · exact kept_setCore h (keptCore_setChan h.core)
      · exact h

theorem kept_ioReadXlt {σ : State} {L a : Nat} (h : Kept p σ) : Kept p (ioReadXlt σ L a).1 := by
  unfold ioReadXlt
  iterate 3 refine kept_ite_of h ?_
  refine kept_ite_of (kept_setCore h h.core.of_eq) ?_
  refine kept_ite_of h ?_
  iterate 2 refine kept_ite_of (kept_setCore h h.core.of_eq) ?_
  iterate 2 refine kept_ite_of h ?_
  iterate 2 refine kept_ite_of (kept_setCore h h.core.of_eq) ?_
  exact kept_ite_of h h

theorem kept_ioReadMtx {σ : State} {L a : Nat} (h : Kept p σ) : Kept p (ioReadMtx σ L a).1 := by
  unfold ioReadMtx
  refine kept_ite_of (kept_setCore h h.core.of_eq) ?_
  iterate 10 refine kept_ite_of h ?_
  iterate 2 refine kept_ite_of (kept_setCore h h.core.of_eq) ?_
  refine kept_ite_of h ?_
  refine kept_ite_of (kept_setCore h h.core.of_eq) ?_
  iterate 3 refine kept_ite_of h ?_
  refine kept_ite_of (kept_setCore h h.core.of_eq) ?_
  exact kept_ite_of h (kept_ite_of (kept_dbgDataRead h) h)

theorem kept_ioRead {σ : State} {L : Nat} {t : Option Nat} {a : Nat} (h : Kept p σ) : Kept p (ioRead σ L t a).1 :=
  kept_ite_of (kept_ioReadThr h) (kept_ite_of (kept_ioReadUnit h) (kept_ite_of (kept_ioReadXlt h) (kept_ite_of (kept_ioReadMtx h) h)))

theorem kept_ioWriteThr {σ : State} {L : Nat} {t : Option Nat} {a : Nat} {v : Word} (h : Kept p σ) : Kept p (ioWriteThr σ L t a v) := by
  unfold ioWriteThr
  refine kept_ite ?_ (kept_ite (kept_modT h (fun _ k => k.of_eq)) (kept_modCore h (fun _ w => w.of_eq)))
  dsimp only
  split
  · exact kept_thrCtlWrite h
  · exact kept_modT h (fun _ k => k.of_eq)
  · exact kept_modT h (fun _ k => keptThread_ite k.of_eq k)
  · exact kept_modT h (fun _ k => k.of_eq)

theorem kept_ringCfgWrite {σ : State} {L r : Nat} {v : Word} (h : Kept p σ) : Kept p (ringCfgWrite σ L r v) := by
  unfold ringCfgWrite
  exact kept_modCore (kept_ringRetry (kept_setCore h (keptCore_setRing h.core))) (fun _ w => keptCore_ringWakes w)

theorem kept_ringPtrWrite {σ : State} {L r : Nat} {v : Word} (h : Kept p σ) : Kept p (ringPtrWrite σ L r v) :=
  kept_ite (kept_modCore (kept_ringRetry (kept_setCore h (keptCore_setRing h.core))) (fun _ w => keptCore_ringWakes w)) h

theorem keptCore_scRegWrite {c : Core} {k1 : Nat} {v : Word} (w : KeptCore p c) : KeptCore p (scRegWrite c k1 v) := keptCore_setSc w

theorem kept_ioWriteUnit {σ : State} {L : Nat} {sup : Bool} {a : Nat} {v : Word} (h : Kept p σ) : Kept p (ioWriteUnit σ L sup a v) := by
  unfold ioWriteUnit
  refine kept_ite ?_ ?_
  · dsimp only
    split
    · exact kept_ringCfgWrite h
    · exact kept_ringPtrWrite h
    · exact h
  · refine kept_ite h ?_
    refine kept_ite (kept_modCore h (fun _ w => keptCore_scRegWrite w)) ?_
    refine kept_ite (kept_ite (kept_slotCmd h) h) ?_
    refine kept_ite (kept_modCore h (fun _ w => w.of_eq)) ?_
    refine kept_ite h ?_
    dsimp only
    split
    · exact kept_chanCmd h
    · exact kept_modChan h
    · exact h

theorem kept_ioWriteXlt {σ : State} {L : Nat} {t : Option Nat} {a : Nat} {v : Word} (h : Kept p σ) : Kept p (ioWriteXlt σ L t a v).1 := by
  unfold ioWriteXlt
  dsimp only
  refine kept_ite_of (kept_setCore h h.core.of_eq) ?_
  refine kept_ite_of (kept_setCore h h.core.of_eq) ?_
  refine kept_ite_of ?_ (kept_ite_of (kept_setCore h h.core.of_eq) (kept_ite_of (kept_setCore h h.core.of_eq)
    (kept_ite_of (kept_tlbInvWrite h) (kept_ite_of (kept_fwdWrite h) h))))
  refine kept_ite_of ?_ ?_
  · split
    · exact h
    · exact kept_setCore h h.core.of_eq
  · split
    · exact kept_modT (kept_cmoBegin h) (fun _ k => k.of_eq)
    · exact kept_cmoBegin h

theorem kept_ioWriteMtx {σ : State} {L : Nat} {t : Option Nat} {a : Nat} {v : Word} (h : Kept p σ) : Kept p (ioWriteMtx σ L t a v) := by
  unfold ioWriteMtx
  iterate 5 refine kept_ite (kept_setCore h h.core.of_eq) ?_
  refine kept_ite (kept_dbgHaltWrite h) ?_
  iterate 4 refine kept_ite (kept_setCore h h.core.of_eq) ?_
  exact kept_ite (kept_dbgDataWrite h) h

theorem kept_ioWrite {σ : State} {L : Nat} {t : Option Nat} {sup : Bool} {a : Nat} {v : Word} (h : Kept p σ) :
    Kept p (ioWrite σ L t sup a v).1 :=
  kept_ite_of (kept_ioWriteThr h) (kept_ite_of (kept_ioWriteUnit h) (kept_ite_of (kept_ioWriteXlt h) (kept_ite_of (kept_ioWriteMtx h) h)))

theorem kept_outBody {a : Nat} {v : Word} {σ : State} {L t : Nat} (h : Kept p σ) : Kept p (outBody a v σ L t).state := by
  unfold outBody
  split
  · exact h
  refine kept_ite_of h ?_
  split
  · next e => exact (kept_ioWrite h).along e
  · next σ1 e =>
      have h1 : Kept p σ1 := (kept_ioWrite h).along e
      exact kept_ite_of h1 h1

theorem kept_inBody {a : Nat} {rd : BitVec 5} {σ : State} {L t : Nat} (h : Kept p σ) : Kept p (inBody a rd σ L t).state := by
  unfold inBody
  split
  · exact h
  · exact kept_wg (kept_ioRead h)

theorem kept_outTo {x : Issue} {a : Nat} {v : Word} {σ : State} (h : Kept p σ) : KeptOpt p (nextOf (outTo x a v σ)) :=
  kept_issue h (fun _ _ _ h1 => kept_outBody h1)

/-! ### The matrix engine -/

theorem kept_modMtx {σ : State} {L : Nat} {f : Mtx → Mtx} (h : Kept p σ) : Kept p (modMtx σ L f) := kept_modCore h (fun _ w => w.of_eq)

theorem kept_shapeFail {σ : State} {L err cause : Nat} (h : Kept p σ) : Kept p (shapeFail σ L err cause).state := kept_modMtx h

theorem kept_withLease {σ : State} {L t : Nat} {k1 : IRes} (h : Kept p σ) (h1 : Kept p k1.state) : Kept p (withLease σ L t k1).state :=
  kept_ite_of h1 (kept_shapeFail h)

theorem kept_enqueue {σ : State} {L : Nat} {op : MqOp} {tags : Mtx → Mtx} (h : Kept p σ) : Kept p (enqueue σ L op tags).state := by
  unfold enqueue
  refine kept_ite_of h ?_
  split
  · next e => exact kept_modMtx ((kept_newId h).along e)

theorem kept_execTMma {x : Issue} {ta tb : BitVec 4} {rs : BitVec 5} {σ : State} (h : Kept p σ) :
    KeptOpt p (nextOf (execTMma x ta tb rs σ)) := by
  unfold execTMma
  refine kept_issue h ?_
  intro _ _ _ h1
  refine kept_withLease h1 ?_
  dsimp only
  refine kept_ite_of (kept_shapeFail h1) ?_
  split
  · exact kept_shapeFail h1
  · exact kept_ite_of (kept_shapeFail h1) (kept_ite_of (kept_shapeFail h1) (kept_ite_of (kept_shapeFail h1)
      (kept_ite_of (kept_shapeFail h1) (kept_enqueue h1))))

theorem kept_execMmaExecute {core : BitVec 13} {σ : State} (h : Kept p σ) : KeptOpt p (nextOf (execMmaExecute core σ)) := by
  unfold execMmaExecute
  dsimp only
  refine KeptOpt.ite_of (.some h) ?_
  split
  · exact KeptOpt.ite_of (.some (kept_tidy (kept_coreStop h))) (.some (kept_tidy (kept_setCore h (keptCore_pmcEvent h.core.of_eq))))
  · exact .some h

theorem kept_partRead {σ : State} {L : Nat} {p1 : Place} (h : Kept p σ) : Kept p (partRead σ L p1).1 := by
  unfold partRead
  split
  · split
    · exact kept_foldl (fun _ _ h1 => kept_noteSpadUE h1) (kept_spadMeet h)
    dsimp only
    split
    · exact kept_setCore h (keptCore_pmcEvent h.core)
    · exact h
  split
  · next e => exact kept_sendRead (kept_addOut ((kept_newId h).along e))

theorem kept_partWrite {σ : State} {L : Nat} {bad : Bool} {p1 : Place} {data : List Byte} (h : Kept p σ) :
    Kept p (partWrite σ L bad p1 data).1 := by
  unfold partWrite
  extract_lets _ _ merge σ1
  have hmerge : ∀ x x1, Kept p x → Kept p (merge x x1) := by
    intro _ _ h1
    dsimp only [merge]
    refine kept_modCore (kept_mergeAt h1) ?_
    intro _ w
    split
    · exact w.of_eq
    · exact w
  have hσ : Kept p σ1 := kept_ite (hmerge _ _ (kept_sideDrop h)) h
  split
  · split
    · exact kept_spadWriteBad h
    · exact hmerge _ _ ((kept_sideMove h).getD h)
  split
  · next e => exact kept_sendWrite (kept_addOut ((kept_newId hσ).along e))

theorem kept_rowParts {σ : State} {L t : Nat} {mode : Mode} {acc : Acc} {va n : Nat} {f : FInfo} (h : Kept p σ) :
    Kept p (rowParts σ L t mode acc va n f).state :=
  kept_andThen (kept_resolve h) (fun _ _ h1 => kept_ite_of (kept_foldl (fun _ _ h1 => kept_ite (kept_dcMeet h1) h1) h1)
    (kept_foldl (fun _ _ h1 => kept_ite (kept_dcMeet h1) h1) h1))

theorem kept_partsRead {σ : State} {L : Nat} {ps : List Place} (h : Kept p σ) : Kept p (partsRead σ L ps).1 :=
  kept_foldl_fst (fun _ _ h1 => kept_partRead h1) h

theorem kept_partsWrite {L : Nat} {bad : Bool} {σ : State} {l : List Place} {l1 : List Byte} (h : Kept p σ) :
    Kept p (partsWrite L bad σ l l1).1 := by
  induction l generalizing L bad σ l1 with
  | nil => exact h
  | cons a r ih =>
    rw [partsWrite]
    exact ih (kept_partWrite h)

theorem kept_addRow {σ : State} {L : Nat} {r : TileRow} (h : Kept p σ) : Kept p (addRow σ L r) := by
  unfold addRow
  split
  · next e => exact kept_modMtx ((kept_newId h).along e)

theorem kept_loadRow {σ : State} {L t : Nat} {mode : Mode} {kind line bytes va sva : Nat} (h : Kept p σ) :
    Kept p (loadRow σ L t mode kind line bytes va sva).state :=
  kept_ite_of h (kept_andThen (kept_rowParts h) (fun _ _ h1 => kept_andThen (kept_ite_of h1 (kept_rowParts h1)) (fun _ _ h1 => kept_addRow
    (kept_partsRead (kept_partsRead h1)))))

theorem kept_storeRow {σ : State} {L t : Nat} {mode : Mode} {line bytes va : Nat} (h : Kept p σ) :
    Kept p (storeRow σ L t mode line bytes va).state :=
  kept_ite_of h (kept_andThen (kept_rowParts h) (fun _ _ h1 => kept_ite (kept_partsWrite h1) (kept_addRow (kept_partsWrite h1))))

theorem kept_rowsFrom {f : State → Nat → AR Unit} {n n1 : Nat} {σ : State} (hf : ∀ x1 x2, Kept p x1 → Kept p (f x1 x2).state)
    (h : Kept p σ) : Kept p (rowsFrom f n n1 σ).1 := by
  induction n generalizing f n1 σ with
  | zero => exact h
  | succ n ih =>
    rw [rowsFrom]
    split
    · next e => exact ih (fun _ _ h1 => hf _ _ h1) ((hf _ _ h).along e)
    · next e => exact (hf _ _ h).along e
    · next e => exact (hf _ _ h).along e

theorem kept_tileBody {kind major : Nat} {tile : BitVec 4} {ra rscl rdesc : BitVec 5} {σ : State} {L t : Nat} (h : Kept p σ) :
    Kept p (tileBody kind major tile ra rscl rdesc σ L t).state := by
  unfold tileBody
  refine kept_withLease h ?_
  dsimp only
  refine kept_ite_of (kept_shapeFail h) ?_
  refine kept_ite_of (kept_shapeFail h) ?_
  refine kept_ite_of (kept_shapeFail h) ?_
  refine kept_ite_of h ?_
  refine kept_ite_of h ?_
  refine kept_ite_of h ?_
  split
  · next e => exact kept_clearProg ((kept_rowsFrom (fun _ _ h1 => kept_ite_of (kept_storeRow h1) (kept_loadRow h1)) h).along e)
  · next σ1 _ e =>
      have h2 : Kept p σ1 := (kept_rowsFrom (fun _ _ h1 => kept_ite_of (kept_storeRow h1) (kept_loadRow h1)) h).along e
      exact kept_ite h2 (kept_setProg h2)
  · next σ2 _ _ e =>
      have h4 : Kept p σ2 := (kept_rowsFrom (fun _ _ h1 => kept_ite_of (kept_storeRow h1) (kept_loadRow h1)) h).along e
      exact kept_ite_of (kept_setProg h4) (kept_setProg h4)

theorem kept_rowTake {L : Nat} {σ : State} {l : List RowAt} (h : Kept p σ) : ∀ x, rowTake L σ l = some x → Kept p x.1 := by
  induction l generalizing σ with
  | nil => intro x e; cases e; exact h
  | cons row r ih =>
    intro x e
    cases row with
    | got d b =>
      rw [rowTake, Option.map_eq_some_iff] at e
      obtain ⟨y, hy, rfl⟩ := e
      exact ih h y hy
    | sent id n =>
      rw [rowTake] at e
      split at e
      · cases e
      · next i _ =>
        have taken : Kept p (dropOut (takePkt σ i) L id) := kept_dropOut (kept_takePkt h)
        dsimp only at e
        split at e
        · rw [Option.map_eq_some_iff] at e
          obtain ⟨y, hy, rfl⟩ := e
          exact ih taken y hy
        · exact ih taken x e

theorem kept_rowLand {σ : State} {L i : Nat} (h : Kept p σ) : KeptOpt p (rowLand σ L i) := by
  unfold rowLand
  dsimp only
  split
  · exact .none
  split
  · exact .none
  · next e =>
      split
      · exact .none
      · next e1 => exact .some (kept_modMtx (kept_rowTake (kept_rowTake h _ e) _ e1))

theorem kept_execTileRowLand {core : BitVec 13} {i : Nat} {σ : State} (h : Kept p σ) : KeptOpt p (nextOf (execTileRowLand core i σ)) := by
  unfold execTileRowLand
  dsimp only
  refine KeptOpt.ite_of ?_ (.some h)
  split
  · next e => exact .some (kept_tidy ((kept_rowLand h).each _ e))
  · exact .some h

theorem kept_execTDrain {x : Issue} {td : BitVec 4} {rctl ra : BitVec 5} {σ : State} (h : Kept p σ) :
    KeptOpt p (nextOf (execTDrain x td rctl ra σ)) :=
  kept_issue h (fun _ _ _ h1 => kept_ite_of h1 (kept_withLease h1 (kept_ite_of (kept_shapeFail h1)
    (kept_ite_of (kept_ite_of h1 (kept_ite_of h1 (kept_ite_of h1 (kept_enqueue h1)))) (kept_ite_of (kept_shapeFail h1)
      (kept_ite_of (kept_shapeFail h1) (kept_enqueue h1)))))))

theorem kept_drainRun {σ : State} {L td : Nat} {ctl : Word} {addr epoch : Nat} (h : Kept p σ) :
    Kept p (drainRun σ L td ctl addr epoch) := by
  unfold drainRun
  extract_lets _ _ _ _ _ _ _ _ _ _ _ _ σ1 σ2
  have hσ : Kept p σ1 := kept_setCore h (keptCore_pmcEvent h.core.of_eq)
  have hσ1 : Kept p σ2 := kept_ite (kept_foldl (fun _ _ h1 => kept_netWrite h1) hσ) hσ
  exact kept_ite (kept_modCore hσ1 (fun _ w => keptCore_scAdd w)) hσ1

theorem kept_execDrainComplete {core : BitVec 13} {σ : State} (h : Kept p σ) : KeptOpt p (nextOf (execDrainComplete core σ)) := by
  unfold execDrainComplete
  dsimp only
  refine KeptOpt.ite_of (.some h) ?_
  split
  · exact KeptOpt.ite_of (.some (kept_tidy (kept_coreStop h))) (.some (kept_tidy (kept_modMtx (kept_drainRun (kept_modMtx h)))))
  · exact .some h

theorem kept_ctxBody {ra : BitVec 5} {go : State → Nat → Nat → Nat → IRes} {σ : State} {L t : Nat} (hgo : ∀ x1 x2 x3 x4, Kept p x1 →
    Kept p (go x1 x2 x3 x4).state) (h : Kept p σ) : Kept p (ctxBody ra go σ L t).state :=
  kept_ite_of h (kept_ite_of h (kept_ite_of h (kept_ite_of h (hgo _ _ _ _ h))))

theorem kept_execTCsave {x : Issue} {ra : BitVec 5} {σ : State} (h : Kept p σ) : KeptOpt p (nextOf (execTCsave x ra σ)) :=
  kept_issue h (fun _ _ _ h1 => kept_ctxBody (fun _ _ _ _ h1 => kept_ite_of (kept_coreStop h1) (kept_spadWriteBad h1)) h1)

theorem kept_execTCrest {x : Issue} {ra : BitVec 5} {σ : State} (h : Kept p σ) : KeptOpt p (nextOf (execTCrest x ra σ)) :=
  kept_issue h (fun _ _ _ h1 => kept_ctxBody (fun _ _ _ _ h1 => kept_ite_of (kept_exc (kept_noteLocalUE (kept_spadMeet h1)))
    (kept_ite_of (kept_exc (kept_spadMeet h1)) (kept_done (kept_modMtx (kept_spadMeet h1))))) h1)

/-! ### Control transfers, interrupts, fetch -/

theorem kept_callBody {target : State → Nat → Nat → Word} {σ : State} {L t : Nat} (h : Kept p σ) : Kept p (callBody target σ L t).state :=
  kept_ite_of h (kept_ite_of h (kept_ofAR (kept_writeNow h) (fun _ _ h1 => kept_modT h1 (fun _ k => keptThread_setG k))))

theorem kept_retBody {fl : Bool} {σ : State} {L t : Nat} (h : Kept p σ) : Kept p (retBody fl σ L t).state :=
  kept_ite_of h (kept_ofAR (kept_readNow h) (fun _ _ h1 => kept_ite_of (kept_noteLocalUE h1)
    (kept_ite_of h1 (kept_modT h1 (fun _ k => keptThread_ite (keptThread_setG k).of_eq (keptThread_setG k))))))

theorem keptThread_setLoop {h1 : Thread} {level : Bool} {l : Loop} (k : KeptThread p h1) : KeptThread p (setLoop h1 level l) :=
  keptThread_ite k.of_eq k.of_eq

theorem kept_lpSetupBody {level : Bool} {n : BitVec 32} {off : BitVec 12} {σ : State} {L t : Nat} (h : Kept p σ) :
    Kept p (lpSetupBody level n off σ L t).state :=
  kept_ite_of h (kept_modT h (fun _ k => keptThread_setLoop k))

theorem kept_execLpClr {x : Issue} {level : Bool} {σ : State} (h : Kept p σ) : KeptOpt p (nextOf (execLpClr x level σ)) :=
  kept_issue h (fun _ _ _ h1 => kept_modT h1 (fun _ k => keptThread_ite (keptThread_setLoop k) (keptThread_setLoop (keptThread_setLoop k))))

theorem kept_execEret {x : Issue} {σ : State} (h : Kept p σ) : KeptOpt p (nextOf (execEret x σ)) :=
  kept_issue h (fun _ _ _ h1 => kept_ite_of h1 (kept_ite_of h1 (kept_ite_of h1 (kept_ofAR (kept_readNow h1) (fun _ _ h1 => kept_ite_of
    (kept_noteLocalUE h1) (kept_ite_of h1 (kept_boundary (kept_modT h1 (fun _ k => keptThread_restoreThread k)))))))))

theorem kept_takeAsync {s σ : State} {L t : Nat} {e : Entry} (h : Kept p s) (h1 : Kept p σ) : KeptOpt p (nextOf (takeAsync s σ L t e)) := by
  unfold takeAsync
  split
  · next e => exact .some (kept_tidy ((kept_stopFirst h).each _ e))
  · exact .some (kept_tidy (kept_takeException h1))

theorem kept_execTakeEvent {core : BitVec 13} {σ : State} (h : Kept p σ) : KeptOpt p (nextOf (execTakeEvent core σ)) := by
  unfold execTakeEvent
  dsimp only
  split
  · exact .some h
  · exact KeptOpt.ite_of (kept_takeAsync h (kept_modCore h (fun _ w => w.of_eq))) (.some h)

theorem kept_icMeet {σ : State} {L va : Nat} (h : Kept p σ) : Kept p (icMeet σ L va) := by
  unfold icMeet
  dsimp only
  refine kept_modCore h ?_
  intro _ w
  split
  · exact w.of_eq
  · exact w.of_eq

theorem kept_fetchLine {σ : State} {L t : Nat} {f : FInfo} {e : Tlb} {va : Nat} (h : Kept p σ) : Kept p (fetchLine σ L t f e va).state := by
  unfold fetchLine
  refine kept_ite_of (kept_andThen (kept_homeRead h) (fun _ _ h1 => kept_ite_of (kept_accClear h1) h1)) ?_
  dsimp only
  split
  · exact kept_icMeet h
  · exact kept_ite_of (kept_icMeet h) (kept_sendRead (kept_threadAsks (kept_modCore (kept_icMeet h) (fun _ w => keptCore_pmcEvent w))))

theorem kept_icInstall {σ : State} {L : Nat} {l : DLine} (h : Kept p σ) : Kept p (icInstall σ L l) := by
  unfold icInstall
  exact kept_modCore h.of_eq (fun _ w => w.of_eq)

theorem kept_execInstructionFetch {core : BitVec 13} {t : BitVec 4} {σ : State} (h : Kept p σ) :
    KeptOpt p (nextOf (execInstructionFetch core t σ)) := by
  unfold execInstructionFetch
  extract_lets L n k va _ f r
  have fetched : Kept p r.state := by
    dsimp only [r]
    split
    · exact h
    · exact kept_andThen (kept_threadXlate h) (fun _ _ h1 => kept_fetchLine h1)
  split
  · exact .some h
  split
  · next e => exact .some (kept_tidy ((kept_stopFirst h).each _ e))
  split
  · exact .some (kept_ite h (kept_tidy (kept_debugHit h)))
  refine .some (kept_tidy ?_)
  cases hr : r with
  | ok s _ => exact fetched.along hr
  | hold s => exact fetched.along hr
  | fault s f => exact kept_raise (fetched.along hr)

/-! ### Thread commands and timers -/

theorem kept_thrOut {x : Issue} {n : BitVec 4} {v : Word} {cmd : Nat} {σ : State} (h : Kept p σ) :
    KeptOpt p (nextOf (thrOut x n v cmd σ)) :=
  kept_outTo h

theorem kept_execTimerExpiry {core : BitVec 13} {σ : State} (h : Kept p σ) : KeptOpt p (nextOf (execTimerExpiry core σ)) := by
  unfold execTimerExpiry
  extract_lets _ _ _ c
  have hc : KeptCore p c := keptCore_modThr h.core (fun _ k => k.of_eq)
  exact KeptOpt.ite_of (.some (kept_setCore h hc.of_eq)) (.some h)

/-! ### Scalar loads, stores and atomics -/

theorem kept_ask {σ : State} {L t : Nat} {k1 : OutKind} {h1 : Home} {n : Nat} (h : Kept p σ) : Kept p (ask σ L t k1 h1 n) := by
  unfold ask
  split
  · next e => exact kept_sendRead ((kept_threadAsks h).along e)

theorem kept_loadBody {va n : Nat} {sext acq : Bool} {rd : BitVec 5} {σ : State} {L t : Nat} (h : Kept p σ) :
    Kept p (loadBody va n sext acq rd σ L t).state := by
  unfold loadBody
  extract_lets _ _ _ out far
  have hout : ∀ x x1, Kept p x → Kept p (out x x1).state := by
    intro _ _ h1
    dsimp only [out]
    exact kept_ite (kept_modCore (kept_watch (kept_wg h1)) (fun _ w => keptCore_acquire w)) (kept_watch (kept_wg h1))
  have hfar : ∀ x x1 x2 x3, Kept p x → Kept p (far x x1 x2 x3).state := fun _ _ _ _ h2 => kept_ite_of h2 (kept_ask (kept_watch h2))
  refine kept_ite_of h ?_
  split
  · exact h
  · refine kept_ite_of h ?_
    refine kept_ite_of ?_ (hfar _ _ _ _ h)
    extract_lets _
    exact kept_ite_of (hout _ _ (kept_spadMeet h)) (kept_noteLocalUE h)
  refine kept_ite_of h ?_
  refine kept_ofAR (kept_threadXlate h) ?_
  intro _ _ h3
  refine kept_ite_of (hfar _ _ _ _ h3) ?_
  extract_lets σ1 _ _ σ2 _
  have hσ : Kept p σ1 := kept_dcMeet h3
  have hσ1 : Kept p σ2 := kept_setCore hσ (keptCore_pmcEvent hσ.core)
  refine kept_ite_of hσ ?_
  split
  · exact kept_ite_of (hout _ _ (kept_setCore hσ (keptCore_pmcEvent hσ.core))) (kept_setCore hσ hσ.core.of_eq)
  refine kept_ite_of hσ ?_
  split
  · next e =>
      split
      · next e1 => exact hout _ _ ((kept_installLine (kept_setCore hσ1 (keptCore_pmcEvent (kept_sideTake hσ1.core _ e)))).each _ e1)
      · exact hσ1
  · exact kept_prefetch (kept_ask (kept_watch hσ1))

theorem kept_post {σ : State} {L t va : Nat} {h1 : Home} {data merge : List Byte} (h : Kept p σ) :
    Kept p (post σ L t va h1 data merge).state :=
  kept_ite_of h (kept_sendWrite (kept_threadAsks (kept_watch h)))

theorem kept_storeBody {va : Nat} {data : List Byte} {σ : State} {L t : Nat} (h : Kept p σ) : Kept p (storeBody va data σ L t).state := by
  unfold storeBody
  extract_lets _ _ _ out
  have hout : ∀ x, Kept p x → Kept p (out x).state := fun _ h1 => kept_watch h1
  refine kept_ite_of h ?_
  split
  · exact h
  · exact kept_ite_of h (kept_ite_of (kept_ite_of (hout _ (kept_spadWrite h)) (kept_noteLocalUE h)) (kept_post h))
  refine kept_ite_of h ?_
  refine kept_ofAR (kept_threadXlate h) ?_
  intro _ _ h2
  refine kept_ite_of (kept_post h2) ?_
  extract_lets σ1 _ σ2 σ3 _
  have hσ : Kept p σ1 := kept_dcMeet h2
  have hσ1 : Kept p σ2 := kept_setCore hσ (keptCore_pmcEvent hσ.core)
  have hσ2 : Kept p σ3 := kept_setCore hσ (keptCore_pmcEvent hσ.core)
  refine kept_ite_of hσ ?_
  split
  · exact kept_ite_of (hout _ (kept_mergeAt hσ1)) (kept_post hσ1)
  refine kept_ite_of hσ ?_
  refine kept_ite_of (kept_post (kept_sideDrop hσ2)) ?_
  refine kept_ite_of ?_ (kept_ask (kept_watch hσ2))
  split
  · next e => exact hout _ (kept_mergeAt ((kept_sideMove hσ2).each _ e))
  · exact hσ2

theorem kept_amoBody {op : AmoOp} {rd rs1 rs2 : BitVec 5} {eight ord : Bool} {σ : State} {L t : Nat} (h : Kept p σ) :
    Kept p (amoBody op rd rs1 rs2 eight ord σ L t).state := by
  unfold amoBody
  extract_lets _ _ _ _ _ _ _ send'
  have hsend' : ∀ x x1, Kept p x → Kept p (send' x x1).state := by
    intro _ _ h1
    dsimp only [send']
    exact kept_ite_of h1 (kept_sendAtomic (kept_threadAsks (kept_watch h1)))
  refine kept_ite_of h ?_
  refine kept_ite_of h ?_
  split
  · exact h
  · refine kept_ite_of h ?_
    refine kept_ite_of ?_ (hsend' _ _ h)
    extract_lets _ _ σ1 σ2
    have hσ : Kept p σ1 := kept_spadWrite (kept_spadMeet h)
    have hσ1 : Kept p σ2 := kept_watch (kept_wg hσ)
    exact kept_ite_of (kept_noteLocalUE h) (kept_ite (kept_modCore hσ1 (fun _ w => keptCore_acquire w)) hσ1)
  refine kept_ite_of h ?_
  refine kept_ofAR (kept_threadXlate h) ?_
  intro _ _ h2
  extract_lets σ3 _
  have hσ2 : Kept p σ3 := kept_dcMeet h2
  refine kept_ite_of hσ2 ?_
  refine kept_ite_of hσ2 ?_
  split
  · refine kept_ite_of hσ2 ?_
    extract_lets σ4
    have hσ3 : Kept p σ4 := kept_setCore hσ2 hσ2.core.of_eq
    exact kept_ite_of (kept_writeBack hσ3) (hsend' _ _ (kept_sideDrop hσ3))
  · exact hsend' _ _ (kept_sideDrop hσ2)

theorem kept_amo {op : AmoOp} {x : Issue} {rd rs1 rs2 : BitVec 5} {eight ord : Bool} {σ : State} (h : Kept p σ) :
    KeptOpt p (nextOf (amo op x rd rs1 rs2 eight ord σ)) :=
  kept_issue h (fun _ _ _ h1 => kept_amoBody h1)

theorem kept_loadDone {σ : State} {L id t : Nat} {rd : BitVec 5} {b : List Byte} {sext : Bool} (h : Kept p σ) :
    Kept p (loadDone σ L id t rd b sext) :=
  kept_ite (kept_finish (kept_wg h)) h

theorem kept_loadFault {σ : State} {L id t : Nat} {f : FInfo} (h : Kept p σ) : Kept p (loadFault σ L id t f) :=
  kept_ite (kept_accessFault (kept_modT h (fun _ k => keptThread_dropWatch k.of_eq))) h

theorem kept_accDone {σ : State} {L id t : Nat} {r : Option AccRec} (h : Kept p σ) : Kept p (accDone σ L id t r) := by
  unfold accDone
  refine kept_ite h ?_
  dsimp only
  split
  · exact kept_accKeep (kept_modT h (fun _ k => k.of_eq))
  · exact kept_modT h (fun _ k => k.of_eq)

theorem kept_storeDone {σ : State} {L id t : Nat} (h : Kept p σ) : Kept p (storeDone σ L id t) := kept_ite (kept_finish h) h

theorem kept_execReadData {i : Nat} {σ : State} (h : Kept p σ) : KeptOpt p (nextOf (execReadData i σ)) := by
  unfold execReadData
  split
  · extract_lets σ1
    have hσ : Kept p σ1 := kept_dropOut (kept_takePkt h)
    split
    · exact KeptOpt.ite_of (.some (kept_tidy (kept_loadFault hσ)))
        (.some (kept_tidy (kept_loadDone (kept_ite (kept_modCore hσ (fun _ w => keptCore_acquire w)) hσ))))
    · exact .some (kept_tidy (kept_accDone hσ))
    · exact .some (kept_takePkt h)
    · exact .some h
  · exact .some h

theorem kept_fillArrives {σ : State} {L : Nat} {l : DLine} {data : List Byte} {bad : List Nat} {noInstall : Bool} (h : Kept p σ) :
    KeptOpt p (fillArrives σ L l data bad noInstall) :=
  KeptOpt.ite (.some (kept_noteCacheUE h)) (KeptOpt.ite (.some h) (kept_installLine h))

theorem kept_execCacheFill {i : Nat} {σ : State} (h : Kept p σ) : KeptOpt p (nextOf (execCacheFill i σ)) := by
  unfold execCacheFill
  split
  · next L id data bad _ _ =>
    extract_lets σ1 fills
    have taken : Kept p σ1 := kept_dropOut (kept_takePkt h)
    have filled : ∀ l no k, (∀ s, Kept p s → Kept p (k s)) → KeptOpt p (nextOf (fills l no k)) := by
      intro l no k hk
      dsimp only [fills]
      split
      · next e => exact .some (kept_tidy (hk _ ((kept_fillArrives taken).each _ e)))
      · exact .some h
    split
    · exact filled _ _ _ (fun _ k => kept_ite (kept_loadFault k) (kept_loadDone k))
    · dsimp only
      split
      · next e => exact .some (kept_tidy (kept_storeDone ((kept_installLine (kept_ite taken (kept_noteCacheUE taken))).each _ e)))
      · exact .some h
    · split
      · next e => exact .some (kept_tidy (kept_accDone ((kept_installLine (kept_ite taken (kept_noteCacheUE taken))).each _ e)))
      · exact .some h
    · exact filled _ _ _ (fun _ k => kept_accDone k)
    · refine .some (kept_tidy (kept_ite (kept_loadFault ?_) (kept_accDone ?_))) <;>
        exact kept_ite (kept_icInstall taken) (kept_modCore taken (fun _ w => w.of_eq))
    · exact .some (kept_tidy (kept_ite (kept_lockFill taken) (kept_lockFill (kept_noteCacheUE taken))))
    · split
      · exact .some (kept_tidy taken)
      · exact .some (kept_tidy (kept_modCore taken (fun _ w => w.of_eq)))
    · exact .some (kept_takePkt h)
    · exact .some h
  · exact .some h

theorem kept_execWriteAck {i : Nat} {σ : State} (h : Kept p σ) : KeptOpt p (nextOf (execWriteAck i σ)) := by
  unfold execWriteAck
  split
  · extract_lets σ1
    have hσ : Kept p σ1 := kept_dropOut (kept_takePkt h)
    split
    · exact .some (kept_tidy (kept_storeDone (kept_ite hσ (kept_mergeAt hσ))))
    · extract_lets σ2
      have hσ1 : Kept p σ2 := by
        dsimp only [σ2]
        split
        · exact kept_mergeAt hσ
        · exact hσ
      exact .some (kept_tidy (kept_accDone hσ1))
    · exact .some (kept_tidy (kept_modCore hσ (fun _ w => w.of_eq)))
    · exact .some (kept_takePkt h)
    · exact .some h
  · exact .some h

theorem kept_execAtomicData {i : Nat} {σ : State} (h : Kept p σ) : KeptOpt p (nextOf (execAtomicData i σ)) := by
  unfold execAtomicData
  split
  · extract_lets σ1
    have hσ : Kept p σ1 := kept_dropOut (kept_takePkt h)
    split
    · exact KeptOpt.ite_of (.some (kept_tidy (kept_loadFault hσ)))
        (.some (kept_tidy (kept_loadDone (kept_ite (kept_modCore hσ (fun _ w => keptCore_acquire w)) hσ))))
    · exact .some (kept_takePkt h)
    · exact .some h
  · exact .some h

/-! ### The vector unit -/

theorem kept_wv {σ : State} {L t : Nat} {r : BitVec 4} {v : BitVec 1024} (h : Kept p σ) : Kept p (wv σ L t r v) :=
  kept_modT h (fun _ k => keptThread_setV k)

theorem kept_vec2 {types : List Nat} {g : Bool → Fmt → BitVec 1024 → BitVec 1024 → BitVec 1024} {x : Issue} {vd va vb : BitVec 4}
    {sloe : Bool} {type : BitVec 3} {σ : State} (h : Kept p σ) : KeptOpt p (nextOf (vec2 types g x vd va vb sloe type σ)) :=
  kept_issue h (fun _ _ _ h1 => kept_wv h1)

theorem kept_vec3 {types : List Nat} {g : Bool → Fmt → BitVec 1024 → BitVec 1024 → BitVec 1024 → BitVec 1024} {x : Issue}
    {vd va vb : BitVec 4} {sloe : Bool} {type : BitVec 3} {σ : State} (h : Kept p σ) : KeptOpt p
      (nextOf (vec3 types g x vd va vb sloe type σ)) :=
  kept_issue h (fun _ _ _ h1 => kept_wv h1)

theorem kept_vec1 {types : List Nat} {g : Bool → Fmt → BitVec 1024 → BitVec 1024} {x : Issue} {vd va : BitVec 4} {sloe : Bool}
    {type : BitVec 3} {σ : State} (h : Kept p σ) : KeptOpt p (nextOf (vec1 types g x vd va sloe type σ)) :=
  kept_issue h (fun _ _ _ h1 => kept_wv h1)

theorem kept_fn1 {fn : Fn} {exactSloe : Bool} {x : Issue} {vd va : BitVec 4} {sloe : Bool} {type : BitVec 3} {σ : State} (h : Kept p σ) :
    KeptOpt p (nextOf (fn1 fn exactSloe x vd va sloe type σ)) :=
  kept_vec1 h

theorem kept_reduce {types : List Nat} {g : Bool → Fmt → List Nat → Nat} {gi : List Int → Int} {x : Issue} {vd va : BitVec 4}
    {sloe : Bool} {type : BitVec 3} {σ : State} (h : Kept p σ) : KeptOpt p (nextOf (reduce types g gi x vd va sloe type σ)) :=
  kept_vec1 h

theorem kept_vconv {σ : State} {L : Nat} {ctl : Word} {f : Fmt} {sat : Bool} {vs : List Val} (h : Kept p σ) :
    Kept p (vconv σ L ctl f sat vs).1 :=
  kept_setCore h h.core.of_eq

theorem kept_execVLd {x : Issue} {vd : BitVec 4} {rs1 rs2 : BitVec 5} {σ : State} (h : Kept p σ) :
    KeptOpt p (nextOf (execVLd x vd rs1 rs2 σ)) :=
  kept_issue h (fun _ _ _ h1 => kept_ite_of h1 (kept_ofAR (kept_readNow h1) (fun _ _ h2 => kept_ite_of (kept_noteLocalUE h2)
    (kept_ofAR (kept_readNow h2) (fun _ _ h1 => kept_ite_of (kept_noteLocalUE h1) (kept_watch (kept_wv h1)))))))

theorem kept_execVSt {x : Issue} {vs : BitVec 4} {rs1 rs2 : BitVec 5} {σ : State} (h : Kept p σ) :
    KeptOpt p (nextOf (execVSt x vs rs1 rs2 σ)) :=
  kept_issue h (fun _ _ _ h1 => kept_ite_of h1 (kept_ofAR (kept_writeNow h1) (fun _ _ h2 => kept_ofAR (kept_writeNow h2)
    (fun _ _ h1 => kept_watch h1))))

theorem kept_tileRow {tile : BitVec 4} {rs2 : BitVec 5} {write : Bool} {k1 : State → Nat → IRes} {σ : State} {L t : Nat}
    (hk1 : ∀ x1 x2, Kept p x1 → Kept p (k1 x1 x2).state) (h : Kept p σ) : Kept p (tileRow tile rs2 write k1 σ L t).state :=
  kept_withLease h (kept_ite_of (kept_shapeFail h) (kept_ite_of (kept_shapeFail h) (kept_ite_of h (hk1 _ _ h))))

theorem kept_unitsFrom {f : State → Nat → AR Unit} {L t n n1 : Nat} {σ : State} (hf : ∀ x1 x2, Kept p x1 → Kept p (f x1 x2).state)
    (h : Kept p σ) : Kept p (unitsFrom f L t n n1 σ).state := by
  induction n generalizing f L t n1 σ with
  | zero => exact h
  | succ n ih =>
    rw [unitsFrom]
    split
    · next σ1 _ e =>
        have h1 : Kept p σ1 := (hf _ _ h).along e
        exact kept_ite_of (kept_accClear h1) (ih (fun _ _ h1 => hf _ _ h1) (kept_accClear h1))
    · next e => exact (hf _ _ h).along e
    · next e => exact (hf _ _ h).along e

theorem kept_unitsEnd {r : Units} {L t major : Nat} {fin : State → State} (h : Kept p r.state) (hfin : ∀ x1, Kept p x1 → Kept p (fin x1)) :
    Kept p (unitsEnd r L t major fin).state := by
  unfold unitsEnd
  split
  · exact hfin _ (kept_clearProg h)
  · exact kept_setProg h
  · exact kept_ite h (kept_setProg h)
  · exact kept_boundary (kept_setProg h)

theorem kept_gatherBody {load : Bool} {v vi : BitVec 4} {rs1 rs2 : BitVec 5} {σ : State} {L t : Nat} (h : Kept p σ) :
    Kept p (gatherBody load v vi rs1 rs2 σ L t).state :=
  kept_ite_of h (kept_unitsEnd (kept_unitsFrom (fun _ _ h1 => kept_ite_of h1 (kept_ite_of (kept_andThen (kept_readNow h1)
    (fun _ _ h1 => kept_ite_of (kept_noteLocalUE h1) (kept_watch (kept_wv h1)))) (kept_andThen (kept_writeNow h1)
      (fun _ _ h1 => kept_watch h1)))) h) (fun _ h1 => kept_ite (kept_wv h1) h1))

/-! ### Landing windows, credits, remote writes, the scrubber -/

theorem kept_execMemfill {x : Issue} {ra rs1 rs2 : BitVec 5} {σ : State} (h : Kept p σ) :
    KeptOpt p (nextOf (execMemfill x ra rs1 rs2 σ)) := by
  refine kept_issue h (fun s L t k => ?_)
  dsimp only
  split
  · exact k
  · exact kept_unitsEnd (kept_unitsFrom (fun _ _ k1 => kept_andThen (kept_writeNow k1) (fun _ _ k2 => kept_watch k2)) k) (fun _ k1 => k1)

theorem kept_execLwopen {x : Issue} {rd rs1 rs2 : BitVec 5} {σ : State} (h : Kept p σ) : KeptOpt p (nextOf (execLwopen x rd rs1 rs2 σ)) :=
  kept_issue h (fun _ _ _ h1 => kept_ite_of h1 (kept_wg (kept_ite (kept_modCore h1 (fun _ w => keptCore_setWin w)) h1)))

theorem kept_closeWin {σ : State} {L w1 : Nat} (h : Kept p σ) : Kept p (closeWin σ L w1).1 :=
  kept_foldl (fun _ _ h1 => kept_sendTo (kept_modCore h1 (fun _ w => keptCore_setCred w))) (kept_modCore h (fun _ w => keptCore_setWin w))

theorem kept_closeWins {σ : State} {L : Nat} (h : Kept p σ) : Kept p (closeWins σ L) := kept_foldl (fun _ _ h1 => kept_closeWin h1) h

theorem kept_execCreditReq {i : Nat} {σ : State} (h : Kept p σ) : KeptOpt p (nextOf (execCreditReq i σ)) := by
  unfold execCreditReq
  split
  · dsimp only
    split
    · exact .some (kept_sendTo (kept_setCore (kept_takePkt h) (keptCore_setCred (kept_takePkt h).core)))
    · exact .some (kept_sendTo (kept_takePkt h))
  · exact .some h

theorem kept_execCreditQuarantineEnd {core : BitVec 13} {entry : BitVec 6} {σ : State} (h : Kept p σ) :
    KeptOpt p (nextOf (execCreditQuarantineEnd core entry σ)) := by
  unfold execCreditQuarantineEnd
  split
  · exact KeptOpt.ite_of (.some (kept_modCore h (fun _ w => keptCore_setCred w))) (.some h)
  · exact .some h

theorem kept_setEngCredit {σ : State} {L : Nat} {u : Eng} {x : CreditSt} (h : Kept p σ) : Kept p (setEngCredit σ L u x) := by
  unfold setEngCredit
  split
  · exact kept_modSlot h
  · exact kept_modChan h

theorem kept_setEngReason {σ : State} {L : Nat} {u : Eng} {r : Nat} (h : Kept p σ) : Kept p (setEngReason σ L u r) := by
  unfold setEngReason
  split
  · exact kept_modSlot h
  · exact kept_modChan h

theorem kept_creditFail {σ : State} {L : Nat} {u : Eng} {r : Nat} (h : Kept p σ) : Kept p (creditFail σ L u r) := by
  unfold creditFail
  dsimp only
  split
  · exact kept_slotSettle (kept_slotFail (kept_setEngReason (kept_setEngCredit h)))
  · exact kept_chanSettle (kept_chanFail (kept_setEngReason (kept_setEngCredit h)))

theorem kept_execCreditGrant {i : Nat} {σ : State} (h : Kept p σ) : KeptOpt p (nextOf (execCreditGrant i σ)) := by
  unfold execCreditGrant
  split
  · dsimp only
    refine KeptOpt.ite_of (.some (kept_takePkt h)) ?_
    split
    · exact .some (kept_tidy (kept_setEngCredit (kept_takePkt h)))
    · exact .some (kept_takePkt h)
  · exact .some h

theorem kept_execCreditRefuse {i : Nat} {σ : State} (h : Kept p σ) : KeptOpt p (nextOf (execCreditRefuse i σ)) := by
  unfold execCreditRefuse
  split
  · extract_lets σ1
    have hσ : Kept p σ1 := kept_modCore (kept_takePkt h) (fun _ w => keptCore_pmcEvent w)
    refine KeptOpt.ite_of (.some hσ) ?_
    split
    · exact KeptOpt.ite_of (.some (kept_setEngReason (kept_setEngCredit hσ))) (.some (kept_tidy (kept_creditFail hσ)))
    · exact .some hσ
  · exact .some h

theorem kept_execCreditRevoke {i : Nat} {σ : State} (h : Kept p σ) : KeptOpt p (nextOf (execCreditRevoke i σ)) := by
  unfold execCreditRevoke
  split
  · exact KeptOpt.ite_of (.some (kept_tidy (kept_creditFail (kept_takePkt h)))) (.some (kept_takePkt h))
  · exact .some h

theorem kept_creditAgain {σ : State} {L : Nat} {u : Eng} (h : Kept p σ) : Kept p (creditAgain σ L u) := by
  unfold creditAgain
  dsimp only
  split
  · split
    · exact kept_askCredit h
    · exact h
  · exact kept_askCredit h

theorem kept_execCreditRetry {core : BitVec 13} {u : Eng} {σ : State} (h : Kept p σ) : KeptOpt p (nextOf (execCreditRetry core u σ)) := by
  unfold execCreditRetry
  dsimp only
  refine KeptOpt.ite_of (.some h) ?_
  split
  · exact KeptOpt.ite_of (.some (kept_tidy (kept_creditFail h))) (.some (kept_creditAgain (kept_setEngCredit h)))
  · exact .some h

theorem kept_execCreditTimeout {core : BitVec 13} {u : Eng} {σ : State} (h : Kept p σ) :
    KeptOpt p (nextOf (execCreditTimeout core u σ)) := by
  unfold execCreditTimeout
  dsimp only
  split
  · exact KeptOpt.ite_of (.some (kept_tidy (kept_creditFail h))) (.some h)
  · exact .some h

theorem kept_landPacket {σ : State} {L e off : Nat} {data : List Byte} {sig : Option RSig} {win srcMod srcCore : Nat} {u : Eng}
    {off' len done : Nat} {pair : Pair} (h : Kept p σ) : Kept p (landPacket σ L e off data sig win srcMod srcCore u off' len done pair) :=
      by
  unfold landPacket
  extract_lets σ1 _ _ σ2 add σ3
  have hσ : Kept p σ1 := kept_netWrite h
  have hσ1 : Kept p σ2 := kept_modCore hσ (fun _ w => keptCore_setCred w)
  have hadd : ∀ x x1 x2, Kept p x → Kept p (add x x1 x2) := fun _ _ _ h1 => kept_modCore h1 (fun _ w => keptCore_scAdd w)
  have hσ2 : Kept p σ3 := by
    dsimp only [σ3]
    split
    · exact hσ1
    split
    · exact kept_ite (hadd _ _ _ hσ1) hσ1
    · exact hadd _ _ _ hσ1
    · exact hadd _ _ _ hσ1
    · exact hσ1
  exact kept_ite (kept_sendTo hσ2) hσ2

theorem kept_execRemoteWrite {i : Nat} {σ : State} (h : Kept p σ) : KeptOpt p (nextOf (execRemoteWrite i σ)) := by
  unfold execRemoteWrite
  split
  · dsimp only
    split
    · exact KeptOpt.ite_of (.some (kept_tidy (kept_landPacket (kept_takePkt h))))
        (.some (kept_modCore (kept_takePkt h) (fun _ w => keptCore_setWin w)))
    · exact .some (kept_takePkt h)
  · exact .some h

theorem kept_execLandingAck {i : Nat} {σ : State} (h : Kept p σ) : KeptOpt p (nextOf (execLandingAck i σ)) := by
  unfold execLandingAck
  split
  · dsimp only
    refine KeptOpt.ite_of (.some (kept_takePkt h)) ?_
    split
    · split
      · next d _ _ => exact KeptOpt.ite_of (.some (kept_tidy
          (kept_slotNext (kept_ite (kept_modCore (kept_modCore (kept_takePkt h) (fun _ w => keptCore_pmcEvent w))
            (fun _ w => keptCore_scAdd w)) (kept_modCore (kept_takePkt h) (fun _ w => keptCore_pmcEvent w)))))) (.some (kept_takePkt h))
      · exact .some (kept_takePkt h)
    · exact KeptOpt.ite_of (.some (kept_modChan (kept_modCore (kept_takePkt h) (fun _ w => keptCore_pmcEvent w)))) (.some (kept_takePkt h))
  · exact .some h

theorem kept_execWindowRequest {i : Nat} {σ : State} (h : Kept p σ) : KeptOpt p (nextOf (execWindowRequest i σ)) := by
  unfold execWindowRequest
  split
  · exact KeptOpt.ite_of (.some h) (.some (kept_sendTo (kept_foldl (fun _ _ h1 => kept_noteSpadUE h1) (kept_spadMeet (kept_takePkt h)))))
  · exact KeptOpt.ite_of (.some h) (.some (kept_sendTo (kept_foldl (fun _ _ h1 => kept_netWrite h1) (kept_takePkt h))))
  · exact .some h

theorem kept_execScrubVisit {core : BitVec 13} {ecc : Ecc} {σ : State} (h : Kept p σ) : KeptOpt p (nextOf (execScrubVisit core ecc σ)) :=
  KeptOpt.ite_of (.some h) (.some (kept_foldl (fun _ _ h1 => kept_noteSpadUE h1)
    (kept_spadMeet (kept_setCore h (keptCore_pmcEvent h.core).of_eq))))

/-! ### Streams -/

theorem kept_execStQ {x : Issue} {slot : BitVec 3} {rs : BitVec 5} {σ : State} (h : Kept p σ) : KeptOpt p (nextOf (execStQ x slot rs σ)) :=
  kept_issue h (fun _ _ _ h1 => kept_ite_of h1 (kept_ite_of h1 (kept_ite_of (kept_noteLocalUE (kept_spadMeet h1))
    (kept_ite_of (kept_spadMeet h1) (kept_modSlot (kept_watch (kept_spadMeet h1)))))))

theorem kept_stRelease {σ : State} {L s : Nat} (h : Kept p σ) : Kept p (stRelease σ L s) := by
  unfold stRelease
  dsimp only
  split
  · exact kept_ite (kept_slotNext (kept_modSlot h)) (kept_modSlot h)
  · exact kept_modSlot h

theorem kept_execStreamDescStart {core : BitVec 13} {slot : BitVec 3} {σ : State} (h : Kept p σ) :
    KeptOpt p (nextOf (execStreamDescStart core slot σ)) := by
  unfold execStreamDescStart
  dsimp only
  refine KeptOpt.ite_of (.some h) ?_
  split
  · exact .some h
  refine KeptOpt.ite_of ?_ ?_
  · split
    · exact .some (kept_tidy (kept_modSlot h))
    · exact .some (kept_tidy (kept_slotEnter (kept_modSlot h)))
  · split
    · exact KeptOpt.ite_of (.some (kept_tidy (kept_modSlot h))) (.some h)
    · exact .some h

theorem kept_execStreamResponse {core : BitVec 13} {slot : BitVec 3} {i : Nat} {σ : State} (h : Kept p σ) :
    KeptOpt p (nextOf (execStreamResponse core slot i σ)) := by
  unfold execStreamResponse
  split
  · exact .some h
  refine KeptOpt.ite_of (.some h) ?_
  dsimp only
  split
  · split
    · refine KeptOpt.ite_of (.some h) ?_
      split
      · exact .some (kept_tidy (kept_slotLand (kept_dropOut (kept_takePkt h))))
      · exact .some (kept_tidy (kept_dropOut (kept_takePkt h)))
    · exact .some (kept_takePkt h)
    · exact .some h
  · split
    · exact KeptOpt.ite_of (.some h) (.some (kept_tidy (kept_modCore (kept_dropOut (kept_takePkt h)) (fun _ w => keptCore_pmcEvent w))))
    · exact .some (kept_takePkt h)
    · exact .some h
  · exact .some h

theorem kept_stOut {x : Issue} {slot : BitVec 3} {cmd : Nat} {σ : State} (h : Kept p σ) : KeptOpt p (nextOf (stOut x slot cmd σ)) :=
  kept_outTo h

/-! ### Sync counters, signals and fences -/

theorem kept_scUpdate {x : Issue} {rs : BitVec 5} {cnt : BitVec 6} {ord : Bool} {f : Core → Nat → Nat → Nat → Core} {σ : State}
    (hf : ∀ x1 x2 x3 x4, KeptCore p x1 → KeptCore p (f x1 x2 x3 x4)) (h : Kept p σ) : KeptOpt p (nextOf (scUpdate x rs cnt ord f σ)) :=
  kept_issue h (fun _ _ _ h1 => kept_ite_of h1 (kept_modCore h1 (fun _ w => hf _ _ _ _ w)))

theorem keptCore_scSetTo {c : Core} {_t k1 n : Nat} (w : KeptCore p c) : KeptCore p (scSetTo c _t k1 n) := keptCore_setSc w

theorem keptCore_scSubFrom {c : Core} {t k1 n : Nat} (w : KeptCore p c) : KeptCore p (scSubFrom c t k1 n) :=
  keptCore_ite (keptCore_queueEvent (keptCore_setSc w)) (keptCore_setSc w)

theorem kept_scWaitBody {rs : BitVec 5} {cnt : BitVec 6} {ord intr sub : Bool} {σ : State} {L t : Nat} (h : Kept p σ) :
    Kept p (scWaitBody rs cnt ord intr sub σ L t).state :=
  kept_ite_of (kept_setCore h (keptCore_ite (keptCore_acquire (keptCore_ite (keptCore_setSc h.core) h.core))
    (keptCore_ite (keptCore_setSc h.core) h.core))) h

theorem kept_sendSignal {σ : State} {L m id cnt n : Nat} (h : Kept p σ) : Kept p (sendSignal σ L m id cnt n) :=
  kept_ite (kept_modCore h (fun _ w => keptCore_scAdd w)) (kept_sendTo h)

theorem kept_execSignalArrival {i : Nat} {σ : State} (h : Kept p σ) : KeptOpt p (nextOf (execSignalArrival i σ)) := by
  unfold execSignalArrival
  split
  · exact KeptOpt.ite_of (.some (kept_tidy (kept_modCore (kept_takePkt h) (fun _ w => keptCore_scAdd w))))
      (.some (kept_modCore (kept_takePkt h) (fun _ w => keptCore_setSc w)))
  · exact .some h

/-! ### DMA -/

theorem kept_execDmStart {x : Issue} {rd : BitVec 5} {ch : BitVec 2} {rs : BitVec 5} {σ : State} (h : Kept p σ) :
    KeptOpt p (nextOf (execDmStart x rd ch rs σ)) :=
  kept_issue h (fun _ _ _ h1 => kept_ite_of h1 (kept_ite_of h1 (kept_ite_of (kept_wg h1) (kept_wg (kept_modChan h1)))))

theorem kept_execDmaDescFetch {core : BitVec 13} {ch : BitVec 2} {σ : State} (h : Kept p σ) :
    KeptOpt p (nextOf (execDmaDescFetch core ch σ)) :=
  KeptOpt.ite_of (.some h) (KeptOpt.ite_of (.some (kept_tidy (kept_chanFault (kept_modChan h))))
    (KeptOpt.ite_of (.some (kept_tidy (kept_chanFault (kept_modChan (kept_noteLocalUE (kept_spadMeet h))))))
      (.some (kept_tidy (kept_chanStart (kept_modChan (kept_spadMeet h)))))))

theorem kept_execDmaResponse {core : BitVec 13} {ch : BitVec 2} {i : Nat} {σ : State} (h : Kept p σ) :
    KeptOpt p (nextOf (execDmaResponse core ch i σ)) := by
  unfold execDmaResponse
  split
  · exact .some h
  refine KeptOpt.ite_of (.some h) ?_
  split
  · split
    · refine KeptOpt.ite_of (.some h) ?_
      split
      · next e => exact .some (kept_tidy (kept_dropOut (kept_takePkt ((kept_chanLand h).along e))))
      · next e => exact .some ((kept_chanLand h).along e)
    · exact .some (kept_takePkt h)
    · exact .some h
  · split
    · exact KeptOpt.ite_of (.some h) (.some (kept_tidy (kept_modCore (kept_dropOut (kept_takePkt h)) (fun _ w => keptCore_pmcEvent w))))
    · exact .some (kept_takePkt h)
    · exact .some h
  · exact .some h

theorem kept_chanAgain {σ : State} {L c lo n : Nat} {data : Option (List Byte)} (h : Kept p σ) : Kept p (chanAgain σ L c lo n data).1 := by
  unfold chanAgain
  dsimp only
  split
  · exact kept_chanPut h
  refine kept_ite_of (kept_chanBlockMove h) ?_
  refine kept_ite_of (kept_chanPut h) ?_
  split
  · next e => exact kept_chanLand ((kept_unitRead h).along e)
  · next e => exact (kept_unitRead h).along e
  · next e => exact (kept_unitRead h).along e
  · next e => exact (kept_unitRead h).along e
  · next e => exact kept_chanFail ((kept_unitRead h).along e)

theorem kept_execDmaRetryGap {core : BitVec 13} {ch : BitVec 2} {i : Nat} {σ : State} (h : Kept p σ) :
    KeptOpt p (nextOf (execDmaRetryGap core ch i σ)) := by
  unfold execDmaRetryGap
  dsimp only
  refine KeptOpt.ite_of (.some h) ?_
  split
  · exact .some h
  split
  · next e => exact .some ((kept_chanAgain h).along e)
  · next e => exact .some (kept_tidy (kept_modChan ((kept_chanAgain h).along e)))

theorem kept_chanSignals {σ : State} {L : Nat} {d : List Word} (h : Kept p σ) : Kept p (chanSignals σ L d) :=
  kept_ite h (kept_ite (kept_sendSignal h) (kept_ite (kept_sendSignal h) h))

theorem kept_execDmaComplete {core : BitVec 13} {ch : BitVec 2} {σ : State} (h : Kept p σ) :
    KeptOpt p (nextOf (execDmaComplete core ch σ)) :=
  KeptOpt.ite_of (.some h) (.some (kept_tidy (kept_chanLeave
    (kept_modChan (kept_ite (kept_modCore (kept_chanSignals (kept_chanWriteBack h)) (fun _ w => keptCore_scAdd w))
      (kept_chanSignals (kept_chanWriteBack h)))))))

theorem kept_dmaOut {x : Issue} {ch : BitVec 2} {cmd : Nat} {σ : State} (h : Kept p σ) : KeptOpt p (nextOf (dmaOut x ch cmd σ)) :=
  kept_outTo h

/-! ### Cache commands -/

theorem kept_cmoOut {x : Issue} {v : Word} {op : Nat} {σ : State} (h : Kept p σ) : KeptOpt p (nextOf (cmoOut x v op σ)) := kept_outTo h

theorem kept_stackCount {σ : State} {h1 n k1 : Nat} (h : Kept p σ) : Kept p (stackCount σ h1 n k1) := by
  unfold stackCount
  exact h.of_eq

theorem kept_mscPut {σ : State} {line : Nat} (h : Kept p σ) : Kept p (mscPut σ line) := by
  unfold mscPut
  exact h.of_eq

theorem kept_mscRead {σ : State} {line : Nat} (h : Kept p σ) : Kept p (mscRead σ line) :=
  kept_ite (kept_stackCount h) (kept_mscPut (kept_stackCount h))

theorem kept_mscReads {σ : State} {a n : Nat} (h : Kept p σ) : Kept p (mscReads σ a n) := kept_foldl (fun _ _ h1 => kept_mscRead h1) h

theorem kept_homeLookup {σ : State} {h1 : Home} {n : Nat} (h : Kept p σ) : Kept p (homeLookup σ h1 n) := by
  unfold homeLookup
  split
  · exact kept_mscReads h
  · exact h

theorem kept_execVictim {i : Nat} {σ : State} (h : Kept p σ) : KeptOpt p (nextOf (execVictim i σ)) := by
  unfold execVictim
  split
  · exact KeptOpt.ite_of (.some h) (KeptOpt.ite_of (.some (kept_stackCount (kept_takePkt h)))
      (.some (kept_stackCount (kept_mscPut (kept_takePkt h)))))
  · exact .some h

/-! ### What the dispatcher, the window and the dictionary share -/

theorem kept_setDv {σ : State} {index sub v : Nat} (h : Kept p σ) : Kept p (setDv σ index sub v) := by
  unfold setDv
  exact h.of_eq

theorem kept_svcRead {σ : State} {h1 : Home} {n : Nat} (h : Kept p σ) : KeptEx p (fun x => Kept p x.1) (svcRead σ h1 n) := by
  unfold svcRead
  split
  · exact .of_error (kept_startRecall h)
  split
  · exact .of_ok (kept_homeLookup h)
  · exact .of_error h

theorem kept_svcWrite {σ : State} {h1 : Home} {data : List Byte} (h : Kept p σ) : KeptEx p (fun x => Kept p x) (svcWrite σ h1 data) := by
  unfold svcWrite
  split
  · exact .of_error (kept_startRecall h)
  split
  · exact .of_ok (kept_homePut h)
  · exact .of_error h

theorem kept_holdWake {σ : State} {c : Wake} (h : Kept p σ) : Kept p (holdWake σ c) := by
  unfold holdWake
  exact h.of_eq

theorem kept_patchBad {σ : State} {b : List Byte} {bad : List Nat} (h : Kept p σ) : Kept p (patchBad σ b bad).2 := kept_ite_of h h.of_eq

theorem kept_raiseVector {σ : State} {v : Nat} (h : Kept p σ) : Kept p (raiseVector σ v) := by
  unfold raiseVector
  exact h.of_eq

theorem kept_setOrder {σ : State} {o : Order} (h : Kept p σ) : Kept p (setOrder σ o) := by
  unfold setOrder
  exact h.of_eq

theorem kept_complete {σ : State} {o : Order} {status reason : Nat} {detail : Word} (h : Kept p σ) :
    Kept p (complete σ o status reason detail) :=
  kept_ite (kept_setOrder h).of_eq (kept_setOrder h)

/-! ### Translation, faults and shootdowns -/

theorem kept_walkReads {σ : State} {va n n1 n2 : Nat} (h : Kept p σ) : Kept p (walkReads σ va n n1 n2) := by
  induction n generalizing σ va n1 n2 with
  | zero => exact h
  | succ n ih =>
    rw [walkReads]
    exact kept_ite h (kept_ite (ih (kept_mscRead h)) (kept_mscRead h))

theorem kept_slotWalkFail {σ : State} {L s page r level : Nat} (h : Kept p σ) : Kept p (slotWalkFail σ L s page r level) := by
  unfold slotWalkFail
  dsimp only
  refine kept_ite h ?_
  split
  · exact h
  refine kept_ite (kept_slotFail h) ?_
  split
  · exact kept_ite (kept_modSlot h) h
  · exact h

theorem kept_chanWalkFail {σ : State} {L c page r level : Nat} (h : Kept p σ) : Kept p (chanWalkFail σ L c page r level) := by
  unfold chanWalkFail
  dsimp only
  refine kept_ite h ?_
  split
  · exact kept_chanFail h
  split
  · exact kept_chanFail (kept_dropOut h)
  · exact kept_ite h (kept_ite (kept_chanFail h) (kept_ite (kept_chanFail h) h))

theorem kept_walkWaiter {σ : State} {L page : Nat} {r : WalkR} {x : Waiter} (h : Kept p σ) : Kept p (walkWaiter σ L page r x) := by
  unfold walkWaiter
  split
  · refine kept_ite h ?_
    dsimp only
    split
    · exact kept_accessFault (kept_modT h (fun _ k => k.of_eq))
    · exact kept_modT h (fun _ k => k.of_eq)
  · split
    · exact kept_slotWalkFail h
    · exact h
  · split
    · exact kept_chanWalkFail h
    · exact h
  dsimp only
  split
  · exact kept_ite (kept_cmoResult h) h
  · exact h

theorem kept_execWalkComplete {core : BitVec 13} {i : Nat} {σ : State} (h : Kept p σ) : KeptOpt p (nextOf (execWalkComplete core i σ)) := by
  unfold execWalkComplete
  dsimp only
  refine KeptOpt.ite_of (.some h) ?_
  split
  · exact .some h
  split
  · exact .some (kept_startRecall h)
  · exact .some (kept_tidy (kept_foldl (fun _ _ h1 => kept_walkWaiter h1) (kept_ite (kept_walkReads (kept_setCore h.of_eq h.core.of_eq))
      (kept_setCore h.of_eq h.core.of_eq))))
  · exact KeptOpt.ite_of (.some h) (.some (kept_tidy (kept_foldl (fun _ _ h1 => kept_walkWaiter h1)
      (kept_ite (kept_walkReads (kept_setCore h.of_eq h.core.of_eq)) (kept_setCore h.of_eq h.core.of_eq)))))

theorem kept_faultPut {σ : State} {r : FaultRec} (h : Kept p σ) : KeptEx p (fun x => Kept p x) (faultPut σ r) := by
  unfold faultPut
  split
  · next e => exact .of_error ((kept_svcWrite h).error _ e)
  · next e => exact .of_ok (kept_raiseVector ((kept_svcWrite h).ok _ e).of_eq)

theorem kept_faultDrain {n : Nat} {σ : State} (h : Kept p σ) : Kept p (faultDrain n σ) := by
  induction n generalizing σ with
  | zero => exact h
  | succ n ih =>
    rw [faultDrain]
    split
    · exact h
    refine kept_ite h ?_
    split
    · next e => exact ih ((kept_faultPut h).ok _ e).of_eq
    · next e => exact (kept_faultPut h).error _ e

theorem kept_execFaultRecord {i : Nat} {σ : State} (h : Kept p σ) : KeptOpt p (nextOf (execFaultRecord i σ)) := by
  unfold execFaultRecord
  split
  · exact .some (kept_faultDrain (kept_takePkt h).of_eq)
  · exact .some h

theorem kept_faultReplySend {σ : State} {v : Word} (h : Kept p σ) : Kept p (faultReplySend σ v) :=
  kept_ite h (kept_ite (kept_sendTo h) (kept_ite (kept_sendTo h) h))

theorem kept_coreFaultReply {σ : State} {L src : Nat} {seq : BitVec 8} {pair : Pair} {abort : Bool} (h : Kept p σ) :
    Kept p (coreFaultReply σ L src seq pair abort) := by
  unfold coreFaultReply
  extract_lets _ _ c σ1
  have hc : KeptCore p c := keptCore_modThr h.core (fun _ k => k.of_eq)
  have hσ : Kept p σ1 := kept_cancelForward h
  exact kept_ite h (kept_ite (kept_ite h (kept_setCore h (keptCore_ite (keptCore_scAdd hc) hc)))
    (kept_ite h (kept_ite (kept_ite hσ (kept_ite (kept_chanEnter hσ) (kept_chanCmd hσ)))
      (kept_ite hσ (kept_ite (kept_slotEnter hσ) (kept_slotCmd hσ))))))

theorem kept_shootStart {σ : State} {v : Word} (h : Kept p σ) : Kept p (shootStart σ v) :=
  kept_ite (kept_raiseVector h.of_eq) (kept_foldl (fun _ _ h1 => kept_sendTo h1) h).of_eq

theorem kept_shootNext {n : Nat} {σ : State} (h : Kept p σ) : Kept p (shootNext n σ) := by
  induction n generalizing σ with
  | zero => exact h
  | succ n ih =>
    rw [shootNext]
    split
    · exact ih (kept_shootStart h.of_eq)
    · exact h

theorem kept_shootWrite {σ : State} {v : Word} (h : Kept p σ) : Kept p (shootWrite σ v) := kept_shootNext h.of_eq

theorem kept_shootLines {σ : State} {L lo n : Nat} (h : Kept p σ) : Kept p (shootLines σ L lo n) :=
  kept_foldl (fun _ _ h1 => kept_ite h1 (kept_modCore (kept_ite (kept_writeBack h1) h1) (fun _ w => w.of_eq)))
    (kept_modCore h (fun _ w => w.of_eq))

theorem kept_coreShoot {σ : State} {L lo n : Nat} (h : Kept p σ) : Kept p (coreShoot σ L lo n).1 := by
  unfold coreShoot
  extract_lets σ1 σ2 _ _
  have hσ : Kept p σ1 := kept_modCore h (fun _ w => w.of_eq)
  have hσ1 : Kept p σ2 := kept_shootLines hσ
  split
  · exact hσ
  · exact kept_ite_of hσ1 (kept_setCore hσ1 hσ1.core.of_eq)

theorem kept_execShootdown {i : Nat} {σ : State} (h : Kept p σ) : KeptOpt p (nextOf (execShootdown i σ)) := by
  unfold execShootdown
  split
  · refine KeptOpt.ite_of (.some h) ?_
    split
    · next e => exact .some (kept_tidy ((kept_coreShoot h).along e))
    · next e => exact .some (kept_tidy (kept_sendTo (kept_modCore (kept_takePkt ((kept_coreShoot h).along e)) (fun _ w => w.of_eq))))
  · exact KeptOpt.ite_of (.some h) (.some (kept_sendTo (kept_takePkt h).of_eq))
  · exact .some h

theorem kept_execShootdownAck {i : Nat} {σ : State} (h : Kept p σ) : KeptOpt p (nextOf (execShootdownAck i σ)) := by
  unfold execShootdownAck
  split
  · dsimp only
    split
    · exact .some (kept_takePkt h)
    split
    · exact .some (kept_shootNext (kept_raiseVector (kept_takePkt h).of_eq))
    · exact .some (kept_takePkt h).of_eq
  · exact .some h

/-! ### Channels, rings and press queues -/

theorem kept_commitMsg {σ : State} {L t : Nat} {dest : Word} {kind user : Nat} (h : Kept p σ) :
    Kept p (commitMsg σ L t dest kind user) := by
  unfold commitMsg
  extract_lets _ _ _ _
  refine kept_modCore h ?_
  intro _ w
  extract_lets c
  have hc : KeptCore p c := keptCore_modThr w (fun _ k => k.of_eq)
  exact keptCore_pmcEvent hc.of_eq

theorem kept_execChSend {x : Issue} {ra rb : BitVec 5} {σ : State} (h : Kept p σ) : KeptOpt p (nextOf (execChSend x ra rb σ)) := by
  unfold execChSend
  refine kept_issue h ?_
  intro _ _ _ h1
  dsimp only
  refine kept_ite_of h1 ?_
  split
  · exact h1
  · exact kept_ite_of h1 (kept_commitMsg h1)

theorem kept_homeChunk {σ : State} {L t : Nat} {mode : Mode} {va : Nat} (h : Kept p σ) : Kept p (homeChunk σ L t mode va).state := by
  unfold homeChunk
  extract_lets _
  refine kept_andThen (kept_resolve h) ?_
  intro _ _ h1
  extract_lets _ σ1 _ _
  have hσ : Kept p σ1 := kept_dcMeet h1
  refine kept_ite_of (kept_homeRead h1) ?_
  refine kept_ite_of hσ ?_
  split
  · exact kept_ite_of (kept_homeRead hσ) (kept_ite_of hσ (kept_writeBack (kept_setCore hσ hσ.core.of_eq)))
  · exact kept_homeRead hσ

theorem kept_senddChunk {L t : Nat} {σ : State} {i : Nat} (h : Kept p σ) : Kept p (senddChunk L t σ i).state :=
  kept_andThen (kept_homeChunk h) (fun _ _ h1 => kept_ite_of (kept_noteLocalUE h1) (kept_watch (kept_modT h1 (fun _ k => k.of_eq))))

theorem kept_senddRun {ra rb : BitVec 5} {start : Nat} {σ : State} {L t : Nat} (h : Kept p σ) :
    Kept p (senddRun ra rb start σ L t).state := by
  unfold senddRun
  dsimp only
  split
  · next e => exact kept_setProg ((kept_unitsFrom (fun _ _ h1 => kept_senddChunk h1) h).along e)
  · next e => exact kept_setProg ((kept_unitsFrom (fun _ _ h1 => kept_senddChunk h1) h).along e)
  · next e => exact kept_boundary (kept_setProg ((kept_unitsFrom (fun _ _ h1 => kept_senddChunk h1) h).along e))
  · next σ1 e =>
      have h4 : Kept p σ1 := (kept_unitsFrom (fun _ _ h1 => kept_senddChunk h1) h).along e
      exact kept_ite_of (kept_setProg h4) (kept_clearProg (kept_commitMsg (kept_modT h4 (fun _ k => k.of_eq))))

theorem kept_execChSendd {x : Issue} {ra rb : BitVec 5} {σ : State} (h : Kept p σ) : KeptOpt p (nextOf (execChSendd x ra rb σ)) := by
  unfold execChSendd
  refine kept_issue h ?_
  intro _ _ _ h1
  dsimp only
  refine kept_ite_of (kept_senddRun h1) ?_
  refine kept_ite_of h1 ?_
  refine kept_ite_of h1 ?_
  split
  · exact h1
  · exact kept_senddRun (kept_modT h1 (fun _ k => k.of_eq))

theorem keptCore_ringPop {c : Core} {r : Nat} (w : KeptCore p c) : KeptCore p (ringPop c r) := keptCore_ringWakes (keptCore_setRing w)

theorem kept_recvBody {ra : BitVec 5} {vd ring : BitVec 4} {nb : Bool} {σ : State} {L t : Nat} (h : Kept p σ) :
    Kept p (recvBody ra vd ring nb σ L t).state := by
  unfold recvBody
  dsimp only
  refine kept_ite_of h ?_
  refine kept_ite_of (kept_ite_of (kept_wg h) h) ?_
  split
  · exact kept_foldl (fun _ _ h1 => kept_noteSpadUE h1) h
  · exact kept_modCore (kept_modT (kept_wg (kept_spadMeet h)) (fun _ k => keptThread_setV k)) (fun _ w => keptCore_ringPop w)

theorem kept_execMessage {i : Nat} {σ : State} (h : Kept p σ) : KeptOpt p (nextOf (execMessage i σ)) := by
  unfold execMessage
  split
  · split
    · extract_lets σ1 c
      have taken : Kept p σ1 := kept_takePkt h
      split
      · next e => exact .some (kept_tidy ((KeptOpt.ite (kept_ringSink taken) .none).each _ e))
      · split
        · exact .some h
        · exact .some (kept_modCore taken (fun _ w => w.of_eq))
    · exact .some h
  · exact .some h

theorem kept_ringOut {x : Issue} {ring : BitVec 4} {v : Word} {σ : State} (h : Kept p σ) : KeptOpt p (nextOf (ringOut x ring v σ)) :=
  kept_outTo h

theorem kept_pressRead {σ : State} {L a n : Nat} (h : Kept p σ) : Kept p (pressRead σ L a n).state :=
  kept_ite_of (kept_spadMeet h) (kept_noteLocalUE h)

theorem kept_execChPress {x : Issue} {ra rb : BitVec 5} {σ : State} (h : Kept p σ) : KeptOpt p (nextOf (execChPress x ra rb σ)) := by
  unfold execChPress
  refine kept_issue h ?_
  intro _ _ _ h1
  dsimp only
  split
  · exact h1
  · exact kept_ite_of h1 (kept_ofAR (kept_pressRead h1) (fun _ _ h1 => kept_ite_of h1 (kept_watch (kept_modCore h1 (fun _ w => w.of_eq)))))

theorem kept_pressAsk {σ : State} {L t : Nat} {ra : BitVec 5} {w1 : Word} {op : PressOp} (h : Kept p σ) :
    Kept p (pressAsk σ L t ra w1 op).state :=
  kept_sendTo h

theorem kept_execChPcfg {x : Issue} {ra rb : BitVec 5} {σ : State} (h : Kept p σ) : KeptOpt p (nextOf (execChPcfg x ra rb σ)) := by
  unfold execChPcfg
  refine kept_issue h ?_
  intro _ _ _ h1
  refine kept_ite_of h1 ?_
  dsimp only
  split
  · exact h1
  · exact kept_ofAR (kept_pressRead h1) (fun _ _ h1 => kept_pressAsk (kept_watch h1))

theorem kept_execPressReply {i : Nat} {σ : State} (h : Kept p σ) : KeptOpt p (nextOf (execPressReply i σ)) := by
  unfold execPressReply
  split
  · dsimp only
    split
    · exact .some (kept_tidy (kept_wakeDone (kept_wg (kept_takePkt h))))
    · exact .some (kept_takePkt h)
  · exact .some h

theorem kept_execPressCtl {i : Nat} {σ : State} (h : Kept p σ) : KeptOpt p (nextOf (execPressCtl i σ)) := by
  unfold execPressCtl
  split
  · refine KeptOpt.ite_of (.some h) ?_
    dsimp only
    split
    · split
      · exact .some (kept_sendTo (kept_setPress (kept_takePkt h)))
      · exact .some (kept_sendTo (kept_takePkt h))
    · exact KeptOpt.ite_of (.some (kept_sendTo (kept_takePkt h))) (KeptOpt.ite_of (.some (kept_sendTo (kept_takePkt h)))
        (.some (kept_sendTo (kept_setPress (kept_takePkt h)))))
    · exact .some (kept_sendTo (kept_takePkt h))
  · exact .some h

theorem kept_execPressContrib {i : Nat} {σ : State} (h : Kept p σ) : KeptOpt p (nextOf (execPressContrib i σ)) := by
  unfold execPressContrib
  split
  · exact KeptOpt.ite_of (.some h) (KeptOpt.ite_of (.some (kept_setPress (kept_takePkt h)))
      (KeptOpt.ite_of (.some (kept_pressAll (kept_setPress (kept_takePkt h)))) (.some (kept_setPress (kept_takePkt h)))))
  · exact .some h

theorem kept_closePress {σ : State} {p1 : Pair} (h : Kept p σ) : Kept p (closePress σ p1) := by
  unfold closePress
  exact h.of_eq

/-! ### The Quince passes -/

theorem kept_setEng {σ : State} {h1 : Nat} {q : Engine} (h : Kept p σ) : Kept p (setEng σ h1 q) := by
  unfold setEng
  exact h.of_eq

theorem kept_modEng {σ : State} {h1 : Nat} {f : Engine → Engine} (h : Kept p σ) : Kept p (modEng σ h1 f) := kept_setEng h

theorem kept_engInstall {σ : State} {h1 : Nat} {e : Tlb} (h : Kept p σ) : Kept p (engInstall σ h1 e) := by
  unfold engInstall
  exact (kept_setEng h).of_eq

theorem kept_engXlate {σ : State} {h1 va : Nat} {write : Bool} (h : Kept p σ) : Kept p (engXlate σ h1 va write).state := by
  unfold engXlate
  dsimp only
  split
  · split
    · exact h
    · exact h
  split
  · exact kept_startRecall h
  · exact kept_ite (kept_walkReads h) h
  refine kept_ite_of (kept_ite (kept_walkReads h) h) ?_
  split
  · exact kept_engInstall (kept_ite (kept_walkReads h) h)
  · exact kept_engInstall (kept_ite (kept_walkReads h) h)

theorem kept_engLines {n : Nat} {σ : State} {n1 n2 : Nat} {b : Bool} (h : Kept p σ) : Kept p (engLines n σ n1 n2 b).state := by
  induction n generalizing σ n1 n2 b with
  | zero => exact h
  | succ n ih =>
    rw [engLines]
    refine kept_erThen (kept_engXlate h) ?_
    intro _ _ h1
    split
    · exact kept_startRecall h1
    · exact kept_erThen (ih h1) (fun _ _ h1 => h1)

theorem kept_engLoad {σ : State} {a n : Nat} (h : Kept p σ) : Kept p (engLoad σ a n).2 := kept_ite h h.of_eq

theorem kept_engLoads {l : List Nat} {σ : State} (h : Kept p σ) : Kept p (engLoads l σ).2 := by
  induction l generalizing σ with
  | nil => exact h
  | cons a r ih =>
    rw [engLoads]
    exact ih (kept_engLoad (kept_mscRead h))

theorem kept_engStores {l : List Nat} {l1 : List Byte} {σ : State} (h : Kept p σ) : Kept p (engStores l l1 σ) := by
  induction l generalizing l1 σ with
  | nil => exact h
  | cons a r ih =>
    rw [engStores]
    exact ih (kept_hbmWrite h)

theorem kept_engRead {n : Nat} {σ : State} {h1 va : Nat} (h : Kept p σ) : Kept p (engRead n σ h1 va).state :=
  kept_erThen (kept_engLines h) (fun _ as k => kept_engLoads (l := as) k)

theorem kept_engWrite {σ : State} {h1 va : Nat} {b : List Byte} (h : Kept p σ) : Kept p (engWrite σ h1 va b).state :=
  kept_erThen (kept_engLines h) (fun _ _ h1 => kept_engStores h1)

theorem kept_engLayers {σ : State} {h1 : Nat} (h : Kept p σ) : Kept p (engLayers σ h1).state :=
  kept_erThen (kept_engRead h) (fun _ _ h1 => h1)

theorem kept_engRecord {σ : State} {h1 r : Nat} (h : Kept p σ) : Kept p (engRecord σ h1 r).state :=
  kept_erThen (kept_engRead h) (fun _ _ h1 => h1)

theorem kept_engFrozen {σ : State} {h1 : Nat} {l : LRec} {b : Nat} (h : Kept p σ) : Kept p (engFrozen σ h1 l b).state :=
  kept_ite_of h (kept_erThen (kept_engRead h) (fun _ _ h1 => h1))

theorem kept_eng1Blocks {n : Nat} {σ : State} {n1 : Nat} {x : LRec} (h : Kept p σ) : Kept p (eng1Blocks n σ n1 x).state := by
  induction n generalizing σ n1 x with
  | zero => exact h
  | succ n ih =>
    rw [eng1Blocks]
    exact kept_ite_of h (kept_erThen (kept_engFrozen h) (fun _ _ h1 => kept_ite_of (ih (kept_modEng h1)) (kept_erThen (kept_engRead h1)
      (fun _ _ h1 => ih (kept_modEng h1)))))

theorem kept_eng1Layers {n : Nat} {σ : State} {n1 n2 : Nat} (h : Kept p σ) : Kept p (eng1Layers n σ n1 n2).state := by
  induction n generalizing σ n1 n2 with
  | zero => exact h
  | succ n ih =>
    rw [eng1Layers]
    exact kept_ite_of h (kept_erThen (kept_engRecord h) (fun _ _ h1 => kept_ite_of (ih (kept_modEng h1))
      (kept_ite_of h1 (kept_erThen (kept_eng1Blocks h1) (fun _ _ h1 => ih (kept_modEng h1))))))

theorem kept_engPass1 {σ : State} {h1 : Nat} (h : Kept p σ) : Kept p (engPass1 σ h1).state :=
  kept_erThen (kept_engLayers h) (fun _ _ h1 => kept_eng1Layers h1)

theorem kept_eng2Block {σ : State} {h1 : Nat} {l : LRec} {b : Nat} (h : Kept p σ) : Kept p (eng2Block σ h1 l b).state :=
  kept_erThen (kept_engRead h) (fun _ _ h2 => kept_erThen (kept_engRead h2) (fun _ _ h3 => kept_erThen (kept_engRead h3)
    (fun _ _ h4 => kept_erThen (kept_engRead h4) (fun _ _ h4 => kept_erThen (kept_engLines h4) (fun _ _ h3 => kept_erThen
      (kept_engLines h3) (fun _ _ h2 => kept_erThen (kept_engLines h2)
        (fun _ _ h1 => (kept_setEng (kept_engStores (kept_engStores (kept_engStores h1)))).of_eq)))))))

theorem kept_eng2Blocks {n : Nat} {σ : State} {n1 : Nat} {x : LRec} (h : Kept p σ) : Kept p (eng2Blocks n σ n1 x).state := by
  induction n generalizing σ n1 x with
  | zero => exact h
  | succ n ih =>
    rw [eng2Blocks]
    exact kept_ite_of h (kept_erThen (kept_engFrozen h) (fun _ _ h1 => kept_ite_of (ih (kept_modEng h1)) (kept_erThen (kept_eng2Block h1)
      (fun _ _ h1 => ih h1))))

theorem kept_engRule {σ : State} {h1 r : Nat} {l : LRec} (h : Kept p σ) : Kept p (engRule σ h1 r l).state :=
  kept_ite_of h (kept_erThen (kept_engLines h) (fun _ _ h2 => kept_erThen (kept_engLines h2) (fun _ _ h1 => kept_modEng
    (kept_engStores (kept_engStores h1)))))

theorem kept_eng2Layers {n : Nat} {σ : State} {n1 n2 : Nat} (h : Kept p σ) : Kept p (eng2Layers n σ n1 n2).state := by
  induction n generalizing σ n1 n2 with
  | zero => exact h
  | succ n ih =>
    rw [eng2Layers]
    exact kept_ite_of h (kept_erThen (kept_engRecord h) (fun _ _ h1 => kept_ite_of (ih (kept_modEng h1))
      (kept_ite_of h1 (kept_erThen (kept_engRule h1) (fun _ _ h2 => kept_erThen (kept_eng2Blocks h2) (fun _ _ h2 => kept_erThen
        (kept_engWrite h2) (fun _ _ h1 => ih (kept_modEng h1))))))))

theorem kept_engPass2 {σ : State} {h1 : Nat} (h : Kept p σ) : Kept p (engPass2 σ h1).state :=
  kept_erThen (kept_engLayers h) (fun _ _ h1 => kept_eng2Layers h1)

theorem kept_normDiscard {σ : State} (h : Kept p σ) : Kept p (normDiscard σ) := by
  unfold normDiscard
  exact (kept_ite (kept_setPress h) h).of_eq

theorem kept_setGlobalNorm {σ : State} {v : BitVec 32} (h : Kept p σ) : Kept p (setGlobalNorm σ v) := by
  unfold setGlobalNorm
  exact (kept_setDv h).of_eq

theorem kept_passStart {σ : State} {k1 pass : Nat} {w1 : List Word} {resume : Bool} (h : Kept p σ) :
    Kept p (passStart σ k1 pass w1 resume) :=
  kept_ite (kept_setPress (kept_foldl (fun _ _ h1 => kept_modEng h1)
    (kept_ite h.of_eq (kept_foldl (fun _ _ h1 => kept_ite (kept_modEng h1) h1) h.of_eq)))) (kept_foldl (fun _ _ h1 => kept_modEng h1)
      (kept_ite h.of_eq (kept_foldl (fun _ _ h1 => kept_ite (kept_modEng h1) h1) h.of_eq)))

theorem kept_passResume {σ : State} {k1 : Nat} {root : Word} (h : Kept p σ) : Kept p (passResume σ k1 root) :=
  kept_foldl (fun _ _ h1 => kept_modEng h1) h.of_eq

theorem kept_passIdle {σ : State} (h : Kept p σ) : Kept p (passIdle σ) := by
  unfold passIdle
  exact (kept_foldl (fun _ _ h1 => kept_modEng h1) h).of_eq

theorem kept_passBreak {σ : State} {status reason : Nat} (h : Kept p σ) : Kept p (passBreak σ status reason) := by
  unfold passBreak
  dsimp only
  split
  · exact kept_complete (kept_ite (kept_normDiscard (kept_passIdle h)) (kept_passIdle h).of_eq)
  · exact kept_ite (kept_normDiscard (kept_passIdle h)) (kept_passIdle h).of_eq

theorem kept_passPreempt {σ : State} (h : Kept p σ) : Kept p (passPreempt σ) := by
  unfold passPreempt
  dsimp only
  split
  · exact kept_complete (kept_passIdle h).of_eq
  · exact (kept_passIdle h).of_eq

theorem kept_engHold {σ : State} {h1 reason level va : Nat} {write : Bool} (h : Kept p σ) : Kept p (engHold σ h1 reason level va write) :=
  kept_sendTo (kept_setEng h)

theorem kept_engEnd {r : ER Unit} {h1 : Nat} {done : State → State} (h : Kept p r.state) (hdone : ∀ x1, Kept p x1 → Kept p (done x1)) :
    Kept p (engEnd r h1 done) := by
  unfold engEnd
  split
  · exact hdone _ h
  · exact h
  · exact kept_engHold h
  · exact kept_modEng h

theorem kept_passFaults {σ : State} (h : Kept p σ) : Kept p (passFaults σ) := kept_ite (kept_passBreak h) h

theorem kept_execPass1Partial {h1 : BitVec 5} {σ : State} (h : Kept p σ) : KeptOpt p (nextOf (execPass1Partial h1 σ)) :=
  KeptOpt.ite_of (.some (kept_passFaults (kept_engEnd (kept_engPass1 h) (fun _ h1 => kept_sendTo (kept_modEng h1))))) (.some h)

theorem kept_execNormDelivery {σ : State} (h : Kept p σ) : KeptOpt p (nextOf (execNormDelivery σ)) := by
  unfold execNormDelivery
  dsimp only
  refine KeptOpt.ite_of ?_ (.some h)
  split
  · exact .some (kept_complete (kept_passIdle (kept_ite (kept_setGlobalNorm (kept_setPress h).of_eq) (kept_setPress h).of_eq)))
  · exact .some (kept_passIdle (kept_ite (kept_setGlobalNorm (kept_setPress h).of_eq) (kept_setPress h).of_eq))

theorem kept_pass2Done {σ : State} (h : Kept p σ) : Kept p (pass2Done σ) := by
  unfold pass2Done
  dsimp only
  split
  · exact kept_complete (kept_setDv (kept_passIdle h)).of_eq
  · exact (kept_setDv (kept_passIdle h)).of_eq

theorem kept_execPass2End {σ : State} (h : Kept p σ) : KeptOpt p (nextOf (execPass2End σ)) :=
  KeptOpt.ite_of (.some (kept_ite (kept_pass2Done (kept_foldl (fun _ _ h1 => kept_ite (kept_engEnd (kept_engPass2 h1)
    (fun _ h1 => kept_modEng h1)) h1) h)) (kept_passFaults (kept_foldl (fun _ _ h2 => kept_ite (kept_engEnd (kept_engPass2 h2)
      (fun _ h1 => kept_modEng h1)) h2) h)))) (.some h)

theorem kept_execFaultReply {i : Nat} {σ : State} (h : Kept p σ) : KeptOpt p (nextOf (execFaultReply i σ)) := by
  unfold execFaultReply
  split
  · exact KeptOpt.ite_of (.some h) (.some (kept_tidy (kept_coreFaultReply (kept_takePkt h))))
  · exact KeptOpt.ite_of (.some h) (KeptOpt.ite_of (.some (kept_takePkt h))
      (KeptOpt.ite_of (.some (kept_passFaults (kept_setEng (kept_takePkt h)))) (.some (kept_setEng (kept_takePkt h)))))
  · exact .some h

/-! ### The hardware context -/

theorem kept_svcPlaces {σ : State} {root : Word} {write : Bool} {n n1 n2 : Nat} (h : Kept p σ) :
    KeptOpt p (svcPlaces σ root write n n1 n2).waits := by
  induction n generalizing σ root write n1 n2 with
  | zero =>
    rw [svcPlaces]
    exact .none
  | succ n ih =>
    rw [svcPlaces]
    refine KeptOpt.ite_of .none ?_
    split
    · exact .some (kept_startRecall h)
    · exact .none
    refine KeptOpt.ite_of .none ?_
    dsimp only
    refine KeptOpt.ite_of .none ?_
    split
    · exact .some (kept_startRecall h)
    split
    · exact .none
    · exact ih h

theorem kept_vaPlaces {σ : State} {root : Word} {write : Bool} {va n : Nat} (h : Kept p σ) : KeptOpt p (vaPlaces σ root write va n).waits :=
  kept_svcPlaces h

theorem kept_placesLookup {σ : State} {ps : List (Home × Nat)} (h : Kept p σ) : Kept p (placesLookup σ ps) :=
  kept_foldl (fun _ _ h1 => kept_homeLookup h1) h

theorem kept_placesPut {l : List (Home × Nat)} {n : Nat} {l1 : List Byte} {l2 : List Nat} {σ : State} (h : Kept p σ) :
    Kept p (placesPut l n l1 l2 σ) := by
  induction l generalizing n l1 l2 σ with
  | nil => exact h
  | cons a r ih =>
    rw [placesPut]
    exact ih (kept_homePut h)

theorem kept_partsPut {root : Word} {base : Nat} {l : List (Nat × List Byte × List Nat)} {σ : State} (h : Kept p σ) :
    KeptEx p (fun x => Kept p x) (partsPut root base l σ) := by
  induction l generalizing root base σ with
  | nil =>
    rw [partsPut]
    exact .of_ok h
  | cons a r ih =>
    rw [partsPut]
    split
    · next e => exact .of_error (((kept_vaPlaces h).along e).each _ rfl)
    · exact ih h
    · exact ih (kept_placesPut h)

theorem kept_imageWrite {o : Order} {σ : State} {L : Nat} (h : Kept p σ) : KeptEx p (fun x => Kept p x) (imageWrite o σ L) := by
  -- Opened as a function: the equation of its application would have the kernel evaluate an image.
  generalize opened : imageWrite = f
  delta imageWrite at opened
  subst opened
  beta_reduce
  extract_lets root base
  split
  · next e => exact .of_error ((kept_partsPut h).error _ e)
  · next e => exact .of_ok (kept_ctxSide ((kept_partsPut h).ok _ e))

theorem imagesWrite_eq_foldlM : imagesWrite = fun o l σ => l.foldlM (imageWrite o) σ := by
  -- The writer of one image becomes a variable before anything is reduced, again to keep the kernel from evaluating it.
  delta imagesWrite
  generalize opened : imagesWrite._f = f
  delta imagesWrite._f at opened
  obtain ⟨w, writer⟩ : ∃ w, w = imageWrite := ⟨_, rfl⟩
  rw [← writer] at opened ⊢
  subst opened
  funext o l σ
  induction l generalizing σ with
  | nil => rfl
  | cons L r ih =>
    rw [List.foldlM_cons]
    refine Eq.trans ?_ (bind_congr (fun _ => ih _))
    dsimp only
    cases w o σ L with
    | error s => rfl
    | ok s => rfl

theorem kept_imagesWrite {o : Order} {l : List Nat} {σ : State} (h : Kept p σ) : KeptEx p (fun x => Kept p x) (imagesWrite o l σ) := by
  rw [imagesWrite_eq_foldlM]
  exact keptEx_foldlM (fun _ _ h1 => kept_imageWrite h1) h

theorem kept_imageRead {σ : State} {root : Word} {base : Nat} (h : Kept p σ) :
    KeptEx p (fun x => ∀ y, x = some y → Kept p y.2) (imageRead σ root base) := by
  have waits {write : Bool} {va n : Nat} {s : State} (e : vaPlaces σ root write va n = .wait s) : Kept p s :=
    ((kept_vaPlaces h).along e).each _ rfl
  have none_kept : ∀ y : Image' × State, none = some y → Kept p y.2 := fun _ e => nomatch e
  have some_kept {x : Image'} {s : State} (k : Kept p s) : ∀ y, some (x, s) = some y → Kept p y.2 := fun _ e => Option.some.inj e ▸ k
  rw [imageRead]
  split
  · next e => exact .of_error (waits e)
  · exact .of_ok none_kept
  extract_lets r q w
  have patched : Kept p q.2 := kept_patchBad (kept_placesLookup h)
  split
  · next e => exact .of_error (waits e)
  · exact .of_ok none_kept
  extract_lets ovf σ1
  have looked : Kept p σ1 := kept_placesLookup patched
  split
  · exact .of_ok (some_kept looked)
  split
  · next e => exact .of_error (waits e)
  · exact .of_ok none_kept
  · exact .of_ok (some_kept (kept_placesLookup looked))

theorem keptThread_restoreBlock {h : Thread} {i : Image'} {t : Nat} {fpc : Word} : KeptThread p (restoreBlock h i t fpc) :=
  ⟨keptList_mapOf, keptList_mapOf⟩

theorem kept_restoreCore {σ : State} {L : Nat} {i : Image'} {base : Nat} {root : Word} (h : Kept p σ) :
    Kept p (restoreCore σ L i base root) := by
  unfold restoreCore
  extract_lets c pr σ1 σ2 σ3 _ σ4 σ5 σ6 σ7
  have h1 : Kept p σ1 := by
    unfold σ1
    split
    · exact kept_spadWriteBad h
    · exact h
  have h3 : Kept p σ3 := kept_foldl (fun _ _ k => kept_ioWriteThr k) (kept_foldl (fun _ _ k => kept_ioWriteThr k) h1)
  have h4 : Kept p σ4 := kept_modCore h3 (fun _ w => ⟨w.thr, keptList_mapOf, keptList_mapOf, keptList_mapOf, w.mem⟩)
  have h5 : Kept p σ5 :=
    kept_modCore h4 (fun _ w => keptCore_foldl (fun _ _ w => keptCore_setThr w keptThread_restoreBlock.of_eq) w)
  have h6 : Kept p σ6 := kept_foldl (fun s _ k => by
    dsimp only
    split
    · exact (kept_ringSink (kept_modCore k (fun _ w => keptCore_setRing w))).getD k
    · exact k) h5
  have h7 : Kept p σ7 := kept_foldl (fun s _ k => by
    split
    · next e => exact (kept_ringSink k).each _ e
    · exact kept_modCore k (fun _ w => w.of_eq)) h6
  exact kept_foldl (fun s _ k => kept_ite (kept_forwardThread k) k) h7

/-! ### Homes, recalls, errors and drops -/

theorem kept_stackDegrade {σ : State} {h1 : Nat} (h : Kept p σ) : Kept p (stackDegrade σ h1) := kept_ite h (kept_errRecord h.of_eq)

theorem kept_rowRepair {σ : State} {a row : Nat} {ue : Bool} (h : Kept p σ) : Kept p (rowRepair σ a row ue) :=
  kept_ite (kept_stackDegrade h) (kept_errRecord h.of_eq)

theorem kept_hbmCodeword {σ : State} {a : Nat} {ue : Bool} (h : Kept p σ) : Kept p (hbmCodeword σ a ue) :=
  kept_ite (kept_rowRepair (kept_ite (kept_errRecord (kept_stackCount h)) (kept_stackCount h)).of_eq)
    (kept_ite (kept_stackDegrade (kept_ite (kept_errRecord (kept_stackCount h)) (kept_stackCount h)).of_eq)
      (kept_ite (kept_errRecord (kept_stackCount h)) (kept_stackCount h)).of_eq)

theorem kept_hbmFatal {σ : State} {l : Nat} (h : Kept p σ) : Kept p (hbmFatal σ l) := kept_hbmCodeword h.of_eq

theorem kept_hbmServe {σ : State} {a n : Nat} {ecc : Ecc} (h : Kept p σ) : Kept p (hbmServe σ a n ecc) :=
  kept_foldl (fun _ _ h1 => kept_hbmFatal h1) (kept_foldl (fun _ _ h1 => kept_hbmCodeword h1) (kept_mscReads h))

theorem kept_recallHold {σ : State} {i line : Nat} {inv : Bool} {p1 : Packet} (h : Kept p σ) : Kept p (recallHold σ i line inv p1) :=
  kept_startRecall (kept_takePkt h)

theorem kept_execHbmRead {i : Nat} {ecc : Ecc} {σ : State} (h : Kept p σ) : KeptOpt p (nextOf (execHbmRead i ecc σ)) := by
  unfold execHbmRead
  split
  · refine KeptOpt.ite_of (.some h) ?_
    dsimp only
    refine KeptOpt.ite_of (.some (kept_sendTo (kept_takePkt h))) ?_
    split
    · exact .some (kept_recallHold h)
    · exact .some (kept_sendTo (kept_hbmServe (kept_takePkt h)))
  · exact .some h

theorem kept_execHbmWrite {i : Nat} {σ : State} (h : Kept p σ) : KeptOpt p (nextOf (execHbmWrite i σ)) := by
  unfold execHbmWrite
  split
  · refine KeptOpt.ite_of (.some h) ?_
    dsimp only
    refine KeptOpt.ite_of (.some (kept_sendTo (kept_takePkt h))) ?_
    split
    · exact .some (kept_recallHold h)
    refine .some ?_
    refine kept_sendTo ?_
    split
    · exact kept_ite (kept_homePutRuns (kept_takePkt h)) (kept_mscPut (kept_homePutRuns (kept_takePkt h)))
    · exact kept_homePutRuns (kept_takePkt h)
  · exact .some h

theorem kept_amoAt {σ : State} {h1 : Home} {op : AmoOp} {eight : Bool} {a b : Word} (h : Kept p σ) : Kept p (amoAt σ h1 op eight a b).1 :=
  kept_ite_of h (kept_homePut h)

theorem kept_amoMeet {σ : State} {h1 : Home} {n : Nat} (h : Kept p σ) : Kept p (amoMeet σ h1 n) := by
  unfold amoMeet
  split
  · exact kept_spadMeet h
  · exact kept_mscRead h
  · exact h

theorem kept_execAtomicAtHome {i : Nat} {σ : State} (h : Kept p σ) : KeptOpt p (nextOf (execAtomicAtHome i σ)) := by
  unfold execAtomicAtHome
  split
  · split
    · exact KeptOpt.ite_of (.some h) (.some (kept_sendTo (kept_ite (kept_noteSpadUE (kept_amoAt (kept_amoMeet (kept_takePkt h))))
        (kept_amoAt (kept_amoMeet (kept_takePkt h))))))
    · refine KeptOpt.ite_of (.some h) ?_
      refine KeptOpt.ite_of (.some (kept_sendTo (kept_takePkt h))) ?_
      split
      · exact .some (kept_recallHold h)
      · exact .some (kept_sendTo (kept_amoAt (kept_amoMeet (kept_takePkt h))))
    · exact .some h
  · exact .some h

theorem kept_execRecallAnswer {h1 : BitVec 5} {line : Nat} {data : Option (List Byte)} {σ : State} (h : Kept p σ) :
    KeptOpt p (nextOf (execRecallAnswer h1 line data σ)) := by
  unfold execRecallAnswer
  split
  · exact .some h
  refine KeptOpt.ite_of (.some h) ?_
  extract_lets _ σ1 _ _
  have hσ : Kept p σ1 := by
    dsimp only [σ1]
    split
    · exact kept_ite (kept_hbmWrite h) h
    · exact h
  exact .some hσ.of_eq

theorem kept_chanBus {σ : State} {L c lo n : Nat} {data : Option (List Byte)} {reason : Nat} (h : Kept p σ) :
    Kept p (chanBus σ L c lo n data reason) :=
  kept_ite (kept_chanFail h) (kept_modChan h)

theorem kept_errorAnswer {σ : State} {L id reason : Nat} (h : Kept p σ) : Kept p (errorAnswer σ L id reason) := by
  unfold errorAnswer
  split
  · exact h
  extract_lets σ1
  have hσ : Kept p σ1 := kept_dropOut h
  split
  · exact kept_loadFault hσ
  · exact kept_loadFault hσ
  · exact kept_loadFault hσ
  · exact kept_loadFault hσ
  · exact kept_loadFault hσ
  · exact kept_loadFault hσ
  · exact kept_loadFault hσ
  · exact kept_loadFault hσ
  · exact kept_loadFault hσ
  · next l _ => exact kept_lockFill hσ
  · exact hσ
  · exact kept_modCore hσ (fun _ w => w.of_eq)
  · exact kept_modCore hσ (fun _ w => w.of_eq)
  · exact kept_ite (kept_modSlot hσ) (kept_slotLose hσ)
  · exact kept_chanBus hσ

theorem kept_execErrorResp {i : Nat} {σ : State} (h : Kept p σ) : KeptOpt p (nextOf (execErrorResp i σ)) := by
  unfold execErrorResp
  split
  · refine KeptOpt.ite_of (.some h) ?_
    split
    · exact .some (kept_tidy (kept_errorAnswer (kept_takePkt h)))
    · exact .some (kept_takePkt h)
  · exact .some h

theorem kept_dropRemote {σ : State} {L : Nat} {u : Eng} {pos reason : Nat} (h : Kept p σ) : Kept p (dropRemote σ L u pos reason) := by
  unfold dropRemote
  split
  · dsimp only
    split
    · exact kept_ite h (kept_ite (kept_slotFail h) (kept_ite (kept_modSlot h) h))
    · exact h
  dsimp only
  refine kept_ite h ?_
  refine kept_ite ?_ (kept_ite (kept_chanWriteBack (kept_modChan h)) h)
  split
  · exact kept_ite (kept_chanBus h) (kept_modChan (kept_chanBus h))
  · exact h

theorem kept_execDropNotice {i : Nat} {σ : State} (h : Kept p σ) : KeptOpt p (nextOf (execDropNotice i σ)) := by
  unfold execDropNotice
  split
  · refine KeptOpt.ite_of (.some h) ?_
    extract_lets σ1
    have hσ : Kept p σ1 := kept_takePkt h
    split
    · refine KeptOpt.ite_of (.some (kept_tidy (kept_dropRemote hσ))) ?_
      split
      · exact .some (kept_tidy (kept_slotFail hσ))
      extract_lets _
      exact .some (kept_tidy (kept_chanFail hσ))
    · split
      · exact .some (kept_tidy (kept_errorAnswer hσ))
      · exact .some (kept_ite (kept_netDrop hσ) hσ)
    · exact .some hσ
  · exact .some h

theorem kept_dropPacket {σ : State} {p1 : Packet} {reason : Nat} (h : Kept p σ) : Kept p (dropPacket σ p1 reason) := by
  unfold dropPacket
  refine kept_pressAll ?_
  split
  · exact kept_sendTo h
  · exact h

theorem kept_execPacketAged {i : Nat} {σ : State} (h : Kept p σ) : KeptOpt p (nextOf (execPacketAged i σ)) := by
  unfold execPacketAged
  split
  · exact KeptOpt.ite_of (.some (kept_dropPacket (kept_takePkt h))) (.some h)
  split
  · exact KeptOpt.ite_of (.some (kept_tidy (kept_dropPacket (kept_modCore h (fun _ w => w.of_eq))))) (.some h)
  · exact .some h

/-! ### The fabric's ports -/

theorem kept_setPort {σ : State} {p1 : Nat} {q : Port} (h : Kept p σ) : Kept p (setPort σ p1 q) := by
  unfold setPort
  exact h.of_eq

theorem kept_fabNoCore {σ : State} {k1 : Packet} (h : Kept p σ) : Kept p (fabNoCore σ k1) := by
  unfold fabNoCore
  dsimp only
  split
  · split
    · exact kept_sendTo (kept_fabDrop h)
    · exact kept_fabDrop h
  · split
    · exact kept_sendTo (kept_fabDrop h)
    · exact kept_fabDrop h
  · split
    · exact kept_sendTo (kept_fabDrop h)
    · exact kept_fabDrop h
  · split
    · exact kept_sendTo (kept_fabDrop h)
    · exact kept_fabDrop h
  · exact kept_fabDrop h

theorem kept_fabArrive {σ : State} {k1 : Packet} (h : Kept p σ) : Kept p (fabArrive σ k1) := by
  unfold fabArrive
  split
  · exact kept_inject h
  dsimp only
  split
  · exact kept_ite (kept_inject h) (kept_fabNoCore h)
  · exact kept_ite (kept_inject h) (kept_fabNoCore h)
  · exact kept_inject h

theorem kept_fabAged {σ : State} {k1 : Packet} (h : Kept p σ) : Kept p (fabAged σ k1) := by
  unfold fabAged
  dsimp only
  split
  · exact kept_sendTo (kept_fabDrop h)
  · exact kept_fabDrop h

theorem kept_portReport {σ : State} {p1 : Nat} {seq : BitVec 12} (h : Kept p σ) : Kept p (portReport σ p1 seq) :=
  kept_ite h (kept_foldl (fun _ _ h1 => kept_sendPk h1) (kept_setPort h))

theorem kept_fabAccept {σ : State} {x : FabPart} {k1 : Packet} (h : Kept p σ) : Kept p (fabAccept σ x k1) := by
  unfold fabAccept
  split
  · exact kept_portReport h
  · exact kept_ite (kept_fabAged h) (kept_ite (kept_fabArrive h) (kept_fabSend h))

theorem kept_fabParts {σ : State} {port : Nat} {xs : List FabPart} (h : Kept p σ) : Kept p (fabParts σ port xs) := by
  unfold fabParts
  refine kept_foldl ?_ h
  intro _ _ h1
  dsimp only
  split
  · exact kept_fabAccept (kept_setPort h1)
  · exact kept_setPort h1

theorem kept_portGo {σ : State} {p1 : Nat} (h : Kept p σ) : Kept p (portGo σ p1) := kept_setPort h

theorem kept_execFabricFrame {port : Nat} {f : FabFrame} {σ : State} (h : Kept p σ) : KeptOpt p (nextOf (execFabricFrame port f σ)) := by
  unfold execFabricFrame
  dsimp only
  refine KeptOpt.ite_of (.some (kept_holdWake h)) ?_
  refine KeptOpt.ite_of (.some h) ?_
  refine KeptOpt.ite_of (.some (kept_setPort h)) ?_
  refine KeptOpt.ite_of (.some (kept_fabDrop (kept_setPort h))) ?_
  split
  · exact .some (kept_portGo (kept_setPort h))
  · exact KeptOpt.ite_of (.some (kept_portGo (kept_setPort h))) (.some (kept_portGo (kept_fabParts (kept_setPort h))))
  · exact .some (kept_portGo (kept_setPort h))

theorem kept_execReplayTimeout {port : Nat} {σ : State} (h : Kept p σ) : KeptOpt p (nextOf (execReplayTimeout port σ)) := by
  unfold execReplayTimeout
  dsimp only
  split
  · exact KeptOpt.ite_of (.some (kept_setPort h)) (.some h)
  · exact .some h

theorem kept_execFabricPacketAged {port i : Nat} {σ : State} (h : Kept p σ) : KeptOpt p (nextOf (execFabricPacketAged port i σ)) := by
  unfold execFabricPacketAged
  dsimp only
  split
  · exact KeptOpt.ite_of (.some (kept_fabAged (kept_setPort h))) (.some h)
  · exact .some h

theorem kept_sendReport {σ : State} {p1 : Nat} (h : Kept p σ) : Kept p (sendReport σ p1) := by
  unfold sendReport
  dsimp only
  split
  · exact kept_portPush h
  · exact h

theorem kept_portLoss {σ : State} {p1 : Nat} (h : Kept p σ) : Kept p (portLoss σ p1) :=
  kept_ite h (kept_ite (kept_foldl (fun _ _ h1 => kept_sendPk h1) (kept_setPort (kept_errRecord (kept_sendReport (kept_setPort h)))))
    (kept_errRecord (kept_sendReport (kept_setPort h))))

theorem kept_execPortSeqTimeout {port : Nat} {σ : State} (h : Kept p σ) : KeptOpt p (nextOf (execPortSeqTimeout port σ)) := by
  unfold execPortSeqTimeout
  dsimp only
  refine KeptOpt.ite_of (.some h) ?_
  refine .some ?_
  refine kept_foldl ?_ (kept_setPort h)
  intro _ _ h1
  split
  · exact kept_sendTo (kept_fabDrop h1)
  · exact kept_fabDrop h1

/-! ### The dispatcher -/

theorem kept_sqTailWrite {σ : State} {r : Nat} {v : Word} (h : Kept p σ) : Kept p (sqTailWrite σ r v) := kept_ite h.of_eq h

theorem kept_cqHeadWrite {σ : State} {c : Nat} {v : Word} (h : Kept p σ) : Kept p (cqHeadWrite σ c v) := kept_ite h.of_eq h

theorem kept_doorbellWrite {σ : State} {v : Word} (h : Kept p σ) : Kept p (doorbellWrite σ v) :=
  kept_ite (kept_tidy (kept_modT h (fun _ k => k.of_eq))) h

theorem kept_execOrderFetch {r : BitVec 8} {σ : State} (h : Kept p σ) : KeptOpt p (nextOf (execOrderFetch r σ)) := by
  unfold execOrderFetch
  dsimp only
  refine KeptOpt.ite_of (.some h) ?_
  split
  · next e => exact .some ((kept_svcRead h).error _ e)
  · next e => exact .some (kept_patchBad ((kept_svcRead h).ok _ e)).of_eq

theorem kept_journalRec {σ : State} {step kind comp attempt result : Nat} {detail : Word} {dur : Nat} (h : Kept p σ) :
    Kept p (journalRec σ step kind comp attempt result detail dur) := by
  unfold journalRec
  exact h.of_eq

theorem kept_wordsReplaced {σ : State} {p1 : Nat} (h : Kept p σ) : Kept p (wordsReplaced σ p1) := by
  unfold wordsReplaced
  exact h.of_eq

theorem kept_resetCore {σ : State} {L : Nat} (h : Kept p σ) : Kept p (resetCore σ L) := by
  unfold resetCore
  refine kept_modCore (kept_wordsReplaced (kept_closeWins h)) (fun c _ => ?_)
  exact ⟨keptThreads_nil, keptList_nil, keptList_nil, keptList_nil, keptBytes_nil⟩

theorem kept_retireEffect {σ : State} {L : Nat} (h : Kept p σ) : Kept p (retireEffect σ L) := by
  unfold retireEffect
  dsimp only
  refine kept_ite h ?_
  split
  · exact h
  · exact kept_errRecord (kept_modCore (kept_resetCore (kept_mapCommit (kept_setMap (kept_setMap h))).of_eq) (fun _ w => w.of_eq))

theorem kept_retestEnd {σ : State} {L : Nat} {pass : Bool} (h : Kept p σ) : Kept p (retestEnd σ L pass) :=
  kept_ite (kept_resetCore h) (kept_ite (kept_markRetire (kept_journalRec (kept_resetCore h))) (kept_journalRec (kept_resetCore h)))

theorem kept_noteStop {σ : State} {L sub : Nat} (h : Kept p σ) : Kept p (noteStop σ L sub) :=
  kept_ite (kept_errRecord h) (kept_ite (kept_markRetire (kept_errRecord h).of_eq) (kept_errRecord h).of_eq)

theorem kept_taskCore {σ : State} {o : Order} {L : Nat} (h : Kept p σ) : Kept p (taskCore σ o L) := by
  unfold taskCore
  refine kept_modCore (kept_closeWins (kept_retireEffect h)) (fun c w => ?_)
  exact ⟨keptThreads_map w.thr (fun _ k => (keptThread_killedThread k).of_eq), keptList_nil, keptList_nil, keptList_map
    (fun _ => rfl) w.rings, w.mem⟩

theorem kept_spadClear {σ : State} {L : Nat} (h : Kept p σ) : Kept p (spadClear σ L) :=
  kept_wordsReplaced (kept_modCore h (fun _ w => ⟨w.thr, w.slots, w.chans, w.rings, keptBytes_nil⟩))

theorem kept_launchCore {o : Order} {σ : State} {L : Nat} (h : Kept p σ) : Kept p (launchCore o σ L) := by
  unfold launchCore
  extract_lets σ1 σ2
  have cleared : Kept p σ2 := by
    dsimp only [σ2]
    split
    · exact kept_spadClear (kept_taskCore h)
    · exact kept_taskCore h
  refine kept_modCore cleared (fun c w => keptCore_setThr w.of_eq ?_)
  iterate 5 refine keptThread_setG ?_
  exact ⟨(keptThread_startedThread (keptThread_getThr w)).regs, keptList_nil⟩

theorem kept_imagesRead {root : Word} {ctx : Nat} {l : List Nat} {σ : State} (h : Kept p σ) :
    KeptEx p (fun x => Kept p x.2) (imagesRead root ctx l σ) := by
  induction l generalizing σ with
  | nil => exact .of_ok h
  | cons j r ih =>
    have read := kept_imageRead (root := root) (base := ctx + j * ctxArea) h
    rw [imagesRead]
    split
    · next e => exact .of_error (read.error _ e)
    · exact .of_ok h
    · next i s e =>
      have rest := ih (show Kept p s from read.ok _ e _ rfl)
      split
      · next e => exact .of_error (rest.error _ e)
      · next e => have k := rest.ok _ e; exact .of_ok k
      · next e => have k := rest.ok _ e; exact .of_ok k

theorem kept_commandCores {σ : State} {o : Order} {cmd : CoreCmd} (h : Kept p σ) : Kept p (commandCores σ o cmd) :=
  kept_foldl (fun _ _ h1 => kept_sendTo h1) (kept_setOrder h)

theorem kept_retests {σ : State} {o : Order} (h : Kept p σ) : Kept p (retests σ o) := kept_foldl (fun _ _ h1 => kept_retestEnd h1) h

theorem kept_preemptDone {σ : State} {o : Order} (h : Kept p σ) : Kept p (preemptDone σ o) := by
  unfold preemptDone
  split
  · split
    · exact kept_ite (kept_complete h) h
    · exact h
  · exact h

theorem keptCore_coreFree {c : Core} (w : KeptCore p c) : KeptCore p (coreFree c) :=
  ⟨keptThreads_map w.thr (fun _ k => keptThread_killedThread k), w.slots, w.chans, w.rings, w.mem⟩

theorem kept_finishStop {σ : State} {o : Order} (h : Kept p σ) : KeptEx p (fun x => Kept p x) (finishStop σ o) := by
  unfold finishStop
  extract_lets _ free _
  have hfree : ∀ x, Kept p x → Kept p (free x) := fun _ h1 => kept_foldl (fun _ _ h1 => kept_ite
    (kept_modCore h1 (fun _ w => keptCore_coreFree w)) h1) h1
  split
  · next e =>
      split
      · next e => exact .of_error ((kept_imagesWrite h).error _ e)
      · next e => exact .of_ok (kept_preemptDone (kept_complete (hfree _ (kept_closePress ((kept_imagesWrite h).ok _ e)))))
  · exact .of_ok (kept_retests (kept_preemptDone (kept_complete (hfree _ (kept_closePress h)))))

theorem kept_stopOrder {σ : State} {o : Order} {status reason : Nat} {detail : Word} (h : Kept p σ) :
    Kept p (stopOrder σ o status reason detail) := by
  unfold stopOrder
  dsimp only
  split
  · refine kept_ite ?_ (kept_commandCores (kept_setOrder h))
    split
    · next e => exact (kept_finishStop (kept_commandCores (kept_setOrder h))).ok _ e
    · next e => exact (kept_finishStop (kept_commandCores (kept_setOrder h))).error _ e
  · exact kept_commandCores (kept_setOrder h)

theorem kept_preemptTask {σ : State} {o : Order} {p1 : Nat} {save : Bool} (h : Kept p σ) : Kept p (preemptTask σ o p1 save) :=
  kept_commandCores (kept_closePress (kept_setOrder h))

theorem kept_setStation {σ : State} {s : Nat} {x : Station} (h : Kept p σ) : Kept p (setStation σ s x) := by
  unfold setStation
  exact h.of_eq

theorem kept_sendPiece {σ : State} {m station : Nat} {p1 : Pair} {piece : Nat} {vs : List (BitVec 32)} {sum : Bool} (h : Kept p σ) :
    Kept p (sendPiece σ m station p1 piece vs sum) :=
  kept_sendTo h

theorem kept_reduceEnd {σ : State} {o : Order} {status : Nat} (h : Kept p σ) : Kept p (reduceEnd σ o status) :=
  kept_complete (kept_ite (kept_setStation h) h)

theorem kept_reduceStart {σ : State} {o : Order} (h : Kept p σ) : KeptEx p (fun x => Kept p x) (reduceStart σ o) := by
  unfold reduceStart
  dsimp only
  split
  · exact .of_ok (kept_foldl (fun _ _ h1 => kept_sendPiece h1) (kept_ite (kept_setStation h) h))
  split
  · next e => exact .of_error (((kept_vaPlaces h).along e).each _ rfl)
  · exact .of_ok (kept_reduceEnd h)
  · exact .of_ok (kept_foldl (fun _ _ h1 => kept_sendPiece h1) (kept_ite (kept_setStation (kept_patchBad (kept_placesLookup h)))
      (kept_patchBad (kept_placesLookup h))))

theorem kept_stationAdd {σ : State} {s m piece : Nat} {p1 : Pair} {vs : List (BitVec 32)} (h : Kept p σ) :
    Kept p (stationAdd σ s m piece p1 vs) :=
  kept_ite h (kept_ite (kept_setStation h) (kept_foldl (fun _ _ h1 => kept_sendPiece h1) (kept_setStation h)))

theorem kept_reduceSum {σ : State} {o : Order} {piece : Nat} {vs : List (BitVec 32)} (h : Kept p σ) :
    KeptEx p (fun x => Kept p x) (reduceSum σ o piece vs) := by
  unfold reduceSum
  split
  · exact .of_ok h
  dsimp only
  split
  · exact .of_ok (kept_ite (kept_setOrder (kept_setGlobalNorm h)) (kept_reduceEnd (kept_setGlobalNorm h)))
  split
  · next e => exact .of_error (((kept_vaPlaces h).along e).each _ rfl)
  · exact .of_ok (kept_reduceEnd h)
  · exact .of_ok (kept_ite (kept_setOrder (kept_placesPut h)) (kept_reduceEnd (kept_placesPut h)))

theorem kept_execReducePiece {k1 piece src : Nat} {elems : List (BitVec 32)} {sum : Bool} {σ : State} (h : Kept p σ) :
    KeptOpt p (nextOf (execReducePiece k1 piece src elems sum σ)) := by
  unfold execReducePiece
  split
  · exact .some h
  dsimp only
  split
  · exact .some h
  refine KeptOpt.ite_of ?_ (KeptOpt.ite_of (.some (kept_stationAdd (kept_takePkt h))) (.some h))
  split
  · next e => exact .some ((kept_reduceSum h).error _ e)
  refine .some ?_
  split
  · next e => exact (kept_reduceSum (kept_takePkt h)).ok _ e
  · next e => exact (kept_reduceSum (kept_takePkt h)).error _ e

theorem kept_copyRun {σ : State} {o : Order} (h : Kept p σ) : KeptEx p (fun x => Kept p x) (copyRun σ o) := by
  unfold copyRun
  dsimp only
  split
  · exact .of_ok (kept_complete h)
  split
  · exact .of_ok (kept_complete h)
  split
  · next e => exact .of_error ((kept_svcRead h).error _ e)
  · next σ1 b bad e =>
      have h1 : Kept p (σ1, b, bad).1 := (kept_svcRead h).ok _ e
      split
      · exact .of_error (kept_startRecall h1)
      · exact .of_ok (kept_complete (kept_foldl (fun _ _ h1 => kept_ite h1 (kept_errRecord h1)) (kept_homePut (kept_ite h1.of_eq h1))))

theorem kept_enterRunning {σ : State} {o : Order} (h : Kept p σ) : Kept p (enterRunning σ o).1 := kept_setOrder h

theorem kept_preemptStart {σ : State} {o : Order} (h : Kept p σ) : Kept p (preemptStart σ o) := by
  unfold preemptStart
  split
  · exact kept_complete h
  · exact kept_ite (kept_complete (kept_complete h)) (kept_ite (kept_preemptTask h) (kept_ite (kept_complete (kept_passPreempt h))
      (kept_complete (kept_reduceEnd h))))

theorem kept_quiesceStart {σ : State} {o : Order} (h : Kept p σ) : Kept p (quiesceStart σ o) :=
  kept_ite h (kept_ite (kept_passPreempt (kept_foldl (fun _ _ h1 => kept_ite (kept_preemptTask h1) h1) h))
    (kept_foldl (fun _ _ h1 => kept_ite (kept_preemptTask h1) h1) h))

theorem kept_resumeStart {σ : State} {o : Order} {is : List Image'} (h : Kept p σ) : Kept p (resumeStart σ o is) :=
  kept_ite (kept_stopOrder (kept_foldl (fun _ _ h1 => kept_taskCore h1) (kept_setOrder h)))
    (kept_foldl (fun _ _ h1 => kept_tidy (kept_restoreCore h1)) (kept_foldl (fun _ _ h1 => kept_taskCore h1) (kept_setOrder h)))

theorem kept_resumeImages {σ : State} {o : Order} (h : Kept p σ) : KeptEx p (fun x => Kept p x.2) (resumeImages σ o) := by
  unfold resumeImages
  split
  · exact kept_imagesRead h
  · exact .of_ok h

theorem kept_stackRetrain {σ : State} {h1 : Nat} (h : Kept p σ) : Kept p (stackRetrain σ h1) := by
  have f := kept_fresh h
  unfold stackRetrain
  split
  · exact h
  · dsimp only
    split
    · exact f.of_eq
    · exact kept_errRecord ⟨f.cores, keptBytes_filter f.hbm, f.comp, f.queue⟩

theorem kept_quiesceEnd {σ : State} {o : Order} (h : Kept p σ) : Kept p (quiesceEnd σ o) :=
  kept_complete (kept_foldl (fun _ _ h1 => kept_stackRetrain h1) h).of_eq

theorem kept_settleOrders {σ : State} (h : Kept p σ) : Kept p (settleOrders σ) :=
  kept_foldl (fun _ _ h1 => kept_ite h1 (kept_ite (kept_ite h1 (kept_complete h1)) (kept_ite (kept_ite h1 (kept_quiesceEnd h1)) h1))) h

theorem kept_orderGo {σ : State} {o : Order} {is : List Image'} (h : Kept p σ) : KeptEx p (fun x => Kept p x) (orderGo σ o is) := by
  unfold orderGo
  extract_lets r
  have hr : Kept p r.1 := kept_enterRunning h
  split
  · exact .of_ok (kept_foldl (fun _ _ h1 => kept_launchCore h1) hr)
  · exact kept_copyRun hr
  · exact .of_ok (kept_passStart hr)
  · exact .of_ok (kept_passStart hr)
  · exact .of_ok (kept_preemptStart hr)
  · exact .of_ok (kept_ite (kept_passResume hr) (kept_resumeStart hr))
  · exact .of_ok (kept_quiesceStart hr)
  · exact kept_reduceStart hr
  · exact .of_ok hr

theorem kept_execOrderStart {k1 : Nat} {σ : State} (h : Kept p σ) : KeptOpt p (nextOf (execOrderStart k1 σ)) := by
  unfold execOrderStart
  split
  · exact .some h
  refine KeptOpt.ite_of (.some h) ?_
  split
  · next e => exact .some ((kept_resumeImages h).error _ e)
  · next is σ1 e1 =>
      have h1 : Kept p (is, σ1).2 := (kept_resumeImages h).ok _ e1
      dsimp only
      split
      · split
        · next e => exact .some (kept_settleOrders ((kept_orderGo h1).ok _ e))
        · next σ2 e =>
            have h2 : Kept p σ2 := (kept_orderGo h1).error _ e
            split
            · exact .some (kept_setOrder h2)
            · exact .some h2
      · exact .some (kept_complete h)

theorem kept_execOrderTimeout {k1 : Nat} {σ : State} (h : Kept p σ) : KeptOpt p (nextOf (execOrderTimeout k1 σ)) := by
  unfold execOrderTimeout
  split
  · exact .some h
  · exact KeptOpt.ite_of (.some h) (KeptOpt.ite_of (.some (kept_settleOrders (kept_stopOrder h)))
      (KeptOpt.ite_of (.some (kept_passBreak h)) (KeptOpt.ite_of (.some (kept_reduceEnd h)) (.some (kept_complete h)))))

theorem kept_execCoreStopReport {i : Nat} {retest : Bool} {σ : State} (h : Kept p σ) :
    KeptOpt p (nextOf (execCoreStopReport i retest σ)) := by
  unfold execCoreStopReport
  split
  · extract_lets σ1 _
    have hσ : Kept p σ1 := kept_noteStop (kept_takePkt h)
    split
    · exact .some (kept_retestEnd hσ)
    extract_lets _ _ σ2
    have hσ1 : Kept p σ2 := kept_setOrder hσ
    refine KeptOpt.ite_of (.some (kept_stopOrder hσ)) ?_
    refine KeptOpt.ite_of ?_ (.some (kept_retestEnd hσ))
    refine .some ?_
    refine kept_ite ?_ hσ1
    split
    · next e => exact (kept_finishStop hσ1).ok _ e
    · next e => exact (kept_finishStop hσ1).error _ e
  · exact .some h

theorem kept_execCoreDone {k1 : Nat} {core : BitVec 13} {σ : State} (h : Kept p σ) : KeptOpt p (nextOf (execCoreDone k1 core σ)) := by
  unfold execCoreDone
  dsimp only
  split
  · exact .some h
  · exact KeptOpt.ite_of (KeptOpt.ite_of (.some (kept_stopOrder (kept_modCore h (fun _ w => w.of_eq))))
      (.some (kept_setOrder (kept_modCore h (fun _ w => w.of_eq))))) (.some h)

theorem kept_scrubStacks {σ : State} {mask : Nat} {corrected uncorrectable : List Nat} (h : Kept p σ) :
    Kept p (scrubStacks σ mask corrected uncorrectable).1 :=
  kept_foldl (fun _ _ h1 => kept_errRecord h1) (kept_foldl (fun _ _ h1 => kept_hbmFatal h1)
    (kept_foldl (fun _ _ h1 => kept_hbmCodeword h1) h))

theorem kept_scrubSpads {ls : List Nat} {r : State × Nat × Nat} (h : Kept p r.1) : Kept p (scrubSpads ls r).1 :=
  kept_foldl_fst (fun _ _ h1 => kept_foldl (fun _ _ h2 => kept_noteSpadUE h2) (kept_spadMeet h1)) h

theorem kept_execScrubPassEnd {k1 : Nat} {corrected uncorrectable : List Nat} {σ : State} (h : Kept p σ) :
    KeptOpt p (nextOf (execScrubPassEnd k1 corrected uncorrectable σ)) := by
  unfold execScrubPassEnd
  split
  · exact .some h
  · exact KeptOpt.ite_of (.some (kept_complete (kept_ite_of (kept_scrubSpads (kept_scrubStacks h)) (kept_scrubStacks h)))) (.some h)

theorem kept_enterService {σ : State} (h : Kept p σ) : Kept p (enterService σ) := by
  unfold enterService
  extract_lets σ1 σ2
  have closed : Kept p σ1 := kept_foldl (fun s o k => by
    split
    · exact k
    · exact kept_complete k) h
  have set : Kept p (setDv σ2 0x2000 1 0) := kept_setDv (kept_errRecord closed)
  exact ⟨keptCores_nil, keptBytes_nil, set.comp, set.queue⟩

theorem kept_execCompletionWrite {k1 : Nat} {σ : State} (h : Kept p σ) : KeptOpt p (nextOf (execCompletionWrite k1 σ)) := by
  unfold execCompletionWrite
  split
  · exact .some h
  dsimp only
  refine KeptOpt.ite_of (.some h) ?_
  split
  · next e => exact .some ((kept_svcWrite h).error _ e)
  · next σ1 e =>
      have h1 : Kept p σ1 := (kept_svcWrite h).ok _ e
      exact .some (kept_ite (kept_enterService (kept_settleOrders (kept_ite (kept_raiseVector h1.of_eq) h1.of_eq)))
        (kept_settleOrders (kept_ite (kept_raiseVector h1.of_eq) h1.of_eq)))

theorem kept_switchBegin {σ : State} {L mode : Nat} (h : Kept p σ) : Kept p (switchBegin σ L mode) := by
  unfold switchBegin
  extract_lets c us σ1 busy σ2 keep σ3
  have begun : Kept p σ1 := kept_modCore h (fun _ w => w.of_eq)
  split
  · refine kept_foldl (fun s u k => ?_) begun
    split
    · exact kept_slotStop (kept_modSlot k)
    · exact kept_chanStop (kept_modChan k)
  · have dropped : Kept p σ3 := kept_modCore (kept_foldl (fun _ _ k => kept_killThread k) begun)
      (fun _ w => ⟨w.thr, keptList_nil, keptList_nil, w.rings, w.mem⟩)
    split
    · split
      · exact kept_setOrder dropped
      · exact dropped
    · exact dropped

theorem kept_switchSwap {σ : State} {L : Nat} (h : Kept p σ) : Kept p (switchSwap σ L) :=
  kept_cmoBegin (kept_modCore (kept_closeWins (kept_modCore h (fun _ w => w.of_eq))) (fun _ w =>
    ⟨keptThreads_map w.thr (fun _ k => k.of_eq), w.slots, w.chans, keptList_map (fun _ => rfl) w.rings, w.mem⟩))

theorem kept_switchCommand {σ : State} {i L k1 mode : Nat} (h : Kept p σ) : Kept p (switchCommand σ i L k1 mode) := by
  unfold switchCommand
  extract_lets _ σ1 σ2 _
  have hσ : Kept p σ1 := kept_tidy (kept_ite h (kept_switchBegin h))
  have hσ1 : Kept p σ2 := kept_ite hσ (kept_tidy (kept_switchSwap hσ))
  exact kept_ite (kept_takePkt h) (kept_ite (kept_sendTo (kept_takePkt hσ1)) hσ1)

theorem kept_execCommand {i : Nat} {σ : State} (h : Kept p σ) : KeptOpt p (nextOf (execCommand i σ)) := by
  unfold execCommand
  split
  · refine KeptOpt.ite_of (.some h) ?_
    split
    · exact .some (kept_tidy (kept_dbgHalt (kept_takePkt h)))
    · exact .some (kept_tidy (kept_dbgGo (kept_takePkt h)))
    · exact .some (kept_tidy (kept_dbgGo (kept_takePkt h)))
    · exact .some (kept_switchCommand h)
    · exact .some (kept_switchCommand h)
  · exact .some h

theorem kept_execCommandAck {i : Nat} {σ : State} (h : Kept p σ) : KeptOpt p (nextOf (execCommandAck i σ)) := by
  unfold execCommandAck
  split
  · extract_lets σ1
    have hσ : Kept p σ1 := kept_takePkt h
    split
    · exact .some hσ
    refine KeptOpt.ite_of (.some hσ) ?_
    extract_lets _ σ2
    have hσ1 : Kept p σ2 := kept_setOrder hσ
    refine KeptOpt.ite_of (.some hσ1) ?_
    split
    · next e => exact .some ((kept_finishStop h).error _ e)
    split
    · next e => exact .some (kept_settleOrders ((kept_finishStop hσ1).ok _ e))
    · next e => exact .some ((kept_finishStop hσ1).error _ e)
  · exact .some h

/-! ### What power, start-up and the dictionary share -/

theorem kept_volatileReset {σ : State} (h : Kept p σ) : Kept p (volatileReset σ) := by
  unfold volatileReset
  exact h.of_eq

theorem kept_diesOff {σ : State} (h : Kept p σ) : Kept p (diesOff σ) := ⟨keptCores_nil, keptBytes_nil, h.comp, h.queue⟩

theorem kept_enterOff {σ : State} {why : Nat} (h : Kept p σ) : Kept p (enterOff σ why) := by
  unfold enterOff
  exact (kept_diesOff h).of_eq

theorem kept_startBoot {σ : State} {kind step : Nat} (h : Kept p σ) : Kept p (startBoot σ kind step) := by
  unfold startBoot
  exact h.of_eq

theorem kept_resetHold {σ : State} (h : Kept p σ) : Kept p (resetHold σ) := by
  unfold resetHold
  exact (kept_volatileReset (kept_diesOff h)).of_eq

theorem kept_resetStart {σ : State} (h : Kept p σ) : Kept p (resetStart σ) := kept_startBoot (kept_resetHold h).of_eq

/-! ### The dictionary's entries -/

theorem kept_debugCommand {σ : State} {cmd : Nat} (h : Kept p σ) : Kept p (debugCommand σ cmd) :=
  kept_foldl (fun _ _ h1 => kept_sendTo h1) h

theorem kept_normEnable {σ : State} {on : Bool} (h : Kept p σ) : Kept p (normEnable σ on) := kept_setPress h

theorem kept_portEnableSet {σ : State} {p1 : Nat} {on : Bool} (h : Kept p σ) : Kept p (portEnableSet σ p1 on) :=
  kept_ite h (kept_setPort (kept_portLoss h))

theorem kept_toleranceWake {σ : State} {old v : Nat} (h : Kept p σ) : Kept p (toleranceWake σ old v) := kept_ite h.of_eq h

theorem kept_commitImage {σ : State} {v : Nat} (h : Kept p σ) : Kept p (commitImage σ v) := kept_mapCommit h.of_eq

theorem kept_endSessions {σ : State} {p1 : Session → Bool} (h : Kept p σ) : Kept p (endSessions σ p1) := by
  unfold endSessions
  exact h.of_eq

theorem kept_entryEffect {σ : State} {ix sub v : Nat} (h : Kept p σ) : Kept p (entryEffect σ ix sub v) := by
  unfold entryEffect
  dsimp only
  refine kept_ite (kept_portEnableSet h.of_eq) ?_
  split
  · exact kept_ite (kept_mapCommit h.of_eq) h.of_eq
  · exact h.of_eq
  · exact kept_ite h.of_eq h
  · exact kept_toleranceWake h.of_eq
  · exact kept_ite h.of_eq h.of_eq
  · exact kept_ite (kept_ite h (kept_enterOff h)).of_eq h.of_eq
  · exact kept_ite h.of_eq h.of_eq
  · exact kept_mapCommit h.of_eq
  · exact kept_markRetire h
  · exact h.of_eq
  · exact kept_normEnable h.of_eq
  · exact h.of_eq
  · exact h.of_eq
  · exact h.of_eq
  · exact kept_debugCommand h
  · exact kept_tidy (kept_ioWrite h)
  · exact kept_commitImage h
  · exact kept_ite (kept_endSessions h.of_eq) h.of_eq
  · exact h.of_eq

theorem kept_bytesEffect {σ : State} {ix sub off : Nat} {b : List Byte} (h : Kept p σ) : Kept p (bytesEffect σ ix sub off b) := by
  unfold bytesEffect
  split
  · exact h.of_eq
  · exact h.of_eq
  · exact kept_endSessions h.of_eq
  · exact h

/-! ### Requests to the dictionary -/

theorem kept_logItem {σ : State} {path rc : Nat} {it : Item} {reason old : Nat} (h : Kept p σ) :
    Kept p (logItem σ path rc it reason old) := by
  unfold logItem
  exact h.of_eq

theorem kept_writeEffect {σ : State} {it : Item} (h : Kept p σ) : Kept p (writeEffect σ it) := by
  unfold writeEffect
  split
  · exact h
  · exact kept_ite (kept_bytesEffect h) (kept_ite h (kept_entryEffect h))

theorem kept_writeItem {σ : State} {path rc : Nat} {it : Item} {crypto : Nat} (h : Kept p σ) : Kept p (writeItem σ path rc it crypto).1 :=
  kept_logItem (kept_ite (kept_writeEffect h).of_eq (kept_ite h.of_eq h))

theorem kept_blobItem {σ : State} {path rc : Nat} {it : Item} (h : Kept p σ) : Kept p (blobItem σ path rc it).1 := by
  unfold blobItem
  dsimp only
  refine kept_ite_of h ?_
  refine kept_ite_of (kept_ite_of h h.of_eq) ?_
  split
  · exact h
  · exact kept_ite_of h (kept_ite_of h h.of_eq)

theorem kept_readItem {σ : State} {path rc : Nat} {it : Item} (h : Kept p σ) : Kept p (readItem σ path rc it).1 := by
  unfold readItem
  dsimp only
  refine kept_ite_of h ?_
  split
  · exact h
  refine kept_ite_of h ?_
  refine kept_ite_of h ?_
  refine kept_ite_of h ?_
  refine kept_ite_of h ?_
  refine kept_ite_of (kept_blobItem h) ?_
  refine kept_ite_of h ?_
  refine kept_ite_of h ?_
  refine kept_ite_of ?_ h
  split
  · exact kept_ite_of (kept_ioRead h) h
  · exact h

theorem kept_requestWrites {path rc : Nat} {l : List Item} {σ : State} (h : Kept p σ) : Kept p (requestWrites path rc l σ).1 := by
  induction l generalizing path rc σ with
  | nil => exact h
  | cons a r ih =>
    rw [requestWrites]
    exact kept_ite_of (ih (kept_writeItem h)) (ih h)

theorem kept_requestReads {path rc : Nat} {l : List (Item × Option RItem)} {left : Nat} {σ : State} (h : Kept p σ) :
    Kept p (requestReads path rc l left σ).1 := by
  induction l generalizing left σ with
  | nil => exact h
  | cons a r ih =>
    obtain ⟨it, _ | x⟩ := a
    · rw [requestReads]
      dsimp only
      split
      · exact ih (kept_readItem h)
      · exact ih h
    · exact ih h

theorem kept_judgeRequest {σ : State} {q : Req} (h : Kept p σ) : Kept p (judgeRequest σ q).1 :=
  kept_ite_of (kept_ite h.of_eq h) (kept_requestReads (kept_requestWrites (kept_ite h.of_eq h)))

theorem kept_deliverResp {σ : State} {p1 : Resp} (h : Kept p σ) : Kept p (deliverResp σ p1) := by
  unfold deliverResp
  split
  · exact h.of_eq
  · exact h.of_eq
  · exact h.of_eq

theorem kept_takeRequest {σ : State} {q : Req} (h : Kept p σ) : Kept p (takeRequest σ q) :=
  kept_ite (kept_judgeRequest h).of_eq (kept_deliverResp (kept_judgeRequest h))

theorem kept_takeRequests {σ : State} (h : Kept p σ) : Kept p (takeRequests σ) := kept_foldl (fun _ _ h1 => kept_takeRequest h1) h.of_eq

theorem kept_authFail {σ : State} (h : Kept p σ) : Kept p (authFail σ) := by
  unfold authFail
  exact h.of_eq

theorem kept_dictItem {σ : State} {role : Role} {path : Path} {it : Item} {crypto : Nat} (h : Kept p σ) :
    Kept p (dictItem σ role path it crypto) :=
  kept_ite h (kept_ite (kept_authFail h) (kept_ite_of (kept_writeItem h) (kept_readItem h)).of_eq)

theorem kept_execFlashCommitDone {σ : State} (h : Kept p σ) : KeptOpt p (nextOf (execFlashCommitDone σ)) := by
  unfold execFlashCommitDone
  split
  · exact .some h
  · exact .some (kept_foldl (fun _ _ h1 => kept_deliverResp h1) h.of_eq)

theorem kept_mbCtlWrite {σ : State} {v : Word} (h : Kept p σ) : Kept p (mbCtlWrite σ v) := kept_ite h (kept_ite h.of_eq h.of_eq)

theorem kept_execMailboxResponse {σ : State} (h : Kept p σ) : KeptOpt p (nextOf (execMailboxResponse σ)) := by
  unfold execMailboxResponse
  split
  · exact .some h
  · exact KeptOpt.ite_of (.some h) (.some (kept_ite (kept_raiseVector h.of_eq) h.of_eq))

theorem kept_rxFrame {σ : State} (h : Kept p σ) : Kept p (rxFrame σ) := by
  unfold rxFrame
  exact h.of_eq

theorem kept_rxDiscard {σ : State} (h : Kept p σ) : Kept p (rxDiscard σ) := by
  unfold rxDiscard
  exact h.of_eq

theorem kept_queueFrame {σ : State} {p1 : Resp} (h : Kept p σ) : Kept p (queueFrame σ p1) := by
  unfold queueFrame
  exact h.of_eq

theorem kept_execRequest {f : RindFrame} {σ : State} (h : Kept p σ) : KeptOpt p (nextOf (execRequest f σ)) := by
  unfold execRequest
  extract_lets _ σ1 _ _ _
  have hσ : Kept p σ1 := kept_rxFrame h
  refine KeptOpt.ite_of (.some h) ?_
  refine KeptOpt.ite_of (.some (kept_rxDiscard h)) ?_
  refine KeptOpt.ite_of (.some (kept_authFail hσ)) ?_
  split
  · exact .some (kept_queueFrame hσ)
  · exact KeptOpt.ite_of (.some (kept_authFail hσ)) (KeptOpt.ite_of (.some (kept_queueFrame hσ)) (.some hσ.of_eq))

theorem kept_execDiscover {f : RindFrame} {σ : State} (h : Kept p σ) : KeptOpt p (nextOf (execDiscover f σ)) :=
  KeptOpt.ite_of (.some h) (KeptOpt.ite_of (.some (kept_rxDiscard h)) (KeptOpt.ite_of (.some (kept_authFail (kept_rxFrame h)))
    (.some (kept_queueFrame (kept_rxFrame h)))))

theorem kept_execOpenReq {key : Nat} {fieldsOk sigOk : Bool} {sessionKey : Nat} {σ : State} (h : Kept p σ) :
    KeptOpt p (nextOf (execOpenReq key fieldsOk sigOk sessionKey σ)) :=
  KeptOpt.ite_of (.some h) (KeptOpt.ite_of (.some (kept_rxDiscard h)) (KeptOpt.ite_of (.some (kept_queueFrame (kept_rxFrame h)).of_eq)
    (.some (kept_queueFrame (kept_rxFrame h)))))

theorem kept_execClose {session : Nat} {tagOk : Bool} {σ : State} (h : Kept p σ) : KeptOpt p (nextOf (execClose session tagOk σ)) :=
  KeptOpt.ite_of (.some h) (KeptOpt.ite_of (.some (kept_authFail (kept_rxFrame h))) (.some (kept_endSessions (kept_rxFrame h))))

theorem kept_tapSelect {σ : State} {ir : Nat} (h : Kept p σ) : Kept p (tapSelect σ ir) := by
  unfold tapSelect
  exact h.of_eq

/-! ### Start-up -/

theorem kept_retireNow {σ : State} {L : Nat} (h : Kept p σ) : Kept p (retireNow σ L) := by
  unfold retireNow
  extract_lets _ σ1
  have hσ : Kept p σ1 := by
    dsimp only [σ1]
    refine kept_ite h ?_
    split
    · exact kept_setMap h
    · exact h
  split
  · exact hσ
  extract_lets σ2 _ σ3
  have hσ1 : Kept p σ2 := kept_mapCommit (kept_setMap (kept_setMap hσ))
  have hσ2 : Kept p σ3 := hσ1.of_eq
  exact kept_errRecord (kept_setCore hσ2 keptCore_reset)

theorem kept_retirePending {σ : State} (h : Kept p σ) : Kept p (retirePending σ) := kept_foldl (fun _ _ h1 => kept_retireNow h1) h

theorem kept_mapChange {σ : State} (h : Kept p σ) : Kept p (mapChange σ) := kept_mapCommit h.of_eq

theorem kept_retirePositions {σ : State} {ps : List Nat} (h : Kept p σ) : Kept p (retirePositions σ ps) := by
  unfold retirePositions
  exact (kept_foldl (fun _ _ h1 => kept_reserveSpare h1) (kept_foldl (fun _ _ h1 => kept_retireNow h1)
    (kept_foldl (fun _ _ h1 => kept_setMap h1) (kept_foldl (fun _ _ h1 => kept_mapChange (kept_setMap h1)) h)))).of_eq

theorem kept_coresFresh {σ : State} {keepFar : Bool} (h : Kept p σ) : Kept p (coresFresh σ keepFar) := by
  refine ⟨keptCores_range (fun L => ?_), h.hbm, h.comp, h.queue⟩
  split
  · exact ⟨keptThreads_nil, keptList_nil, keptList_nil, keptList_nil, keptBytes_filter h.core.mem⟩
  · exact keptCore_reset

theorem kept_reinstateEnd {σ : State} (h : Kept p σ) : Kept p (reinstateEnd σ) := by
  unfold reinstateEnd
  exact (kept_foldl (fun _ _ h1 => kept_ite (kept_mapChange (kept_setMap h1)) h1) h).of_eq

theorem kept_raiseFloors {σ : State} (h : Kept p σ) : Kept p (raiseFloors σ) := by
  unfold raiseFloors
  exact h.of_eq

theorem kept_pressAgain {σ : State} (h : Kept p σ) : Kept p (pressAgain σ) := kept_ite (kept_normEnable h) h

theorem kept_bootDone {σ : State} {kind : Nat} (h : Kept p σ) : Kept p (bootDone σ kind) :=
  kept_ite (kept_foldl (fun _ _ h1 => kept_stackRetrain h1) (kept_pressAgain h.of_eq)) (kept_raiseFloors h.of_eq)

theorem kept_bootStop {σ : State} {step : Nat} (h : Kept p σ) : Kept p (bootStop σ step) := kept_ite h.of_eq (kept_enterService h.of_eq)

theorem kept_stepNext {σ : State} {r : BootRun} (h : Kept p σ) : Kept p (stepNext σ r) := by
  unfold stepNext
  split
  · exact kept_bootDone h
  · exact h.of_eq

theorem kept_stepEnd {σ : State} {r : BootRun} (h : Kept p σ) : Kept p (stepEnd σ r) := by
  unfold stepEnd
  split
  · exact kept_ite (kept_stepNext h) (kept_bootStop h)
  · exact kept_ite (kept_bootStop (kept_retirePending h)) (kept_stepNext (kept_retirePending h))
  · exact kept_ite (kept_bootStop (kept_retirePositions h)) (kept_stepNext (kept_retirePositions h))
  · exact kept_ite (kept_bootStop (kept_retirePositions h)) (kept_stepNext (kept_retirePositions h))
  · exact kept_ite (kept_bootStop (kept_retirePositions h)) (kept_stepNext (kept_coresFresh (kept_ite (kept_retirePositions h)
      (kept_reinstateEnd (kept_retirePositions h)))))
  · exact kept_stepNext h

theorem kept_macSeen {σ : State} {step : Nat} {e : BootEnd} (h : Kept p σ) : Kept p (macSeen σ step e) := by
  unfold macSeen
  exact h.of_eq

theorem kept_stepPass {σ : State} {step c : Nat} {alt : Bool} {e : BootEnd} (h : Kept p σ) : Kept p (stepPass σ step c alt e) := by
  unfold stepPass
  dsimp only
  split
  · exact h.of_eq
  · exact h.of_eq
  · exact kept_ite (kept_errRecord h.of_eq) h.of_eq
  · exact kept_ite (kept_errRecord (kept_setPort h)) (kept_setPort h)
  · exact kept_ite (kept_errRecord h.of_eq) h.of_eq
  · exact kept_ite (kept_errRecord h) h
  · exact h

theorem kept_stepLost {σ : State} {step c : Nat} (h : Kept p σ) : Kept p (stepLost σ step c) := by
  unfold stepLost
  dsimp only
  split
  · exact kept_errRecord h.of_eq
  · exact kept_errRecord (kept_setPort h)
  · exact kept_errRecord h.of_eq
  · exact h

theorem kept_partEnd {σ : State} {r : BootRun} {c : Nat} {retire : List Nat} (h : Kept p σ) : Kept p (partEnd σ r c retire) :=
  kept_ite (kept_stepEnd h.of_eq) h.of_eq

theorem kept_bootAttempt {σ : State} {r : BootRun} {e : BootEnd} {failed : Nat} (h : Kept p σ) : Kept p (bootAttempt σ r e failed) :=
  kept_ite (kept_ite (kept_stepPass (kept_journalRec h)).of_eq (kept_partEnd (kept_stepPass (kept_journalRec h))))
    (kept_ite (kept_ite (kept_partEnd (kept_journalRec h)) (kept_ite (kept_bootStop (kept_journalRec h))
      (kept_partEnd (kept_stepLost (kept_journalRec h))))) (kept_ite (kept_journalRec h).of_eq (kept_ite (kept_journalRec h).of_eq
        (kept_journalRec h).of_eq)))

theorem kept_linkRetrain {σ : State} {e : BootEnd} (h : Kept p σ) : Kept p (linkRetrain σ e) :=
  kept_ite h (kept_ite h (kept_ite (kept_journalRec h).of_eq (kept_errRecord (kept_journalRec h).of_eq)))

theorem kept_execBootStepAttempt {e : BootEnd} {σ : State} (h : Kept p σ) : KeptOpt p (nextOf (execBootStepAttempt e σ)) := by
  unfold execBootStepAttempt
  split
  · exact KeptOpt.ite_of (.some (kept_bootAttempt (kept_macSeen h))) (.some h)
  · exact .some (kept_linkRetrain h)

theorem kept_execBootStepTimeout {component : Nat} {σ : State} (h : Kept p σ) : KeptOpt p (nextOf (execBootStepTimeout component σ)) := by
  unfold execBootStepTimeout
  split
  · exact KeptOpt.ite_of (.some (kept_bootAttempt h)) (.some h)
  · exact .some h

theorem kept_execResetL {low : Bool} {σ : State} (h : Kept p σ) : KeptOpt p (nextOf (execResetL low σ)) := by
  unfold execResetL
  extract_lets _ σ1 _ _ σ2 σ3 _
  have hσ : Kept p σ1 := h.of_eq
  have hσ1 : Kept p σ2 := hσ.of_eq
  have hσ2 : Kept p σ3 := kept_resetHold hσ1
  exact KeptOpt.ite_of (.some h) (KeptOpt.ite_of (.some hσ) (KeptOpt.ite_of (KeptOpt.ite_of (.some hσ1) (.some (kept_ite hσ2 hσ2.of_eq)))
    (KeptOpt.ite_of (.some hσ) (.some (kept_resetStart hσ)))))

theorem kept_execColdStart {σ : State} (h : Kept p σ) : KeptOpt p (nextOf (execColdStart σ)) := by
  unfold execColdStart
  dsimp only
  refine KeptOpt.ite_of (.some h) ?_
  split
  · exact KeptOpt.ite_of (.some h.of_eq) (.some h)
  · exact .some (kept_startBoot (kept_volatileReset h)).of_eq

theorem kept_execPortRetrain {port : Nat} {r : TrainEnd} {σ : State} (h : Kept p σ) : KeptOpt p (nextOf (execPortRetrain port r σ)) :=
  KeptOpt.ite_of (.some h) (.some (kept_ite (kept_journalRec (kept_setPort h)) (kept_errRecord (kept_journalRec (kept_setPort h)))))

/-! ### Power states -/

theorem kept_stateChoice {σ : State} (h : Kept p σ) : Kept p (stateChoice σ) := kept_ite h (kept_ite h h.of_eq)

theorem keptCore_coreHold {c : Core} (w : KeptCore p c) : KeptCore p (coreHold c) :=
  ⟨keptThreads_nil, keptList_nil, keptList_nil, keptList_nil, keptBytes_filter w.mem⟩

theorem kept_compOff {σ : State} {st : Nat} (h : Kept p σ) : Kept p (compOff σ st) := by
  refine ⟨?_, h.hbm, h.comp, h.queue⟩
  unfold compOff
  dsimp only
  split
  · exact keptCores_foldl (fun e he => keptCore_coreHold (h.cores.each e he)) keptCores_nil
  · exact keptCores_nil

theorem kept_recallAll {σ : State} (h : Kept p σ) : Kept p (recallAll σ) := kept_foldl (fun _ _ h1 => kept_startRecall h1) h

theorem kept_scrubRestart {σ : State} (h : Kept p σ) : Kept p (scrubRestart σ) :=
  ⟨keptCores_foldl (f := fun c => { c with spad := { c.spad with scrubPos := 0 } }) (fun e he => (h.cores.each e he).of_eq) keptCores_nil,
    h.hbm, h.comp, h.queue⟩

theorem kept_takeWake {σ : State} (h : Kept p σ) : Kept p (takeWake σ) := by
  unfold takeWake
  refine kept_ite h ?_
  split
  · exact h.of_eq
  · exact kept_scrubRestart h.of_eq
  · exact kept_startBoot h
  · exact kept_startBoot h
  · exact h

theorem kept_execStateEntry {σ : State} (h : Kept p σ) : KeptOpt p (nextOf (execStateEntry σ)) :=
  KeptOpt.ite_of (.some h) (KeptOpt.ite_of (.some (kept_takeWake h)) (KeptOpt.ite_of (.some h.of_eq)
    (KeptOpt.ite_of (.some (kept_recallAll h)) (.some (kept_compOff h)))))

theorem kept_failPower {σ : State} {cls why : Nat} (h : Kept p σ) : Kept p (failPower σ cls why) := kept_errRecord (kept_enterOff h).of_eq

theorem kept_tripRecord {σ : State} (h : Kept p σ) : Kept p (tripRecord σ) := kept_errRecord h

theorem kept_execThermalTrip {σ : State} (h : Kept p σ) : KeptOpt p (nextOf (execThermalTrip σ)) := by
  unfold execThermalTrip
  refine KeptOpt.ite_of (.some (kept_ite (kept_tripRecord h) h)) ?_
  refine KeptOpt.ite_of (.some h) ?_
  extract_lets σ1 _ _ _ σ2 σ3 _ σ4 _
  have hσ : Kept p σ1 := kept_foldl (fun _ _ h1 => kept_ite (kept_complete h1) (kept_ite (kept_complete h1) h1)) h
  have hσ1 : Kept p σ2 := kept_tripRecord hσ.of_eq
  have hσ2 : Kept p σ3 := kept_recallAll hσ1
  have hσ3 : Kept p σ4 := kept_compOff hσ2.of_eq
  exact .some hσ3.of_eq

theorem kept_loseCoolant {σ : State} (h : Kept p σ) : Kept p (loseCoolant σ) := by
  unfold loseCoolant
  exact (kept_ite h (kept_failPower h)).of_eq

/-! ### The companion's window -/

theorem kept_answerRead {σ : State} {b : List Byte} (h : Kept p σ) : Kept p (answerRead σ b) := by
  unfold answerRead
  exact h.of_eq

theorem kept_mailboxRead {σ : State} {off : Nat} (h : Kept p σ) : Kept p (mailboxRead σ off).1 :=
  kept_ite_of h.of_eq (kept_ite_of h (kept_ite_of h h))

theorem kept_regRead {σ : State} {off size : Nat} (h : Kept p σ) : Kept p (regRead σ off size) :=
  kept_ite (kept_answerRead h) (kept_ite (kept_ite (kept_answerRead (kept_mailboxRead h)) (kept_answerRead h))
    (kept_ite (kept_answerRead h) (kept_answerRead h)))

theorem kept_dispRegWrite {σ : State} {off : Nat} {v : Word} (h : Kept p σ) : Kept p (dispRegWrite σ off v) := by
  unfold dispRegWrite
  refine kept_ite (kept_ite (kept_holdWake h) (kept_sqTailWrite h)) ?_
  refine kept_ite (kept_cqHeadWrite h) ?_
  split
  · exact kept_ite (kept_holdWake h) (kept_ite (kept_doorbellWrite h) h)
  · exact kept_ite (kept_faultDrain h.of_eq) h.of_eq
  · exact kept_ite (kept_holdWake h) (kept_ite (kept_faultReplySend h) h)
  · exact h.of_eq
  · exact h.of_eq
  · exact kept_ite (kept_holdWake h) (kept_ite (kept_shootWrite h) h)
  · exact h

theorem kept_regWrite {σ : State} {off size : Nat} {v : Word} (h : Kept p σ) : Kept p (regWrite σ off size v) :=
  kept_ite h (kept_ite (kept_ite h (kept_ite (kept_mbCtlWrite h) (kept_ite h.of_eq h))) (kept_ite (kept_dispRegWrite h) h))

theorem kept_dirTake {σ : State} {line : Nat} {own : Bool} (h : Kept p σ) : Kept p (dirTake σ line own) := by
  unfold dirTake
  extract_lets d held mine σ1
  clear_value mine
  have recalled : Kept p σ1 := by
    unfold σ1
    split
    · exact kept_ite (kept_startRecall h) h
    · exact h
  split
  · exact recalled.of_eq
  · exact recalled.of_eq

theorem kept_hbmAccess {σ : State} {op : CompOp} (h : Kept p σ) : Kept p (hbmAccess σ op) := by
  unfold hbmAccess
  split
  · exact kept_ite h (kept_foldl (fun _ _ h1 => kept_dirTake h1) (kept_answerRead (kept_patchBad (kept_hbmServe h))))
  · exact kept_ite h (kept_hbmWrite h)
  · exact kept_ite h (kept_ite (kept_amoAt (kept_hbmServe h)) (kept_answerRead (kept_amoAt (kept_hbmServe h))))
  · exact kept_ite h (kept_hbmWrite h).of_eq
  · exact h

theorem kept_companionOp {σ : State} {op : CompOp} (h : Kept p σ) : Kept p (companionOp σ op) := by
  unfold companionOp
  split
  · exact kept_regRead h
  · exact kept_regWrite h
  · exact kept_ite (kept_ite h (kept_answerRead h)) (kept_ite (kept_holdWake h) (kept_ite (kept_hbmAccess h) h))

theorem kept_runWake {σ : State} {w1 : Wake} (h : Kept p σ) : Kept p (runWake σ w1) := by
  unfold runWake
  split
  · exact kept_sqTailWrite h
  · exact kept_doorbellWrite h
  · exact kept_faultReplySend h
  · exact kept_shootWrite h
  · exact kept_companionOp h
  split
  · next e => exact ((kept_execFabricFrame h).along e).each _ rfl
  · exact h

/-! ### Dispatch -/

/-- Every command passes on what is kept: the commands that share a form share its lemma. -/
theorem kept_exec {i : Instr} {s : State} (h : Kept p s) : KeptOpt p (nextOf (exec i s)) := by
  cases i with
  | ld | ldAcq | ldx => exact kept_issue h (fun _ _ _ h1 => kept_loadBody h1)
  | st | stx => exact kept_issue h (fun _ _ _ h1 => kept_storeBody h1)
  | add | sub | and | or | xor | andn | shl | shr | sar | min | max | minu | maxu | mul | mulh | mulhu | div | divu
  | rem | remu | cmp => unfold exec; exact kept_aluR h
  | clz | ctz | popc | addi | andi | ori | xori | shli | shri | sari | cmpi => unfold exec; exact kept_aluI h
  | movi | movk | mfl | lpGet | vGetl | lwstat | scGet => exact kept_issue h (fun _ _ _ h1 => kept_wg h1)
  | pcmp | pcmpi | mtl | chClr | fence => exact kept_issue h (fun _ _ _ h1 => kept_modT h1 (fun _ k => k.of_eq))
  | ioIn | evtNextRead | dbgDataRead => exact kept_issue h (fun _ _ _ h1 => kept_inBody h1)
  | ioOut => exact kept_issue h (fun _ _ _ h1 => kept_outBody h1)
  | b | trap => exact kept_issue h (fun _ _ _ h1 => h1)
  | call | calr => exact kept_issue h (fun _ _ _ h1 => kept_callBody h1)
  | jr | isync | dmWait => exact kept_issue h (fun _ _ _ h1 => kept_ite_of h1 h1)
  | ret | retf => exact kept_issue h (fun _ _ _ h1 => kept_retBody h1)
  | setmode => exact kept_issue h (fun _ _ _ h1 => kept_ite_of h1 (kept_ite_of h1 (kept_modT h1 (fun _ k => k.of_eq))))
  | eret => exact kept_execEret h
  | lpSetup | lpSetupi => exact kept_issue h (fun _ _ _ h1 => kept_lpSetupBody h1)
  | lpClr => exact kept_execLpClr h
  | lpSet => exact kept_issue h (fun _ _ _ h1 => kept_ite_of h1 (kept_modT h1 (fun _ k => keptThread_setLoop k)))
  | takeInterrupt => exact KeptOpt.ite_of (kept_takeAsync h (kept_modT h (fun _ k => keptThread_ite k.of_eq k.of_eq))) (.some h)
  | takeEvent => exact kept_execTakeEvent h
  | start | stop | kill | release | inject | resume => exact kept_thrOut h
  | wdogKick | mtxSeedWrite | tallyClear | tallyClearAll | stallClear | pfFlush | tlbInvVa | tlbInvAll | xltRootWrite
  | xltFwd | scWrite | haltReq | dbgResume | dbgStep | dbgDataWrite | pmcClear | pmcClearAll => exact kept_outTo h
  | watchdogExpiry => exact KeptOpt.ite_of (.some (kept_tidy (kept_coreStop h))) (.some h)
  | timerExpiry => exact kept_execTimerExpiry h
  | tAcquire => exact kept_issue h (fun _ _ _ h1 => kept_ite_of h1 (kept_ite_of (kept_modMtx h1) (kept_modMtx h1)))
  | tRelease | tCfg => exact kept_issue h (fun _ _ _ h1 => kept_withLease h1 (kept_ite_of (kept_modMtx h1) h1))
  | tSwap | tZero => exact kept_issue h (fun _ _ _ h1 => kept_withLease h1 (kept_enqueue h1))
  | tTz => exact kept_issue h (fun _ _ _ h1 => kept_withLease h1 (kept_ite_of (kept_shapeFail h1) (kept_enqueue h1)))
  | tWait => exact kept_issue h (fun _ _ _ h1 => kept_withLease h1 (kept_ite_of h1 h1))
  | tMma => exact kept_execTMma h
  | mmaExecute => exact kept_execMmaExecute h
  | tLd | tSt | tLdx => exact kept_issue h (fun _ _ _ h1 => kept_tileBody h1)
  | tileRowLand => exact kept_execTileRowLand h
  | tDrain => exact kept_execTDrain h
  | drainComplete => exact kept_execDrainComplete h
  | tCsave => exact kept_execTCsave h
  | tCrest => exact kept_execTCrest h
  | vAdd | vSub | vMul | vMin | vMax | vDiv | vAnd | vOr | vXor | vShl | vShr | vSar | vCmpeq | vCmplt | vCmple
  | vLdexp | vPerm => unfold exec; exact kept_vec2 h
  | vFma | vFms | vFnma | vSel | vDpa => unfold exec; exact kept_vec3 h
  | vNeg | vAbs | vMov | vBscale => unfold exec; exact kept_vec1 h
  | vRcp | vSqrt | vRsqrt | vExp2 | vLog2 | vExp | vTanh | vSigm | vSin | vCos => exact kept_fn1 h
  | vRadd | vRmax | vRmin => unfold exec; exact kept_reduce h
  | vCvt | vPack4 | vUnpack4 => exact kept_issue h (fun _ _ _ h1 => kept_ite_of h1 (kept_wv (kept_vconv h1)))
  | vSplat | vSetl => exact kept_issue h (fun _ _ _ h1 => kept_wv h1)
  | vLd => exact kept_execVLd h
  | vSt => exact kept_execVSt h
  | vLdt => exact kept_issue h (fun _ _ _ h1 => kept_tileRow (fun _ _ h1 => kept_ite_of (kept_coreStop h1) (kept_wv h1)) h1)
  | vStt => exact kept_issue h (fun _ _ _ h1 => kept_tileRow (fun _ _ h1 => kept_modMtx h1) h1)
  | vGather | vScatter => exact kept_issue h (fun _ _ _ h1 => kept_gatherBody h1)
  | vTally => exact kept_issue h (fun _ _ _ h1 => kept_modMtx h1)
  | vSeed => exact kept_issue h (fun _ _ _ h1 => kept_modCore h1 (fun _ w => w.of_eq))
  | memfill => exact kept_execMemfill h
  | lwopen => exact kept_execLwopen h
  | lwclose => exact kept_issue h (fun _ _ _ h1 => kept_ite_of h1 (kept_wg (kept_closeWin h1)))
  | creditReq => exact kept_execCreditReq h
  | creditGrant => exact kept_execCreditGrant h
  | creditRefuse => exact kept_execCreditRefuse h
  | creditRevoke => exact kept_execCreditRevoke h
  | creditRetry => exact kept_execCreditRetry h
  | creditTimeout => exact kept_execCreditTimeout h
  | creditQuarantineEnd => exact kept_execCreditQuarantineEnd h
  | remoteWrite => exact kept_execRemoteWrite h
  | landingAck => exact kept_execLandingAck h
  | windowRequest => exact kept_execWindowRequest h
  | scrubVisit => exact kept_execScrubVisit h
  | stQ => exact kept_execStQ h
  | stWait => exact kept_issue h (fun _ _ _ h1 => kept_ite_of (kept_wg h1) (kept_ite_of (kept_wg h1) h1))
  | stRel => exact kept_issue h (fun _ _ _ h1 => kept_ite_of h1 (kept_stRelease h1))
  | streamDescStart => exact kept_execStreamDescStart h
  | streamResponse => exact kept_execStreamResponse h
  | stStop | stResume | stSkip | stFlush => exact kept_stOut h
  | cmoClean | cmoInv | cmoCleanInv | cmoLock | cmoUnlock => exact kept_cmoOut h
  | cacheFill => exact kept_execCacheFill h
  | victim => exact kept_execVictim h
  | cacheInitDone => exact KeptOpt.ite_of (.some h) (.some (kept_tidy (kept_modCore h (fun _ w => w.of_eq))))
  | walkComplete => exact kept_execWalkComplete h
  | faultRecord => exact kept_execFaultRecord h
  | faultReplyWrite => exact KeptOpt.ite_of (.some (kept_holdWake h)) (KeptOpt.ite_of (.some (kept_faultReplySend h)) (.some h))
  | faultReply => exact kept_execFaultReply h
  | shootCtl => exact KeptOpt.ite_of (.some (kept_holdWake h)) (KeptOpt.ite_of (.some (kept_shootWrite h)) (.some h))
  | shootdown => exact kept_execShootdown h
  | shootdownAck => exact kept_execShootdownAck h
  | chPut => exact kept_issue h (fun _ _ _ h1 => kept_ite_of h1 (kept_modT h1 (fun _ k => k.of_eq)))
  | chSend => exact kept_execChSend h
  | chSendd => exact kept_execChSendd h
  | chRecv | chRecvnb => exact kept_issue h (fun _ _ _ h1 => kept_recvBody h1)
  | chPeek => exact kept_issue h (fun _ _ _ h1 => kept_ite_of h1 (kept_wg h1))
  | message => exact kept_execMessage h
  | ringStallEvent => exact KeptOpt.ite_of (.some (kept_tidy (kept_setCore h (keptCore_queueEvent (keptCore_setRing h.core))))) (.some h)
  | ringEnable | ringPause | ringDiscard => exact kept_ringOut h
  | chPress => exact kept_execChPress h
  | chPcfg => exact kept_execChPcfg h
  | chPclose => exact kept_issue h (fun _ _ _ h1 => kept_ite_of h1 (kept_ite_of h1 (kept_pressAsk h1)))
  | chPstat => exact kept_issue h (fun _ _ _ h1 => kept_ite_of h1 (kept_pressAsk h1))
  | pressCtl => exact kept_execPressCtl h
  | pressContrib => exact kept_execPressContrib h
  | scSet => exact kept_scUpdate (fun _ _ _ _ w => keptCore_scSetTo w) h
  | scAdd => exact kept_scUpdate (fun _ _ _ _ w => keptCore_scAdd w) h
  | scSub => exact kept_scUpdate (fun _ _ _ _ w => keptCore_scSubFrom w) h
  | scWait | scWaitsub => exact kept_issue h (fun _ _ _ h1 => kept_scWaitBody h1)
  | scSig => exact kept_issue h (fun _ _ _ h1 => kept_ite_of h1 (kept_ite_of h1 (kept_sendSignal h1)))
  | signalArrival => exact kept_execSignalArrival h
  | amoSwap | amoCas | amoAdd | amoAnd | amoOr | amoXor | amoMin | amoMax | amoMinu | amoMaxu => exact kept_amo h
  | atomicAtHome => exact kept_execAtomicAtHome h
  | dmStart => exact kept_execDmStart h
  | dmaDescFetch => exact kept_execDmaDescFetch h
  | dmaResponse => exact kept_execDmaResponse h
  | dmaRetryGap => exact kept_execDmaRetryGap h
  | dmaComplete => exact kept_execDmaComplete h
  | dmaStop | dmaResume | dmaSkip | dmaAbort => exact kept_dmaOut h
  | dropNotice => exact kept_execDropNotice h
  | errorResp => exact kept_execErrorResp h
  | packetAged => exact kept_execPacketAged h
  | command => exact kept_execCommand h
  | hbmRead => exact kept_execHbmRead h
  | hbmWrite => exact kept_execHbmWrite h
  | companionAccess => exact KeptOpt.ite_of (.some h) (.some (kept_companionOp h))
  | fabricFrame => exact kept_execFabricFrame h
  | nak => exact KeptOpt.ite_of (.some (kept_portGo (kept_setPort h))) (.some h)
  | replayTimeout => exact kept_execReplayTimeout h
  | fabricPacketAged => exact kept_execFabricPacketAged h
  | portDown => exact KeptOpt.ite_of (.some (kept_portLoss h)) (.some h)
  | portSeq => exact KeptOpt.ite_of (.some (kept_portReport h)) (.some h)
  | portSeqTimeout => exact kept_execPortSeqTimeout h
  | flowHoldEnd => exact KeptOpt.ite_of (.some h) (.some (kept_foldl (fun _ _ h1 => kept_sendPk h1) (kept_setPort h)))
  | portRetrain => exact kept_execPortRetrain h
  | limjoLinkDown => exact KeptOpt.ite_of (.some h) (.some (kept_errRecord h.of_eq))
  | seamFailure => exact KeptOpt.ite_of (.some (kept_enterService (kept_errRecord h))) (.some h)
  | sqTail => exact KeptOpt.ite_of (.some (kept_holdWake h)) (KeptOpt.ite_of (.some (kept_sqTailWrite h)) (.some h))
  | cqHead => exact KeptOpt.ite_of (.some (kept_cqHeadWrite h)) (.some h)
  | doorbell => exact KeptOpt.ite_of (.some (kept_holdWake h)) (KeptOpt.ite_of (.some (kept_doorbellWrite h)) (.some h))
  | orderFetch => exact kept_execOrderFetch h
  | orderStart => exact kept_execOrderStart h
  | normDelivery => exact kept_execNormDelivery h
  | pass2End => exact kept_execPass2End h
  | reducePiece => exact kept_execReducePiece h
  | orderTimeout => exact kept_execOrderTimeout h
  | coreStopReport => exact kept_execCoreStopReport h
  | coreDone => exact kept_execCoreDone h
  | completionWrite => exact kept_execCompletionWrite h
  | interruptSend | holdExpiry | leakClear | tripClear => exact .some h.of_eq
  | dictWrite | dictRead | groupEnable | holdRead | resetReq | offReq | retireReq | reinstate | stage | commit
  | nonce | report | fabricEnable | stepSize | stepCounter | globalNormSq | debugHalt | debugResume | debugStep
  | ioDataRead | ioDataWrite => exact .some (kept_dictItem h)
  | flashCommitDone => exact kept_execFlashCommitDone h
  | go => exact KeptOpt.ite_of (.some (kept_mbCtlWrite h)) (.some h)
  | mailboxResponse => exact kept_execMailboxResponse h
  | request => exact kept_execRequest h
  | discover => exact kept_execDiscover h
  | openReq => exact kept_execOpenReq h
  | close => exact kept_execClose h
  | sessionTimeout => exact .some (kept_endSessions h)
  | plcaStatusChange => exact KeptOpt.ite_of (.some h) (KeptOpt.ite_of (.some h.of_eq) (.some h.of_eq))
  | moduleReset => exact KeptOpt.ite_of (.some h) (.some (kept_resetStart h))
  | portEnable => exact KeptOpt.ite_of (.some (kept_dictItem h)) (.some h)
  | extest => exact KeptOpt.ite_of (.some (kept_tapSelect h).of_eq) (.some (kept_tapSelect h))
  | idcode | bypass | trst => exact .some (kept_tapSelect h)
  | samplePreload => exact .some (kept_tapSelect h).of_eq
  | dict => exact KeptOpt.ite_of (.some (kept_tapSelect h)) (.some (kept_tapSelect h).of_eq)
  | powerStateChoice => exact .some (kept_stateChoice h)
  | stateEntry => exact kept_execStateEntry h
  | wake => exact KeptOpt.ite_of (.some (kept_takeWake h)) (.some h)
  | throttlePeriod | transmitOpportunity => exact KeptOpt.ite_of (.some h) (.some h.of_eq)
  | powerFail => exact KeptOpt.ite_of (.some h) (.some (kept_failPower h).of_eq)
  | thermalTrip => exact kept_execThermalTrip h
  | coolantLoss => exact KeptOpt.ite_of (.some h) (.some (kept_loseCoolant h))
  | leak => exact KeptOpt.ite_of (.some h) (.some (kept_loseCoolant h.of_eq))
  | coldStart => exact kept_execColdStart h
  | powerOnResetExit => exact KeptOpt.ite_of (.some h) (.some (kept_startBoot h.of_eq))
  | rindReset => exact KeptOpt.ite_of (.some h) (.some (kept_diesOff h).of_eq)
  | resetL => exact kept_execResetL h
  | bootStepAttempt => exact kept_execBootStepAttempt h
  | bootStepTimeout => exact kept_execBootStepTimeout h
  | readData => exact kept_execReadData h
  | writeAck => exact kept_execWriteAck h
  | atomicData => exact kept_execAtomicData h
  | pressReply => exact kept_execPressReply h
  | commandAck => exact kept_execCommandAck h
  | recallAnswer => exact kept_execRecallAnswer h
  | pass1Partial => exact kept_execPass1Partial h
  | scrubPassEnd => exact kept_execScrubPassEnd h
  | illegalInstruction => exact KeptOpt.ite_of (kept_issue h (fun _ _ _ h1 => h1)) (.some h)
  | instructionFetch => exact kept_execInstructionFetch h

/-! ### The tick -/

theorem keptCore_coreTick {d : Nat} {c : Core} (w : KeptCore p c) : KeptCore p (coreTick d c) := by
  unfold coreTick
  extract_lets s cc s1 c1 c2
  have h2 : KeptCore p c2 := keptCore_foldl (fun c t w => by
    split
    · exact keptCore_pmcEvent w
    · split
      · exact keptCore_pmcEvent w
      · exact w) (keptCore_pmcEvent w.of_eq)
  exact ⟨h2.thr, keptList_map (fun _ => rfl) h2.slots, keptList_map (fun _ => rfl) h2.chans, keptList_map (fun _ => rfl) h2.rings, h2.mem⟩

theorem keptCore_quarantineTick {c : Core} (w : KeptCore p c) : KeptCore p (quarantineTick c) := by
  unfold quarantineTick
  exact w.of_eq

theorem kept_workTick {σ : State} (h : Kept p σ) : Kept p (workTick σ) :=
  kept_settleOrders ⟨keptCores_map h.cores (fun _ w => keptCore_coreTick w), h.hbm, h.comp, h.queue⟩

theorem kept_rindTick {σ : State} (h : Kept p σ) : Kept p (rindTick σ) :=
  ⟨keptCores_map h.cores (fun _ w => keptCore_quarantineTick w), h.hbm, h.comp, h.queue⟩

theorem kept_tickStep {σ : State} (h : Kept p σ) : Kept p (tickStep σ) :=
  kept_ite h (kept_stateChoice (kept_ite (kept_enterService (kept_takeRequests (kept_ite (kept_workTick (kept_rindTick h))
    (kept_rindTick h)))) (kept_takeRequests (kept_ite (kept_workTick (kept_rindTick h)) (kept_rindTick h)))))

theorem kept_idle {σ : State} (h : Kept p σ) : Kept p (idle σ) := by
  unfold idle
  split
  · exact kept_ite (kept_runWake h.of_eq) (kept_tickStep h)
  · exact kept_tickStep h

end

/-- A step keeps the order of lists and the canonical form of memories, each where it held before, and takes the command it executes off the
queue. -/
theorem step_keeps {order memory : Prop} {s t : State} (ho : order → s.ordered = true) (hm : memory → s.memWf = true)
    (e : step s = .next t) : (order → t.ordered = true) ∧ (memory → t.memWf = true) ∧ t.pending = s.pending.tail := by
  have start (q : List Instr) : Kept ⟨order, memory, q⟩ { s with pending := q } := kept_iff.2 ⟨ho, hm, rfl⟩
  rw [step] at e
  split at e
  · next empty =>
    have kept : Kept ⟨order, memory, []⟩ (idle s) := kept_idle (kept_iff.2 ⟨ho, hm, empty⟩)
    cases e
    rw [empty]
    exact kept_iff.1 kept
  · next c r queue =>
    rw [queue]
    exact kept_iff.1 ((kept_exec (start r)).each t (by rw [e]))

end Sys2Proof.Machine
end

section
open Sys2Proof Sys2Proof.Machine

/-- Settles O4, from the walk through the model that `step_keeps` ends. -/
theorem stepKeepsMemoryCanonical : Obligations.StepKeepsMemoryCanonical := by
  unfold Obligations.StepKeepsMemoryCanonical
  intro s t order memory e
  obtain ⟨-, canonical, -⟩ := step_keeps (order := True) (memory := True) (fun _ => order) (fun _ => memory) e
  exact canonical trivial
end

section
/-! PROOFS. Loads from the own scratchpad (O19). -/

namespace Sys2Proof.Machine
open Sys2Proof.Claims

/-! ### What a load from the own scratchpad gives -/

/-- A read lists the bytes of the rising addresses. -/
theorem readBytes_eq_map (m : List Host.Cell) (a n : Nat) : readBytes m a n = (List.range n).map (fun i => mget 0#8 m (a + i)) := by
  induction n generalizing a with
  | zero => rfl
  | succ n ih =>
    rw [readBytes, ih, List.range_succ_eq_map, List.map_cons, List.map_map]
    simp [Function.comp_def, Nat.add_assoc, Nat.add_comm 1]

/-- The sign extension of an n-byte number to 64 bits is the word of the number taken as signed. -/
theorem sextBytes_eq {n : Nat} (hn : n ≤ 8) (v : Nat) :
    sextBytes n v = BitVec.ofInt 64 (if v < 2 ^ (8 * n - 1) then (v : Int) else (v : Int) - 2 ^ (8 * n)) := by
  have le : 2 ^ (8 * n) ≤ 2 ^ 64 := Nat.pow_le_pow_right (by decide) (by omega)
  unfold sextBytes
  by_cases h : v < 2 ^ (8 * n - 1)
  · rw [if_neg (Nat.not_le.mpr h), if_pos h, BitVec.ofInt_natCast]
  · rw [if_pos (Nat.not_lt.mp h), if_neg h]
    have e : ((v + 2 ^ 64 - 2 ^ (8 * n) : Nat) : Int) = (v : Int) - 2 ^ (8 * n) + 2 ^ 64 := by
      rw [Nat.cast_sub (by omega)]; push_cast; ring
    rw [← BitVec.ofInt_natCast, e]
    apply BitVec.eq_of_toInt_eq
    rw [BitVec.toInt_ofInt, BitVec.toInt_ofInt]
    exact Int.add_bmod_right ..

/-- Without watchpoints no access matches one. -/
theorem watch_none {σ : State} {L : Nat} (h : (getCore σ L).dbg.wp = []) (t va n : Nat) (rd wr : Bool) : watch σ L t va n rd wr = σ := by
  have off : (List.range 4).find? (fun _ => false) = none := rfl
  simp [watch, h, Wp.off, off]

/-- Bytes that lie in the own scratchpad are looked for there. -/
theorem rangeOf_own (σ : State) (L : Nat) {va n : Nat} (h : va + n ≤ 0x280000) : rangeOf σ L va n = .spad L va := if_pos h

/-- A read of the own scratchpad is never denied. -/
theorem r53Denies_own_read (σ : State) (L off n : Nat) (mode : Mode) : r53Denies σ L L off n mode false = false := by
  simp [r53Denies]

/-- The bytes [a, a + n) of core L's scratchpad are free of errors, and no watchpoint of the core is set. -/
structure Clean (σ : State) (L a n : Nat) : Prop where
  cores : rising σ.cores = true
  whole : badIn (getCore σ L).spad.ue a n = []
  clean : badIn (getCore σ L).spad.ce a n = []
  watch : (getCore σ L).dbg.wp = []

/-- A load writes the extended bytes to rd, and with `acq` the core then acquires (R58, R274). -/
theorem loadBody_own {σ : State} {L a n : Nat} (c : Clean σ L a n) (inside : a + n ≤ 0x280000) (aligned : a % n = 0)
    (sext acq : Bool) (rd : BitVec 5) (t : Nat) :
    loadBody a n sext acq rd σ L t =
      .done (if acq then modCore (wg σ L t rd (loadVal (readBytes (getCore σ L).spad.mem a n) sext)) L acquire
        else wg σ L t rd (loadVal (readBytes (getCore σ L).spad.mem a n) sext)) .seq := by
  have meet : spadMeet σ L a n = σ := by simp only [spadMeet, c.clean]
  have wp (v : Word) : (getCore (wg σ L t rd v) L).dbg.wp = [] := by
    rw [wg, modT, modCore, getCore_setCore c.cores]; exact c.watch
  simp [loadBody, aligned, rangeOf_own σ L inside, r53Denies_own_read, spadRead, c.whole, meet, watch_none (wp _)]

/-! ### The instructions -/

/-- Counting the issue changes performance counters only. -/
theorem getCore_counted {s : State} (o : s.ordered = true) (x : Issue) (a : Att) :
    ∃ p, getCore (counted s x a) x.core.toNat = { getCore s x.core.toNat with perf := p } := by
  obtain ⟨p, hp⟩ := countIssue_perf (getCore s x.core.toNat) x.thread.toNat a
  exact ⟨p, hp ▸ getCore_setCore (rising_of_ordered o) _ _⟩

section
variable {x : Issue} {s : State} {a n : Nat} {w : Bool}

theorem clean_before (b : Before x attMem s) (watch : noWatch s x) (l : Local s x a n w) : Clean s x.core.toNat a n :=
  ⟨rising_of_ordered b.order, l.whole, l.clean, watch⟩

theorem clean_counted (b : Before x attMem s) (watch : noWatch s x) (l : Local s x a n w) :
    Clean (counted s x attMem) x.core.toNat a n := by
  obtain ⟨p, hp⟩ := getCore_counted b.order x attMem
  exact ⟨rising_setCore (rising_of_ordered b.order) _ _, by rw [hp]; exact l.whole, by rw [hp]; exact l.clean, by rw [hp]; exact watch⟩

/-- The word that a load of the n bytes at address a gives: its bytes least significant first, extended by the sign bit (R10, R58). -/
def loadWord (s : State) (x : Issue) (a n : Nat) (sign : Bool) : Word :=
  let v := ofBytes (spadBytes s x a n)
  if sign then BitVec.ofInt 64 (if v < 2 ^ (8 * n - 1) then (v : Int) else (v : Int) - 2 ^ (8 * n)) else BitVec.ofNat 64 v

theorem loadVal_readBytes (s : State) (x : Issue) (a : Nat) (hn : n ≤ 8) (sign : Bool) :
    loadVal (readBytes (Claims.core s x).spad.mem a n) sign = loadWord s x a n sign := by
  rw [loadVal, length_readBytes, sextBytes_eq hn, readBytes_eq_map]
  rfl

/-- A load from the own scratchpad in the state in which it runs. -/
theorem loadBody_counted (b : Before x attMem s) (watch : noWatch s x) (l : Local s x a n false) (hn : n ≤ 8) (aligned : a % n = 0)
    (sign acq : Bool) (rd : BitVec 5) :
    loadBody a n sign acq rd (counted s x attMem) x.core.toNat x.thread.toNat =
      .done (if acq then modCore (wg (counted s x attMem) x.core.toNat x.thread.toNat rd (loadWord s x a n sign)) x.core.toNat acquire
        else wg (counted s x attMem) x.core.toNat x.thread.toNat rd (loadWord s x a n sign)) .seq := by
  obtain ⟨p, hp⟩ := getCore_counted b.order x attMem
  rw [loadBody_own (clean_counted b watch l) l.inside aligned, hp]
  simp only [← loadVal_readBytes s x a hn sign]

/-- A load from the own scratchpad is never held. -/
theorem loadBody_not_held (b : Before x attMem s) (watch : noWatch s x) (l : Local s x a n false) (aligned : a % n = 0)
    (sign acq : Bool) (rd : BitVec 5) (σ : State) : loadBody a n sign acq rd s x.core.toNat x.thread.toNat ≠ .hold σ := by
  rw [loadBody_own (clean_before b watch l) l.inside aligned]
  exact nofun

/-- Acquiring leaves a quiet core quiet. -/
theorem Quiet.acquire {c : Core} (q : Quiet c) : Quiet (acquire c) :=
  ⟨q.slots, q.chans, q.queue, q.waiters, q.dying, q.rings, q.vc2, q.outq, q.waits, q.fences, q.cmo, q.entries, q.asks⟩

/-- An instruction whose body changes the own core alone, to c, and leaves it quiet and its thread free to go on: the thread goes on, and
nothing else changes. -/
theorem issue_core {x : Issue} {a : Att} {s σ : State} {c : Core} {body : State → Nat → Nat → IRes} {nx : Nx} (b : Before x a s)
    (hh : ∀ σ, body s x.core.toNat x.thread.toNat ≠ .hold σ)
    (hb : body (counted s x a) x.core.toNat x.thread.toNat = .done σ nx) (oσ : rising σ.cores = true) (only : OnlyCore s σ x.core.toNat c)
    (ot : rising c.thr = true) (he : (getCore s x.core.toNat).sup.evq = c.sup.evq) (q : Quiet c) (p : Plain (getThr c x.thread.toNat))
    (hr : (getThr c x.thread.toNat).st = .ready)
    (others : ∀ u, u ≠ x.thread.toNat → (getThr c u).st = (getThr (getCore s x.core.toNat) u).st) :
    ∃ t, issue x a s body = .next t ∧
      OnlyCore s t x.core.toNat (setThr c x.thread.toNat (after (getThr c x.thread.toNat) nx)) := by
  obtain ⟨core, cores, rest⟩ := only
  have thread : thrOf σ x.core.toNat x.thread.toNat = getThr c x.thread.toNat := by rw [thrOf, core]
  have press : PressRest σ := b.press.of (show ({ σ with cores := s.cores } : State).press = s.press by rw [rest])
  have stays : ∀ u < 16, (getThr (getCore s x.core.toNat) u).st = .faultWait →
      (getThr (setThr c x.thread.toNat (after (getThr c x.thread.toNat) nx)) u).st = .faultWait := fun u _ hw => by
    by_cases e : u = x.thread.toNat
    · exact absurd b.runs.ready (by rw [thrOf, ← e, hw]; exact nofun)
    · rw [getThr_setThr_other _ _ e, others u e, hw]
  obtain ⟨t, ht, same⟩ := issue_done b.runs hh hb oσ press (by rw [core]; exact he) (by rw [core]; exact ot) (by rw [thread]; exact p)
    (by rw [thread]; exact hr) (by rw [core]; exact q) (by rw [core, thread]; exact leftWait_quiet b.quiet.waits stays)
  refine ⟨t, ht, ?_, fun K hK => ?_, ?_⟩
  · rw [same.cores, modT, modCore, getCore_setCore oσ, modThr, core]
  · rw [same.cores, modT, modCore, getCore_setCore_other _ _ hK, cores K hK]
  · exact (congrArg (fun z : State => { z with cores := s.cores }) same.rest).trans rest

/-- Writing v to rd and acquiring, in the state in which the body runs, change the own core alone. -/
theorem onlyCore_wg_acquire (o : s.ordered = true) (rd : BitVec 5) (v : Word) :
    ∃ p, OnlyCore s (modCore (wg (counted s x attMem) x.core.toNat x.thread.toNat rd v) x.core.toNat acquire) x.core.toNat
      (setThr (acquire { getCore s x.core.toNat with perf := p }) x.thread.toNat (setG (thr s x) rd.toNat v)) := by
  have rise := rising_of_ordered o
  obtain ⟨p, hp⟩ := getCore_counted o x attMem
  have write : getCore (wg (counted s x attMem) x.core.toNat x.thread.toNat rd v) x.core.toNat =
      setThr { getCore s x.core.toNat with perf := p } x.thread.toNat (setG (thr s x) rd.toNat v) :=
    (getCore_setCore (rising_setCore rise _ _) _ _).trans (by rw [hp]; rfl)
  refine ⟨p, ?_, fun K hK => ?_, rfl⟩
  · exact (getCore_setCore (rising_setCore (rising_setCore rise _ _) _ _) _ _).trans (by rw [write]; rfl)
  · simp only [modT, modCore, wg, counted, getCore_setCore_other _ _ hK]

/-- An instruction that writes v to rd and then acquires: the core has acquired, and of the rest its thread alone has changed. -/
theorem acquire_to {i : Instr} {rd : BitVec 5} {v : Word} {body : State → Nat → Nat → IRes} (b : Before x attMem s)
    (he : exec i s = issue x attMem s body) (hh : ∀ σ, body s x.core.toNat x.thread.toNat ≠ .hold σ)
    (hb : body (counted s x attMem) x.core.toNat x.thread.toNat =
      .done (modCore (wg (counted s x attMem) x.core.toNat x.thread.toNat rd v) x.core.toNat acquire) .seq) :
    StateTo i x s (modCore s (co x) acquire) (after (setG (thr s x) rd.toNat v) .seq) := by
  have o := rising_of_ordered b.order
  have oc := core_ordered b.order x.core.toNat
  simp only [Core.ordered, Bool.and_eq_true] at oc
  obtain ⟨p, only⟩ := onlyCore_wg_acquire (x := x) b.order rd v
  have ot : rising (acquire { getCore s x.core.toNat with perf := p }).thr = true := oc.1.1.1.1
  obtain ⟨st, fences, dbg, stop, entry, -⟩ := setG_keeps (thr s x) rd.toNat v
  have plain : Plain (setG (thr s x) rd.toNat v) :=
    ⟨dbg ▸ b.plain.pend, dbg ▸ b.plain.stepping, stop ▸ b.plain.stop, entry ▸ b.plain.entry⟩
  have ready : (setG (thr s x) rd.toNat v).st = .ready := st.trans b.runs.ready
  have quiet := (b.quiet.perf p).acquire.setThr (t := x.thread.toNat) ot (by rw [ready]; exact nofun)
    (fences.trans (b.quiet.fences _ x.thread.isLt)) plain
  have thread := getThr_setThr ot x.thread.toNat (setG (thr s x) rd.toNat v)
  obtain ⟨t, ht, core, cores, rest⟩ := issue_core b hh hb (rising_setCore (rising_setCore (rising_setCore o _ _) _ _) _ _) only
    (rising_setThr ot _ _) rfl quiet (by rw [thread]; exact plain) (by rw [thread]; exact ready)
    (fun u hu => by rw [getThr_setThr_other _ _ hu]; rfl)
  rw [thread] at core
  have acquired : getCore (modCore s x.core.toNat acquire) x.core.toNat = acquire (getCore s x.core.toNat) := getCore_setCore o _ _
  refine ⟨t, he.trans ht, ?_, fun k hk => ?_, ?_, fun K hK => ?_, ?_⟩
  · rw [thrOf, core]
    exact getThr_setThr (rising_setThr ot _ _) _ _
  · rw [thrOf, core, thrOf, acquired, getThr_setThr_other _ _ hk, getThr_setThr_other _ _ hk]
    rfl
  · rw [core, acquired]
    rfl
  · rw [cores K hK, modCore, getCore_setCore_other _ _ hK]
  · exact congrArg (fun z : State => { z with cores := (modCore s x.core.toNat acquire).cores }) rest

/-- A plain load from the own scratchpad. -/
theorem load_to {i : Instr} {rd : BitVec 5} {sign : Bool} {body : State → Nat → Nat → IRes} (b : Before x attMem s) (watch : noWatch s x)
    (l : Local s x a n false) (hn : n ≤ 8) (aligned : a % n = 0) (he : exec i s = issue x attMem s body)
    (at_issue : body s x.core.toNat x.thread.toNat = loadBody a n sign false rd s x.core.toNat x.thread.toNat)
    (at_run : body (counted s x attMem) x.core.toNat x.thread.toNat =
      loadBody a n sign false rd (counted s x attMem) x.core.toNat x.thread.toNat) :
    ThreadTo i x s (after (setG (thr s x) rd.toNat (loadWord s x a n sign)) .seq) := by
  refine thread_to b (fun h => setG h rd.toNat (loadWord s x a n sign)) he (fun σ => ?_) ?_ (fun h => ?_)
  · rw [at_issue]; exact loadBody_not_held b watch l aligned sign false rd σ
  · rw [at_run]; exact loadBody_counted b watch l hn aligned sign false rd
  · obtain ⟨st, fences, dbg, stop, entry, -⟩ := setG_keeps h rd.toNat (loadWord s x a n sign)
    exact ⟨st, fences, dbg, stop, entry⟩

/-- An acquiring load from the own scratchpad. -/
theorem load_acquire_to {i : Instr} {rd : BitVec 5} {sign : Bool} {body : State → Nat → Nat → IRes} (b : Before x attMem s)
    (watch : noWatch s x) (l : Local s x a n false) (hn : n ≤ 8) (aligned : a % n = 0) (he : exec i s = issue x attMem s body)
    (at_issue : body s x.core.toNat x.thread.toNat = loadBody a n sign true rd s x.core.toNat x.thread.toNat)
    (at_run : body (counted s x attMem) x.core.toNat x.thread.toNat =
      loadBody a n sign true rd (counted s x attMem) x.core.toNat x.thread.toNat) :
    StateTo i x s (modCore s (co x) acquire) (after (setG (thr s x) rd.toNat (loadWord s x a n sign)) .seq) := by
  refine acquire_to b he (fun σ => ?_) ?_
  · rw [at_issue]; exact loadBody_not_held b watch l aligned sign true rd σ
  · rw [at_run]; exact loadBody_counted b watch l hn aligned sign true rd

end

/-- A legal form of a load has the attributes of every memory instruction. -/
theorem attMem_of_legal {size : BitVec 2} {sign : Bool} (h : (sign && size == 3#2) = false) :
    { attMem with legal := loadLegal size sign } = attMem := by
  rw [loadLegal, h]; rfl

/-- A size field names at most 8 bytes. -/
theorem szBytes_le (size : BitVec 2) : szBytes size ≤ 8 :=
  Nat.pow_le_pow_right (j := 3) (by decide) (by have := size.isLt; omega)

end Sys2Proof.Machine

section
open Sys2Proof Sys2Proof.Machine Sys2Proof.Claims

/-- Settles O19: in both states in which the body is evaluated the address is the same, and the load completes at once. -/
theorem localLoads : Obligations.LocalLoads := by
  unfold Obligations.LocalLoads
  intro x rd rs1 rs2 size sign scale imm s b watch legal
  have att := attMem_of_legal legal
  have run := rg_counted (x := x) (a := attMem) b.order
  refine ⟨fun aligned l => ⟨?_, ?_⟩, fun aligned l => ?_⟩
  · refine load_to b watch l (szBytes_le size) aligned (congrArg (issue x · s _) att) rfl ?_
    simp only [run]; rfl
  · refine load_acquire_to b watch l (szBytes_le size) aligned (congrArg (issue x · s _) att) rfl ?_
    simp only [run]; rfl
  · refine load_to b watch l (szBytes_le size) aligned (congrArg (issue x · s _) att) rfl ?_
    simp only [run]; rfl
end
end

section
/-! PROOFS. Stores to a scratchpad that is not in its canonical form (O20). -/

namespace Sys2Proof.Machine
open Sys2Proof.Claims

/-- Core 0 with thread 1 READY, its caches free, whose scratchpad lists the byte 7 of address 0 behind the byte 1 of address 1. -/
def unorderedCore : Core :=
  { setThr { Core.reset with cache := { Caches.reset with dcBusy := false, icBusy := false } } 1
      { Thread.reset with st := .ready, mode := .supervisor, pc := 0x10000001000#64 } with
    spad := { Core.reset.spad with mem := [(1, 1#8), (0, 7#8)] } }

/-- The running module whose core 0 lists its scratchpad out of order. -/
def unorderedMemory : State :=
  { State.reset with
    power := { Power.reset with st := 0 }, boot := { Boot.reset with modState := 2, rom := 0 }, cores := [(0, unorderedCore)] }

/-- Thread 1 of core 0 issues. -/
def issueAt1 : Issue := { core := 0#13, thread := 1#4, cond := 0#4 }

/-- The state meets every premise of a store of one byte at address 0: none of them asks for the canonical form of the memory. -/
theorem before_unorderedMemory : Before issueAt1 attMem unorderedMemory where
  order := by decide
  press := fun e he => absurd he (List.not_mem_nil (a := e))
  quiet := by constructor <;> decide
  runs := by constructor <;> decide
  plain := by constructor <;> decide

theorem local_unorderedMemory : Local unorderedMemory issueAt1 0 1 true := by constructor <;> decide

/-- The store of the zero register at address 0 leaves that address reading 7: the map takes the listing to end before it. -/
theorem store_zero_keeps_seven {t : State} (h : exec (.st issueAt1 0#5 0#5 0#2 false 0#9) unorderedMemory = .next t) :
    mget 0#8 (Claims.core t issueAt1).spad.mem 0 = 7#8 := by
  have seven : (match exec (.st issueAt1 0#5 0#5 0#2 false 0#9) unorderedMemory with
      | .next t => decide (mget 0#8 (Claims.core t issueAt1).spad.mem 0 = 7#8)
      | _ => true) = true := by decide +kernel
  rw [h] at seven
  exact of_decide_eq_true seven

end Sys2Proof.Machine

section
open Sys2Proof Sys2Proof.Machine Sys2Proof.Claims

/-- Refutes O20: the premises do not ask for a memory in its canonical form, and on a scratchpad listed out of order the store of a
zero byte finds no entry to remove, so that the address keeps the byte it had. -/
theorem not_localStores : ¬ Obligations.LocalStores := by
  unfold Obligations.LocalStores
  intro h
  obtain ⟨at_zero, -⟩ := h issueAt1 0#5 0#5 0#5 0#2 false 0#9 unorderedMemory before_unorderedMemory rfl
  obtain ⟨t, ht, stored⟩ := at_zero (by decide) local_unorderedMemory
  have zero : mget 0#8 (Claims.core t issueAt1).spad.mem 0 = 0#8 := stored.bytes 0
  exact absurd ((store_zero_keeps_seven ht).symm.trans zero) (by decide)
end
end

section
open Sys2Proof Sys2Proof.Machine

/-- Settles O5: the walk through the model that `step_keeps` ends carries the order of the lists by itself. Unlike the canonical form of
the memories (O4) it needs no second premise, so no form of the memories is asked for. -/
theorem stepKeepsOrder : Obligations.StepKeepsOrder := by
  unfold Obligations.StepKeepsOrder
  intro s t order e
  obtain ⟨ordered, -, -⟩ := step_keeps (order := True) (memory := False) (fun _ => order) False.elim e
  exact ordered trivial
end

section
/-! PROOFS. How the body of an instruction runs, said once: what it sees of its core, and what follows when it completes, changes its own
thread, or raises a fault. -/

namespace Sys2Proof.Machine
open Sys2Proof.Claims

/-- The core of an issue slot is in σ as in s but for its performance counters: what an instruction's body sees, at issue and when the issue
is counted. -/
def Sees (s : State) (x : Issue) (σ : State) : Prop := ∃ p, getCore σ (co x) = { Claims.core s x with perf := p }

section
variable {s σ : State} {x : Issue} {a : Att}

theorem Sees.self : Sees s x s := ⟨_, rfl⟩

theorem Sees.counted (o : s.ordered = true) : Sees s x (counted s x a) := getCore_counted o x a

theorem Sees.thread (h : Sees s x σ) : thrOf σ (co x) (th x) = thr s x := by
  obtain ⟨p, hp⟩ := h
  rw [thrOf, hp]
  rfl

theorem Sees.reg (h : Sees s x σ) (r : BitVec 5) : rg σ (co x) (th x) r = reg s x r := by rw [rg, h.thread]

theorem Sees.isSup (h : Sees s x σ) : isSup σ (co x) (th x) = decide ((thr s x).mode = .supervisor) := by rw [Machine.isSup, h.thread]

theorem Sees.serialBusy (h : Sees s x σ) : serialBusy (getCore σ (co x)) (th x) = serialBusy (Claims.core s x) (th x) := by
  obtain ⟨p, hp⟩ := h
  rw [hp]
  rfl

/-- Counting the issue changes the own core alone. -/
theorem onlyCore_counted (o : s.ordered = true) (x : Issue) (a : Att) :
    ∃ p, OnlyCore s (Machine.counted s x a) (co x) { getCore s (co x) with perf := p } := by
  obtain ⟨p, hp⟩ := getCore_counted o x a
  exact ⟨p, hp, fun K hK => getCore_setCore_other _ _ hK, rfl⟩

/-- Every core lists its threads in order. -/
theorem threads_rising (o : s.ordered = true) (L : Nat) : rising (getCore s L).thr = true := by
  have oc := core_ordered o L
  simp only [Core.ordered, Bool.and_eq_true] at oc
  exact oc.1.1.1.1

/-- A change of one thread in a core whose performance counters have changed. -/
theorem OnlyCore.onlyThread {t : State} {L n : Nat} {p : Perf} {h : Thread} (o : s.ordered = true)
    (k : OnlyCore s t L (setThr { getCore s L with perf := p } n h)) : OnlyThread s t L n h := by
  obtain ⟨core, others, rest⟩ := k
  refine ⟨?_, fun k hk => ?_, ?_, others, rest⟩
  · rw [thrOf, core]
    exact getThr_setThr (c := { getCore s L with perf := p }) (threads_rising o L) n h
  · rw [thrOf, core, getThr_setThr_other _ _ hk]
    rfl
  · rw [core]
    rfl

variable {i : Instr} {nx : Nx} {body : State → Nat → Nat → IRes}

/-- An instruction that changes no state: its thread goes on by nx. -/
theorem goes_to (b : Before x a s) (he : exec i s = issue x a s body)
    (hb : ∀ σ, Sees s x σ → body σ (co x) (th x) = .done σ nx) : ThreadTo i x s (after (thr s x) nx) := by
  obtain ⟨p, only⟩ := onlyCore_counted b.order x a
  obtain ⟨t, ht, only⟩ := issue_core b (by rw [hb s .self]; exact fun _ => nofun) (hb _ (.counted b.order))
    (rising_setCore (rising_of_ordered b.order) _ _) only (threads_rising b.order _) rfl (b.quiet.perf p) b.plain b.runs.ready (fun _ _ => rfl)
  exact ⟨t, he.trans ht, only.onlyThread b.order⟩

/-- The threads that f gives stand as they do: READY or not, with the same fences, debug requests and entry. -/
def KeepsPlace (f : Thread → Thread) : Prop :=
  ∀ h : Thread, (f h).st = h.st ∧ (f h).fences = h.fences ∧ (f h).dbg = h.dbg ∧ (f h).stopPend = h.stopPend ∧ (f h).entry = h.entry

theorem keepsPlace_setG (r : Nat) (v : Word) : KeepsPlace (fun h => setG h r v) := fun h => by
  obtain ⟨st, fences, dbg, stop, entry, -⟩ := setG_keeps h r v
  exact ⟨st, fences, dbg, stop, entry⟩

/-- An instruction that changes its thread by f, and goes on by nx. -/
theorem changes_to (b : Before x a s) (f : Thread → Thread) (he : exec i s = issue x a s body) (hf : KeepsPlace f)
    (hb : ∀ σ, Sees s x σ → body σ (co x) (th x) = .done (modT σ (co x) (th x) f) nx) : ThreadTo i x s (after (f (thr s x)) nx) :=
  thread_to b f he (by rw [hb s .self]; exact fun _ => nofun) (hb _ (.counted b.order)) hf

/-- An instruction that writes v to a register. -/
theorem setG_to {rd : BitVec 5} (v : Word) (b : Before x a s) (he : exec i s = issue x a s body)
    (hb : ∀ σ, Sees s x σ → body σ (co x) (th x) = .done (wg σ (co x) (th x) rd v) nx) :
    ThreadTo i x s (after (setG (thr s x) rd.toNat v) nx) :=
  changes_to b (fun h => setG h rd.toNat v) he (keepsPlace_setG rd.toNat v) hb

/-- An instruction that raises a fault raises it with its issue counted. -/
theorem raises_to {f : FInfo} (r : Ready x a s) (he : exec i s = issue x a s body)
    (hb : ∀ σ, Sees s x σ → body σ (co x) (th x) = .exc σ f) : Raises i x s (Machine.counted s x a) f := by
  have runs := issue_runs (body := body) r.runs (by rw [hb s .self]; exact fun _ => nofun)
  rw [hb _ (.counted r.order)] at runs
  exact he.trans runs

/-- An instruction that takes the state in which its issue is counted to σ, and goes on by nx. -/
theorem does_to {z : State} (r : Ready x a s) (he : exec i s = issue x a s body)
    (hh : ∀ σ, body s (co x) (th x) ≠ .hold σ) (hb : body (Machine.counted s x a) (co x) (th x) = .done z nx) : Does i x s z nx := by
  have runs := issue_runs (body := body) r.runs hh
  rw [hb] at runs
  exact he.trans runs

theorem ready_of_before (b : Before x a s) : Ready x a s := ⟨b.order, b.runs⟩

/-- Attributes that are equal issue alike. -/
theorem issue_att {a' : Att} (h : a = a') : issue x a s body = issue x a' s body := by rw [h]

end

/-- A word is a multiple of 4 where its low two bits are zero. -/
theorem bits_low_two (a : Word) : bits a 1 0 = a.toNat % 4 := by
  simp [bits]

end Sys2Proof.Machine
end

section
/-! PROOFS. The register file (O7). -/

open Sys2Proof Sys2Proof.Machine

/-- Settles O7. -/
theorem registerFile : Obligations.RegisterFile := by
  unfold Obligations.RegisterFile
  intro h r q v order
  simp only [Thread.ordered, Bool.and_eq_true] at order
  refine ⟨greg_zero h, setG_zero h v, ?_⟩
  by_cases zero : q = 0
  · rw [if_pos zero, zero, greg_zero]
  · by_cases same : q = r
    · rw [if_neg zero, if_pos same, ← same, greg_setG order.1 zero]
    · rw [if_neg zero, if_neg same, greg_setG_other h same]
end

section
/-! PROOFS. Scalar arithmetic (O8). -/

namespace Sys2Proof.Machine
open Sys2Proof.Claims

/-! ### The results of the arithmetic as the statements write them -/

theorem ite_slt (a b p q : Word) : (if a.slt b then p else q) = if a.toInt < b.toInt then p else q := by
  simp only [BitVec.slt_iff_toInt_lt]

theorem ite_ult (a b p q : Word) : (if a.ult b then p else q) = if a.toNat < b.toNat then p else q := by
  simp only [BitVec.ult_iff_lt, BitVec.lt_def]

theorem mul_eq_ofInt (a b : Word) : a * b = BitVec.ofInt 64 (a.toInt * b.toInt) := by
  rw [BitVec.ofInt_mul, BitVec.ofInt_toInt, BitVec.ofInt_toInt]

theorem sdiv_eq_ofInt (a b : Word) : a.sdiv b = BitVec.ofInt 64 (a.toInt.tdiv b.toInt) := by
  apply BitVec.eq_of_toInt_eq
  rw [BitVec.toInt_sdiv, BitVec.toInt_ofInt]

theorem srem_eq_ofInt (a b : Word) : a.srem b = BitVec.ofInt 64 (a.toInt.tmod b.toInt) := by
  rw [← BitVec.toInt_srem, BitVec.ofInt_toInt]

theorem udiv_eq_ofNat (a b : Word) : a / b = BitVec.ofNat 64 (a.toNat / b.toNat) := by
  rw [← BitVec.toNat_udiv, BitVec.ofNat_toNat, BitVec.setWidth_eq]

theorem umod_eq_ofNat (a b : Word) : a % b = BitVec.ofNat 64 (a.toNat % b.toNat) := by
  rw [← BitVec.toNat_umod, BitVec.ofNat_toNat, BitVec.setWidth_eq]

/-- A signed division overflows by zero and in the corner −2⁶³ by −1, an unsigned one by zero (R81). -/
theorem divV_signed (a b : Word) :
    divV a b true = (decide (b = 0#64) || (decide (a.toInt = -2 ^ 63) && decide (b.toInt = -1))) := by
  have low : (a = 0x8000000000000000#64) = (a.toInt = -2 ^ 63) := propext (BitVec.toInt_inj (y := 0x8000000000000000#64)).symm
  have one : (b = 0xFFFFFFFFFFFFFFFF#64) = (b.toInt = -1) := propext (BitVec.toInt_inj (y := 0xFFFFFFFFFFFFFFFF#64)).symm
  simp only [divV, low, one, Bool.true_and]

theorem divV_unsigned (a b : Word) : divV a b false = decide (b = 0#64) := by simp [divV]

/-- An immediate-form ALU instruction is a register form that takes no second register. -/
theorem aluI_to {i : Instr} {x : Issue} {rd rs1 : BitVec 5} {v : Word} {sb : Bool} {g : Word → Word → Alu} {s : State} (b : Before x attAlu s)
    (he : exec i s = aluI x rd rs1 v sb g s) :
    ThreadTo i x s (aluTo (thr s x) rd sb (g (reg s x rs1) v).val (g (reg s x rs1) v).c (g (reg s x rs1) v).v) :=
  aluR_to (rs2 := rs1) (g := fun a _ => g a v) b he

end Sys2Proof.Machine

section
open Sys2Proof Sys2Proof.Machine Sys2Proof.Claims

theorem registerArithmetic : Claims.RegisterArithmetic := by
  intro x rd rs1 rs2 sb s b
  refine ⟨aluR_to (g := aluAdd) b rfl, aluR_to (g := aluSub) b rfl, aluR_to (g := fun a b => aluPlain (a &&& b)) b rfl,
    aluR_to (g := fun a b => aluPlain (a ||| b)) b rfl, aluR_to (g := fun a b => aluPlain (a ^^^ b)) b rfl,
    aluR_to (g := fun a b => aluPlain (a &&& ~~~b)) b rfl, aluR_to (g := fun a b => aluShl a (b.toNat % 64)) b rfl,
    aluR_to (g := fun a b => aluShr a (b.toNat % 64)) b rfl, aluR_to (g := fun a b => aluSar a (b.toNat % 64)) b rfl, ?_, ?_, ?_, ?_⟩
  · rw [← ite_slt]; exact aluR_to (g := fun a b => aluPlain (if a.slt b then a else b)) b rfl
  · rw [← ite_slt]; exact aluR_to (g := fun a b => aluPlain (if a.slt b then b else a)) b rfl
  · rw [← ite_ult]; exact aluR_to (g := fun a b => aluPlain (if a.ult b then a else b)) b rfl
  · rw [← ite_ult]; exact aluR_to (g := fun a b => aluPlain (if a.ult b then b else a)) b rfl

theorem multiplyAndDivide : Claims.MultiplyAndDivide := by
  intro x rd rs1 rs2 sb s b
  simp only [← divV_signed, ← mul_eq_ofInt, ← sdiv_eq_ofInt, ← srem_eq_ofInt, ← udiv_eq_ofNat, ← umod_eq_ofNat]
  refine ⟨aluR_to (g := aluMul) b rfl, aluR_to (g := fun a b => aluPlain (mulHi a b)) b rfl,
    aluR_to (g := fun a b => aluPlain (mulHiU a b)) b rfl, aluR_to (g := aluDiv) b rfl, ?_, aluR_to (g := aluRem) b rfl, ?_⟩
  · rw [← divV_unsigned]; exact aluR_to (g := aluDivu) b rfl
  · rw [← divV_unsigned]; exact aluR_to (g := aluRemu) b rfl

theorem immediateArithmetic : Claims.ImmediateArithmetic := by
  intro x rd rs1 imm amt sb s b
  exact ⟨aluI_to (g := aluAdd) b rfl, aluI_to (g := fun a b => aluPlain (a &&& b)) b rfl, aluI_to (g := fun a b => aluPlain (a ||| b)) b rfl,
    aluI_to (g := fun a b => aluPlain (a ^^^ b)) b rfl, aluI_to (v := 0#64) (g := fun a _ => aluShl a amt.toNat) b rfl,
    aluI_to (v := 0#64) (g := fun a _ => aluShr a amt.toNat) b rfl, aluI_to (v := 0#64) (g := fun a _ => aluSar a amt.toNat) b rfl⟩

/-- Settles O8. -/
theorem scalarArithmetic : Obligations.ScalarArithmetic := ⟨registerArithmetic, multiplyAndDivide, immediateArithmetic⟩
end
end

section
/-! PROOFS. Counts, comparisons, constants, predicates and the flags word (O9). -/

namespace Sys2Proof.Machine
open Sys2Proof.Claims

/-- A comparison of predicates with a code from 1 to 10 is a legal word. -/
theorem attPred_of_code {cc : BitVec 4} (low : 1 ≤ cc.toNat) (high : cc.toNat ≤ 10) :
    { attAlu with legal := decide (1 ≤ cc.toNat) && decide (cc.toNat ≤ 10) } = attAlu := by
  simp [low, high, attAlu]

/-- Bit k of a word, as the flags word and the predicates read it. -/
theorem nbit_toNat (a : Word) (k : Nat) : nbit a.toNat k = a.getLsbD k := by
  rw [nbit, BitVec.getLsbD, Nat.testBit_eq_decide_div_mod_eq, beq_eq_decide]

/-- The flags word holds V, C, Z, N, P0 and P1 in its bits 0 to 5, and nothing else (R48). -/
theorem flagsWord_bits (f : Flags) :
    let w := BitVec.ofNat 64 (flagsWord f)
    w.getLsbD 0 = f.v ∧ w.getLsbD 1 = f.c ∧ w.getLsbD 2 = f.z ∧ w.getLsbD 3 = f.n ∧ w.getLsbD 4 = f.p0 ∧ w.getLsbD 5 = f.p1 ∧
      w.toNat < 64 := by
  obtain ⟨n, z, c, v, p0, p1⟩ := f
  revert n z c v p0 p1
  decide

/-- An instruction that sets the flags of its thread by g. -/
theorem flags_to {i : Instr} {x : Issue} {s : State} {body : State → Nat → Nat → IRes} (b : Before x attAlu s) (g : Flags → Flags)
    (he : exec i s = issue x attAlu s body)
    (hb : ∀ σ, Sees s x σ → body σ (co x) (th x) = .done (modT σ (co x) (th x) (fun h => { h with flags := g h.flags })) .seq) :
    ThreadTo i x s (after { thr s x with flags := g (thr s x).flags } .seq) :=
  changes_to b (fun h => { h with flags := g h.flags }) he (fun _ => ⟨rfl, rfl, rfl, rfl, rfl⟩) hb

end Sys2Proof.Machine

section
open Sys2Proof Sys2Proof.Machine Sys2Proof.Claims

theorem countsComparisonsConstants : Claims.CountsComparisonsConstants := by
  intro x rd rs1 rs2 imm i17 i16 hw sb s b
  refine ⟨aluI_to (v := 0#64) (g := fun a _ => aluPlain (BitVec.ofNat 64 (clzW a))) b rfl,
    aluI_to (v := 0#64) (g := fun a _ => aluPlain (BitVec.ofNat 64 (ctzW a))) b rfl,
    aluI_to (v := 0#64) (g := fun a _ => aluPlain (BitVec.ofNat 64 (popW a))) b rfl,
    aluR_to (g := aluSub) b rfl, aluI_to (g := aluSub) b rfl, setG_to _ b rfl (fun _ _ => rfl), setG_to _ b rfl (fun σ h => ?_)⟩
  rw [← h.reg]

theorem predicatesAndFlagsWord : Claims.PredicatesAndFlagsWord := by
  intro x cc p rs1 rs2 imm s b low high
  have att := attPred_of_code low high
  refine ⟨?_, ?_, ⟨BitVec.ofNat 64 (flagsWord (thr s x).flags), setG_to _ b rfl (fun σ h => ?_), flagsWord_bits _⟩, ?_⟩
  · refine flags_to b (fun f => setPred f p (cmpHolds cc (reg s x rs1) (reg s x rs2))) (issue_att att) (fun σ h => ?_)
    rw [h.reg, h.reg]
  · refine flags_to b (fun f => setPred f p (cmpHolds cc (reg s x rs1) (imm.signExtend 64))) (issue_att att) (fun σ h => ?_)
    rw [h.reg]; rfl
  · rw [← h.thread]
  · simp only [← nbit_toNat]
    refine flags_to b (fun _ => flagsOf (reg s x rs1).toNat) rfl (fun σ h => ?_)
    rw [h.reg]

/-- Settles O9. -/
theorem scalarConstantsAndPredicates : Obligations.ScalarConstantsAndPredicates := ⟨countsComparisonsConstants, predicatesAndFlagsWord⟩
end
end

section
/-! PROOFS. Branches and where control goes (O10); an instruction whose condition is false (O11). -/

namespace Sys2Proof.Machine
open Sys2Proof.Claims

/-- Where its condition is false, an instruction does what one does that only goes on, a transfer through its slot (R44, R61). -/
theorem issue_skips {x : Issue} {a : Att} {s : State} {c : BitVec 4} (r : Runs { x with cond := 0#4 } a s)
    (no : condHolds (thr s x).flags c = false) (body : State → Nat → Nat → IRes) :
    issue { x with cond := c } a s body = issue { x with cond := 0#4 } a s (fun σ _ _ => .done σ (skipped (thr s x) a)) := by
  rw [issue_runs (body := fun σ _ _ => .done σ (skipped (thr s x) a)) r (fun _ => nofun)]
  obtain ⟨calm, issues, ctrl, ctx, inj, bp, skip, legal, seq, -⟩ := r
  have upset : upsetAll s x.core.toNat x.upsets = s := by rw [calm]; rfl
  have first : stopFirst s x.core.toNat x.thread.toNat = none := by
    simp only [stopFirst, ctrl, ctx, Bool.false_eq_true, if_false]
  simp only [thrOf] at inj bp skip seq no
  simp only [issue, upset, issues, first, inj, bp, skip, legal, seq, no, Bool.not_true, Bool.not_false, Bool.false_eq_true, if_false,
    if_true, reduceCtorEq]
  rfl

/-- An instruction whose condition is false changes nothing but the place of its thread. -/
theorem skips_to {i : Instr} {x : Issue} {a : Att} {s : State} {c : BitVec 4} {body : State → Nat → Nat → IRes}
    (b : Before { x with cond := 0#4 } a s) (no : condHolds (thr s x).flags c = false) (he : exec i s = issue { x with cond := c } a s body) :
    ThreadTo i x s (after (thr s x) (skipped (thr s x) a)) :=
  goes_to (x := { x with cond := 0#4 }) b (he.trans (issue_skips b.runs no body)) (fun _ _ => rfl)

/-! ### Where control goes -/

theorem after_slot {h : Thread} {target : Word} (slot : h.slot = some target) (nx : Nx) :
    (after h nx).pc = target ∧ (after h nx).slot = none := by
  simp only [after, advance, slot, and_self]

theorem after_xfer {h : Thread} (slot : h.slot = none) (target : Word) :
    (after h (.xfer target)).pc = h.pc + 4#64 ∧ (after h (.xfer target)).slot = some target := by
  simp only [after, advance, slot, and_self]

theorem after_goto {h : Thread} (slot : h.slot = none) (target : Word) : (after h (.goto target)).pc = target := by
  simp only [after, advance, slot]

theorem after_shadow {h : Thread} (slot : h.slot = none) : (after h .shadow).pc = h.pc + 4#64 ∧ (after h .shadow).shadow = true := by
  simp only [after, advance, slot, and_self]

/-- Outside a slot an instruction goes on where the loops say (R70). -/
theorem after_seq {h : Thread} (slot : h.slot = none) :
    (after h .seq).pc = (loopNext h).1 ∧ (after h .seq).loop0 = (loopNext h).2.1 ∧ (after h .seq).loop1 = (loopNext h).2.2 := by
  simp only [after, advance, slot]
  exact ⟨rfl, rfl, rfl⟩

/-- At the end of level 1 with a count above 1 the loop goes back to its start. -/
theorem loopNext_back1 {h : Thread} (active : h.loop1.lc ≠ 0#32) (ends : h.loop1.le = h.pc) (more : h.loop1.lc ≠ 1#32) :
    loopNext h = (h.loop1.ls, h.loop0, { h.loop1 with lc := h.loop1.lc - 1#32 }) := by
  simp [loopNext, active, ends, more]

/-- At the end of level 0 alone, with a count above 1, the loop goes back to its start. -/
theorem loopNext_back0 {h : Thread} (not1 : h.loop1.lc = 0#32 ∨ h.loop1.le ≠ h.pc) (active : h.loop0.lc ≠ 0#32)
    (ends : h.loop0.le = h.pc) (more : h.loop0.lc ≠ 1#32) :
    loopNext h = (h.loop0.ls, { h.loop0 with lc := h.loop0.lc - 1#32 }, h.loop1) := by
  obtain no | no := not1 <;> simp [loopNext, no, active, ends, more]

/-- At the end of both levels with count 1 both end, and control goes on. -/
theorem loopNext_end {h : Thread} (last1 : h.loop1.lc = 1#32) (ends1 : h.loop1.le = h.pc) (last0 : h.loop0.lc = 1#32)
    (ends0 : h.loop0.le = h.pc) :
    loopNext h = (h.pc + 4#64, { h.loop0 with lc := 0#32 }, { h.loop1 with lc := 0#32 }) := by
  simp [loopNext, last1, ends1, last0, ends0]

/-- At the end of no active level control goes on. -/
theorem loopNext_on {h : Thread} (not1 : h.loop1.lc = 0#32 ∨ h.loop1.le ≠ h.pc) (not0 : h.loop0.lc = 0#32 ∨ h.loop0.le ≠ h.pc) :
    loopNext h = (h.pc + 4#64, h.loop0, h.loop1) := by
  obtain no1 | no1 := not1 <;> obtain no0 | no0 := not0 <;> simp [loopNext, no1, no0]

end Sys2Proof.Machine

section
open Sys2Proof Sys2Proof.Machine Sys2Proof.Claims

theorem branchesGoThroughTheirSlot : Claims.BranchesGoThroughTheirSlot := by
  intro x disp rs1 s b
  refine ⟨goes_to b rfl (fun σ h => ?_), fun aligned => goes_to b rfl (fun σ h => ?_)⟩
  · rw [h.thread]; rfl
  · simp only [h.reg, bits_low_two, aligned, ne_eq, not_true_eq_false, if_false]

theorem whereControlGoes : Claims.WhereControlGoes := by
  intro h target nx
  refine ⟨fun slot => after_slot slot nx, fun slot => ?_⟩
  obtain ⟨pc, loop0, loop1⟩ := after_seq slot
  refine ⟨after_xfer slot target, after_goto slot target, after_shadow slot, fun active ends more => ?_, fun not1 active ends more => ?_,
    fun last1 ends1 last0 ends0 => ?_, fun not1 not0 => ?_⟩
  · rw [pc, loop0, loop1, loopNext_back1 active ends more]
    exact ⟨rfl, rfl, rfl⟩
  · rw [pc, loop0, loop1, loopNext_back0 not1 active ends more]
    exact ⟨rfl, rfl, rfl⟩
  · rw [pc, loop0, loop1, loopNext_end last1 ends1 last0 ends0]
    exact ⟨rfl, rfl, rfl⟩
  · rw [pc, loopNext_on not1 not0]

/-- Settles O10. -/
theorem branchesAndWhereControlGoes : Obligations.BranchesAndWhereControlGoes := ⟨branchesGoThroughTheirSlot, whereControlGoes⟩

/-- Settles O11: each of the three goes on as `skipped` says for its attributes. -/
theorem falseConditionHasNoEffect : Obligations.FalseConditionHasNoEffect := by
  unfold Obligations.FalseConditionHasNoEffect
  intro x rd rs1 rs2 sb disp size imm s c no
  exact ⟨fun b => skips_to b no rfl, fun b => skips_to b no rfl, fun b => skips_to b no rfl⟩
end
end

section
/-! PROOFS. Hardware loops, `setmode` and `isync` (O12). -/

namespace Sys2Proof.Machine
open Sys2Proof.Claims

/-- Setting up a level clashes with the other one: level 0 inside an active level 1, level 1 outside an active level 0 (R71). -/
def lpClash (h : Thread) (level : Bool) (off : BitVec 12) : Bool :=
  if level then decide (h.loop0.lc ≠ 0#32) && (h.loop0.le.ult (h.pc + 4#64 * off.zeroExtend 64) || (h.pc + 4#64).ult h.loop0.ls)
  else decide (h.loop1.lc ≠ 0#32)

/-- The level that `lp.setup` sets. -/
def lpLoop (h : Thread) (n : BitVec 32) (off : BitVec 12) : Loop := { lc := n, ls := h.pc + 4#64, le := h.pc + 4#64 * off.zeroExtend 64 }

/-- Where control goes after `lp.setup`: past the body with a count of 0 (R69). -/
def lpNext (h : Thread) (n : BitVec 32) (off : BitVec 12) : Nx := if n = 0#32 then .goto (h.pc + 4#64 * off.zeroExtend 64 + 4#64) else .seq

/-- A level with the field that `lp.set` names set to v: 0 LC, 1 LS, 2 LE (R74). -/
def lpField (fld : BitVec 2) (v : Word) (l : Loop) : Loop :=
  if fld = 0#2 then { l with lc := v.truncate 32 } else if fld = 1#2 then { l with ls := v } else { l with le := v }

theorem lpSetupBody_eq (level : Bool) (n : BitVec 32) (off : BitVec 12) (σ : State) (L t : Nat) :
    lpSetupBody level n off σ L t =
      if lpClash (thrOf σ L t) level off then .exc σ (faultOf 0x08)
      else .done (modT σ L t (fun h => setLoop h level (lpLoop (thrOf σ L t) n off))) (lpNext (thrOf σ L t) n off) := rfl

theorem lpClash_level0 {h : Thread} (off : BitVec 12) : lpClash h false off = true ↔ h.loop1.lc ≠ 0#32 := by simp [lpClash]

theorem lpClash_level1 {h : Thread} (off : BitVec 12) :
    lpClash h true off = true ↔ h.loop0.lc ≠ 0#32 ∧
      (h.loop0.le.toNat < (h.pc + 4#64 * off.zeroExtend 64).toNat ∨ (h.pc + 4#64).toNat < h.loop0.ls.toNat) := by
  simp only [lpClash, if_true, Bool.and_eq_true, Bool.or_eq_true, decide_eq_true_eq, BitVec.ult_iff_lt, BitVec.lt_def]

theorem keepsPlace_setLoop (level : Bool) (l : Thread → Loop) : KeepsPlace (fun h => setLoop h level (l h)) := fun h => by
  cases level <;> exact ⟨rfl, rfl, rfl, rfl, rfl⟩

section
variable {x : Issue} {s : State} {i : Instr} {level : Bool} {n : BitVec 32} {off : BitVec 12} {body : State → Nat → Nat → IRes}

/-- A level that clashes with no other is set up. -/
theorem lpSetup_to (b : Before x (attLp false) s) (free : lpClash (thr s x) level off ≠ true) (he : exec i s = issue x (attLp false) s body)
    (hb : ∀ σ, Sees s x σ → body σ (co x) (th x) = lpSetupBody level n off σ (co x) (th x)) :
    ThreadTo i x s (after (setLoop (thr s x) level (lpLoop (thr s x) n off)) (lpNext (thr s x) n off)) := by
  refine changes_to b (fun h => setLoop h level (lpLoop (thr s x) n off)) he (keepsPlace_setLoop level _) (fun σ h => ?_)
  rw [hb σ h, lpSetupBody_eq, h.thread, if_neg free]

/-- A level that clashes with the other raises 0x08. -/
theorem lpSetup_raises (r : Ready x (attLp false) s) (clash : lpClash (thr s x) level off = true)
    (he : exec i s = issue x (attLp false) s body)
    (hb : ∀ σ, Sees s x σ → body σ (co x) (th x) = lpSetupBody level n off σ (co x) (th x)) :
    Raises i x s (counted s x (attLp false)) (faultOf 0x08) := by
  refine raises_to r he (fun σ h => ?_)
  rw [hb σ h, lpSetupBody_eq, h.thread, if_pos clash]

end

/-- With an end offset that is not 0, `lp.setup` is no illegal sequence by itself. -/
theorem attLp_of_offset {off : BitVec 12} (h : off ≠ 0#12) : attLp (off == 0#12) = attLp false := by
  rw [beq_eq_false_iff_ne.mpr h]

/-- The fields 0 to 2 of `lp.get` and `lp.set` are legal. -/
theorem attLp_of_field {fld : BitVec 2} (h : fld ≠ 3#2) : { attLp false with legal := fld != 3#2 } = attLp false := by
  rw [bne_iff_ne.mpr h]
  rfl

end Sys2Proof.Machine

open Sys2Proof Sys2Proof.Machine Sys2Proof.Claims

/-- `lp.setup` and `lp.setupi` of a level that clashes with no other set it up. -/
theorem loopSetup {x : Issue} {s : State} (b : Before x (attLp false) s) {off : BitVec 12} (some_body : off ≠ 0#12) (level : Bool)
    (free : lpClash (thr s x) level off ≠ true) (rs : BitVec 5) (cnt : BitVec 7) :
    let h := thr s x
    let goes (n : BitVec 32) : Thread := after (setLoop h level (lpLoop h n off)) (lpNext h n off)
    ThreadTo (.lpSetup x level rs off) x s (goes ((reg s x rs).truncate 32)) ∧ ThreadTo (.lpSetupi x level cnt off) x s (goes (cnt.zeroExtend 32)) := by
  have att := attLp_of_offset some_body
  refine ⟨lpSetup_to b free (issue_att att) (fun σ h => ?_), lpSetup_to b free (issue_att att) (fun σ h => rfl)⟩
  rw [h.reg]

/-- `lp.setup` and `lp.setupi` of a level that clashes with the other raise 0x08. -/
theorem loopClash {x : Issue} {s : State} (r : Ready x (attLp false) s) {off : BitVec 12} (some_body : off ≠ 0#12) (level : Bool)
    (clash : lpClash (thr s x) level off = true) (rs : BitVec 5) (cnt : BitVec 7) :
    Raises (.lpSetup x level rs off) x s (counted s x (attLp false)) (faultOf 0x08) ∧
    Raises (.lpSetupi x level cnt off) x s (counted s x (attLp false)) (faultOf 0x08) := by
  have att := attLp_of_offset some_body
  refine ⟨lpSetup_raises (n := (reg s x rs).truncate 32) r clash (issue_att att) (fun σ h => ?_),
    lpSetup_raises r clash (issue_att att) (fun σ h => rfl)⟩
  rw [h.reg]

/-- `lp.set` of a count, or of an aligned address, sets the field. -/
theorem loopSet {x : Issue} {s : State} (b : Before x (attLp false) s) (level : Bool) (rs : BitVec 5) {fld : BitVec 2} (legal : fld ≠ 3#2)
    (aligned : fld = 0#2 ∨ (reg s x rs).toNat % 4 = 0) :
    ThreadTo (.lpSet x level rs fld) x s (after (setLoop (thr s x) level (lpField fld (reg s x rs) (loopOf (thr s x) level))) .seq) := by
  refine changes_to b (fun h => setLoop h level (lpField fld (reg s x rs) (loopOf h level))) (issue_att (attLp_of_field legal))
    (keepsPlace_setLoop level _) (fun σ h => ?_)
  have no : ¬(fld ≠ 0#2 ∧ bits (reg s x rs) 1 0 ≠ 0) := by
    rw [bits_low_two]
    obtain e | e := aligned <;> simp [e]
  simp only [h.reg, no, if_false]
  rfl

theorem hardwareLoops : Claims.HardwareLoops := by
  intro x rs cnt off fld s b some_body legal
  refine ⟨fun free => loopSetup b some_body false (fun clash => (lpClash_level0 off).mp clash free) rs cnt,
    fun free => loopSetup b some_body true ?_ rs cnt, ?_, ?_, ?_, ?_, loopSet b false rs (by decide) (.inl rfl),
    loopSet b true rs (by decide) (.inl rfl), fun aligned => ⟨loopSet b false rs (by decide) (.inr aligned),
      loopSet b false rs (by decide) (.inr aligned), loopSet b true rs (by decide) (.inr aligned),
      loopSet b true rs (by decide) (.inr aligned)⟩,
    fun active => loopClash (ready_of_before b) some_body false ((lpClash_level0 off).mpr active) rs cnt,
    fun active outside => loopClash (ready_of_before b) some_body true ((lpClash_level1 off).mpr ⟨active, outside⟩) rs cnt,
    fun odd level => ⟨?_, ?_⟩⟩
  · intro clash
    obtain ⟨active, outside⟩ := (lpClash_level1 off).mp clash
    obtain none | ⟨le, ls⟩ := free
    · exact active none
    · omega
  · refine changes_to b (fun h => setLoop h true { h.loop1 with lc := 0#32 }) rfl (keepsPlace_setLoop true _) (fun _ _ => ?_)
    rfl
  · refine changes_to b (fun h => { h with loop1 := { h.loop1 with lc := 0#32 }, loop0 := { h.loop0 with lc := 0#32 } }) rfl
      (fun _ => ⟨rfl, rfl, rfl, rfl, rfl⟩) (fun _ _ => ?_)
    rfl
  · refine setG_to _ b (issue_att (attLp_of_field legal)) (fun σ h => ?_)
    rw [h.thread]; rfl
  · refine setG_to _ b (issue_att (attLp_of_field legal)) (fun σ h => ?_)
    rw [h.thread]; rfl
  · refine raises_to (ready_of_before b) rfl (fun σ h => ?_)
    simp [h.reg, bits_low_two, odd]
  · refine raises_to (ready_of_before b) rfl (fun σ h => ?_)
    simp [h.reg, bits_low_two, odd]

theorem setmodeAndIsync : Claims.SetmodeAndIsync := by
  intro x s idle
  refine ⟨fun b sup => ⟨?_, ?_⟩, fun b => goes_to b rfl (fun σ h => ?_)⟩
  · refine changes_to b (fun h => { h with mode := .user }) rfl (fun _ => ⟨rfl, rfl, rfl, rfl, rfl⟩) (fun σ h => ?_)
    simp [h.isSup, h.serialBusy, sup, idle]
  · refine changes_to b (fun h => { h with mode := .supervisor }) rfl (fun _ => ⟨rfl, rfl, rfl, rfl, rfl⟩) (fun σ h => ?_)
    simp [h.isSup, h.serialBusy, sup, idle]
  · simp [h.serialBusy, idle]

/-- Settles O12. -/
theorem loopsModesAndIsync : Obligations.LoopsModesAndIsync := ⟨hardwareLoops, setmodeAndIsync⟩
end

section
/-! PROOFS. IO-space, the watchdog and the core timer (O28). -/

namespace Sys2Proof.Machine
open Sys2Proof.Claims

/-! ### The checks of an IO address (R54, R55) -/

/-- An address of IO-space at which no register is (R54). -/
def IoAbsent (a : Nat) : Prop := (0x300 ≤ a ∧ a < 0x400) ∨ 0xF40 ≤ a

theorem ioAbsent_iff (a : Nat) : ioAbsent a = true ↔ IoAbsent a := by
  simp [ioAbsent, IoAbsent]

theorem ioFault_misaligned (sup write : Bool) {a : Nat} (h : a % 8 ≠ 0) : ioFault sup write a = some 0x03 := if_pos h

theorem ioFault_absent (sup write : Bool) {a : Nat} (aligned : a % 8 = 0) (absent : IoAbsent a) : ioFault sup write a = some 0x05 := by
  rw [ioFault, if_neg (not_not.mpr aligned), if_pos ((ioAbsent_iff a).mpr absent)]

theorem ioFault_supervisor (write : Bool) {a : Nat} (aligned : a % 8 = 0) (there : ¬IoAbsent a) : ioFault true write a = none := by
  rw [ioFault, if_neg (not_not.mpr aligned), if_neg (mt (ioAbsent_iff a).mp there), Bool.true_or, if_pos rfl]

/-- User mode reads no register below 0x300. -/
theorem ioFault_user_in {a : Nat} (aligned : a % 8 = 0) (low : a < 0x300) : ioFault false false a = some 0x02 := by
  have there : ¬IoAbsent a := by rw [IoAbsent]; omega
  have not_readable : userReadable a = false := by simp [userReadable]; omega
  simp [ioFault, aligned, mt (ioAbsent_iff a).mp there, not_readable]

/-- User mode writes no register below 0x600. -/
theorem ioFault_user_out {a : Nat} (aligned : a % 8 = 0) (low : a < 0x600) (there : ¬IoAbsent a) : ioFault false true a = some 0x02 := by
  have not_writable : userWritable a = false := by simp [userWritable]; omega
  simp [ioFault, aligned, mt (ioAbsent_iff a).mp there, not_writable]

/-- Bits [47:lo] of a word are those of the word's low 48 bits from lo on. -/
theorem bits_below_48 (v : Word) {lo : Nat} (h : lo ≤ 48) : bits v 47 lo = v.toNat % 2 ^ 48 / 2 ^ lo := by
  rw [bits, ← Nat.mod_mul_right_div_self, ← pow_add, Nat.add_sub_cancel' h]

/-! ### `in` -/

theorem inBody_fault {a e : Nat} {σ : State} {L t : Nat} (h : ioFault (isSup σ L t) false a = some e) (rd : BitVec 5) :
    inBody a rd σ L t = .exc σ (ioInfo e a false) := by
  rw [inBody, h]

theorem inBody_read {a : Nat} {σ : State} {L t : Nat} (h : ioFault (isSup σ L t) false a = none) (rd : BitVec 5) :
    inBody a rd σ L t = .done (wg (ioRead σ L (some t) a).1 L t rd (ioRead σ L (some t) a).2) .seq := by
  rw [inBody, h]

theorem inBody_not_held (a : Nat) (rd : BitVec 5) (σ τ : State) (L t : Nat) : inBody a rd σ L t ≠ .hold τ := by
  unfold inBody
  split <;> exact nofun

section
variable {σ : State} {L : Nat} {t : Option Nat}

theorem ioRead_vbar : ioRead σ L t 0x200 = (σ, (getCore σ L).sup.vbar) := rfl

theorem ioRead_evtNext : ioRead σ L t 0x220 =
    (setCore σ L { getCore σ L with sup := { (getCore σ L).sup with evq := (getCore σ L).sup.evq.drop 1 } },
      (getCore σ L).sup.evq.headD 0#64) := rfl

theorem ioRead_stopInfo : ioRead σ L t 0x230 =
    (σ, BitVec.ofNat 64 ((getCore σ L).sup.stopSub + 16 * (getCore σ L).sup.stopThread)) := by
  rw [Nat.mul_comm]; rfl

theorem ioRead_xltRoot : ioRead σ L t 0xB00 = (σ, (getCore σ L).xlt.root) := rfl

theorem ioRead_stackLimit {k : Nat} (hk : k < 16) : ioRead σ L t (0x240 + 8 * k) = (σ, (getThr (getCore σ L) k).stackLimit) := by
  simp [ioRead, ioReadThr, show 0x240 + 8 * k < 0x300 by omega, show 0x240 + 8 * k < 0x2C0 by omega,
    show ∀ m < 0x240, 0x240 + 8 * k ≠ m by omega, show ¬0x240 + 8 * k < 0x200 by omega]

theorem ioRead_thrPc {k : Nat} (hk : k < 16) (other : t ≠ some k) :
    ioRead σ L t (32 * k + 16) = (σ, BitVec.ofNat 64 ((getThr (getCore σ L) k).pc.toNat % 2 ^ 48 / 4 * 4)) := by
  have e : (32 * k + 16) / 32 = k := by omega
  have f : (32 * k + 16) % 32 / 8 = 2 := by omega
  simp only [ioRead, ioReadThr, show 32 * k + 16 < 0x300 by omega, show 32 * k + 16 < 0x200 by omega, if_true, e, f, other, if_false]
  rw [bits_below_48 _ (by decide)]
  rfl

theorem ioRead_thrSp {k : Nat} (hk : k < 16) : ioRead σ L t (32 * k + 24) = (σ, (getThr (getCore σ L) k).thrSp) := by
  have e : (32 * k + 24) / 32 = k := by omega
  have f : (32 * k + 24) % 32 / 8 = 3 := by omega
  simp only [ioRead, ioReadThr, show 32 * k + 24 < 0x300 by omega, show 32 * k + 24 < 0x200 by omega, if_true, e, f]

end

/-! ### `out` -/

theorem outBody_fault {a e : Nat} {σ : State} {L t : Nat} (h : ioFault (isSup σ L t) true a = some e) (v : Word) :
    outBody a v σ L t = .exc σ (ioInfo e a true) := by
  rw [outBody, h]

/-- An `out` that passes to a register of the threads or of the supervisor group writes it at once. -/
theorem outBody_write {a : Nat} {σ : State} {L t : Nat} (h : ioFault (isSup σ L t) true a = none) (low : a < 0x300)
    (idle : serialBusy (getCore σ L) t = false) (v : Word) :
    outBody a v σ L t = .done (ioWriteThr σ L (some t) a v) .seq := by
  simp [outBody, h, idle, ioWrite, low]

section
variable {σ : State} {L : Nat} {t : Option Nat} (v : Word)

theorem ioWriteThr_vbar : ioWriteThr σ L t 0x200 v =
    setCore σ L { getCore σ L with sup := { (getCore σ L).sup with vbar := BitVec.ofNat 64 (v.toNat % 2 ^ 48 / 4096 * 4096) } } := by
  rw [show v.toNat % 2 ^ 48 / 4096 = bits v 47 12 from (bits_below_48 v (lo := 12) (by decide)).symm]
  rfl

theorem ioWriteThr_wdogKick : ioWriteThr σ L (some 0) 0x210 v =
    setCore σ L { getCore σ L with sup := { (getCore σ L).sup with wdCount := (getCore σ L).sup.wdPeriod * 1000 } } := rfl

theorem bits_stack : bits v 47 4 * 16 = v.toNat % 2 ^ 48 / 16 * 16 := by rw [bits_below_48 v (by decide)]; rfl

theorem ioWriteThr_stackLimit {k : Nat} (hk : k < 16) : ioWriteThr σ L t (0x240 + 8 * k) v =
    setCore σ L (setThr (getCore σ L) k { getThr (getCore σ L) k with stackLimit := BitVec.ofNat 64 (v.toNat % 2 ^ 48 / 16 * 16) }) := by
  have e : (0x240 + 8 * k - 0x240) / 8 = k := by omega
  rw [← bits_stack, ioWriteThr, if_neg (by omega), if_pos (by omega), e]
  rfl

theorem ioWriteThr_thrSp {k : Nat} (hk : k < 16) : ioWriteThr σ L t (32 * k + 24) v =
    setCore σ L (setThr (getCore σ L) k { getThr (getCore σ L) k with thrSp := BitVec.ofNat 64 (v.toNat % 2 ^ 48 / 16 * 16) }) := by
  have e : (32 * k + 24) / 32 = k := by omega
  have f : (32 * k + 24) % 32 / 8 = 3 := by omega
  simp only [ioWriteThr, show 32 * k + 24 < 0x200 by omega, if_true, e, f, ← bits_stack]
  rfl

end

/-! ### The instructions -/

section
variable {x : Issue} {s : State}

/-- An `in` raises what the checks of its address say. -/
theorem in_raises {rd rs1 : BitVec 5} {imm : BitVec 12} {e : Nat} (r : Ready x { attAlu with port := 3 } s)
    (h : ioFault (decide ((thr s x).mode = .supervisor)) false (addrIo (reg s x rs1) imm) = some e) :
    Raises (.ioIn x rd rs1 imm) x s (counted s x { attAlu with port := 3 }) (ioInfo e (addrIo (reg s x rs1) imm) false) := by
  refine raises_to r rfl (fun σ k => ?_)
  rw [k.reg, inBody_fault (by rw [k.isSup]; exact h)]

/-- A supervisor's `in` of a register that reads v, in the state in which the issue is counted, writes v to rd. -/
theorem in_does {rd rs1 : BitVec 5} {imm : BitVec 12} {v : Word} {b : Nat} (r : Ready x { attAlu with port := 3 } s)
    (sup : (thr s x).mode = .supervisor) (at_b : addrIo (reg s x rs1) imm = b) (aligned : b % 8 = 0) (there : ¬IoAbsent b)
    (read : ioRead (counted s x { attAlu with port := 3 }) (co x) (some (th x)) b = (counted s x { attAlu with port := 3 }, v)) :
    Does (.ioIn x rd rs1 imm) x s (wg (counted s x { attAlu with port := 3 }) (co x) (th x) rd v) .seq := by
  have sees : Sees s x (counted s x { attAlu with port := 3 }) := .counted r.order
  refine does_to r rfl (fun _ => inBody_not_held _ _ _ _ _ _) ?_
  rw [sees.reg, at_b, inBody_read (by rw [sees.isSup, decide_eq_true sup]; exact ioFault_supervisor false aligned there), read]

/-- An `out` raises what the checks of its address say. -/
theorem out_raises {rd rs1 : BitVec 5} {imm : BitVec 12} {e : Nat} (r : Ready x (attOut (addrIo (reg s x rs1) imm)) s)
    (h : ioFault (decide ((thr s x).mode = .supervisor)) true (addrIo (reg s x rs1) imm) = some e) :
    Raises (.ioOut x rd rs1 imm) x s (counted s x (attOut (addrIo (reg s x rs1) imm))) (ioInfo e (addrIo (reg s x rs1) imm) true) := by
  refine raises_to r rfl (fun σ k => ?_)
  rw [k.reg, outBody_fault (by rw [k.isSup]; exact h)]

/-- A supervisor's write of a register below 0x300 that takes the state in which its issue is counted to z. -/
theorem outBody_does {i : Instr} {b : Nat} {v : Word} {z : State} {body : State → Nat → Nat → IRes} (r : Ready x (attOut b) s)
    (sup : (thr s x).mode = .supervisor) (idle : serialBusy (Claims.core s x) (th x) = false) (aligned : b % 8 = 0) (low : b < 0x300)
    (he : exec i s = issue x (attOut b) s body) (hb : ∀ σ, Sees s x σ → body σ (co x) (th x) = outBody b v σ (co x) (th x))
    (write : ioWriteThr (counted s x (attOut b)) (co x) (some (th x)) b v = z) : Does i x s z .seq := by
  have passes {σ : State} (k : Sees s x σ) : body σ (co x) (th x) = .done (ioWriteThr σ (co x) (some (th x)) b v) .seq := by
    have there : ¬IoAbsent b := by rw [IoAbsent]; omega
    rw [hb σ k, outBody_write (by rw [k.isSup, decide_eq_true sup]; exact ioFault_supervisor true aligned there) low
      (k.serialBusy.trans idle)]
  refine does_to r he (by rw [passes .self]; exact fun _ => nofun) ?_
  rw [passes (.counted r.order), write]

/-- A supervisor's `out` to a register below 0x300. -/
theorem out_does {rd rs1 : BitVec 5} {imm : BitVec 12} {z : State} {b : Nat} (r : Ready x (attOut (addrIo (reg s x rs1) imm)) s)
    (sup : (thr s x).mode = .supervisor) (idle : serialBusy (Claims.core s x) (th x) = false) (at_b : addrIo (reg s x rs1) imm = b)
    (aligned : b % 8 = 0) (low : b < 0x300)
    (write : ioWriteThr (counted s x (attOut (addrIo (reg s x rs1) imm))) (co x) (some (th x)) b (reg s x rd) = z) :
    Does (.ioOut x rd rs1 imm) x s z .seq := by
  rw [← at_b] at write aligned low
  exact outBody_does r sup idle aligned low rfl (fun σ k => by rw [k.reg, k.reg]) write

end

end Sys2Proof.Machine

open Sys2Proof Sys2Proof.Machine Sys2Proof.Claims

theorem inAndOut : Claims.InAndOut := by
  intro x rd rs1 imm v s a h w absent
  have user (m : h.mode = .user) : decide ((thr s x).mode = .supervisor) = false := by simp [show (thr s x).mode = .user from m]
  refine ⟨fun r => ⟨fun odd => ?_, fun aligned gone => ?_, fun aligned low mode => ?_, fun sup => ⟨?_, ?_, ?_, ?_, ?_, ?_⟩, fun sup => ?_⟩,
    fun r => ⟨fun odd => ?_, fun aligned gone => ?_, fun aligned low there mode => ?_, fun sup idle => ⟨?_, ?_, ?_⟩⟩,
    fun r sup idle zero => ?_⟩
  · exact in_raises r (ioFault_misaligned _ _ odd)
  · exact in_raises r (ioFault_absent _ _ aligned gone)
  · exact in_raises r (by rw [user mode]; exact ioFault_user_in aligned low)
  · exact fun e => in_does r sup e (by decide) (by rw [IoAbsent]; omega) ioRead_vbar
  · exact fun k hk e => in_does r sup e (by omega) (by rw [IoAbsent]; omega) (ioRead_stackLimit hk)
  · exact fun k hk e => in_does r sup e (by omega) (by rw [IoAbsent]; omega) (ioRead_thrSp hk)
  · exact fun k hk other e => in_does r sup e (by omega) (by rw [IoAbsent]; omega) (ioRead_thrPc hk (fun n => other (Option.some.inj n).symm))
  · exact fun e => in_does r sup e (by decide) (by rw [IoAbsent]; omega) ioRead_stopInfo
  · exact fun e => in_does r sup e (by decide) (by rw [IoAbsent]; omega) ioRead_xltRoot
  · refine does_to r rfl (fun _ => inBody_not_held _ _ _ _ _ _) ?_
    rw [inBody_read, ioRead_evtNext]
    rw [(Sees.counted r.order).isSup, decide_eq_true sup]
    rfl
  · exact out_raises r (ioFault_misaligned _ _ odd)
  · exact out_raises r (ioFault_absent _ _ aligned gone)
  · exact out_raises r (by rw [user mode]; exact ioFault_user_out aligned low there)
  · exact fun e => out_does r sup idle e (by decide) (by decide) (ioWriteThr_vbar _)
  · exact fun k hk e => out_does r sup idle e (by omega) (by omega) (ioWriteThr_stackLimit _ hk)
  · exact fun k hk e => out_does r sup idle e (by omega) (by omega) (ioWriteThr_thrSp _ hk)
  · refine outBody_does r sup idle (by decide) (by decide) rfl (fun _ _ => rfl) ?_
    rw [zero]
    exact ioWriteThr_wdogKick _

theorem watchdogAndTimer : Claims.WatchdogAndTimer := by
  intro L s order on c
  refine ⟨fun enabled period ready running zero => ?_, fun enabled interval zero => ?_⟩
  · have expires : (coreOn s L.toNat && wdogRuns c && c.sup.wdCount == 0) = true := by
      simp [on, wdogRuns, enabled, period, ready, running, zero]
    exact if_pos expires
  · have expires : (coreOn s L.toNat && c.sup.tmEnable && c.sup.tmInterval != 0 && c.sup.tmCount == 0) = true := by
      simp [on, enabled, interval, zero]
    exact if_pos expires

/-- Settles O28. -/
theorem ioSpaceWatchdogTimer : Obligations.IoSpaceWatchdogTimer := ⟨inAndOut, watchdogAndTimer⟩
end

section
/-! PROOFS. Every command answers a next state, and none touches the queue (O3). -/

namespace Sys2Proof.Machine

/-- The outcome is a next state. -/
def Answers (o : Host.Outcome State Fault Refusal) : Prop := ∃ t, o = .next t

theorem answers_next (s : State) : Answers (.next s) := ⟨s, rfl⟩

theorem answers_ite {c : Prop} [Decidable c] {o p : Host.Outcome State Fault Refusal} (h : Answers o) (k : Answers p) :
    Answers (if c then o else p) := by
  split
  · exact h
  · exact k

theorem takeAsync_answers (s σ : State) (L t : Nat) (e : Entry) : Answers (takeAsync s σ L t e) := by
  unfold takeAsync
  split <;> exact answers_next _

/-- Every command answers a next state: an instruction because its issue does; of the others each branch of the meaning ends in a next
state. -/
theorem exec_answers (i : Instr) (s : State) : Answers (exec i s) := by
  cases i with
  | ld | ldAcq | ldx | st | stx
  | add | sub | and | or | xor | andn | shl | shr | sar | min | max | minu | maxu | mul | mulh | mulhu | div | divu | rem | remu | cmp
  | clz | ctz | popc | addi | andi | ori | xori | shli | shri | sari | cmpi
  | movi | movk | mfl | mtl | pcmp | pcmpi | b | call | jr | calr | ret | retf | trap | setmode | eret | isync
  | lpSetup | lpSetupi | lpClr | lpGet | lpSet | ioIn | ioOut | evtNextRead | dbgDataRead
  | start | stop | kill | release | inject | resume | wdogKick | mtxSeedWrite | tallyClear | tallyClearAll | stallClear | pfFlush | tlbInvVa
  | tlbInvAll | xltRootWrite | xltFwd | scWrite | haltReq | dbgResume | dbgStep | dbgDataWrite | pmcClear | pmcClearAll
  | tAcquire | tRelease | tCfg | tSwap | tZero | tTz | tWait | tMma | tLd | tSt | tLdx | tDrain | tCsave | tCrest
  | vAdd | vSub | vMul | vMin | vMax | vDiv | vAnd | vOr | vXor | vShl | vShr | vSar | vCmpeq | vCmplt | vCmple | vLdexp | vPerm
  | vFma | vFms | vFnma | vSel | vDpa | vNeg | vAbs | vMov | vBscale
  | vRcp | vSqrt | vRsqrt | vExp2 | vLog2 | vExp | vTanh | vSigm | vSin | vCos | vRadd | vRmax | vRmin
  | vCvt | vPack4 | vUnpack4 | vSplat | vGetl | vSetl | vLd | vSt | vLdt | vStt | vGather | vScatter | vTally | vSeed | memfill
  | lwopen | lwclose | lwstat | stQ | stWait | stRel | stStop | stResume | stSkip | stFlush
  | cmoClean | cmoInv | cmoCleanInv | cmoLock | cmoUnlock
  | chPut | chClr | chSend | chSendd | chRecv | chRecvnb | chPeek | ringEnable | ringPause | ringDiscard | chPress | chPcfg | chPclose | chPstat
  | scSet | scAdd | scSub | scGet | scWait | scWaitsub | scSig | fence
  | amoSwap | amoCas | amoAdd | amoAnd | amoOr | amoXor | amoMin | amoMax | amoMinu | amoMaxu
  | dmStart | dmWait | dmaStop | dmaResume | dmaSkip | dmaAbort => exact issue_answers _ _ _ _
  | interruptSend | holdExpiry | leakClear | tripClear | sessionTimeout | powerStateChoice
  | dictWrite | dictRead | groupEnable | holdRead | resetReq | offReq | retireReq | reinstate | stage | commit | nonce | report
  | fabricEnable | stepSize | stepCounter | globalNormSq | debugHalt | debugResume | debugStep | ioDataRead | ioDataWrite
  | idcode | bypass | trst | samplePreload => exact answers_next _
  | watchdogExpiry | companionAccess | nak | portDown | portSeq | flowHoldEnd | limjoLinkDown | seamFailure | go | moduleReset
  | portEnable | extest | dict | wake | throttlePeriod | transmitOpportunity | powerFail | coolantLoss | leak | powerOnResetExit
  | rindReset | cqHead | portRetrain | timerExpiry | cacheInitDone | ringStallEvent | pass1Partial | scrubVisit => exact answers_ite (answers_next _) (answers_next _)
  | faultReplyWrite | shootCtl | sqTail | doorbell | plcaStatusChange => exact answers_ite (answers_next _) (answers_ite (answers_next _) (answers_next _))
  | illegalInstruction => exact answers_ite (issue_answers _ _ _ _) (answers_next _)
  | takeInterrupt => exact answers_ite (takeAsync_answers _ _ _ _ _) (answers_next _)
  | takeEvent =>
    dsimp only [exec, execTakeEvent]
    split
    · exact answers_next _
    · exact answers_ite (takeAsync_answers _ _ _ _ _) (answers_next _)
  | stateEntry | mmaExecute | tileRowLand | drainComplete | creditReq | creditGrant | creditRefuse | creditRevoke | creditRetry
  | creditTimeout | creditQuarantineEnd | remoteWrite | landingAck | windowRequest | streamDescStart | streamResponse | cacheFill
  | victim | walkComplete | faultRecord | faultReply | shootdown | shootdownAck | message | pressCtl | pressContrib | signalArrival
  | atomicAtHome | dmaDescFetch | dmaResponse | dmaRetryGap | dmaComplete | dropNotice | errorResp | packetAged | command | hbmRead
  | hbmWrite | fabricFrame | replayTimeout | fabricPacketAged | portSeqTimeout | orderFetch | orderStart | normDelivery | pass2End
  | reducePiece | orderTimeout | coreStopReport | coreDone | completionWrite | flashCommitDone | mailboxResponse | request | discover
  | openReq | close | thermalTrip | coldStart | resetL | bootStepAttempt | bootStepTimeout | readData | writeAck | atomicData
  | pressReply | commandAck | recallAnswer | scrubPassEnd | instructionFetch =>
    dsimp only [exec, execStateEntry, execMmaExecute, execTileRowLand, execDrainComplete, execCreditReq, execCreditGrant,
      execCreditRefuse, execCreditRevoke, execCreditRetry, execCreditTimeout, execCreditQuarantineEnd, execRemoteWrite, execLandingAck,
      execWindowRequest, execStreamDescStart, execStreamResponse, execCacheFill, execVictim, execWalkComplete, execFaultRecord,
      execFaultReply, execShootdown, execShootdownAck, execMessage, execPressCtl, execPressContrib, execSignalArrival,
      execAtomicAtHome, execDmaDescFetch, execDmaResponse, execDmaRetryGap, execDmaComplete, execDropNotice, execErrorResp,
      execPacketAged, execCommand, execHbmRead, execHbmWrite, execFabricFrame, execReplayTimeout, execFabricPacketAged,
      execPortSeqTimeout, execOrderFetch, execOrderStart, execNormDelivery, execPass2End, execReducePiece, execOrderTimeout,
      execCoreStopReport, execCoreDone, execCompletionWrite, execFlashCommitDone, execMailboxResponse, execRequest, execDiscover,
      execOpenReq, execClose, execThermalTrip, execColdStart, execResetL, execBootStepAttempt, execBootStepTimeout, execReadData,
      execWriteAck, execAtomicData, execPressReply, execCommandAck, execRecallAnswer, execScrubPassEnd, execInstructionFetch]
    repeat' first | with_reducible exact answers_next _ | split

/-- No command touches the queue: a part of what `kept_exec` passes on, with neither order nor canonical form asked for. -/
theorem exec_pending {i : Instr} {s t : State} (e : exec i s = .next t) : t.pending = s.pending := by
  have start : Kept ⟨False, False, s.pending⟩ s := kept_iff.2 ⟨False.elim, False.elim, rfl⟩
  exact ((kept_exec start).each t (by rw [e])).queue

end Sys2Proof.Machine

open Sys2Proof Sys2Proof.Machine

/-- Settles O3. -/
theorem commandsAnswerAndLeaveTheQueue : Obligations.CommandsAnswerAndLeaveTheQueue := ⟨exec_answers, fun _ _ _ => exec_pending⟩
end

section
/-! PROOFS. Pushes to a stack in a scratchpad that is not in its canonical form: calls (O13), traps (O15) and misaligned accesses (O22). As for
the stores of O20, no premise asks for the canonical form, and a zero byte that is pushed leaves an address that is listed out of order as it
was. -/

namespace Sys2Proof.Machine
open Sys2Proof.Claims

/-- Core 0 with thread 1 READY, g1 = 1 and sp = 1024, whose scratchpad lists the byte 7 of address 1015 behind the byte 1 of address 1016. -/
def unorderedStackCore : Core :=
  { setThr { Core.reset with cache := { Caches.reset with dcBusy := false, icBusy := false } } 1
      { Thread.reset with st := .ready, mode := .supervisor, pc := 0x10000001000#64, regs := [(1, 1#64), (31, 1024#64)] } with
    spad := { Core.reset.spad with mem := [(1016, 1#8), (1015, 7#8)] } }

/-- The running module with that core. -/
def unorderedStack : State := { unorderedMemory with cores := [(0, unorderedStackCore)] }

/-- The state meets every premise of an instruction that runs plainly. -/
theorem before_unorderedStack {a : Att} (runs : Runs issueAt1 a unorderedStack) : Before issueAt1 a unorderedStack where
  order := by decide
  press := fun e he => absurd he (List.not_mem_nil (a := e))
  quiet := by constructor <;> decide
  runs := runs
  plain := by constructor <;> decide

/-- The 16 bytes below sp, and the 128 of a frame, are the thread's to write. -/
theorem local_unorderedStack {off n : Nat} (inside : off + n ≤ 1024) : Local unorderedStack issueAt1 off n true where
  inside := by omega
  whole := List.filter_eq_nil_iff.mpr (fun _ _ => Bool.false_ne_true)
  clean := List.filter_eq_nil_iff.mpr (fun _ _ => Bool.false_ne_true)
  allowed := .inl rfl

/-- After instruction i address 1015 of the scratchpad still reads 7. -/
def KeepsSeven (i : Instr) : Bool :=
  match exec i unorderedStack with
  | .next t => decide (mget 0#8 (Claims.core t issueAt1).spad.mem 1015 = 7#8)
  | _ => true

/-- An instruction that leaves the 7 has not stored bytes of which the one for address 1015 is zero. -/
theorem not_stored_of_keepsSeven {i : Instr} (keeps : KeepsSeven i = true) {off : Nat} {d : List Byte} {h : Thread}
    (below : off ≤ 1015) (above : 1015 < off + d.length) (zero : d.getD (1015 - off) 0#8 = 0#8) :
    ¬∃ t, exec i unorderedStack = .next t ∧ Stored unorderedStack t issueAt1 off d h := by
  rintro ⟨t, ht, stored⟩
  rw [KeepsSeven, ht] at keeps
  have seven := of_decide_eq_true keeps
  rw [stored.bytes, if_pos ⟨below, above⟩, zero] at seven
  exact absurd seven (by decide)

end Sys2Proof.Machine

open Sys2Proof Sys2Proof.Machine Sys2Proof.Claims

/-- Refutes O13: the return address of a call has a zero byte for address 1015, which keeps the 7 that it read. -/
theorem not_callsAndReturns : ¬ Obligations.CallsAndReturns := by
  unfold Obligations.CallsAndReturns
  rintro ⟨calls, -⟩
  obtain ⟨call, -⟩ := calls issueAt1 0#22 0#5 unorderedStack (before_unorderedStack (by constructor <;> decide)) (by decide) (by decide)
    (local_unorderedStack (by decide))
  exact not_stored_of_keepsSeven (i := .call issueAt1 0#22) (by decide +kernel) (by decide) (by decide) (by decide +kernel) (call (by decide))

/-- Refutes O15: the frame of a trap has a zero byte of g3 for address 1015, which keeps the 7 that it read. -/
theorem not_trapsAndFaultsEnterTheHandler : ¬ Obligations.TrapsAndFaultsEnterTheHandler := by
  unfold Obligations.TrapsAndFaultsEnterTheHandler
  intro enters
  obtain ⟨trap, -⟩ := enters issueAt1 0#8 0#32 unorderedStack (by decide) (by decide) (local_unorderedStack (by decide))
  exact not_stored_of_keepsSeven (i := .trap issueAt1 0#8) (by decide +kernel) (by decide) (by decide +kernel) (by decide +kernel)
    (trap (before_unorderedStack (by constructor <;> decide)))

/-- Refutes O22: the frame of a misaligned load has a zero byte of g3 for address 1015, which keeps the 7 that it read. -/
theorem not_misalignedAccessesFault : ¬ Obligations.MisalignedAccessesFault := by
  unfold Obligations.MisalignedAccessesFault
  intro enters
  obtain ⟨load, -⟩ := enters issueAt1 0#5 1#5 1#2 0#9 unorderedStack (before_unorderedStack (by constructor <;> decide)) (by decide) (by decide)
    (by decide) (local_unorderedStack (by decide))
  exact not_stored_of_keepsSeven (i := .ld issueAt1 0#5 1#5 1#2 false 0#9) (by decide +kernel) (by decide) (by decide +kernel)
    (by decide +kernel) load
end

section
/-! PROOFS. Instruction fetches (O58). -/

namespace Sys2Proof.Machine
open Sys2Proof.Claims

/-! ### A core after a change of it -/

theorem getCore_modCore {σ : State} (o : rising σ.cores = true) (L : Nat) (f : Core → Core) :
    getCore (modCore σ L f) L = f (getCore σ L) :=
  getCore_setCore o L _

theorem getCore_modCore_other (σ : State) {L K : Nat} (f : Core → Core) (h : K ≠ L) : getCore (modCore σ L f) K = getCore σ K :=
  getCore_setCore_other σ _ h

theorem rising_modCore {σ : State} (o : rising σ.cores = true) (L : Nat) (f : Core → Core) : rising (modCore σ L f).cores = true :=
  rising_setCore o L _

/-! ### The access that a fetch makes -/

/-- A fetch at va as a fault reports it. -/
def fetchInfo (va : Nat) : FInfo := { faultAt 0x0D va false 4 with fetch := true }

/-- The access of the fetch of thread t's next instruction: its range, its translation, its line (R49, R50). -/
def fetchAccess (σ : State) (L t : Nat) : AR Unit :=
  let h := thrOf σ L t
  let va := h.pc.toNat
  let f := fetchInfo va
  if va < 0x10000000000 ∨ 2 ^ 48 ≤ va then .fault σ { f with cause := 0x05 }
  else andThen (threadXlate σ L t h.mode .fetch va f) (fun σ e => fetchLine σ L t f e va)

/-- The state in which a fetch ends: a fault is raised. -/
def fetchEnds (L t : Nat) : AR Unit → State
  | .ok σ _ => σ
  | .hold σ => σ
  | .fault σ f => raise σ L t f

/-- A fetch of a thread that may issue, that no stop and no breakpoint keeps from it, ends as its access does. -/
theorem fetch_goes {s : State} {core : BitVec 13} {n : BitVec 4} {r : AR Unit} (issues : canIssue s core.toNat n.toNat attAlu = true)
    (ctrl : (getCore s core.toNat).sup.ctrlBad = false) (ctx : (thrOf s core.toNat n.toNat).ctxBad = false)
    (bp : bpMatch (getCore s core.toNat) n.toNat (thrOf s core.toNat n.toNat) = none) (access : fetchAccess s core.toNat n.toNat = r) :
    GoesTo (.instructionFetch core n) s (fetchEnds core.toNat n.toNat r) core.toNat := by
  have first : stopFirst s core.toNat n.toNat = none := by simp only [stopFirst, ctrl, ctx, Bool.false_eq_true, if_false]
  subst access
  simp only [GoesTo, exec, execInstructionFetch, issues, first, bp, Bool.not_true, Bool.false_eq_true, if_false]
  congr 2

section
variable {σ : State} {L t : Nat} {e : Tlb}

theorem fetchAccess_outside (out : (thrOf σ L t).pc.toNat < 0x10000000000 ∨ 2 ^ 48 ≤ (thrOf σ L t).pc.toNat) :
    fetchAccess σ L t = .fault σ { fetchInfo (thrOf σ L t).pc.toNat with cause := 0x05 } := if_pos out

/-- In the translated range a fetch is the access of its translation's line, or the fault of a permission. -/
theorem fetchAccess_inside (low : 0x10000000000 ≤ (thrOf σ L t).pc.toNat) (high : (thrOf σ L t).pc.toNat < 2 ^ 48)
    (found : tlbFind (getCore σ L).xlt (thrOf σ L t).pc.toNat = some e) :
    fetchAccess σ L t =
      if permReason e (thrOf σ L t).mode .fetch = 0 then fetchLine σ L t (fetchInfo (thrOf σ L t).pc.toNat) e (thrOf σ L t).pc.toNat
      else .fault σ (xlateFault (fetchInfo (thrOf σ L t).pc.toNat) (permReason e (thrOf σ L t).mode .fetch) 0) := by
  rw [fetchAccess, if_neg (by omega), threadXlate]
  simp only [found]
  generalize permReason e (thrOf σ L t).mode .fetch = reason
  cases reason <;> rfl

end

/-! ### A request of a thread to a stack of HBM -/

/-- From s to z thread t of core L asks the home r for n bytes by a request of kind k, and nothing else of the threads, of what is
outstanding or of the mesh has changed. -/
structure Asks (s z : State) (L t : Nat) (k : OutKind) (r : Home) (n : Nat) (w : Who) : Prop where
  net : z.net = s.net ++ [pkt (.core L) (homeEp r) (.read s.nextId r n w)]
  thread : thrOf z L t = { thrOf s L t with held := .access s.nextId }
  outs : (getCore z L).outs = (getCore s L).outs ++ [{ id := s.nextId, kind := k }]
  threads : ∀ u, u ≠ t → thrOf z L u = thrOf s L u
  cores : ∀ K, K ≠ L → getCore z K = getCore s K

theorem addOut_core {σ : State} (rise : rising σ.cores = true) (L id : Nat) (k : OutKind) (r : Home) :
    getCore (addOut σ L id k r) L = { getCore σ L with outs := (getCore σ L).outs ++ [{ id := id, kind := k, win := inWindow L r }] } :=
  getCore_modCore rise L _

/-- The core of a thread that asks: the request is outstanding, and the thread waits for it. -/
theorem threadAsks_core {σ : State} (rise : rising σ.cores = true) (L t : Nat) (k : OutKind) (r : Home) :
    getCore (threadAsks σ L t k r).2 L =
      modThr { getCore σ L with outs := (getCore σ L).outs ++ [{ id := σ.nextId, kind := k, win := inWindow L r }] } t
        (fun h => { h with held := .access σ.nextId }) :=
  (getCore_modCore (rising_modCore (σ := (newId σ).2) rise L _) L _).trans
    (congrArg (modThr · t _) (addOut_core (σ := (newId σ).2) rise L σ.nextId k r))

theorem threadAsks_others (σ : State) {L K : Nat} (t : Nat) (k : OutKind) (r : Home) (h : K ≠ L) :
    getCore (threadAsks σ L t k r).2 K = getCore σ K :=
  (getCore_modCore_other _ _ h).trans (getCore_modCore_other (newId σ).2 _ h)

/-- A thread asks HBM from a state that differs from s in the performance counters of its core alone. -/
theorem asks_hbm {s σ : State} {L : Nat} {p : Perf} (o : s.ordered = true) (rise : rising σ.cores = true)
    (only : OnlyCore s σ L { getCore s L with perf := p }) (t : Nat) (k : OutKind) (a n : Nat) (w : Who) :
    Asks s (sendRead (threadAsks σ L t k (.hbm a)).2 L (threadAsks σ L t k (.hbm a)).1 (.hbm a) n w) L t k (.hbm a) n w := by
  obtain ⟨core, others, rest⟩ := only
  have net : σ.net = s.net := (congrArg State.net rest :)
  have id : σ.nextId = s.nextId := (congrArg State.nextId rest :)
  have asked := threadAsks_core rise L t k (.hbm a)
  rw [core, id] at asked
  refine ⟨?_, ?_, ?_, fun u hu => ?_, fun K hK => ?_⟩
  · rw [← net, ← id]
    rfl
  · exact (congrArg (getThr · t) asked).trans (getThr_setThr (threads_rising o L) t _)
  · exact congrArg Core.outs asked
  · exact (congrArg (getThr · u) asked).trans (getThr_setThr_other _ _ hu)
  · exact (threadAsks_others σ t k _ hK).trans (others K hK)

/-! ### The I-cache -/

/-- What a read gives after a write of a value that is not the default, in any listing. -/
theorem mget_mput_listed {α : Type} [DecidableEq α] {d v : α} (hv : v ≠ d) (m : SMap α) (k : Nat) : mget d (mput d k v m) k = v := by
  induction m with
  | nil => simp [mput, hv, mget]
  | cons e r ih =>
    obtain ⟨j, w⟩ := e
    simp only [mput, hv, if_false]
    split
    · simp [mget]
    · split
      · simp [mget]
      · next hne => rw [mget, if_neg (Ne.symm hne), ih]

/-- Writing back what a key reads changes no read. -/
theorem mget_mput_self {α : Type} [DecidableEq α] {d v : α} (hv : v ≠ d) {m : SMap α} {k : Nat} (h : mget d m k = v) (j : Nat) :
    mget d (mput d k v m) j = mget d m j := by
  by_cases e : j = k
  · rw [e, mget_mput_listed hv, h]
  · exact mget_mput_other d m v e

/-- A lookup reads the ways of the set and nothing else. -/
theorem findLine_congr {m m' : SMap DLine} (h : ∀ j, mget DLine.empty m' j = mget DLine.empty m j) (s va : Nat) :
    findLine m' s va = findLine m s va := by
  simp only [findLine, h]

/-- The line that a lookup finds stands at its key, and is valid. -/
theorem findLine_some {m : SMap DLine} {s va key : Nat} {l : DLine} (h : findLine m s va = some (key, l)) :
    mget DLine.empty m key = l ∧ l.valid = true := by
  obtain ⟨w, -, hw⟩ := List.exists_of_findSome?_eq_some h
  simp only [Option.ite_none_right_eq_some, Bool.and_eq_true, Option.some.injEq, Prod.mk.injEq] at hw
  obtain ⟨⟨valid, -⟩, rfl, rfl⟩ := hw
  exact ⟨rfl, valid⟩

/-- The ways of the set of va in the I-cache of core L have sound tags. -/
def TagsSound (σ : State) (L va : Nat) : Prop :=
  ∀ w < 4, (mget DLine.empty (getCore σ L).cache.i (4 * (va / 64 % 128) + w)).tagBad = false

section
variable {σ : State} {L va : Nat}

/-- With sound tags, a lookup drops no way. -/
theorem tags_kept (tags : TagsSound σ L va) :
    (List.range 4).foldl (fun (k : Caches) w =>
      if (mget DLine.empty k.i (4 * (va / 64 % 128) + w)).tagBad then
        { k with i := mput DLine.empty (4 * (va / 64 % 128) + w) DLine.empty k.i, tagPar := satAdd 0xFFFF k.tagPar 1 }
      else k) (getCore σ L).cache = (getCore σ L).cache := by
  refine foldl_fix _ _ _ (fun w hw => ?_)
  rw [tags w (List.mem_range.mp hw)]
  rfl

/-- With sound tags and no line, a lookup changes nothing. -/
theorem icMeet_miss (tags : TagsSound σ L va) (none : findLine (getCore σ L).cache.i 128 va = none) : icMeet σ L va = modCore σ L id := by
  refine congrArg (setCore σ L) ?_
  simp only [tags_kept tags, none]
  rfl

/-- With sound tags and a line without errors, a lookup writes the line back and counts nothing. -/
theorem icMeet_hit {key : Nat} {l : DLine} (tags : TagsSound σ L va) (hit : findLine (getCore σ L).cache.i 128 va = some (key, l))
    (whole : l.flips = []) :
    icMeet σ L va = modCore σ L (fun c => { c with cache := { c.cache with
      i := mput DLine.empty key l c.cache.i, icErr := satAdd 0xFFFF c.cache.icErr 0 } }) := by
  have met : lineMeet l (va % 64) 4 = (l, 0, 0) := by
    obtain ⟨valid, a, home, shared, dirty, locked, data, poison, tagBad, flips⟩ := l
    subst whole
    rfl
  refine congrArg (setCore σ L) ?_
  simp only [tags_kept tags, hit, met]
  rfl

end

/-! ### The access of a fetch, case by case -/

section
variable {s : State} {L t va : Nat} {f : FInfo} {e : Tlb}

/-- Of HBM no bytes are at hand: a thread without a recorded access asks for them. -/
theorem homeRead_hbm (acc : (thrOf s L t).acc = []) (a n : Nat) :
    homeRead s L t f (.hbm a) n =
      let asked := threadAsks s L t (.accRead (BitVec.ofNat 4 t) (.hbm a) f) (.hbm a)
      .hold (sendRead asked.2 L asked.1 (.hbm a) n (.thread L (BitVec.ofNat 4 t))) := by
  have fresh : accFind (thrOf s L t) (.hbm a) n false = none := by simp [accFind, acc]
  simp only [homeRead, fresh, winFull, inWindow, Bool.false_and, Bool.false_eq_true, if_false]

/-- On a page of HBM that is not cacheable a fetch asks for its 4 bytes. -/
theorem fetchLine_uncached (o : s.ordered = true) (n : BitVec 4) (cls : 2 ≤ e.cls) (comp : e.comp = false)
    (acc : (thrOf s L n.toNat).acc = []) :
    ∃ z, fetchLine s L n.toNat f e va = .hold z ∧
      Asks s z L n.toNat (.accRead n (homeAt e va) f) (homeAt e va) 4 (.thread L n) := by
  have home : homeAt e va = .hbm (e.addr + (va - e.va)) := by simp [homeAt, comp]
  rw [home]
  refine ⟨_, ?_, asks_hbm o (rising_of_ordered o) ⟨rfl, fun _ _ => rfl, rfl⟩ n.toNat _ _ 4 (.thread L n)⟩
  rw [fetchLine, if_pos cls, home, homeRead_hbm acc, BitVec.ofNat_toNat, BitVec.setWidth_eq]
  rfl

/-- A line that the I-cache has serves the fetch, and stays. -/
theorem fetchLine_hit {key : Nat} {l : DLine} (o : s.ordered = true) (cls : e.cls < 2) (tags : TagsSound s L va)
    (hit : findLine (getCore s L).cache.i 128 va = some (key, l)) (whole : l.flips = []) :
    ∃ z, fetchLine s L t f e va = .ok z () ∧ (getCore z L).thr = (getCore s L).thr ∧ z.net = s.net ∧
      (findLine (getCore z L).cache.i 128 va).map (·.2.data) = some l.data := by
  have meet := icMeet_hit tags hit whole
  obtain ⟨stands, valid⟩ := findLine_some hit
  have listed : l ≠ DLine.empty := fun h => by rw [h] at valid; exact absurd valid (by decide)
  have core : getCore (icMeet s L va) L =
      { getCore s L with cache := { (getCore s L).cache with
        i := mput DLine.empty key l (getCore s L).cache.i, icErr := satAdd 0xFFFF (getCore s L).cache.icErr 0 } } := by
    rw [meet, getCore_modCore (rising_of_ordered o)]
  have found : findLine (getCore (icMeet s L va) L).cache.i 128 va = some (key, l) := by
    rw [core, findLine_congr (mget_mput_self listed stands), hit]
  refine ⟨icMeet s L va, ?_, by rw [core], by rw [meet]; rfl, by rw [found]; rfl⟩
  simp only [fetchLine, if_neg (Nat.not_le.mpr cls), found]

/-- The state in which a fetch that misses asks: the miss is counted. -/
def missCounted (s : State) (L va : Nat) : State := modCore (icMeet s L va) L (fun c => pmcEvent c 0x0B none 1)

theorem missCounted_only (o : s.ordered = true) (tags : TagsSound s L va) (miss : findLine (getCore s L).cache.i 128 va = none) :
    rising (missCounted s L va).cores = true ∧ ∃ p, OnlyCore s (missCounted s L va) L { getCore s L with perf := p } := by
  have rise := rising_of_ordered o
  obtain ⟨p, counts⟩ := pmcEvent_perf (getCore s L) 0x0B none 1
  rw [missCounted, icMeet_miss tags miss]
  refine ⟨rising_modCore (rising_modCore rise _ _) _ _, p, ?_, fun K hK => ?_, rfl⟩
  · rw [getCore_modCore (rising_modCore rise _ _), getCore_modCore rise, id, counts]
  · rw [getCore_modCore_other _ _ hK, getCore_modCore_other _ _ hK]

/-- For a line that the I-cache lacks, and that no fill brings, a fetch asks HBM. -/
theorem fetchLine_miss (o : s.ordered = true) (n : BitVec 4) (cls : e.cls < 2) (tags : TagsSound s L va)
    (miss : findLine (getCore s L).cache.i 128 va = none) (first : fetchOut (getCore s L) va = false) (comp : e.comp = false) :
    ∃ z, fetchLine s L n.toNat f e va = .hold z ∧
      Asks s z L n.toNat (.fetch n (lineNew va (homeAt e (lineOf va)) (decide (e.cls = 1)) []) f) (homeAt e (lineOf va)) 64 (.fetch L) := by
  have home : homeAt e (lineOf va) = .hbm (e.addr + (lineOf va - e.va)) := by simp [homeAt, comp]
  obtain ⟨rise, p, only⟩ := missCounted_only o tags miss
  have core : getCore (icMeet s L va) L = getCore s L := by rw [icMeet_miss tags miss, getCore_modCore (rising_of_ordered o), id]
  rw [home]
  refine ⟨_, ?_, asks_hbm o rise only n.toNat _ _ 64 (.fetch L)⟩
  simp only [fetchLine, if_neg (Nat.not_le.mpr cls), core, miss, first, Bool.false_eq_true, if_false, BitVec.ofNat_toNat,
    BitVec.setWidth_eq, home, missCounted]

end

/-- A fetch whose access asks a home and waits ends so. -/
theorem fetch_asks {s : State} {core : BitVec 13} {n : BitVec 4} {r : AR Unit} {q : OutKind} {home : Home} {size : Nat} {w : Who}
    (issues : canIssue s core.toNat n.toNat attAlu = true) (ctrl : (getCore s core.toNat).sup.ctrlBad = false)
    (ctx : (thrOf s core.toNat n.toNat).ctxBad = false)
    (bp : bpMatch (getCore s core.toNat) n.toNat (thrOf s core.toNat n.toNat) = none) (access : fetchAccess s core.toNat n.toNat = r)
    (waits : ∃ z, r = .hold z ∧ Asks s z core.toNat n.toNat q home size w) :
    ∃ z, GoesTo (.instructionFetch core n) s z core.toNat ∧
      z.net = s.net ++ [pkt (.core core.toNat) (homeEp home) (.read s.nextId home size w)] ∧
      thrOf z core.toNat n.toNat = { thrOf s core.toNat n.toNat with held := .access s.nextId } ∧
      (getCore z core.toNat).outs = (getCore s core.toNat).outs ++ [{ id := s.nextId, kind := q }] ∧
      (∀ u, u ≠ n.toNat → thrOf z core.toNat u = thrOf s core.toNat u) ∧ ∀ K, K ≠ core.toNat → getCore z K = getCore s K := by
  obtain ⟨z, held, net, thread, outs, threads, cores⟩ := waits
  have goes := fetch_goes issues ctrl ctx bp (access.trans held)
  exact ⟨z, goes, net, thread, outs, threads, cores⟩

/-! ### The line that arrives -/

/-- The way that an I-cache line takes in its set: an invalid one, or the victim. -/
def icWay (σ : State) (L va : Nat) : Nat :=
  ((List.range 4).find? (fun w => !(mget DLine.empty (getCore σ L).cache.i (4 * (va / 64 % 128) + w)).valid)).getD
    (Config.victim σ.freeCtr % 4)

theorem icWay_lt (σ : State) (L va : Nat) : icWay σ L va < 4 := by
  unfold icWay
  cases found : (List.range 4).find? (fun w => !(mget DLine.empty (getCore σ L).cache.i (4 * (va / 64 % 128) + w)).valid) with
  | none => exact Nat.mod_lt _ (by decide)
  | some w => exact List.mem_range.mp (List.mem_of_find?_eq_some found)

/-- A line that a fetch asked for arrives whole: it is installed, and the thread goes on with its fetch. -/
theorem cacheFill_fetch {s : State} {i L id : Nat} {p : Packet} {n : BitVec 4} {l : DLine} {g : FInfo} {data : List Byte} {k : Bool}
    (arrives : mayArrive s i = some p) (dst : p.dst = .core L) (on : coreOn s L = true) (body : p.body = .readData id data [] k)
    (asked : (findOut (getCore s L) id).map (·.kind) = some (.fetch n l g)) :
    GoesTo (.cacheFill i) s (accDone (icInstall (dropOut (takePkt s i) L id) L { l with data := data }) L id n.toNat none) L := by
  have answered : response s i = some (L, .readData id data [] k) := by simp only [response, arrives, dst, on, body, if_true]
  obtain ⟨⟨oid, kind, win⟩, out, rfl⟩ := Option.map_eq_some_iff.mp asked
  simp only [GoesTo, exec, execCacheFill, answered, out]
  rfl

section
variable {s : State} {L id : Nat}

/-- A thread that waits for the request goes on; its core is else as it was. -/
theorem accDone_held (t : Nat) (held : (thrOf s L t).held = .access id) :
    accDone s L id t none = modT s L t (fun h => { h with held := .none }) := by
  have waits : heldBy s L t id = true := by simp [heldBy, held]
  simp only [accDone, waits, Bool.not_true, Bool.false_eq_true, if_false]

theorem dropOut_core (o : s.ordered = true) (i : Nat) :
    getCore (dropOut (takePkt s i) L id) L = { getCore s L with outs := (getCore s L).outs.filter (fun o => o.id != id) } :=
  getCore_modCore (σ := takePkt s i) (rising_of_ordered o) L _

theorem icInstall_core (rise : rising s.cores = true) (l : DLine) :
    getCore (icInstall s L l) L = { getCore s L with cache := { (getCore s L).cache with
      i := mput DLine.empty (4 * (l.va / 64 % 128) + icWay s L l.va) l (getCore s L).cache.i } } :=
  getCore_modCore (σ := { s with freeCtr := s.freeCtr + 1 }) rise L _

/-- After a line has arrived for thread t, the line is in its way, the request is gone, and the thread goes on; no other core has changed. -/
theorem fetched (o : s.ordered = true) (i t : Nat) (l : DLine) (held : (thrOf s L t).held = .access id) :
    let z := accDone (icInstall (dropOut (takePkt s i) L id) L l) L id t none
    (getCore z L = setThr { getCore s L with
        outs := (getCore s L).outs.filter (fun o => o.id != id)
        cache := { (getCore s L).cache with
          i := mput DLine.empty (4 * (l.va / 64 % 128) + icWay (dropOut (takePkt s i) L id) L l.va) l (getCore s L).cache.i } } t
        { thrOf s L t with held := .none }) ∧
      ∀ K, K ≠ L → getCore z K = getCore s K := by
  have rise : rising (dropOut (takePkt s i) L id).cores = true := rising_modCore (σ := takePkt s i) (rising_of_ordered o) _ _
  have rise' : rising (icInstall (dropOut (takePkt s i) L id) L l).cores = true := rising_setCore rise _ _
  have core := icInstall_core (L := L) rise l
  rw [dropOut_core o] at core
  have thread : thrOf (icInstall (dropOut (takePkt s i) L id) L l) L t = thrOf s L t := (congrArg (getThr · t) core :)
  rw [accDone_held t (thread ▸ held)]
  refine ⟨?_, fun K hK => ?_⟩
  · rw [modT, getCore_modCore rise', core]
    rfl
  · rw [modT, getCore_modCore_other _ _ hK]
    exact (getCore_setCore_other (dropOut (takePkt s i) L id) _ hK).trans (getCore_modCore_other (takePkt s i) _ hK)

end
end Sys2Proof.Machine

open Sys2Proof.Machine Sys2Proof.Claims in
/-- Settles O58, by the access that a fetch makes: its fault, its line or its request; and by the fill that answers it. -/
theorem instructionFetches : Obligations.InstructionFetches := by
  unfold Obligations.InstructionFetches
  intro s core n e key i id l p g data k o
  refine ⟨fun issues ctrl ctx bp => ⟨fun out => ?_, fun low high found => ⟨fun denied => ?_, fun allowed => ?_⟩⟩,
    fun arrives dst on body asked held => ?_⟩
  · have goes := fetch_goes issues ctrl ctx bp (fetchAccess_outside out)
    exact goes
  · have access := fetchAccess_inside low high found
    rw [if_neg denied] at access
    have goes := fetch_goes issues ctrl ctx bp access
    exact goes
  · have access := fetchAccess_inside low high found
    rw [if_pos allowed] at access
    refine ⟨fun cls comp acc => ?_, fun cls tags => ⟨fun hit whole => ?_, fun miss first comp => ?_⟩⟩
    · exact fetch_asks issues ctrl ctx bp access (fetchLine_uncached o n cls comp acc)
    · obtain ⟨z, line, thr, net, data⟩ := fetchLine_hit o cls tags hit whole
      have goes := fetch_goes issues ctrl ctx bp (access.trans line)
      exact ⟨z, goes, thr, net, data⟩
    · exact fetch_asks issues ctrl ctx bp access (fetchLine_miss o n cls tags miss first comp)
  · obtain ⟨own, others⟩ := fetched o i n.toNat { l with data := data } held
    have goes := cacheFill_fetch arrives dst on body asked
    refine ⟨_, icWay (dropOut (takePkt s i) core.toNat id) core.toNat l.va, icWay_lt _ _ _, goes, ?_, ?_, others⟩
    · exact (congrArg Core.cache own :)
    · exact (congrArg (getThr · n.toNat) own).trans (getThr_setThr (threads_rising o core.toNat) _ _)
end

section
/-! PROOFS. The entry of a handler on a stack in a scratchpad that is not in its canonical form (O14). As for the traps of O15, no premise
asks for the canonical form, and a zero byte of the frame leaves an address that is listed out of order as it was. -/

namespace Sys2Proof.Machine
open Sys2Proof.Claims

/-- The entry of a trap. -/
def trapEntry : Entry := { cause := 0x10, int := 0, trap := 0, async := false, addr := 0, detail := 0#64, pc := 0x10000001004#64 }

/-- Thread 1 of the core whose scratchpad is listed out of order, in its handler. -/
def unorderedEntered : State := takeException unorderedStack (co issueAt1) (th issueAt1) trapEntry

/-- Address 1015 still reads 7 after the entry, which stores a zero byte of g3 there. -/
theorem unorderedEntered_keeps_seven : mget 0#8 (Claims.core unorderedEntered issueAt1).spad.mem 1015 = 7#8 := by decide +kernel

end Sys2Proof.Machine

open Sys2Proof Sys2Proof.Machine Sys2Proof.Claims

/-- Refutes O14, by its first part: the frame has a zero byte of g3 for address 1015, which keeps the 7 that it read. -/
theorem not_exceptionsEnterTheHandler : ¬ Obligations.ExceptionsEnterTheHandler := by
  unfold Obligations.ExceptionsEnterTheHandler
  rintro ⟨enters, -⟩
  have stored := enters issueAt1 unorderedStack trapEntry (by decide) (by decide) (by decide) (local_unorderedStack (by decide)) rfl
  have zero : mget 0#8 (Claims.core unorderedEntered issueAt1).spad.mem 1015 = 0#8 := (stored.bytes 1015).trans (by decide +kernel)
  exact absurd (unorderedEntered_keeps_seven.symm.trans zero) (by decide)
end

section
/-! PROOFS. The return from an exception (O16). -/

namespace Sys2Proof.Machine
open Sys2Proof.Claims

/-! ### A read of the own scratchpad, piece by piece -/

theorem readBytes_add (m : List Host.Cell) (a k j : Nat) : readBytes m a (k + j) = readBytes m a k ++ readBytes m (a + k) j := by
  induction k generalizing a with
  | zero => simp [readBytes]
  | succ k ih => rw [Nat.succ_add, readBytes, readBytes, ih, List.cons_append, Nat.succ_add_eq_add_succ a k]

theorem mem_wordsTouched {a n w : Nat} : w ∈ wordsTouched a n ↔ n ≠ 0 ∧ a / 8 ≤ w ∧ w ≤ (a + n - 1) / 8 := by
  unfold wordsTouched
  split
  · next empty => simp [empty]
  · next some_bytes =>
    simp only [List.mem_map, List.mem_range]
    refine ⟨?_, fun ⟨_, low, high⟩ => ⟨w - a / 8, by omega, by omega⟩⟩
    rintro ⟨i, hi, rfl⟩
    omega

/-- A range that touches no marked word has no part that touches one. -/
theorem badIn_part {ue : List Nat} {a n b k : Nat} (none : badIn ue a n = []) (low : a ≤ b) (high : b + k ≤ a + n) : badIn ue b k = [] := by
  rw [badIn, List.filter_eq_nil_iff] at none ⊢
  refine fun w touched => none w (mem_wordsTouched.mpr ?_)
  have := mem_wordsTouched.mp touched
  omega

/-- A piece ends at the end of its line, or is what is left of the range. -/
theorem piece_length (a n : Nat) :
    (Nat.min n (64 - a % 64) = n ∧ n ≤ 64 - a % 64) ∨ (Nat.min n (64 - a % 64) = 64 - a % 64 ∧ 64 - a % 64 ≤ n) := by
  obtain le | le := Nat.le_total n (64 - a % 64)
  · exact .inl ⟨Nat.min_eq_left le, le⟩
  · exact .inr ⟨Nat.min_eq_right le, le⟩

section
variable {σ : State} {L t a n : Nat} {f : FInfo}

/-- Bytes of the own scratchpad without marks are read at once. -/
theorem homeRead_own (whole : badIn (getCore σ L).spad.ue a n = []) (clean : badIn (getCore σ L).spad.ce a n = []) :
    homeRead σ L t f (.spad L a) n = .ok σ (readBytes (getCore σ L).spad.mem a n, []) := by
  have meet : spadMeet σ L a n = σ := by simp only [spadMeet, clean]
  simp only [homeRead, if_true, meet, homeBytes, spadRead, whole, List.map_nil]

/-- The pieces of a range of the own scratchpad without marks give its bytes. -/
theorem readPlaces_own (alloc : Bool) (va : Nat) {fuel : Nat} (cover : n ≤ 64 * fuel - a % 64)
    (whole : badIn (getCore σ L).spad.ue a n = []) (clean : badIn (getCore σ L).spad.ce a n = []) :
    readPlaces σ L t f alloc
        ((pieces fuel a n).map (fun p => { va := va + (p.1 - va), n := p.2, home := .spad L p.1, cls := 3 })) =
      .ok σ (readBytes (getCore σ L).spad.mem a n, false) := by
  induction fuel generalizing a n with
  | zero =>
    obtain rfl : n = 0 := by omega
    rfl
  | succ fuel ih =>
    rw [pieces]
    split
    · next empty => rw [empty]; rfl
    · have length := piece_length a n
      generalize Nat.min n (64 - a % 64) = k at length ⊢
      have read := homeRead_own (t := t) (f := f) (badIn_part whole (Nat.le_refl a) (show a + k ≤ a + n by omega))
        (badIn_part clean (Nat.le_refl a) (show a + k ≤ a + n by omega))
      have rest := ih (a := a + k) (n := n - k) (by omega) (badIn_part whole (by omega) (by omega)) (badIn_part clean (by omega) (by omega))
      have bytes := readBytes_add (getCore σ L).spad.mem a k (n - k)
      rw [show k + (n - k) = n by omega] at bytes
      simp only [List.map_cons, readPlaces, readPlace, Nat.reduceLeDiff, if_true, read, rest, andThen, bytes]
      rfl

/-- A read of the own scratchpad without marks gives its bytes, and leaves the state. -/
theorem readNow_own (alloc : Bool) (mode : Mode) (load : f.write = false) (inside : a + n ≤ 0x280000)
    (whole : badIn (getCore σ L).spad.ue a n = []) (clean : badIn (getCore σ L).spad.ce a n = []) :
    readNow σ L t mode alloc a n f = .ok σ (readBytes (getCore σ L).spad.mem a n, false) := by
  have places := readPlaces_own (t := t) (f := f) alloc a (fuel := n / 64 + 2) (by omega) whole clean
  simp only [readNow, resolve, rangeOf_own σ L inside, load, r53Denies_own_read, Bool.false_eq_true, if_false, andThen, places]

end

/-! ### An instruction that sets its thread itself -/

/-- At the boundary of a thread that nothing stops, nothing is taken. -/
theorem boundary_plain {σ : State} {L t : Nat} (p : Plain (thrOf σ L t)) : boundary σ L t = σ := by
  simp only [boundary, takeAsked, p.pend, p.stepping, p.stop]
  split <;> rfl

/-- A change of the thread whose issue is counted changes the own core alone. -/
theorem onlyCore_counted_modT {s : State} (o : s.ordered = true) (x : Issue) (a : Att) (f : Thread → Thread) :
    ∃ p, OnlyCore s (modT (counted s x a) (co x) (th x) f) (co x) (setThr { getCore s (co x) with perf := p } (th x) (f (thr s x))) := by
  obtain ⟨p, core, others, rest⟩ := onlyCore_counted (a := a) o x
  refine ⟨p, ?_, fun K hK => ?_, rest⟩
  · have rise : rising (counted s x a).cores = true := rising_modCore (rising_of_ordered o) _ _
    rw [modT, getCore_modCore rise, core]
    rfl
  · rw [modT, getCore_modCore_other _ _ hK, others K hK]

theorem OnlyCore.same {s σ t : State} {L : Nat} {c : Core} (only : OnlyCore s σ L c) (k : Same σ t) : OnlyCore s t L c := by
  obtain ⟨core, others, rest⟩ := only
  refine ⟨(k.cores L).trans core, fun K hK => (k.cores K).trans (others K hK), ?_⟩
  exact (congrArg (fun z : State => { z with cores := s.cores }) k.rest).trans rest

/-- Where only the issuing thread has changed, to a READY thread that nothing stops, what follows the instruction changes nothing else. -/
theorem tidy_thread {x : Issue} {a : Att} {s σ : State} {h : Thread} {p : Perf} (b : Before x a s) (rise : rising σ.cores = true)
    (only : OnlyCore s σ (co x) (setThr { getCore s (co x) with perf := p } (th x) h)) (plain : Plain h) (ready : h.st = .ready)
    (fences : h.fences = []) : OnlyThread s (tidy s σ (co x)) (co x) (th x) h := by
  have threads := threads_rising b.order (co x)
  have thread : getThr (getCore σ (co x)) (th x) = h := by rw [only.core]; exact getThr_setThr threads _ _
  have quiet : Quiet (getCore σ (co x)) := by
    rw [only.core]
    exact (b.quiet.perf p).setThr threads (by rw [ready]; exact nofun) fences plain
  have left : leftWait (getCore s (co x)) (getCore σ (co x)) = false := by
    refine leftWait_quiet b.quiet.waits (fun u _ faulted => ?_)
    have other : u ≠ th x := by
      rintro rfl
      exact absurd (faulted.symm.trans b.runs.ready) nofun
    rw [only.core, getThr_setThr_other _ _ other]
    exact faulted
  have press : PressRest σ := b.press.of (congrArg State.press only.rest :)
  have events : (getCore s (co x)).sup.evq = (getCore σ (co x)).sup.evq := by rw [only.core]; rfl
  have same := tidy_quiet rise quiet press x.thread.isLt (by rw [thrOf, thread, ready]) left events
  exact (only.same same).onlyThread b.order

/-- An instruction that sets its thread to f of it, where nothing stops it at the boundary. -/
theorem sets_to {i : Instr} {x : Issue} {a : Att} {s : State} {body : State → Nat → Nat → IRes} (b : Before x a s) (f : Thread → Thread)
    (he : exec i s = issue x a s body) (keeps : KeepsPlace f)
    (hb : ∀ σ, Sees s x σ → body σ (co x) (th x) = .set (boundary (modT σ (co x) (th x) f) (co x) (th x))) :
    ThreadTo i x s (f (thr s x)) := by
  obtain ⟨st, fences, dbg, stop, entry⟩ := keeps (thr s x)
  have plain : Plain (f (thr s x)) := ⟨dbg ▸ b.plain.pend, dbg ▸ b.plain.stepping, stop ▸ b.plain.stop, entry ▸ b.plain.entry⟩
  obtain ⟨p, only⟩ := onlyCore_counted_modT b.order x a f
  have rise : rising (modT (counted s x a) (co x) (th x) f).cores = true :=
    rising_modCore (rising_modCore (rising_of_ordered b.order) _ _) _ _
  have thread : thrOf (modT (counted s x a) (co x) (th x) f) (co x) (th x) = f (thr s x) := by
    rw [thrOf, only.core]
    exact getThr_setThr (threads_rising b.order (co x)) _ _
  refine ⟨_, ?_, tidy_thread b rise only plain (st.trans b.runs.ready) (fences.trans (b.quiet.fences _ x.thread.isLt))⟩
  rw [he, issue_runs b.runs (by rw [hb s .self]; exact fun _ => nofun), hb _ (.counted b.order), apply, boundary_plain (thread ▸ plain)]

/-! ### The thread that a frame restores -/

theorem keepsPlace_restoreThread (w : List Word) : KeepsPlace (fun h => restoreThread h w) := fun h => by
  simp only [restoreThread, setG_st, setG_fences, setG_dbg, setG_stopPend, setG_entry, and_self]

theorem rising_setG {h : Thread} (o : rising h.regs = true) (r : Nat) (v : Word) : rising (setG h r v).regs = true := by
  unfold setG
  split
  · exact o
  · exact rising_mput o r v

/-- A frame restores g1 to g4 and sp, and leaves the other registers. -/
theorem greg_restoreThread {q : Thread} (o : rising q.regs = true) (w : List Word) (k : Nat) :
    greg (restoreThread q w) k =
      if k = 31 then wat w 6 else if k = 4 then wat w 15 else if k = 3 then wat w 14 else if k = 2 then wat w 13
      else if k = 1 then wat w 12 else greg q k := by
  have write {h : Thread} {r : Nat} (v : Word) (o : rising h.regs = true) (hr : r ≠ 0) :
      greg (setG h r v) k = if k = r then v else greg h k := by
    by_cases e : k = r
    · rw [if_pos e, e, greg_setG o hr]
    · rw [if_neg e, greg_setG_other h e]
  unfold restoreThread
  extract_lets status h
  have o : rising h.regs = true := o
  have o1 := rising_setG o 1 (wat w 12)
  have o2 := rising_setG o1 2 (wat w 13)
  have o3 := rising_setG o2 3 (wat w 14)
  have o4 := rising_setG o3 4 (wat w 15)
  rw [write _ o4 (by decide), write _ o3 (by decide), write _ o2 (by decide), write _ o1 (by decide), write _ o (by decide)]
  rfl

/-! ### The status word of a frame (Table: exception frame) -/

theorem b2n_le (b : Bool) : b2n b ≤ 1 := by cases b <;> decide

/-- The bit of a word at which its number has the flag b is b. -/
theorem bit_ofNat {n k : Nat} {b : Bool} (hk : k < 64) (h : n / 2 ^ k % 2 = b2n b) : bit (BitVec.ofNat 64 n) k = b := by
  rw [bit, BitVec.getLsbD_ofNat, decide_eq_true hk, Bool.true_and, Nat.testBit_eq_decide_div_mod_eq, h]
  cases b <;> rfl

theorem flagsWord_lt (f : Flags) : flagsWord f < 64 := by
  have := b2n_le f.v
  have := b2n_le f.c
  have := b2n_le f.z
  have := b2n_le f.n
  have := b2n_le f.p0
  have := b2n_le f.p1
  rw [flagsWord]
  omega

/-- The flags word gives the flags back (R48). -/
theorem flagsOf_flagsWord (f : Flags) : flagsOf (flagsWord f) = f := by
  obtain ⟨n, z, c, v, p0, p1⟩ := f
  revert n z c v p0 p1
  decide

/-- A status word whose low bits are the flags, the mode, AE and whether a slot is pending. -/
def statusWord (f : Flags) (sup ae slot : Bool) (high : Nat) : Word :=
  BitVec.ofNat 64 (flagsWord f + b2n sup * 64 + b2n ae * 128 + b2n slot * 256 + high * 512)

theorem statusWord_bits (f : Flags) (sup ae slot : Bool) (high : Nat) :
    flagsOf (bits (statusWord f sup ae slot high) 5 0) = f ∧ bit (statusWord f sup ae slot high) 6 = sup ∧
      bit (statusWord f sup ae slot high) 7 = ae ∧ bit (statusWord f sup ae slot high) 8 = slot := by
  have flags := flagsWord_lt f
  have := b2n_le sup
  have := b2n_le ae
  have := b2n_le slot
  refine ⟨?_, ?_, ?_, ?_⟩
  · have low : bits (statusWord f sup ae slot high) 5 0 = flagsWord f := by
      simp only [bits, statusWord, BitVec.toNat_ofNat]
      omega
    rw [low, flagsOf_flagsWord]
  · exact bit_ofNat (by decide) (by omega)
  · exact bit_ofNat (by decide) (by omega)
  · exact bit_ofNat (by decide) (by omega)

/-- The second word of a frame is such a status word. -/
theorem frameWords_status (h : Thread) (t : Nat) (e : Entry) (lrs : Bool) :
    ∃ high, wat (frameWords h t e lrs) 1 = statusWord h.flags (decide (h.mode = .supervisor)) h.ae h.slot.isSome high := by
  refine ⟨b2n e.async + b2n lrs * 2 + e.int * 8 + e.cause * 128 + e.trap * 2 ^ 15 + t * 2 ^ 23, ?_⟩
  show BitVec.ofNat 64 _ = BitVec.ofNat 64 _
  congr 1
  omega

/-- The word of the loop counts holds both. -/
theorem loopCounts_bits (a b : BitVec 32) :
    let w := BitVec.ofNat 64 (a.toNat + b.toNat * 2 ^ 32)
    BitVec.ofNat 32 (bits w 31 0) = a ∧ BitVec.ofNat 32 (bits w 63 32) = b := by
  have := a.isLt
  have := b.isLt
  constructor <;> refine BitVec.eq_of_toNat_eq ?_ <;> simp only [bits, BitVec.toNat_ofNat] <;> omega

end Sys2Proof.Machine

open Sys2Proof Sys2Proof.Machine Sys2Proof.Claims

theorem eretRestoresTheFrame : Claims.EretRestoresTheFrame := by
  intro x s b h sp w sup idle aligned l fits
  refine sets_to b (fun h => restoreThread h w) rfl (keepsPlace_restoreThread w) (fun σ sees => ?_)
  obtain ⟨p, core⟩ := id sees
  have read : readNow σ (co x) (th x) h.mode true sp 128 (faultAt 0x0D sp false 128) = .ok σ (spadBytes s x sp 128, false) := by
    have own := readNow_own (σ := σ) (L := co x) (t := th x) (f := faultAt 0x0D sp false 128) true h.mode rfl l.inside
      (by rw [core]; exact l.whole) (by rw [core]; exact l.clean)
    rwa [readBytes_eq_map, core] at own
  have mode : isSup σ (co x) (th x) = true := by rw [sees.isSup]; exact decide_eq_true sup
  have serial : serialBusy (getCore σ (co x)) (th x) = false := sees.serialBusy.trans idle
  simp only [mode, serial, sees.thread, Bool.not_true, Bool.false_eq_true, if_false]
  rw [if_neg (not_not.mpr aligned), read]
  simp only [ofAR, Bool.false_eq_true, if_false]
  rw [if_neg (by rw [show frameMisaligned _ = false from fits]; exact Bool.false_ne_true)]

theorem eretUndoesEntry : Claims.EretUndoesEntry := by
  intro h q t e vbar sp lrs order r i
  simp only [Thread.ordered, Bool.and_eq_true] at order
  obtain ⟨high, status⟩ := frameWords_status h t e lrs
  obtain ⟨flags, mode, ae, slot⟩ := statusWord_bits h.flags (decide (h.mode = .supervisor)) h.ae h.slot.isSome high
  obtain ⟨count0, count1⟩ := loopCounts_bits h.loop0.lc h.loop1.lc
  have regs := greg_restoreThread order.1 (frameWords h t e lrs)
  refine ⟨?_, ?_, ?_, ?_, ?_, ?_, ?_, ?_, ?_, ?_, ?_, ?_⟩
  · simp only [i, enterThread, setG_loop0]
  · simp only [i, enterThread, setG_loop1]
  · simp only [r, restoreThread, setG_loop0]
    exact congrArg (fun n => ({ lc := n, ls := h.loop0.ls, le := h.loop0.le } : Loop)) count0
  · simp only [r, restoreThread, setG_loop1]
    exact congrArg (fun n => ({ lc := n, ls := h.loop1.ls, le := h.loop1.le } : Loop)) count1
  · simp only [r, restoreThread, setG_pc]
    rfl
  · simp only [r, restoreThread, setG_flags, status, flags]
  · simp only [r, restoreThread, setG_mode, status, mode]
    cases h.mode <;> rfl
  · simp only [r, restoreThread, setG_ae, status, ae]
  · simp only [r, restoreThread, setG_slot, status, slot]
    cases pending : h.slot with
    | none => rfl
    | some target => exact congrArg (fun o : Option Word => some (o.getD 0#64)) pending
  · simp only [r, restoreThread, setG_prog]
    rfl
  · intro k hk
    rw [regs]
    obtain rfl | rfl | rfl | rfl | rfl := hk <;> rfl
  · intro k hk
    rw [regs, if_neg (by omega), if_neg (by omega), if_neg (by omega), if_neg (by omega), if_neg (by omega)]

/-- Settles O16: the frame is read from the own scratchpad at once, and its words hold what the entry saved. -/
theorem eretRestoresEntry : Obligations.EretRestoresEntry := ⟨eretRestoresTheFrame, eretUndoesEntry⟩
end

section
/-! PROOFS. What follows a command in a core without other work (O18). -/

open Sys2Proof Sys2Proof.Machine

/-- Settles O18: no thread of the quiet core waits, so that none has left its wait, and each part of the settling finds nothing to do. -/
theorem quietCoreStays : Obligations.QuietCoreStays := by
  unfold Obligations.QuietCoreStays
  intro s s' L t order press ht ready quiet states events
  have waits : ∀ u < 16, (getThr (getCore s L) u).st ≠ .wait := fun u hu => states u hu ▸ quiet.waits u hu
  have left : leftWait (getCore s L) (getCore s' L) = false := leftWait_quiet waits (fun u hu faulted => (states u hu).symm.trans faulted)
  have same := tidy_quiet (rising_of_ordered order) quiet press ht ready left events
  exact ⟨same.cores, same.rest⟩
end

section
/-! PROOFS. The register window's writes and the fetch of orders (O47). -/

namespace Sys2Proof.Machine

/-! ### The register window -/

section
variable {s : State}

/-- With the window answered, traffic is held exactly while the module sleeps (R517). -/
theorem windowHeld_of_on (on : windowOn s = true) : windowHeld s = asleep s := by
  simp only [windowOn, Bool.and_eq_true] at on
  obtain ⟨⟨-, link⟩, enabled⟩ := on
  simp only [windowHeld, link, enabled, Bool.and_true]

theorem awake_of_running (run : running s = true) : asleep s = false := by
  simp only [running, Bool.and_eq_true, beq_iff_eq] at run
  simp [asleep, run.1]

theorem execSqTail_awake (on : windowOn s = true) (awake : asleep s = false) (r : BitVec 8) (v : Word) :
    exec (.sqTail r v) s = .next (sqTailWrite s r.toNat v) := by
  simp only [exec, execSqTail, windowHeld_of_on on, awake, on, Bool.false_eq_true, if_false, if_true]

theorem execSqTail_asleep (on : windowOn s = true) (sleeps : asleep s = true) (r : BitVec 8) (v : Word) :
    exec (.sqTail r v) s = .next (holdWake s (.sqTail r v)) := by
  simp only [exec, execSqTail, windowHeld_of_on on, sleeps, if_true]

theorem execCqHead_on (on : windowOn s = true) (q : BitVec 6) (v : Word) :
    exec (.cqHead q v) s = .next (cqHeadWrite s q.toNat v) := by
  simp only [exec, execCqHead, on, if_true]

theorem execDoorbell_asleep (on : windowOn s = true) (sleeps : asleep s = true) (v : Word) :
    exec (.doorbell v) s = .next (holdWake s (.doorbell v)) := by
  simp only [exec, execDoorbell, windowHeld_of_on on, sleeps, if_true]

theorem execDoorbell_running (on : windowOn s = true) (run : running s = true) (v : Word) :
    exec (.doorbell v) s = .next (doorbellWrite s v) := by
  simp only [exec, execDoorbell, windowHeld_of_on on, awake_of_running run, on, run, Bool.and_self, Bool.false_eq_true, if_false, if_true]

end

/-! ### What looking up the memory-side caches changes -/

/-- From s to t only the memory-side caches and their counts have changed. -/
def OnlyMsc (s t : State) : Prop := ∃ lines counts, t = { s with disp := { s.disp with msc := lines, stackCnt := counts } }

theorem OnlyMsc.trans {a b c : State} (h : OnlyMsc a b) (k : OnlyMsc b c) : OnlyMsc a c := by
  obtain ⟨_, _, rfl⟩ := h
  obtain ⟨lines, counts, rfl⟩ := k
  exact ⟨lines, counts, rfl⟩

theorem onlyMsc_mscPut (s : State) (line : Nat) : OnlyMsc s (mscPut s line) := ⟨_, _, rfl⟩

theorem onlyMsc_stackCount (s : State) (h n k : Nat) : OnlyMsc s (stackCount s h n k) := ⟨_, _, rfl⟩

theorem onlyMsc_mscRead (s : State) (line : Nat) : OnlyMsc s (mscRead s line) := by
  unfold mscRead
  split
  · exact onlyMsc_stackCount s _ _ _
  · exact (onlyMsc_stackCount s _ _ _).trans (onlyMsc_mscPut _ _)

theorem onlyMsc_mscReads (s : State) (a n : Nat) : OnlyMsc s (mscReads s a n) := by
  unfold mscReads
  generalize linesOf a n = lines
  induction lines generalizing s with
  | nil => exact ⟨_, _, rfl⟩
  | cons line rest ih => exact (onlyMsc_mscRead s line).trans (ih _)

theorem onlyMsc_homeLookup (s : State) (h : Home) (n : Nat) : OnlyMsc s (homeLookup s h n) := by
  cases h with
  | hbm a => exact onlyMsc_mscReads s a n
  | spad | comp => exact ⟨_, _, rfl⟩

/-! ### The fetch of an order -/

/-- A home that performs accesses, none of whose bytes the companion holds, is read at once. -/
theorem svcRead_ready {s : State} {h : Home} {n : Nat} (free : mustRecall s h n false = none) (up : homeUp s h = true) :
    svcRead s h n = .ok (homeLookup s h n, homeBytes s h n) := by
  simp only [svcRead, rangeRecall, free, Option.map_none, up, if_true]

theorem execOrderFetch_full {s : State} (full : 512 ≤ s.disp.orders.length) (r : BitVec 8) : exec (.orderFetch r) s = .next s := by
  simp only [exec, execOrderFetch, full, decide_true, Bool.or_true, Bool.true_or, if_true]

end Sys2Proof.Machine

open Sys2Proof Sys2Proof.Machine Sys2Proof.Claims

/-- Settles O47: each write of the window by its own equation, and the fetch by what the read of the ring's head leaves as it was. -/
theorem submissionAndFetch : Obligations.SubmissionAndFetch := by
  unfold Obligations.SubmissionAndFetch
  intro s r q v b on d L n head place
  refine ⟨fun awake => ⟨fun below => ?_, fun above => ?_⟩, fun sleeps => ⟨execSqTail_asleep on sleeps r v, execDoorbell_asleep on sleeps v⟩,
    fun below => ?_, fun above => ?_, fun run => ⟨fun there => ?_, fun absent => ?_, fun full => execOrderFetch_full full r, ?_⟩⟩
  · rw [execSqTail_awake on awake, sqTailWrite, if_pos below]
  · rw [execSqTail_awake on awake, sqTailWrite, if_neg (Nat.not_lt.mpr above)]
  · rw [execCqHead_on on, cqHeadWrite, if_pos below]
  · rw [execCqHead_on on, cqHeadWrite, if_neg (Nat.not_lt.mpr above)]
  · rw [GoesTo, execDoorbell_running on run, doorbellWrite, if_pos there]
  · rw [execDoorbell_running on run, doorbellWrite, if_neg (Nat.not_lt.mpr absent)]
  · intro enabled room served free up bytes
    have read := svcRead_ready free up
    rw [bytes] at read
    have goes : (!running s || dv s 0x2010 1 0 != 1 || decide (512 ≤ s.disp.orders.length) || nextRing s != some r.toNat) = false := by
      simp [run, enabled, served, n, show s.disp.orders.length < 512 from room]
    obtain ⟨lines, counts, looked⟩ := onlyMsc_homeLookup s place 128
    rw [looked] at read ⊢
    simp only [exec, execOrderFetch, goes, Bool.false_eq_true, if_false]
    rw [show svcRead s (ringPlace (dv s (0x2200 + r.toNat) 2 0) (128 * mget 0 s.disp.sqHead r.toNat)) 128 = _ from read]
    rfl
end

section
/-! PROOFS. How orders end (O49). -/

namespace Sys2Proof.Machine

/-! ### Operations that leave the dispatcher, or its orders, as they are -/

/-- What each step of a fold keeps, the fold keeps. -/
theorem foldl_keeps {α β γ : Type} {f : β → α → β} (g : β → γ) (keeps : ∀ b a, g (f b a) = g b) (l : List α) (b : β) :
    g (l.foldl f b) = g b := by
  induction l generalizing b with
  | nil => rfl
  | cons a r ih => exact (ih _).trans (keeps b a)

/-- A dispatcher that both branches leave stays. -/
theorem disp_ite {c : Prop} [Decidable c] {a b : State} {d : Disp} (ha : a.disp = d) (hb : b.disp = d) : (if c then a else b).disp = d := by
  split
  · exact ha
  · exact hb

section
variable (s : State)

@[simp] theorem errRecord_disp (a b c d e f g h : Nat) (p : Pair) : (errRecord s a b c d e f g h p).disp = s.disp := by
  unfold errRecord
  dsimp only
  split <;> rfl

@[simp] theorem unreserve_disp (L : Nat) : (unreserve s L).disp = s.disp := by
  unfold unreserve
  split <;> rfl

@[simp] theorem reserveSpare_disp (L : Nat) : (reserveSpare s L).disp = s.disp := by
  unfold reserveSpare
  split <;> rfl

@[simp] theorem markRetire_disp (L : Nat) : (markRetire s L).disp = s.disp :=
  disp_ite rfl ((foldl_keeps State.disp reserveSpare_disp _ _).trans (foldl_keeps State.disp unreserve_disp _ _))

@[simp] theorem noteSpadUE_disp (L off : Nat) : (noteSpadUE s L off).disp = s.disp := by
  unfold noteSpadUE
  extract_lets _ _ counted _ _ recorded _ _ _ _ listed
  have counts : counted.disp = s.disp := disp_ite rfl rfl
  have records : recorded.disp = s.disp := (errRecord_disp ..).trans counts
  split
  · exact disp_ite ((markRetire_disp ..).trans records) records
  · exact records
  · exact disp_ite ((markRetire_disp ..).trans records) records

@[simp] theorem spadMeet_disp (L off n : Nat) : (spadMeet s L off n).disp = s.disp := by
  unfold spadMeet
  dsimp only
  split <;> rfl

@[simp] theorem netDrop_disp (L k : Nat) : (netDrop s L k).disp = s.disp := disp_ite rfl rfl

@[simp] theorem deliver_disp (k : Packet) : (deliver s k).disp = s.disp := by
  unfold deliver
  split
  · refine disp_ite rfl ?_
    split
    · exact netDrop_disp ..
    · exact netDrop_disp ..
    · exact netDrop_disp ..
    · split <;> rfl
  · rfl

theorem fabPut_disp {t : State} {k : Packet} {m : Nat} (h : fabPut s k m = some t) : t.disp = s.disp := by
  obtain ⟨g, -, rfl⟩ := Option.map_eq_some_iff.mp h
  dsimp only
  split <;> rfl

@[simp] theorem fabSend_disp (k : Packet) (m : Nat) : (fabSend s k m).disp = s.disp := by
  unfold fabSend
  split
  · next put => exact fabPut_disp s put
  · dsimp only
    split
    · next r i b _ =>
      cases put : fabPut (fabDrop s 3) (pkt .io (.remote r i) b) r with
      | none => rfl
      | some t => exact fabPut_disp (fabDrop s 3) put
    · exact deliver_disp (fabDrop s 3) _
    · rfl

@[simp] theorem sendTo_disp (src dst : Ep) (b : Body) : (sendTo s src dst b).disp = s.disp := by
  unfold sendTo sendPk
  split
  · exact fabSend_disp ..
  · exact deliver_disp ..

@[simp] theorem closeWin_disp (L w : Nat) : (closeWin s L w).1.disp = s.disp := by
  unfold closeWin
  refine foldl_keeps State.disp (fun z e => ?_) _ _
  rw [sendTo_disp, modCore_disp]

@[simp] theorem closeWins_disp (L : Nat) : (closeWins s L).disp = s.disp :=
  foldl_keeps State.disp (fun _ _ => closeWin_disp ..) _ _

@[simp] theorem wordsReplaced_disp (p : Nat) : (wordsReplaced s p).disp = s.disp := rfl

@[simp] theorem journalRec_disp (a b c d e : Nat) (f : Word) (g : Nat) : (journalRec s a b c d e f g).disp = s.disp := rfl

@[simp] theorem resetCore_disp (L : Nat) : (resetCore s L).disp = s.disp := by
  unfold resetCore
  simp only [modCore_disp, wordsReplaced_disp, closeWins_disp]

@[simp] theorem retestEnd_disp (L : Nat) (pass : Bool) : (retestEnd s L pass).disp = s.disp := by
  unfold retestEnd
  refine disp_ite (resetCore_disp ..) (disp_ite ?_ ?_) <;> simp only [markRetire_disp, journalRec_disp, resetCore_disp]

@[simp] theorem retests_disp (o : Order) : (retests s o).disp = s.disp :=
  foldl_keeps State.disp (fun _ _ => retestEnd_disp ..) _ _

@[simp] theorem noteStop_disp (L sub : Nat) : (noteStop s L sub).disp = s.disp :=
  disp_ite (errRecord_disp ..) (disp_ite ((markRetire_disp ..).trans (errRecord_disp ..)) (errRecord_disp ..))

/-- The report of a core stop changes no core. -/
theorem noteStop_cores (L sub : Nat) : (noteStop s L sub).cores = s.cores := by
  have recorded (a b c d e f g h : Nat) (p : Pair) : (errRecord s a b c d e f g h p).cores = s.cores := (sameMem_errRecord ..).cores
  unfold noteStop
  dsimp only
  split
  · exact recorded ..
  · split
    · exact (sameMem_markRetire _ _).cores.trans (recorded ..)
    · exact recorded ..

@[simp] theorem stackDegrade_disp (h : Nat) : (stackDegrade s h).disp = s.disp := disp_ite rfl (errRecord_disp ..)

@[simp] theorem rowRepair_disp (a row : Nat) (ue : Bool) : (rowRepair s a row ue).disp = s.disp :=
  disp_ite (stackDegrade_disp ..) (errRecord_disp ..)

/-- A codeword in error is counted in the dispatcher, which keeps its orders. -/
theorem hbmCodeword_orders (a : Nat) (ue : Bool) : (hbmCodeword s a ue).disp.orders = s.disp.orders := by
  unfold hbmCodeword
  extract_lets h row counted recorded es _ listed
  have records : listed.disp = counted.disp := disp_ite (errRecord_disp ..) rfl
  split
  · rw [rowRepair_disp, records]
    rfl
  · split
    · rw [stackDegrade_disp, records]
      rfl
    · rw [records]
      rfl

theorem hbmFatal_orders (l : Nat) : (hbmFatal s l).disp.orders = s.disp.orders := hbmCodeword_orders _ _ _

theorem stackRetrain_orders (h : Nat) : (stackRetrain s h).disp.orders = s.disp.orders := by
  unfold stackRetrain
  dsimp only
  split
  · rfl
  · split
    · rfl
    · rw [errRecord_disp]
      rfl

end

/-! ### An order that stands in the dispatcher -/

/-- Order k is q, and no other order has its number. -/
structure StandsAs (s : State) (k : Nat) (q : Order) : Prop where
  listed : q ∈ s.disp.orders
  number : q.k = k
  unique : ∀ x ∈ s.disp.orders, x.k = k → x = q

/-- Some order has number k. -/
def Listed (s : State) (k : Nat) : Prop := ∃ x ∈ s.disp.orders, x.k = k

section
variable {s t : State} {k : Nat} {q o : Order}

theorem listed_of_findOrder (h : findOrder s k = some q) : Listed s k :=
  ⟨q, List.mem_of_find?_eq_some h, beq_iff_eq.mp (List.find?_some (p := fun o : Order => o.k == k) h)⟩

theorem Listed.of_orders (h : Listed s k) (same : t.disp.orders = s.disp.orders) : Listed t k := by
  unfold Listed
  rw [same]
  exact h

theorem findOrder_of_orders (same : t.disp.orders = s.disp.orders) (k : Nat) : findOrder t k = findOrder s k := by
  rw [findOrder, findOrder, same]

theorem StandsAs.find (h : StandsAs s k q) : findOrder s k = some q := by
  cases found : findOrder s k with
  | none => exact absurd (beq_iff_eq.mpr h.number) (List.find?_eq_none.mp found q h.listed)
  | some x => rw [h.unique x (List.mem_of_find?_eq_some found) (beq_iff_eq.mp (List.find?_some (p := fun o : Order => o.k == k) found))]

theorem StandsAs.toListed (h : StandsAs s k q) : Listed s k := ⟨q, h.listed, h.number⟩

theorem StandsAs.of_orders (h : StandsAs s k q) (same : t.disp.orders = s.disp.orders) : StandsAs t k q := by
  obtain ⟨listed, number, unique⟩ := h
  exact ⟨same ▸ listed, number, same ▸ unique⟩

/-- An order that is replaced stands as its replacement. -/
theorem standsAs_setOrder (h : Listed s o.k) : StandsAs (setOrder s o) o.k o := by
  obtain ⟨x, hx, number⟩ := h
  refine ⟨List.mem_map.mpr ⟨x, hx, if_pos number⟩, rfl, fun y hy same => ?_⟩
  obtain ⟨z, -, rfl⟩ := List.mem_map.mp hy
  split at same
  · next e => exact if_pos e
  · next e => exact absurd same e

/-- Replacing another order leaves an order standing. -/
theorem StandsAs.setOrder_other (h : StandsAs s k q) (other : o.k ≠ k) : StandsAs (setOrder s o) k q := by
  obtain ⟨listed, number, unique⟩ := h
  refine ⟨List.mem_map.mpr ⟨q, listed, if_neg (fun e => other (e.symm.trans number))⟩, number, fun y hy same => ?_⟩
  obtain ⟨z, hz, rfl⟩ := List.mem_map.mp hy
  by_cases e : z.k = o.k
  · rw [if_pos e] at same
    exact absurd same other
  · rw [if_neg e] at same ⊢
    exact unique z hz same

/-- The order in COMPLETING. -/
def completed (o : Order) (status reason : Nat) (detail : Word) : Order :=
  { o with st := .completing, status := status, reason := reason, detail := detail, hasPair := false, preempt := none }

theorem complete_orders (s : State) (o : Order) (status reason : Nat) (detail : Word) :
    (complete s o status reason detail).disp.orders = (setOrder s (completed o status reason detail)).disp.orders := by
  unfold complete
  dsimp only
  split <;> rfl

theorem standsAs_complete (h : Listed s o.k) (status reason : Nat) (detail : Word) :
    StandsAs (complete s o status reason detail) o.k (completed o status reason detail) :=
  (standsAs_setOrder (o := completed o status reason detail) h).of_orders (complete_orders ..)

theorem StandsAs.complete_other (h : StandsAs s k q) (other : o.k ≠ k) (status reason : Nat) (detail : Word) :
    StandsAs (complete s o status reason detail) k q :=
  (h.setOrder_other (o := completed o status reason detail) other).of_orders (complete_orders ..)

/-! ### What leaves an order that does not run -/

/-- The PREEMPT that a stop completes is a running order. -/
theorem StandsAs.preemptDone (h : StandsAs s k q) (ended : q.st ≠ .running) (o : Order) : StandsAs (preemptDone s o) k q := by
  unfold Machine.preemptDone
  split
  · next j _ =>
    split
    · next p found =>
      split
      · next asked =>
        have listed := List.mem_of_find?_eq_some found
        exact h.complete_other (fun same => ended (h.unique p listed same ▸ asked.2)) _ _ _
      · exact h
    · exact h
  · exact h

theorem retrained_orders (s : State) (l : List Nat) : (l.foldl stackRetrain s).disp.orders = s.disp.orders :=
  foldl_keeps (fun z : State => z.disp.orders) stackRetrain_orders l s

theorem StandsAs.quiesceEnd (h : StandsAs s k q) (other : o.k ≠ k) : StandsAs (quiesceEnd s o) k q := by
  have same := retrained_orders s (List.range 32)
  unfold Machine.quiesceEnd
  generalize (List.range 32).foldl stackRetrain s = z at same ⊢
  refine StandsAs.complete_other ?_ other 0 0 0#64
  exact h.of_orders same

/-- The barriers and quiesces that end are running orders. -/
theorem StandsAs.settleOrders (h : StandsAs s k q) (ended : q.st ≠ .running) : StandsAs (settleOrders s) k q := by
  unfold Machine.settleOrders
  have others : ∀ x ∈ s.disp.orders, x.st = .running → x.k ≠ k := fun x hx runs same => ended (h.unique x hx same ▸ runs)
  generalize s.disp.orders = l at others
  induction l generalizing s with
  | nil => exact h
  | cons x rest ih =>
    refine ih ?_ (fun y hy => others y (List.mem_cons_of_mem _ hy))
    have other := others x (List.mem_cons_self ..)
    dsimp only
    split
    · exact h
    · next runs =>
      have other := other (not_not.mp runs)
      split
      · split
        · exact h
        · exact h.complete_other other _ _ _
      · split
        · split
          · exact h
          · exact h.quiesceEnd other
        · exact h

/-! ### The end of a stop -/

/-- A stop that no switch asked for completes its order with the status that the order holds. -/
theorem finishStop_completes (h : Listed s o.k) (ends : o.status ≠ 2) :
    ∃ t, finishStop s o = .ok t ∧ StandsAs t o.k (completed o o.status o.reason o.detail) := by
  have freed : ((ordGroup o).foldl (fun s L => if L < gradeOf s then modCore s L coreFree else s) (closePress s (ordPair o))).disp.orders =
      s.disp.orders :=
    foldl_keeps (fun z : State => z.disp.orders) (fun _ _ => by split <;> rfl) _ _
  have stands := standsAs_complete (h.of_orders freed) o.status o.reason o.detail
  refine ⟨_, if_neg ends, ?_⟩
  exact (stands.preemptDone nofun o).of_orders (by rw [retests_disp])

/-- Commanding an order's cores leaves its acknowledgments awaited. -/
theorem standsAs_commandCores (h : Listed s o.k) (cmd : CoreCmd) : ∃ acks, StandsAs (commandCores s o cmd) o.k { o with acks := acks } := by
  unfold commandCores
  extract_lets cores
  refine ⟨cores, (standsAs_setOrder (o := { o with acks := cores }) h).of_orders ?_⟩
  exact foldl_keeps (fun z : State => z.disp.orders) (fun _ _ => by rw [sendTo_disp]) _ _

end

/-- Order k is being stopped, or completes, with a status, a reason and a DETAIL. -/
def EndsWith (t : State) (k status reason : Nat) (detail : Word) : Prop :=
  ∃ q, StandsAs t k q ∧ (q.st = .stopping ∨ q.st = .completing) ∧ q.status = status ∧ q.reason = reason ∧ q.detail = detail

section
variable {s : State} {o : Order} {status reason : Nat} {detail : Word}

theorem EndsWith.settleOrders {k : Nat} (h : EndsWith s k status reason detail) : EndsWith (settleOrders s) k status reason detail := by
  obtain ⟨q, stands, ends, values⟩ := h
  refine ⟨q, stands.settleOrders ?_, ends, values⟩
  obtain st | st := ends <;> rw [st] <;> exact nofun

/-- Stopping an order but for a switch leads to its end (R475). -/
theorem stopOrder_ends (h : Listed s o.k) (ends : status ≠ 2) :
    EndsWith (stopOrder s o status reason detail) o.k status reason detail := by
  have stops := standsAs_setOrder (o := { o with st := .stopping, status := status, reason := reason, detail := detail }) h
  obtain ⟨acks, stands⟩ := standsAs_commandCores stops.toListed (.endSteps o.k)
  unfold stopOrder
  dsimp only
  rw [stands.find]
  dsimp only
  split
  · obtain ⟨t, finished, completes⟩ := finishStop_completes
      (o := { o with st := .stopping, status := status, reason := reason, detail := detail, acks := acks }) stands.toListed ends
    rw [finished]
    exact ⟨_, completes, .inr rfl, rfl, rfl, rfl⟩
  · exact ⟨_, stands, .inl rfl, rfl, rfl, rfl⟩

end

/-! ### What a scrub counts (R478) -/

theorem eraseDups_of_nodup {α : Type} [BEq α] [LawfulBEq α] {l : List α} (h : l.Nodup) : l.eraseDups = l := by
  induction l with
  | nil => rfl
  | cons a r ih =>
    obtain ⟨fresh, rest⟩ := List.nodup_cons.mp h
    have kept : r.filter (fun b => !b == a) = r :=
      List.filter_eq_self.mpr (fun b hb => by simp only [Bool.not_eq_true', beq_eq_false_iff_ne]; rintro rfl; exact fresh hb)
    rw [List.eraseDups_cons, kept, ih rest]

/-- A multiple of 64 is its own codeword. -/
theorem map_lineOf {l : List Nat} (aligned : ∀ a ∈ l, a % 64 = 0) : l.map lineOf = l := by
  refine (List.map_congr_left (fun a ha => ?_)).trans l.map_id
  have := aligned a ha
  rw [lineOf, id]
  omega

/-- The mask of a scrub holds a bit for each stack. -/
theorem nbit_mask (w : Word) {h : Nat} (stack : h < 32) : nbit (bits w 31 0) h = bit w h := by
  rw [nbit, beq_eq_decide, ← Nat.testBit_eq_decide_div_mod_eq, bits, pow_zero, Nat.div_one, Nat.testBit_mod_two_pow,
    decide_eq_true (show h < 31 + 1 - 0 from stack), Bool.true_and]
  rfl

section
variable {s : State} {mask : Nat}

theorem scrubStacks_orders (s : State) (mask : Nat) (corr ue : List Nat) :
    (scrubStacks s mask corr ue).1.disp.orders = s.disp.orders := by
  unfold scrubStacks
  dsimp only
  rw [foldl_keeps State.disp (fun _ _ => errRecord_disp ..), foldl_keeps (fun z : State => z.disp.orders) hbmFatal_orders]
  exact foldl_keeps (fun z : State => z.disp.orders) (fun z l => hbmCodeword_orders z l false) _ _

/-- Without words marked before, a scrub counts the distinct codewords of its stacks that it meets. -/
theorem scrubStacks_counts (unmarked : s.hbmUE = []) {corr ue : List Nat} (distinct : (corr ++ ue).Nodup)
    (mine : ∀ l ∈ corr ++ ue, l % 64 = 0 ∧ nbit mask (stackOf l) = true ∧ stackUp s (stackOf l) = true) :
    (scrubStacks s mask corr ue).2 = (corr.length, ue.length) := by
  obtain ⟨corrNodup, ueNodup, apart⟩ := List.nodup_append.mp distinct
  have fatal : (ue.map lineOf).eraseDups.filter (fun l => nbit mask (stackOf l) && stackUp s (stackOf l)) = ue := by
    rw [map_lineOf (fun a ha => (mine a (List.mem_append_right _ ha)).1), eraseDups_of_nodup ueNodup]
    refine List.filter_eq_self.mpr (fun a ha => ?_)
    obtain ⟨-, masked, up⟩ := mine a (List.mem_append_right _ ha)
    rw [masked, up]
    rfl
  have mended : (corr.map lineOf).eraseDups.filter
      (fun l => nbit mask (stackOf l) && stackUp s (stackOf l) && !ue.contains l && !([] : List Nat).contains l) = corr := by
    rw [map_lineOf (fun a ha => (mine a (List.mem_append_left _ ha)).1), eraseDups_of_nodup corrNodup]
    refine List.filter_eq_self.mpr (fun a ha => ?_)
    obtain ⟨-, masked, up⟩ := mine a (List.mem_append_left _ ha)
    have other : a ∉ ue := fun h => apart a ha a h rfl
    simp [masked, up, other]
  unfold scrubStacks
  dsimp only
  rw [fatal, unmarked]
  simp only [List.map_nil, List.eraseDups_nil, List.filter_nil, mended, List.length_nil, Nat.zero_add]

theorem scrubSpads_orders (ls : List Nat) (r : State × Nat × Nat) : (scrubSpads ls r).1.disp.orders = r.1.disp.orders := by
  refine foldl_keeps (fun r : State × Nat × Nat => r.1.disp.orders) (fun r L => ?_) ls r
  dsimp only
  rw [foldl_keeps State.disp (fun _ _ => noteSpadUE_disp ..), spadMeet_disp]

end

/-! ### The commands that end orders -/

section
variable {s : State} {k i L sub : Nat} {o : Order} {p : Packet}

/-- What an order's end shows of it. -/
theorem EndsWith.found {t : State} {status reason : Nat} {detail : Word} (h : EndsWith t k status reason detail) :
    ∃ q, findOrder t k = some q ∧ (q.st = .stopping ∨ q.st = .completing) ∧ q.status = status ∧ q.reason = reason ∧ q.detail = detail := by
  obtain ⟨q, stands, values⟩ := h
  exact ⟨q, stands.find, values⟩

section
variable (run : running s = true) (found : findOrder s k = some o) (runs : o.st = .running)
include run found runs

/-- Past its time limit an order that is no pass and no reduction stops, or completes ABORTED. -/
theorem execOrderTimeout_late (limit : bits (wat o.w 0) 31 16 ≠ 0) (late : bits (wat o.w 0) 31 16 * 1000 ≤ o.ticks) :
    execOrderTimeout k s = if isTask o then .next (settleOrders (stopOrder s o 3 0 0#64)) else if isPass o then .next (passBreak s 3 0)
      else if ordKind o = 0xA then .next (reduceEnd s o 1) else .next (complete s o 3 0 0#64) := by
  have passed : ¬ o.ticks < bits (wat o.w 0) 31 16 * 1000 := Nat.not_lt.mpr late
  unfold execOrderTimeout
  simp only [found]
  rw [if_neg]
  simp [run, runs, limit, passed]

end

/-- Without a time limit, or within it, nothing happens. -/
theorem execOrderTimeout_early (found : findOrder s k = some o) (early : bits (wat o.w 0) 31 16 = 0 ∨ o.ticks < bits (wat o.w 0) 31 16 * 1000) :
    execOrderTimeout k s = .next s := by
  unfold execOrderTimeout
  simp only [found]
  rw [if_pos]
  obtain none | within := early
  · simp [none]
  · simp [within]

/-- The core stop of a running order's core stops the order with reason 0x15 (R115, R472). -/
theorem execCoreStopReport_running (arrives : arrivalAt s i .disp = some p) (stop : p.body = .coreStop L sub)
    (found : findOrder s k = some o) (runs : o.st = .running) (of : (getCore s L).sup.order = some k) (retest : Bool) :
    execCoreStopReport i retest s = .next (stopOrder (noteStop (takePkt s i) L sub)
      { o with dead := o.dead ++ [L + 8192 * b2n retest], acks := o.acks.filter (· != L) } 1 0x15 (w64 (L + fl sub 16))) := by
  obtain ⟨src, dst, body, vc⟩ := p
  obtain rfl : body = .coreStop L sub := stop
  have core : getCore (noteStop (takePkt s i) L sub) L = getCore s L := by
    rw [getCore, getCore, noteStop_cores, takePkt_cores]
  have order : findOrder (noteStop (takePkt s i) L sub) k = some o :=
    (findOrder_of_orders (by rw [noteStop_disp, takePkt_disp]) k).trans found
  unfold execCoreStopReport
  simp only [arrives, core, of, Option.bind_some, order]
  exact if_pos runs

/-- The DETAIL of a core stop: the core, and the subcode from bit 16 up. -/
theorem coreStop_detail (L sub : Nat) : w64 (L + fl sub 16) = BitVec.ofNat 64 (L + 2 ^ 16 * (sub % 2 ^ 48)) := by
  refine BitVec.eq_of_toNat_eq ?_
  rw [w64, fl, BitVec.toNat_ofNat, BitVec.toNat_ofNat]
  omega

/-- The report of a core that has done its part ends the task after the last core's (R475). -/
theorem execCoreDone_reports {core : BitVec 13} (run : running s = true) (found : findOrder s k = some o) (runs : o.st = .running)
    (task : isTask o = true) (grade : core.toNat < gradeOf s) (of : (getCore s core.toNat).sup.order = some k)
    (unsent : (getCore s core.toNat).sup.doneSent = false) (live : (getCore s core.toNat).sup.stopped = false)
    (reached : (getCore s core.toNat).sup.endValue ≤ (getSc (getCore s core.toNat) (getCore s core.toNat).sup.endCnt.toNat).value) :
    execCoreDone k core s =
      let t := modCore s core.toNat (fun c => { c with sup := { c.sup with doneSent := true } })
      let q := { o with done := insertNat core.toNat o.done }
      if (ordGroup o).all (fun l => q.done.contains l) then .next (stopOrder t q 0 0 0#64) else .next (setOrder t q) := by
  unfold execCoreDone
  simp only [found]
  exact if_pos (by simp [coreOn, run, grade, of, unsent, live, runs, task, reached])

/-- A scrub of stacks, and of scratchpads where bit 32 of its word asks for it. -/
def scrubRun (s : State) (o : Order) (corr ue : List Nat) : State × Nat × Nat :=
  if bit (wat o.w 2) 32 then scrubSpads (ordGroup o) (scrubStacks s (bits (wat o.w 2) 31 0) corr ue)
  else scrubStacks s (bits (wat o.w 2) 31 0) corr ue

theorem scrubRun_orders (corr ue : List Nat) : (scrubRun s o corr ue).1.disp.orders = s.disp.orders := by
  unfold scrubRun
  split
  · rw [scrubSpads_orders, scrubStacks_orders]
  · exact scrubStacks_orders ..

/-- The end of a scrub completes its order with the two counts (R478). -/
theorem execScrubPassEnd_counts (run : running s = true) (found : findOrder s k = some o) (number : o.k = k) (runs : o.st = .running)
    (scrub : ordKind o = 9) {corr ue : List Nat} {mended fatal : Nat} (counts : (scrubRun s o corr ue).2 = (mended, fatal)) :
    ∃ t q, execScrubPassEnd k corr ue s = .next t ∧ findOrder t k = some q ∧ q.st = .completing ∧
      q.status = (if fatal = 0 then 0 else 5) ∧ q.reason = 0 ∧ q.detail = BitVec.ofNat 64 (mended % 2 ^ 32 + 2 ^ 32 * (fatal % 2 ^ 32)) := by
  subst number
  have listed : Listed (scrubRun s o corr ue).1 o.k := (listed_of_findOrder found).of_orders (scrubRun_orders ..)
  refine ⟨_, _, ?_, (standsAs_complete listed (if fatal = 0 then 0 else 5) 0
    (w64 (mended % 2 ^ 32 + fl (fatal % 2 ^ 32) 32))).find, rfl, rfl, rfl, ?_⟩
  · obtain ⟨rfl, rfl⟩ := Prod.mk.inj counts
    unfold execScrubPassEnd
    simp only [found]
    exact if_pos (by simp [run, scrub, runs])
  · rw [Nat.mul_comm]
    rfl

/-- A scrub of one core's scratchpad, with no word of HBM in error, counts the words that the scratchpad marks. -/
theorem scrubRun_scratchpad (unmarked : s.hbmUE = []) (asked : bit (wat o.w 2) 32 = true) (one : ordCount o = 1) :
    (scrubRun s o [] []).2 = ((getCore s (ordFirst o)).spad.ce.length, (getCore s (ordFirst o)).spad.ue.length) := by
  have group : ordGroup o = [ordFirst o] := by
    rw [ordGroup, one]
    simp [List.range_succ]
  have clean : scrubStacks s (bits (wat o.w 2) 31 0) [] [] = (s, 0, 0) := by
    unfold scrubStacks
    simp only [unmarked, List.map_nil, List.eraseDups_nil, List.filter_nil, List.foldl_nil, List.length_nil]
  rw [scrubRun, if_pos asked, group, clean]
  simp [scrubSpads]

theorem scrubRun_stacks (unmarked : s.hbmUE = []) (unasked : bit (wat o.w 2) 32 = false) {corr ue : List Nat} (distinct : (corr ++ ue).Nodup)
    (mine : ∀ l ∈ corr ++ ue, l % 64 = 0 ∧ bit (wat o.w 2) (stackOf l) = true ∧ stackOf l < 32 ∧ stackUp s (stackOf l) = true) :
    (scrubRun s o corr ue).2 = (corr.length, ue.length) := by
  rw [scrubRun, if_neg (by rw [unasked]; exact nofun)]
  refine scrubStacks_counts unmarked distinct (fun l hl => ?_)
  obtain ⟨aligned, masked, stack, up⟩ := mine l hl
  exact ⟨aligned, (nbit_mask _ stack).trans masked, up⟩

section
variable (arrives : arrivalAt s i .disp = some p) (ack : p.body = .commandAck k L) (found : findOrder s k = some o)
include arrives ack found

/-- An acknowledgment is counted off a stopping order; the last one lets its stop finish. -/
theorem execCommandAck_found : execCommandAck i s =
    let q := { o with acks := o.acks.filter (· != L) }
    if o.st ≠ .stopping then .next (takePkt s i) else if !q.acks.isEmpty then .next (setOrder (takePkt s i) q) else
      match finishStop s q with
      | .error t => .next t
      | .ok _ => match finishStop (setOrder (takePkt s i) q) q with
        | .ok t => .next (settleOrders t)
        | .error t => .next t := by
  obtain ⟨src, dst, body, vc⟩ := p
  obtain rfl : body = .commandAck k L := ack
  have order : findOrder (takePkt s i) k = some o := found
  unfold execCommandAck
  simp only [arrives, order] <;> rfl

/-- The last acknowledgment completes an order that no switch stops. -/
theorem execCommandAck_last (number : o.k = k) (stops : o.st = .stopping) (last : o.acks.filter (· != L) = []) (ends : o.status ≠ 2) :
    ∃ t q, execCommandAck i s = .next t ∧ findOrder t k = some q ∧ q.st = .completing ∧ q.status = o.status ∧ q.reason = o.reason ∧
      q.detail = o.detail := by
  subst number
  have listed := listed_of_findOrder found
  have replaced := (standsAs_setOrder (s := takePkt s i) (o := { o with acks := o.acks.filter (· != L) }) listed).toListed
  obtain ⟨_, finishes, -⟩ := finishStop_completes (o := { o with acks := o.acks.filter (· != L) }) listed ends
  obtain ⟨t, finished, completes⟩ := finishStop_completes (o := { o with acks := o.acks.filter (· != L) }) replaced ends
  have settled := completes.settleOrders nofun
  refine ⟨_, _, ?_, settled.find, rfl, rfl, rfl, rfl⟩
  rw [execCommandAck_found arrives ack found, if_neg (not_not.mpr stops), last]
  rw [last] at finishes finished
  dsimp only
  rw [finishes, finished]
  rfl

end

end

end Sys2Proof.Machine

open Sys2Proof Sys2Proof.Machine Sys2Proof.Claims

/-- Settles O49. A stop keeps its order's number through the end steps (`stopOrder_ends`), so the order is found, stopping or completing,
with the status it was stopped with. -/
theorem ordersEnd : Obligations.OrdersEnd := by
  unfold Obligations.OrdersEnd
  intro s k i L sub corr ue o p core retest run found number ms t ends c rest reported
  have listed : Listed s o.k := number ▸ listed_of_findOrder found
  have ended {c : Instr} {t : State} {status reason : Nat} {detail : Word} (step : exec c s = .next t)
      (h : EndsWith t o.k status reason detail) : ends c status reason detail := by
    obtain ⟨q, stands⟩ := (number ▸ h).found
    exact ⟨t, q, step, stands⟩
  refine ⟨fun runs => ⟨fun limit late => ⟨fun task => ?_, fun noTask noPass noReduce => ?_⟩, ?_, ?_, ?_, ?_⟩, ?_⟩
  · exact ended ((execOrderTimeout_late run found runs limit late).trans (if_pos task)) (stopOrder_ends listed (by decide)).settleOrders
  · refine (execOrderTimeout_late run found runs limit late).trans ?_
    rw [if_neg (by rw [noTask]; exact nofun), if_neg (by rw [noPass]; exact nofun), if_neg noReduce]
  · exact execOrderTimeout_early found
  · intro _ arrives stop of
    have kept : Listed (noteStop (takePkt s i) L sub) o.k := listed.of_orders (by rw [noteStop_disp, takePkt_disp])
    have step := execCoreStopReport_running arrives stop found runs of retest
    rw [coreStop_detail] at step
    exact ended step (stopOrder_ends kept (by decide))
  · intro task grade of unsent live reached
    have step := execCoreDone_reports run found runs task grade of unsent live reached
    refine ⟨fun ⟨l, mem, missing⟩ => step.trans (if_neg ?_), fun all => ended (step.trans (if_pos ?_)) (stopOrder_ends listed (by decide))⟩
    · exact fun all => missing (List.contains_iff_mem.mp (List.all_eq_true.mp all l mem))
    · exact List.all_eq_true.mpr (fun l mem => List.contains_iff_mem.mpr (all l mem))
  · intro scrub unmarked
    exact ⟨fun unasked distinct mine => execScrubPassEnd_counts run found number runs scrub (scrubRun_stacks unmarked unasked distinct mine),
      fun asked one _ => execScrubPassEnd_counts run found number runs scrub (scrubRun_scratchpad unmarked asked one)⟩
  · intro arrives ack
    have step := execCommandAck_found arrives ack found
    refine ⟨fun other => step.trans (if_pos other), fun stops more => step.trans ?_,
      fun stops last ends _ => execCommandAck_last arrives ack found number stops last ends⟩
    have awaited : rest.isEmpty = false := List.isEmpty_eq_false_iff.mpr more
    rw [if_neg (not_not.mpr stops), if_pos ((Bool.not_eq_true' rest.isEmpty).mpr awaited)]

end

section
/-! PROOFS. The product of 8-bit integers on the array (O31): what an accumulator holds after a `t.mma` of any formats, then the elements,
their products and the one saturating addition. -/

namespace Sys2Proof.Machine

/-! ### The elements of an accumulator -/

/-- A map listed from a function of its keys reads that function at each of them. -/
theorem mget_tabulate {α : Type} [DecidableEq α] (d : α) (f : Nat → α) (keys : List Nat) (k : Nat) :
    mget d (keys.filterMap (fun k => if f k = d then none else some (k, f k))) k = if k ∈ keys then f k else d := by
  induction keys with
  | nil => rfl
  | cons j keys ih =>
    by_cases default : f j = d
    · rw [List.filterMap_cons_none (by simp only [default, if_true]), ih]
      by_cases here : k = j
      · subst here
        simp [default]
      · simp [here]
    · rw [List.filterMap_cons_some (by simp only [default, if_false]; rfl), mget, ih]
      by_cases here : k = j
      · subst here
        simp
      · simp [here, Ne.symm here]

/-- An accumulator built from its elements holds them. -/
theorem accAt_accBuild (f : Nat → Nat → BitVec 32) (tag : Tag) (bad : Bool) {i j : Nat} (row : i < 64) (col : j < 64) :
    accAt { data := accBuild f, tag := tag, bad := bad } i j = f i j := by
  have listed : 64 * i + j < 4096 := by omega
  have place : (64 * i + j) / 64 = i ∧ (64 * i + j) % 64 = j := by omega
  simp only [accAt, accBuild, mget_tabulate 0#32 (fun k => f (k / 64) (k % 64)), List.mem_range, listed, place, if_true]

/-- What the array adds to at element (i, j): 0 under the tag ZERO (log 49). -/
def accOld (m : Mtx) (i j : Nat) : BitVec 32 := if m.cur.tag.type = 0 then 0#32 else accAt m.cur i j

/-- Each element after a `t.mma`: inside the M × N result a sum of the products of a row of A and a row of B, outside as it was with ACC,
else 0 (R164). -/
theorem accAt_mmaAcc (m : Mtx) (ta tb : Nat) (s : Shape) {i j : Nat} (row : i < 64) (col : j < 64) :
    accAt (mmaAcc m ta tb s) i j =
      if i < s.m ∧ j < s.n then
        mmaElem s (accOld m i j) (rowVals m (opFmt s.fa) (!s.sloe) ta i s.k) (rowVals m (opFmt s.fb) (!s.sloe) tb j s.k) (rowScales m ta i)
      else if s.acc then accOld m i j else 0#32 := by
  refine (accAt_accBuild _ _ _ row col).trans ?_
  by_cases inside : i < s.m ∧ j < s.n
  · simp [inside, accOld]
  · rw [if_neg inside]
    obtain above | beside := not_and_or.mp inside
    · simp [above, accOld]
    · simp [beside, accOld]

/-! ### Elements and products of 8-bit integers -/

/-- An 8-bit integer is decoded as its sign and magnitude, with exponent 0. -/
theorem decode_int8 (b : Byte) : decode .int8 b.toNat = .fin b.msb b.toInt.natAbs 0 := by
  have small := b.isLt
  have mod : b.toNat % 2 ^ 8 = b.toNat := Nat.mod_eq_of_lt small
  have sign : b.msb = decide (2 ^ 7 ≤ b.toNat) := BitVec.msb_eq_decide b
  have magnitude : b.toInt.natAbs = if b.msb = true then 2 ^ 8 - b.toNat else b.toNat := by
    rw [BitVec.toInt_eq_msb_cond]
    split <;> omega
  simp only [decode, Fmt.bits, Fmt.isInt, if_true, mod]
  rw [magnitude, sign]

/-- The sign and magnitude of an 8-bit integer, as an integer again. -/
theorem intOf_signMag (b : Byte) : intOf (.fin b.msb b.toInt.natAbs 0) = b.toInt := by
  have negative : b.msb = decide (b.toInt < 0) := BitVec.msb_eq_toInt
  rw [intOf, negative]
  simp only [decide_eq_true_eq]
  split <;> omega

/-- The product of two finite values of exponent 0 is the product of their integers. -/
theorem intOf_mul (s t : Bool) (m n : Nat) : intOf (Val.mul (.fin s m 0) (.fin t n 0)) = intOf (.fin s m 0) * intOf (.fin t n 0) := by
  cases s <;> cases t <;> simp [Val.mul, intOf]

theorem intOf_mul_int8 (a b : Byte) : intOf (Val.mul (decode .int8 a.toNat) (decode .int8 b.toNat)) = a.toInt * b.toInt := by
  rw [decode_int8, decode_int8, intOf_mul, intOf_signMag, intOf_signMag]

/-- One byte of a list, as the number it holds; 0 past the end. -/
theorem ofBytes_drop_take_one (l : List Byte) (i : Nat) : ofBytes ((l.drop i).take 1) = (l.getD i 0#8).toNat := by
  cases within : l.drop i <;> simp [within, ofBytes, List.getD, ← List.head?_drop]

/-- The elements of a row of 8-bit integers are its bytes. -/
theorem rowVals_int8 (m : Mtx) (fz : Bool) (t r k : Nat) :
    rowVals m .int8 fz t r k = (List.range k).map (fun i => decode .int8 ((getRow m t r).getD i 0#8).toNat) := by
  simp [rowVals, Fmt.bits, ofBytes_drop_take_one]

/-! ### The sum of the products and its addition -/

/-- The INT32 addition is the exact sum, held to the range of a 32-bit integer (R134). -/
theorem addInt32_eq_clamp (a : BitVec 32) (v : Int) : addInt32 a v = BitVec.ofInt 32 (max (-2 ^ 31) (min (2 ^ 31 - 1) (a.toInt + v))) := by
  rw [addInt32]
  congr 1
  split
  · omega
  · split <;> omega

/-- An element of a product of 8-bit integers: the old one with ACC and the products over k, in one saturating addition (R134, R164). -/
theorem mmaElem_int8 {s : Shape} (fa : s.fa = 0) (m : Mtx) (old : BitVec 32) (fz : Bool) (ta tb i j : Nat) (sc : List Nat) :
    mmaElem s old (rowVals m .int8 fz ta i s.k) (rowVals m .int8 fz tb j s.k) sc =
      addInt32 (if s.acc then old else 0#32) ((List.range s.k).foldl (fun a k =>
        a + ((getRow m ta i).getD k 0#8).toInt * ((getRow m tb j).getD k 0#8).toInt) 0) := by
  rw [mmaElem, if_pos fa, rowVals_int8, rowVals_int8, List.zipWith_map, List.zipWith_self, List.map_map, List.foldl_map]
  simp only [Function.comp_apply, intOf_mul_int8]

end Sys2Proof.Machine

open Sys2Proof Sys2Proof.Machine

/-- Settles O31: the elements after the `t.mma`, each inside the result by its sum of products. -/
theorem integerMatrixProduct : Obligations.IntegerMatrixProduct := by
  unfold Obligations.IntegerMatrixProduct
  intro m ta tb w i j row col fa fb sh elem old sum
  have before : (if sh.acc then accOld m i j else 0#32) = old := by
    show (if w.getLsbD 32 = true then accOld m i j else 0#32) = if _ ∧ ¬_ then _ else _
    rw [ite_and, ite_not]
    rfl
  have fmtA : opFmt sh.fa = .int8 := congrArg opFmt fa
  have fmtB : opFmt sh.fb = .int8 := congrArg opFmt fb
  have inside : i < sh.m ∧ j < sh.n ↔ i ≤ bits w 5 0 ∧ j ≤ bits w 21 16 := and_congr Nat.lt_succ_iff Nat.lt_succ_iff
  rw [accAt_mmaAcc m ta tb sh row col, fmtA, fmtB, mmaElem_int8 fa, before, addInt32_eq_clamp]
  exact if_congr inside rfl rfl
end

section
/-! PROOFS. The matrix lease, and the instructions that its holder queues (O29). -/

namespace Sys2Proof.Machine
open Sys2Proof.Claims

/-! ### What an instruction does to the engine -/

/-- The state z with the engine m in the core of an issue slot. -/
def engineTo (z : State) (x : Issue) (m : Mtx) : State := setCore z (co x) { Claims.core z x with mtx := m }

/-- The engine of an issue slot after an instruction has entered its queue, under the next request id. -/
def queuedMtx (s : State) (x : Issue) (op : MqOp) : Mtx :=
  { (Claims.core s x).mtx with queue := (Claims.core s x).mtx.queue ++ [{ id := s.nextId, op := op }] }

section
variable {s σ : State} {x : Issue} {a : Att} {i : Instr} {body : State → Nat → Nat → IRes}

theorem Sees.mtx (h : Sees s x σ) : (getCore σ (co x)).mtx = (Claims.core s x).mtx := by
  obtain ⟨p, hp⟩ := h
  rw [hp]

theorem Sees.relBusy (h : Sees s x σ) : relBusy (getCore σ (co x)) (th x) = relBusy (Claims.core s x) (th x) := by
  obtain ⟨p, hp⟩ := h
  rw [hp]
  rfl

theorem Sees.modMtx (h : Sees s x σ) (f : Mtx → Mtx) : modMtx σ (co x) f = engineTo σ x (f (Claims.core s x).mtx) := by
  rw [Machine.modMtx, modCore, h.mtx]
  rfl

theorem Sees.holdsLease (h : Sees s x σ) : holdsLease σ (co x) (th x) = holdsLease s (co x) (th x) := by
  simp only [Machine.holdsLease, h.mtx]

/-- The holder of the lease goes on. -/
theorem Sees.withLease (h : Sees s x σ) (held : Machine.holdsLease s (co x) (th x) = true) (k : IRes) :
    withLease σ (co x) (th x) k = k := if_pos (h.holdsLease.trans held)

/-- An instruction that changes the engine by f, and goes on. -/
theorem engine_does (r : Ready x a s) (f : Mtx → Mtx) (he : exec i s = issue x a s body)
    (hb : ∀ σ, Sees s x σ → body σ (co x) (th x) = .done (modMtx σ (co x) f) .seq) :
    Does i x s (engineTo (counted s x a) x (f (Claims.core s x).mtx)) .seq :=
  does_to r he (by rw [hb s .self]; exact fun _ => nofun) (by rw [hb _ (.counted r.order), Sees.modMtx (.counted r.order)])

/-- An instruction that completes and leaves the engine as it is. -/
theorem engine_stays (r : Ready x a s) (he : exec i s = issue x a s body)
    (hb : ∀ σ, Sees s x σ → body σ (co x) (th x) = .done σ .seq) : Does i x s (counted s x a) .seq :=
  does_to r he (by rw [hb s .self]; exact fun _ => nofun) (hb _ (.counted r.order))

/-- An instruction that changes the engine by f, and waits for w. -/
theorem engine_sleeps {w : Wait} {cls : Nat} (r : Ready x a s) (f : Mtx → Mtx) (he : exec i s = issue x a s body)
    (hb : ∀ σ, Sees s x σ → body σ (co x) (th x) = .wait (modMtx σ (co x) f) w cls) :
    Sleeps i x s (engineTo (counted s x a) x (f (Claims.core s x).mtx)) w cls := by
  have runs := issue_runs (body := body) r.runs (by rw [hb s .self]; exact fun _ => nofun)
  rw [hb _ (.counted r.order), Sees.modMtx (.counted r.order)] at runs
  exact he.trans runs

/-- An instruction that fails a check notes it in SHAPE_ERR and raises its fault (R165). -/
theorem engine_fails {err cause : Nat} (r : Ready x a s) (he : exec i s = issue x a s body)
    (hb : ∀ σ, Sees s x σ → body σ (co x) (th x) = shapeFail σ (co x) err cause) :
    Raises i x s (engineTo (counted s x a) x { (Claims.core s x).mtx with shapeErr := err }) (faultOf cause) := by
  have runs := issue_runs (body := body) r.runs (by rw [hb s .self]; exact fun _ => nofun)
  rw [hb _ (.counted r.order), shapeFail, Sees.modMtx (.counted r.order)] at runs
  exact he.trans runs

/-- An instruction of which only the lease is asked fails without it (R146, R165). -/
theorem engine_unheld (r : Ready x a s) (held : Machine.holdsLease s (co x) (th x) = false) (he : exec i s = issue x a s body)
    {rest : State → IRes} (hb : ∀ σ, body σ (co x) (th x) = withLease σ (co x) (th x) (rest σ)) :
    Raises i x s (engineTo (counted s x a) x { (Claims.core s x).mtx with shapeErr := 7 }) (faultOf 0x08) :=
  engine_fails r he (fun σ k => (hb σ).trans (if_neg (by rw [k.holdsLease, held]; exact Bool.false_ne_true)))

/-- An instruction that enters the queue, which has room, under the next request id (R158). -/
theorem engine_queues {op : MqOp} {tags : Mtx → Mtx} (r : Ready x a s) (room : (Claims.core s x).mtx.queue.length < 4)
    (he : exec i s = issue x a s body) (hb : ∀ σ, Sees s x σ → body σ (co x) (th x) = enqueue σ (co x) op tags) :
    Does i x s (engineTo { counted s x a with nextId := s.nextId + 1 } x (tags (queuedMtx s x op))) .seq := by
  have enters {σ : State} (k : Sees s x σ) : enqueue σ (co x) op tags =
      .done (engineTo { σ with nextId := σ.nextId + 1 } x
        (tags { (Claims.core s x).mtx with queue := (Claims.core s x).mtx.queue ++ [{ id := σ.nextId, op := op }] })) .seq := by
    have later : Sees s x { σ with nextId := σ.nextId + 1 } := k
    rw [enqueue, k.mtx, if_neg (Nat.not_le.mpr room)]
    exact congrArg (IRes.done · .seq) (later.modMtx _)
  exact does_to r he (by rw [hb s .self, enters .self]; exact fun _ => nofun) (by rw [hb _ (.counted r.order), enters (.counted r.order)]; rfl)

end

/-! ### The lease -/

theorem holdsLease_of {s : State} {x : Issue} (lease : (Claims.core s x).mtx.lease = some (th x)) (alive : (Claims.core s x).mtx.dying = false) :
    holdsLease s (co x) (th x) = true := by
  simp only [holdsLease, lease, alive, decide_true, Bool.not_false, Bool.and_self]

theorem not_holdsLease_of {s : State} {x : Issue} (lease : (Claims.core s x).mtx.lease ≠ some (th x)) :
    holdsLease s (co x) (th x) = false := by
  simp only [holdsLease, lease, decide_false, Bool.false_and]

theorem mtxIdle_of {m : Mtx} (queue : m.queue = []) (rows : m.rows = []) : mtxIdle m = true := by
  rw [mtxIdle, queue, rows]
  rfl

/-! ### The checks of `t.mma` (R163–R165) -/

/-- The pairs of operand format codes that have a meaning (R163). -/
def OperandPair (fa fb : Nat) : Prop :=
  (fa = 0 ∧ fb = 0) ∨ (fa = 5 ∧ fb = 0) ∨ ((fa = 1 ∨ fa = 2 ∨ fa = 6) ∧ (fb = 1 ∨ fb = 2)) ∨ (fa = 3 ∧ fb = 3) ∨ (fa = 4 ∧ fb = 4)

/-- A pair gives its accumulator type, and the bytes of an element of A. -/
theorem OperandPair.type_bytes {fa fb : Nat} (h : OperandPair fa fb) :
    pairType fa fb = some (if fa = 0 then 1 else 2) ∧ opBytes fa = if fa = 3 ∨ fa = 4 then 2 else 1 := by
  obtain ⟨rfl, rfl⟩ | ⟨rfl, rfl⟩ | ⟨rfl | rfl | rfl, rfl | rfl⟩ | ⟨rfl, rfl⟩ | ⟨rfl, rfl⟩ := h <;> exact ⟨rfl, rfl⟩

theorem pairType_eq_none {fa fb : Nat} (h : ¬OperandPair fa fb) : pairType fa fb = none := by
  rw [OperandPair] at h
  rw [pairType, if_neg (by omega), if_neg (by omega), if_neg (by omega), if_neg (by omega)]

/-- The tiles and the shape of a `t.mma` lie in the layout in force (R165). -/
structure MmaFits (layout : Nat) (ta tb : BitVec 4) (h : Shape) : Prop where
  tileA : ta.toNat < layTiles layout
  tileB : tb.toNat < layTiles layout
  rowsA : h.m ≤ layRows layout
  rowsB : h.n ≤ layRows layout
  bytes : h.k * opBytes h.fa ≤ layRow layout
  blocks : 5 ≤ h.fa → h.k % 32 = 0

section
variable {s : State} {x : Issue} {ta tb : BitVec 4} {rs : BitVec 5} {type : Nat}

theorem tMma_reserved (r : Ready x attMtx s) (held : holdsLease s (co x) (th x) = true) (resv : shapeResv (reg s x rs) = true) :
    Raises (.tMma x ta tb rs) x s (engineTo (counted s x attMtx) x { (Claims.core s x).mtx with shapeErr := 1 }) (faultOf 0x01) := by
  refine engine_fails r rfl (fun σ k => ?_)
  simp only [k.withLease held, k.reg, resv, if_true]

theorem tMma_unpaired (r : Ready x attMtx s) (held : holdsLease s (co x) (th x) = true) (legal : shapeResv (reg s x rs) = false)
    (unpaired : ¬OperandPair (shapeOf (reg s x rs)).fa (shapeOf (reg s x rs)).fb) :
    Raises (.tMma x ta tb rs) x s (engineTo (counted s x attMtx) x { (Claims.core s x).mtx with shapeErr := 2 }) (faultOf 0x01) := by
  refine engine_fails r rfl (fun σ k => ?_)
  simp only [k.withLease held, k.reg, legal, pairType_eq_none unpaired, Bool.false_eq_true, if_false]

/-- The checks of the shape pass where it fits. -/
theorem MmaFits.checks_pass {layout : Nat} {h : Shape} (fits : MmaFits layout ta tb h) {α : Type} (blocks tiles size passed : α) :
    (if 5 ≤ h.fa ∧ h.k % 32 ≠ 0 then blocks
      else if layTiles layout ≤ ta.toNat ∨ layTiles layout ≤ tb.toNat then tiles
      else if layRows layout < h.m ∨ layRows layout < h.n ∨ layRow layout < h.k * opBytes h.fa then size
      else passed) = passed := by
  obtain ⟨tileA, tileB, rowsA, rowsB, bytes, whole⟩ := fits
  rw [if_neg (fun wrong => wrong.2 (whole wrong.1)), if_neg (by omega), if_neg (by omega)]

/-- A `t.mma` that does not add to an accumulator of another tag enters the queue (R164). -/
theorem tMma_queues (r : Ready x attMtx s) (held : holdsLease s (co x) (th x) = true) (room : (Claims.core s x).mtx.queue.length < 4)
    (legal : shapeResv (reg s x rs) = false) (paired : pairType (shapeOf (reg s x rs)).fa (shapeOf (reg s x rs)).fb = some type)
    (fits : MmaFits (Claims.core s x).mtx.layout ta tb (shapeOf (reg s x rs)))
    (tag : ¬((shapeOf (reg s x rs)).acc = true ∧ (Claims.core s x).mtx.curI.type ≠ 0 ∧
      (Claims.core s x).mtx.curI ≠ { type := type, m := (shapeOf (reg s x rs)).m, n := (shapeOf (reg s x rs)).n })) :
    Does (.tMma x ta tb rs) x s (engineTo { counted s x attMtx with nextId := s.nextId + 1 } x
      { queuedMtx s x (.mma ta.toNat tb.toNat (reg s x rs)) with
        curI := mmaTag (Claims.core s x).mtx.curI (shapeOf (reg s x rs)) type }) .seq := by
  refine engine_queues (tags := fun m => { m with curI := mmaTag m.curI (shapeOf (reg s x rs)) type }) r room rfl (fun σ k => ?_)
  simp only [k.withLease held, k.reg, k.mtx, legal, paired, fits.checks_pass, tag, Bool.false_eq_true, if_false]

/-- A `t.mma` that adds to an accumulator of another tag fails (R165). -/
theorem tMma_other_tag (r : Ready x attMtx s) (held : holdsLease s (co x) (th x) = true) (legal : shapeResv (reg s x rs) = false)
    (paired : pairType (shapeOf (reg s x rs)).fa (shapeOf (reg s x rs)).fb = some type)
    (fits : MmaFits (Claims.core s x).mtx.layout ta tb (shapeOf (reg s x rs)))
    (tag : (shapeOf (reg s x rs)).acc = true ∧ (Claims.core s x).mtx.curI.type ≠ 0 ∧
      (Claims.core s x).mtx.curI ≠ { type := type, m := (shapeOf (reg s x rs)).m, n := (shapeOf (reg s x rs)).n }) :
    Raises (.tMma x ta tb rs) x s (engineTo (counted s x attMtx) x { (Claims.core s x).mtx with shapeErr := 6 }) (faultOf 0x0F) := by
  refine engine_fails r rfl (fun σ k => ?_)
  simp only [k.withLease held, k.reg, k.mtx, legal, paired, fits.checks_pass, if_pos tag, Bool.false_eq_true, if_false]

/-! ### The checks of `t.drain` (R178–R180) -/

/-- A drain into a tile that its rows fit enters the queue. -/
theorem tDrain_to_tile {ra : BitVec 5} (r : Ready x attMtx s) (held : holdsLease s (co x) (th x) = true)
    (room : (Claims.core s x).mtx.queue.length < 4) (legal : drainResv (reg s x rs) = false) (toTile : bit (reg s x rs) 6 = false)
    (plain : ra = 0#5) (tile : ta.toNat < layTiles (Claims.core s x).mtx.layout)
    (rows : drainRows (reg s x rs) (Claims.core s x).mtx.drnI ≤ layRows (Claims.core s x).mtx.layout)
    (row : drainCols (reg s x rs) (Claims.core s x).mtx.drnI * ((drainFmt (reg s x rs)).bits / 8) ≤ layRow (Claims.core s x).mtx.layout) :
    Does (.tDrain x ta rs ra) x s (engineTo { counted s x attMtx with nextId := s.nextId + 1 } x
      (queuedMtx s x (.drain ta.toNat (reg s x rs) 0 (drainRows (reg s x rs) (Claims.core s x).mtx.drnI) (Claims.core s x).mtx.epoch))) .seq := by
  refine engine_queues (tags := id) r room rfl (fun σ k => ?_)
  simp only [k.withLease held, k.reg, k.mtx, legal, toTile, plain, Nat.not_le.mpr tile, Nat.not_lt.mpr rows, Nat.not_lt.mpr row, or_self,
    Bool.false_and, Bool.not_false, Bool.true_and, bne_self_eq_false, Bool.or_self, Bool.false_eq_true, if_false]

/-- A drain to the scratchpad that lies in it, and out of the last-resort slots for a user, enters the queue. -/
theorem tDrain_to_scratchpad {ra : BitVec 5} (r : Ready x attMtx s) (held : holdsLease s (co x) (th x) = true)
    (room : (Claims.core s x).mtx.queue.length < 4) (legal : drainResv (reg s x rs) = false) (toSpad : bit (reg s x rs) 6 = true)
    (aligned : (reg s x ra).toNat % 64 = 0)
    (allowed : (thr s x).mode = .supervisor ∨ ∀ r < drainRows (reg s x rs) (Claims.core s x).mtx.drnI,
      inLastResort ((reg s x ra).toNat + r * bits (reg s x rs) 55 32)
        (drainCols (reg s x rs) (Claims.core s x).mtx.drnI * ((drainFmt (reg s x rs)).bits / 8)) = false)
    (inside : (reg s x ra).toNat + (drainRows (reg s x rs) (Claims.core s x).mtx.drnI - 1) * bits (reg s x rs) 55 32 +
      drainCols (reg s x rs) (Claims.core s x).mtx.drnI * ((drainFmt (reg s x rs)).bits / 8) ≤ spadSize) :
    Does (.tDrain x 0#4 rs ra) x s (engineTo { counted s x attMtx with nextId := s.nextId + 1 } x
      (queuedMtx s x (.drain 0 (reg s x rs) (reg s x ra).toNat (drainRows (reg s x rs) (Claims.core s x).mtx.drnI)
        (Claims.core s x).mtx.epoch))) .seq := by
  have unmet : ¬((thr s x).mode = .user ∧ (List.range (drainRows (reg s x rs) (Claims.core s x).mtx.drnI)).any (fun r =>
      inLastResort ((reg s x ra).toNat + r * bits (reg s x rs) 55 32)
        (drainCols (reg s x rs) (Claims.core s x).mtx.drnI * ((drainFmt (reg s x rs)).bits / 8))) = true) := by
    rintro ⟨user, met⟩
    obtain ⟨row, listed, meets⟩ := List.any_eq_true.mp met
    obtain sup | apart := allowed
    · exact absurd (user.symm.trans sup) (by decide)
    · exact Bool.false_ne_true ((apart row (List.mem_range.mp listed)).symm.trans meets)
  refine engine_queues (tags := id) r room rfl (fun σ k => ?_)
  simp only [k.withLease held, k.reg, k.mtx, k.thread, legal, toSpad, aligned, unmet, Nat.not_lt.mpr inside, ne_eq, not_true_eq_false,
    Bool.not_true, Bool.false_and, Bool.true_and, bne_self_eq_false, Bool.or_self, Bool.false_eq_true, if_false, if_true]

end

end Sys2Proof.Machine

open Sys2Proof Sys2Proof.Machine Sys2Proof.Claims

theorem matrixLease : Claims.MatrixLease := by
  intro x layout s r z m put
  have engine {σ : State} (k : Sees s x σ) : (getCore σ (co x)).mtx = m := k.mtx
  refine ⟨fun free => ?_, fun lease alive => ?_, fun u lease other => ?_, fun lease alive queue rows => ⟨?_, ?_⟩, fun lease => ⟨?_, ?_⟩,
    fun ready lease alive queue rows idle => ?_⟩
  · have unheld : holdsLease s (co x) (th x) = false := not_holdsLease_of (by rw [free]; exact nofun)
    refine engine_does r (fun m => { m with lease := some (th x) }) rfl (fun σ k => ?_)
    simp only [k.holdsLease, unheld, engine k, free, Bool.false_eq_true, if_false, if_true]
  · refine engine_stays r rfl (fun σ k => ?_)
    simp only [k.holdsLease, holdsLease_of lease alive, if_true]
  · have unheld : holdsLease s (co x) (th x) = false := not_holdsLease_of (by rw [lease]; exact fun e => other (Option.some.inj e))
    refine engine_sleeps r (fun m => { m with waiters := m.waiters ++ [th x] }) rfl (fun σ k => ?_)
    simp only [k.holdsLease, unheld, engine k, lease, Bool.false_eq_true, if_false, reduceCtorEq]
  · refine engine_does r (fun m => { m with lease := none }) rfl (fun σ k => ?_)
    simp only [k.withLease (holdsLease_of lease alive), engine k, mtxIdle_of queue rows, if_true]
  · refine engine_stays r rfl (fun σ k => ?_)
    simp only [k.withLease (holdsLease_of lease alive), engine k, mtxIdle_of queue rows, if_true]
  · exact engine_unheld r (not_holdsLease_of lease) rfl (fun σ => rfl)
  · exact engine_unheld r (not_holdsLease_of lease) rfl (fun σ => rfl)
  · refine engine_does ready (cfgMtx · layout.toNat) rfl (fun σ k => ?_)
    have serial : serialBusy (getCore σ (co x)) (th x) = false := by
      simp only [serialBusy, k.relBusy, idle, engine k, mtxIdle_of queue rows, Bool.not_true, Bool.and_false, Bool.or_false]
    simp only [k.withLease (holdsLease_of lease alive), engine k, mtxIdle_of queue rows, serial, Bool.not_false, Bool.and_self, if_true]

theorem matrixQueue : Claims.MatrixQueue := by
  intro x ta tb rs ra s r z m w a put q fails M N K fa fb acc wide ty pair fits tag lease alive room
  have held := holdsLease_of lease alive
  have shape (paired : pair) (fit : fits) : MmaFits m.layout ta tb (shapeOf w) := by
    obtain ⟨tileA, tileB, rowsA, rowsB, bytes, blocks⟩ := fit
    exact ⟨tileA, tileB, rowsA, rowsB, (OperandPair.type_bytes paired).2.symm ▸ bytes, blocks⟩
  refine ⟨?_, ?_, fun tile => ?_, fun absent => ?_, tMma_reserved r held, tMma_unpaired r held, fun legal paired fit tagged => ?_,
    fun legal paired fit adds typed differs => ?_, fun legal => ⟨fun toTile plain tile rows row => ?_, fun toSpad plain aligned allowed inside => ?_⟩⟩
  · exact engine_queues (tags := fun m => { m with curI := m.drnI, drnI := m.curI }) r room rfl (fun σ k => k.withLease held _)
  · exact engine_queues (tags := fun m => { m with curI := Tag.zero }) r room rfl (fun σ k => k.withLease held _)
  · refine engine_queues (tags := id) r room rfl (fun σ k => ?_)
    rw [k.withLease held, k.mtx, if_neg (Nat.not_le.mpr tile)]
  · refine engine_fails r rfl (fun σ k => ?_)
    rw [k.withLease held, k.mtx, if_pos absent]
  · refine tMma_queues r held room legal (OperandPair.type_bytes paired).1 (shape paired fit) ?_
    rintro ⟨adds, typed, differs⟩
    obtain fresh | zero | same := tagged
    · exact Bool.false_ne_true (fresh.symm.trans adds)
    · exact typed zero
    · exact differs same
  · exact tMma_other_tag r held legal (OperandPair.type_bytes paired).1 (shape paired fit) ⟨adds, typed, differs⟩
  · exact tDrain_to_tile r held room legal toTile plain tile rows row
  · obtain rfl := plain
    exact tDrain_to_scratchpad r held room legal toSpad aligned allowed inside

/-- Settles O29: each instruction asks for the lease first, and its checks decide between its fault and its place in the queue. -/
theorem matrixInstructions : Obligations.MatrixInstructions := ⟨matrixLease, matrixQueue⟩
end

section
/-! PROOFS. The head of the engine's queue runs (O30). -/

namespace Sys2Proof.Machine
open Sys2Proof.Claims

/-- With no row of a tile under way, the head of the queue may run: nothing older blocks it. -/
theorem mqFind_head {m : Mtx} {q : MqItem} {r : List MqItem} {kind : MqOp → Bool} (rows : m.rows = []) (queue : m.queue = q :: r)
    (here : kind q.op = true) : mqFind m kind = some (q, 0) := by
  have ready : mqReady m 0 q = true := by
    simp only [mqReady, rows, List.take_zero, List.any_nil, Bool.not_false, Bool.and_false, Bool.true_and]
    split <;> rfl
  rw [mqFind, queue, List.zipIdx_cons, List.find?_cons_of_pos (by rw [here, ready]; rfl)]

section
variable {L : BitVec 13} {s : State} {m : Mtx} {id : Nat} {r : List MqItem}

/-- Some row that a `t.mma` reads is poisoned, or the accumulator that it adds to has an error: what stops the core (R114, R175). -/
def mmaMeetsError (m : Mtx) (ta tb : Nat) (h : Shape) : Bool :=
  (List.range h.m).any (rowBad m ta) || (List.range h.n).any (rowBad m tb) || (h.acc && m.cur.tag.type != 0 && m.cur.bad)

theorem mmaMeetsError_eq_false_iff (m : Mtx) (ta tb : Nat) (h : Shape) : mmaMeetsError m ta tb h = false ↔
    (∀ i < h.m, rowBad m ta i = false) ∧ (∀ j < h.n, rowBad m tb j = false) ∧
      ¬(h.acc = true ∧ m.cur.tag.type ≠ 0 ∧ m.cur.bad = true) := by
  simp [mmaMeetsError, and_assoc]

/-- MMA_EXECUTE with a `t.mma` at the head of the queue: the core stops with subcode 3, or the product is made (R164, R167, R175). -/
theorem mmaExecute_head {ta tb : Nat} {w : Word} (on : coreOn s L.toNat = true) (runs : (getCore s L.toNat).sup.stopped = false)
    (engine : (getCore s L.toNat).mtx = m) (rows : m.rows = []) (queue : m.queue = { id := id, op := .mma ta tb w } :: r) :
    GoesTo (.mmaExecute L) s
      (if mmaMeetsError m ta tb (shapeOf w) then coreStop s L.toNat 3 0 else
        setCore s L.toNat (pmcEvent { getCore s L.toNat with mtx := { m with
          queue := r, cur := mmaAcc m ta tb (shapeOf w),
          opc := if m.opc.contains ta then m.opc else (if 2 ≤ m.opc.length then m.opc.drop 1 else m.opc) ++ [ta] } }
          0x07 none ((shapeOf w).n * (((shapeOf w).k + mmaKpc (shapeOf w) - 1) / mmaKpc (shapeOf w))))) L.toNat := by
  show execMmaExecute L s = _
  have active : (!(coreOn s L.toNat && !(getCore s L.toNat).sup.stopped)) = false := by rw [on, runs]; rfl
  simp only [execMmaExecute, active, engine, mqFind_head rows queue, Bool.false_eq_true, if_false]
  rw [queue, dropAt]
  exact (apply_ite (fun z => Host.Outcome.next (tidy s z L.toNat)) _ _ _).symm

/-- DRAIN_COMPLETE with a `t.drain` at the head of the queue: the core stops with subcode 3, or the drain runs (R114, R179). -/
theorem drainComplete_head {td addr rows epoch : Nat} {w : Word} (on : coreOn s L.toNat = true)
    (runs : (getCore s L.toNat).sup.stopped = false) (engine : (getCore s L.toNat).mtx = m) (idle : m.rows = [])
    (queue : m.queue = { id := id, op := .drain td w addr rows epoch } :: r) :
    GoesTo (.drainComplete L) s
      (if m.drn.bad && m.drn.tag.type != 0 then coreStop s L.toNat 3 0 else
        modMtx (drainRun (setCore s L.toNat { getCore s L.toNat with mtx := { m with queue := r } }) L.toNat td w addr epoch)
          L.toNat pruneLanes) L.toNat := by
  show execDrainComplete L s = _
  have active : (!(coreOn s L.toNat && !(getCore s L.toNat).sup.stopped)) = false := by rw [on, runs]; rfl
  simp only [execDrainComplete, active, engine, mqFind_head idle queue, Bool.false_eq_true, if_false, modMtx, modCore]
  rw [queue, dropAt]
  exact (apply_ite (fun z => Host.Outcome.next (tidy s z L.toNat)) _ _ _).symm

end

end Sys2Proof.Machine

open Sys2Proof Sys2Proof.Machine Sys2Proof.Claims

/-- Settles O30: the head of the queue is what the command finds, and errors decide between the stop and the run. -/
theorem matrixEngineRuns : Obligations.MatrixEngineRuns := by
  unfold Obligations.MatrixEngineRuns
  intro L id ta tb td addr rows epoch w r s order on runs c m sh whole idle
  refine ⟨fun queue => ⟨fun clean => ?_, fun met => ?_⟩, fun queue => ⟨fun clean => ?_, fun tagged bad => ?_⟩⟩
  · have product := mmaExecute_head on runs rfl idle queue
    rwa [if_neg (Bool.eq_false_iff.mp ((mmaMeetsError_eq_false_iff m ta tb sh).mpr clean))] at product
  · have stop := mmaExecute_head on runs rfl idle queue
    rwa [if_pos (Bool.not_eq_false _ ▸ mt (mmaMeetsError_eq_false_iff m ta tb sh).mp met)] at stop
  · have drain := drainComplete_head on runs rfl idle queue
    rwa [if_neg (fun error => clean (by simpa [and_comm] using error))] at drain
  · have stop := drainComplete_head on runs rfl idle queue
    rwa [if_pos (show (m.drn.bad && m.drn.tag.type != 0) = true by simp [tagged, bad])] at stop
end

section
/-! PROOFS. The matrix context stored in a scratchpad that is not in its canonical form (O32). As for the stores of O20, no premise asks for
the canonical form, and a zero byte of the image leaves an address that is listed out of order as it was. -/

namespace Sys2Proof.Machine
open Sys2Proof.Claims

/-! ### What a write to a scratchpad without marks leaves -/

section
variable {σ : State} {L off : Nat} {d : List Byte}

/-- A write to a scratchpad in which no word is marked writes all its bytes. -/
theorem spadWrite_mem (rise : rising σ.cores = true) (unmarked : (getCore σ L).spad.ue = []) :
    (getCore (spadWrite σ L off d) L).spad.mem = writeBytes (getCore σ L).spad.mem off d := by
  unfold spadWrite
  extract_lets c n partials old eff ws mended pf e sp z base
  have all : eff = d := by
    have none (b : Nat) : partials.contains b = false := by
      rw [show partials = [] from List.filter_eq_nil_iff.mpr (fun w met => absurd met (by simp [badIn, c, unmarked]))]
      rfl
    simp only [eff, none, Bool.false_eq_true, if_false]
    rw [show (fun p : (Byte × Byte) × Nat => p.1.1) = Prod.fst ∘ Prod.fst from rfl, ← List.map_map, List.zipIdx_map_fst,
      List.map_fst_zip (Nat.le_of_eq (length_readBytes _ _ _).symm)]
  have kept : e.spad = c.spad := by
    simp only [e]
    split <;> rfl
  have written : (getCore z L).spad.mem = writeBytes c.spad.mem off d := by
    rw [show getCore z L = _ from getCore_setCore rise _ _, ← kept, ← all]
  split <;> exact written

/-- A write with marks changes no core but by its scratchpad and counts, and leaves the press queues. -/
theorem spadWriteBad_frame (rise : rising σ.cores = true) (ks : List Nat) :
    (∃ sp p, getCore (spadWriteBad σ L off d ks) L = { getCore σ L with spad := sp, perf := p }) ∧
      rising (spadWriteBad σ L off d ks).cores = true ∧ (spadWriteBad σ L off d ks).press = σ.press := by
  obtain ⟨m, u, v, fix, p, w, frame⟩ := spadWrite_frame σ L off d
  have risen : rising (spadWrite σ L off d).cores = true := frame ▸ rising_setCore rise _ _
  have own : ∃ sp p, getCore (spadWrite σ L off d) L = { getCore σ L with spad := sp, perf := p } :=
    ⟨_, _, (congrArg (getCore · L) frame).trans (getCore_setCore rise _ _)⟩
  obtain ⟨sp, q, own⟩ := own
  refine ⟨⟨{ sp with ue := addBad sp.ue (ks.map (fun k => k + off / 8)) }, q, ?_⟩, rising_modCore risen L _, (congrArg State.press frame :)⟩
  rw [spadWriteBad, spadMark, getCore_modCore risen, own]

/-- Marks leave the bytes of a write. -/
theorem spadWriteBad_mem (rise : rising σ.cores = true) (unmarked : (getCore σ L).spad.ue = []) (ks : List Nat) :
    (getCore (spadWriteBad σ L off d ks) L).spad.mem = writeBytes (getCore σ L).spad.mem off d := by
  obtain ⟨_, _, _, _, _, _, frame⟩ := spadWrite_frame σ L off d
  rw [spadWriteBad, spadMark, getCore_modCore (frame ▸ rising_setCore rise _ _)]
  exact spadWrite_mem rise unmarked

end

/-- Quiet does not speak of the scratchpad. -/
theorem Quiet.spad {c : Core} (q : Quiet c) (sp : Spad) (p : Perf) : Quiet { c with spad := sp, perf := p } :=
  ⟨q.slots, q.chans, q.queue, q.waiters, q.dying, q.rings, q.vc2, q.outq, q.waits, q.fences, q.cmo, q.entries, q.asks⟩

/-- No thread leaves its wait where the issuing one alone goes on. -/
theorem leftWait_advance {x : Issue} {a : Att} {s : State} {c : Core} (b : Before x a s) (threads : c.thr = (Claims.core s x).thr) (nx : Nx) :
    leftWait (Claims.core s x) (setThr c (th x) (after (thr s x) nx)) = false := by
  refine leftWait_quiet b.quiet.waits (fun u _ faulted => ?_)
  have other : u ≠ th x := by
    rintro rfl
    exact absurd (faulted.symm.trans b.runs.ready) nofun
  rw [getThr_setThr_other _ _ other, getThr, threads]
  exact faulted

/-! ### What `t.csave` stores -/

/-- `t.csave` writes the image, byte by byte, to a scratchpad in which no word is marked (R188). -/
theorem csave_writes {x : Issue} {ra : BitVec 5} {s t : State} (b : Before x attMtx s) (sup : (thr s x).mode = .supervisor)
    (aligned : (reg s x ra).toNat % 64 = 0) (inside : (reg s x ra).toNat + imageSize ≤ spadSize) (rows : (Claims.core s x).mtx.rows = [])
    (whole : (Claims.core s x).mtx.cur.bad = false ∧ (Claims.core s x).mtx.drn.bad = false) (unmarked : (Claims.core s x).spad.ue = [])
    (next : exec (.tCsave x ra) s = .next t) :
    (Claims.core t x).spad.mem = writeBytes (Claims.core s x).spad.mem (reg s x ra).toNat (imageOf (Claims.core s x).mtx) := by
  have body {σ : State} (k : Sees s x σ) :
      ctxBody ra (fun σ L _ a =>
        let m := (getCore σ L).mtx
        if m.cur.bad || m.drn.bad then .set (coreStop σ L 3 0) else .done (spadWriteBad σ L a (imageOf m) (imageBad m)) .seq)
        σ (co x) (th x) =
      .done (spadWriteBad σ (co x) (reg s x ra).toNat (imageOf (Claims.core s x).mtx) (imageBad (Claims.core s x).mtx)) .seq := by
    simp only [ctxBody, k.isSup, sup, k.reg, aligned, k.mtx, mtxIdle_of b.quiet.queue rows, whole, Nat.not_lt.mpr inside, decide_true,
      Bool.not_true, Bool.or_self, Bool.false_eq_true, ne_eq, not_true_eq_false, if_false]
  have rise : rising (counted s x attMtx).cores = true := rising_modCore (rising_of_ordered b.order) _ _
  obtain ⟨p, counts⟩ := getCore_counted b.order x attMtx
  obtain ⟨⟨sp, q, own⟩, risen, press⟩ := spadWriteBad_frame (L := co x) (off := (reg s x ra).toNat) (d := imageOf (Claims.core s x).mtx)
    rise (imageBad (Claims.core s x).mtx)
  rw [counts] at own
  have thread : thrOf (spadWriteBad (counted s x attMtx) (co x) (reg s x ra).toNat (imageOf (Claims.core s x).mtx)
      (imageBad (Claims.core s x).mtx)) (co x) (th x) = thr s x := by
    rw [thrOf, own]
    rfl
  obtain ⟨u, issued, same⟩ := issue_done b.runs (by rw [body .self]; exact fun _ => nofun) (body (.counted b.order)) risen
    (b.press.of press) (by rw [own]) (by rw [own]; exact threads_rising b.order _) (by rw [thread]; exact b.plain)
    (by rw [thread]; exact b.runs.ready) (by rw [own]; exact (b.quiet.spad sp q)) (by rw [own, thread]; exact leftWait_advance b rfl .seq)
  obtain rfl : u = t := Host.Outcome.next.inj (issued.symm.trans next)
  show (getCore u (co x)).spad.mem = _
  rw [same.cores, modT, getCore_modCore risen]
  exact (spadWriteBad_mem rise (by rw [counts]; exact unmarked) _).trans (by rw [counts])

/-- A zero byte that is written first leaves its address as it was where a higher one is listed before it. -/
theorem mget_writeBytes_zero_unordered (a : Nat) (b : Byte) (m : List Host.Cell) (d : List Byte) :
    mget 0#8 (writeBytes ((a + 1, b) :: m) a (0#8 :: d)) a = mget 0#8 m a := by
  have unmoved : mput 0#8 a 0#8 ((a + 1, b) :: m) = (a + 1, b) :: m := by simp [mput]
  rw [writeBytes, unmoved, mget_writeBytes_below _ _ _ (Nat.lt_succ_self a), mget, if_neg (Nat.succ_ne_self a)]

/-- The image of an engine at reset begins with a zero byte, the first of its tile file. -/
theorem imageOf_reset : ∃ d, imageOf Mtx.reset = 0#8 :: d := List.head?_eq_some_iff.mp (by decide +kernel)

end Sys2Proof.Machine

open Sys2Proof Sys2Proof.Machine Sys2Proof.Claims

/-- Refutes O32, by its part about `t.csave`: the image begins with a zero byte for address 0, which keeps the 7 that it read. -/
theorem not_tilesAndMatrixContext : ¬ Obligations.TilesAndMatrixContext := by
  unfold Obligations.TilesAndMatrixContext
  rintro ⟨-, context⟩
  have before : Before issueAt1 attMtx unorderedMemory :=
    ⟨before_unorderedMemory.order, before_unorderedMemory.press, before_unorderedMemory.quiet, by constructor <;> decide,
      before_unorderedMemory.plain⟩
  have place : Local unorderedMemory issueAt1 0 0x10A80 true :=
    ⟨by decide, List.filter_eq_nil_iff.mpr (fun _ _ => Bool.false_ne_true), List.filter_eq_nil_iff.mpr (fun _ _ => Bool.false_ne_true), .inl rfl⟩
  obtain ⟨-, saved, -⟩ := context issueAt1 0#5 0#64 unorderedMemory
  obtain ⟨saves, -⟩ := saved before rfl (by decide) rfl
  obtain ⟨t, next, stored⟩ := saves place (fun _ => rfl) rfl rfl rfl (by decide +kernel)
  obtain ⟨d, image⟩ := imageOf_reset
  have bytes := csave_writes before rfl (by decide) (by decide) rfl ⟨rfl, rfl⟩ rfl next
  have seven : mget 0#8 (Claims.core t issueAt1).spad.mem 0 = 7#8 := by
    rw [bytes]
    exact (congrArg (fun d => mget 0#8 (writeBytes [(1, 1#8), (0, 7#8)] 0 d) 0) image).trans (mget_writeBytes_zero_unordered 0 1#8 _ d)
  have zero : mget 0#8 (Claims.core t issueAt1).spad.mem 0 = 0#8 := by
    have first := stored.bytes 0
    rw [show imageOf (Claims.core unorderedMemory issueAt1).mtx = 0#8 :: d from image] at first
    exact first
  exact absurd (seven.symm.trans zero) (by decide)
end

section
/-! PROOFS. A fill of a scratchpad that is not in its canonical form (O33). As for the stores of O20, no premise asks for the canonical form,
and a zero byte that is filled in leaves an address that is listed out of order as it was. -/

open Sys2Proof Sys2Proof.Machine Sys2Proof.Claims

/-- Refutes O33, by its part about `memfill`: zeros are filled into [0, 1024), and address 1015 keeps the 7 that it read. -/
theorem not_vectorTilesGathersFills : ¬ Obligations.VectorTilesGathersFills := by
  unfold Obligations.VectorTilesGathersFills
  intro holds
  obtain ⟨-, -, fills⟩ := holds issueAt1 0#4 0#4 0#4 0#5 31#5 0#5 unorderedStack
  exact not_stored_of_keepsSeven (i := .memfill issueAt1 0#5 31#5 0#5) (by decide +kernel) (by decide) (by decide +kernel) (by decide +kernel)
    (fills (before_unorderedStack (by constructor <;> decide)) rfl (by decide) (by decide) (by decide) (local_unorderedStack (by decide)))
end

section
/-! PROOFS. Vector arithmetic on elements (O24). -/

namespace Sys2Proof.Machine
open Sys2Proof.Claims

/-! ### What the vector instructions of one, two and three operands do -/

/-- A TYPE of the function's list makes the word legal. -/
theorem attVec_of_type {ty : BitVec 3} {types : List Nat} (permitted : ty.toNat ∈ types) : attVec (typeIn ty types) = attVec true := by
  rw [typeIn, List.contains_iff_mem.mpr permitted]

theorem mem_tAll {n : Nat} (h : n ≤ 6) : n ∈ tAll := by
  rw [show tAll = List.range 7 from rfl, List.mem_range]
  omega

theorem mem_tNum {n : Nat} (h : n ≤ 4) : n ∈ tNum := by
  rw [show tNum = List.range 5 from rfl, List.mem_range]
  omega

theorem mem_tFp {n : Nat} (h : n = 0 ∨ n = 2 ∨ n = 3) : n ∈ tFp := by simpa [tFp] using h

/-- A LANE below the lane count is legal. -/
theorem laneOk_of_lt {ty : BitVec 3} {lane : BitVec 7} (permitted : ty.toNat ≤ 6) (below : lane.toNat < lanesOf (laneFmt ty.toNat)) :
    laneOk ty lane = true := by
  rw [laneOk, typeIn, List.contains_iff_mem.mpr (mem_tAll permitted), decide_eq_true below, Bool.and_self]

section
variable {s σ : State} {x : Issue} {a : Att} {i : Instr} {body : State → Nat → Nat → IRes} {vd va vb : BitVec 4} {sl : Bool} {ty : BitVec 3}
  {types : List Nat} {v : BitVec 1024}

theorem Sees.vec (h : Sees s x σ) (r : BitVec 4) : rv σ (co x) (th x) r = Claims.vec s x r := by rw [rv, h.thread]

theorem keepsPlace_setV (r : Nat) (v : BitVec 1024) : KeepsPlace (fun h => setV h r v) := fun _ => ⟨rfl, rfl, rfl, rfl, rfl⟩

/-- An instruction that writes v to a vector register. -/
theorem setV_to (v : BitVec 1024) (b : Before x a s) (he : exec i s = issue x a s body)
    (hb : ∀ σ, Sees s x σ → body σ (co x) (th x) = .done (wv σ (co x) (th x) vd v) .seq) : ThreadTo i x s (vecTo (thr s x) vd v) :=
  changes_to b (fun h => setV h vd.toNat v) he (keepsPlace_setV vd.toNat v) hb

/-- An instruction of one operand writes vd with what its function gives. -/
theorem vec1_to {g : Bool → Fmt → BitVec 1024 → BitVec 1024} (b : Before x (attVec true) s) (permitted : ty.toNat ∈ types)
    (he : exec i s = vec1 types g x vd va sl ty s) (result : g sl (laneFmt ty.toNat) (Claims.vec s x va) = v) :
    ThreadTo i x s (vecTo (thr s x) vd v) :=
  setV_to v b (he.trans (issue_att (attVec_of_type permitted))) (fun σ h => by rw [h.vec, result])

/-- A function of R201 writes vd lane by lane. -/
theorem fn1_to {k : Fn} {exact : Bool} (b : Before x (attVec true) s) (permitted : ty.toNat ∈ tFp)
    (he : exec i s = fn1 k exact x vd va sl ty s) :
    let f := laneFmt ty.toNat
    ThreadTo i x s (vecTo (thr s x) vd (map1 f (fun n => fnLane k exact f ty.toNat sl n 0) (Claims.vec s x va))) :=
  vec1_to (g := fun s f => map1 f (fun n => fnLane k exact f ty.toNat s n 0)) b permitted he rfl

/-- The result of a reduction of elements: of integers one INT32, which saturates (R199, R200). -/
def reduced (g : Bool → Fmt → List Nat → Nat) (gi : List Int → Int) (sl : Bool) (f : Fmt) (l : List Nat) : BitVec 1024 :=
  if f.isInt then ofElems 32 [satInt .int32 (gi (l.map (laneInt f)))] else ofElems f.bits [g sl f l]

/-- A reduction writes vd with what its functions give. -/
theorem reduce_to {g : Bool → Fmt → List Nat → Nat} {gi : List Int → Int} (b : Before x (attVec true) s) (permitted : ty.toNat ∈ types)
    (he : exec i s = reduce types g gi x vd va sl ty s)
    (result : reduced g gi sl (laneFmt ty.toNat) (elems (laneFmt ty.toNat).bits (Claims.vec s x va)) = v) :
    ThreadTo i x s (vecTo (thr s x) vd v) :=
  vec1_to (g := fun s f a => reduced g gi s f (elems f.bits a)) b permitted he result

/-- An instruction of two operands writes vd with what its function gives. -/
theorem vec2_to {g : Bool → Fmt → BitVec 1024 → BitVec 1024 → BitVec 1024} (b : Before x (attVec true) s) (permitted : ty.toNat ∈ types)
    (he : exec i s = vec2 types g x vd va vb sl ty s) (result : g sl (laneFmt ty.toNat) (Claims.vec s x va) (Claims.vec s x vb) = v) :
    ThreadTo i x s (vecTo (thr s x) vd v) :=
  setV_to v b (he.trans (issue_att (attVec_of_type permitted))) (fun σ h => by rw [h.vec, h.vec, result])

/-- An instruction of three operands, the third of them vd, writes vd with what its function gives. -/
theorem vec3_to {g : Bool → Fmt → BitVec 1024 → BitVec 1024 → BitVec 1024 → BitVec 1024} (b : Before x (attVec true) s)
    (permitted : ty.toNat ∈ types) (he : exec i s = vec3 types g x vd va vb sl ty s)
    (result : g sl (laneFmt ty.toNat) (Claims.vec s x va) (Claims.vec s x vb) (Claims.vec s x vd) = v) :
    ThreadTo i x s (vecTo (thr s x) vd v) :=
  setV_to v b (he.trans (issue_att (attVec_of_type permitted))) (fun σ h => by rw [h.vec, h.vec, h.vec, result])

end

end Sys2Proof.Machine

open Sys2Proof Sys2Proof.Machine Sys2Proof.Claims

theorem vectorElementwise : Claims.VectorElementwise := by
  intro x vd va vb sl ty s b all h f p q d does lanes2
  have any : ty.toNat ∈ tAll := mem_tAll all
  refine ⟨fun num => ?_, fun fp => ?_, fun int => ?_, vec2_to b any (rfl : _ = execVAnd x vd va vb sl ty s) rfl,
    vec2_to b any (rfl : _ = execVOr x vd va vb sl ty s) rfl, vec2_to b any (rfl : _ = execVXor x vd va vb sl ty s) rfl,
    vec2_to b any (rfl : _ = execVPerm x vd va vb sl ty s) rfl, vec3_to b any (rfl : _ = execVSel x vd va vb sl ty s) rfl,
    fun word => ?_, fun byte => vec3_to b (List.mem_singleton.mpr byte) (rfl : _ = execVDpa x vd va vb sl ty s) rfl⟩
  · have num := mem_tNum num
    exact ⟨vec2_to b num (rfl : _ = execVAdd x vd va vb sl ty s) rfl, vec2_to b num (rfl : _ = execVSub x vd va vb sl ty s) rfl,
      vec2_to b num (rfl : _ = execVMul x vd va vb sl ty s) rfl, vec2_to b num (rfl : _ = execVMin x vd va vb sl ty s) rfl,
      vec2_to b num (rfl : _ = execVMax x vd va vb sl ty s) rfl, vec2_to b num (rfl : _ = execVCmpeq x vd va vb sl ty s) rfl,
      vec2_to b num (rfl : _ = execVCmplt x vd va vb sl ty s) rfl, vec2_to b num (rfl : _ = execVCmple x vd va vb sl ty s) rfl⟩
  · have fp := mem_tFp fp
    exact ⟨vec2_to b fp (rfl : _ = execVDiv x vd va vb sl ty s) rfl, vec2_to b fp (rfl : _ = execVLdexp x vd va vb sl ty s) rfl⟩
  · have int : ty.toNat ∈ [1, 4] := by simpa using int
    exact ⟨vec2_to b int (rfl : _ = execVShl x vd va vb sl ty s) rfl, vec2_to b int (rfl : _ = execVShr x vd va vb sl ty s) rfl,
      vec2_to b int (rfl : _ = execVSar x vd va vb sl ty s) rfl⟩
  · have word : ty.toNat ∈ [0, 1, 2, 3] := List.mem_range.mpr (Nat.lt_succ_iff.mpr word)
    exact ⟨vec3_to b word (rfl : _ = execVFma x vd va vb sl ty s) rfl, vec3_to b word (rfl : _ = execVFms x vd va vb sl ty s) rfl,
      vec3_to b word (rfl : _ = execVFnma x vd va vb sl ty s) rfl⟩

theorem vectorUnary : Claims.VectorUnary := by
  intro x vd va r lane sl ty s b all h f a does lanes1 fn red
  have any : ty.toNat ∈ tAll := mem_tAll all
  refine ⟨vec1_to b any (rfl : _ = execVNeg x vd va sl ty s) rfl, vec1_to b any (rfl : _ = execVAbs x vd va sl ty s) rfl,
    vec1_to b any (rfl : _ = execVMov x vd va sl ty s) rfl, fun fp => ?_, fun block => ?_, fun num => ?_, ?_, fun below => ⟨?_, ?_⟩⟩
  · have fp := mem_tFp fp
    exact ⟨fn1_to b fp (rfl : _ = execVRcp x vd va sl ty s), fn1_to b fp (rfl : _ = execVSqrt x vd va sl ty s),
      fn1_to b fp (rfl : _ = execVRsqrt x vd va sl ty s), fn1_to b fp (rfl : _ = execVExp2 x vd va sl ty s),
      fn1_to b fp (rfl : _ = execVLog2 x vd va sl ty s), fn1_to b fp (rfl : _ = execVExp x vd va sl ty s),
      fn1_to b fp (rfl : _ = execVTanh x vd va sl ty s), fn1_to b fp (rfl : _ = execVSigm x vd va sl ty s),
      fn1_to b fp (rfl : _ = execVSin x vd va sl ty s), fn1_to b fp (rfl : _ = execVCos x vd va sl ty s)⟩
  · have block : ty.toNat ∈ [0, 2] := by simpa using block
    exact vec1_to b block (rfl : _ = execVBscale x vd va sl ty s) rfl
  · have num := mem_tNum num
    exact ⟨reduce_to b num (rfl : _ = execVRadd x vd va sl ty s) rfl, reduce_to b num (rfl : _ = execVRmax x vd va sl ty s) rfl,
      reduce_to b num (rfl : _ = execVRmin x vd va sl ty s) rfl⟩
  · refine setV_to _ b (issue_att (a' := attVec true) ?_) (fun σ k => ?_)
    · rw [typeIn, List.contains_iff_mem.mpr any]; rfl
    · rw [k.reg]
  · refine setG_to _ b (issue_att (congrArg attVec (laneOk_of_lt all below))) (fun σ k => ?_)
    rw [k.vec]; rfl
  · refine setV_to _ b (issue_att (congrArg attVec (laneOk_of_lt all below))) (fun σ k => ?_)
    rw [k.reg, k.vec]

/-- Settles O24: the TYPE is one of the function's list, and the body writes vd (or rd) with what the function gives of the registers. -/
theorem vectorArithmetic : Obligations.VectorArithmetic := ⟨vectorElementwise, vectorUnary⟩
end

section
/-! PROOFS. Integer lanes, conversions, the lane generators and the tallies (O25). -/

namespace Sys2Proof.Machine
open Sys2Proof.Claims

/-! ### The elements of a register that is built from elements -/

/-- Bits [k, k + w) of a number survive its truncation to n bits. -/
theorem toNat_ofNat_div_mod (a : Nat) {n k w : Nat} (within : k + w ≤ n) : (BitVec.ofNat n a).toNat / 2 ^ k % 2 ^ w = a / 2 ^ k % 2 ^ w := by
  obtain ⟨r, rfl⟩ := Nat.exists_eq_add_of_le within
  rw [BitVec.toNat_ofNat, Nat.add_assoc, pow_add, Nat.mod_mul_right_div_self, pow_add, Nat.mod_mul_right_mod]

/-- Element i of a number that is put together from elements of w bits. -/
theorem foldr_div_mod (w : Nat) (l : List Nat) (i : Nat) :
    l.foldr (fun n a => n % 2 ^ w + a * 2 ^ w) 0 / 2 ^ (w * i) % 2 ^ w = l.getD i 0 % 2 ^ w := by
  induction l generalizing i with
  | nil => simp
  | cons n l ih =>
    have low : n % 2 ^ w < 2 ^ w := Nat.mod_lt _ (Nat.two_pow_pos w)
    cases i with
    | zero => simp
    | succ i =>
      rw [List.foldr_cons, Nat.mul_succ, Nat.add_comm (w * i), pow_add, ← Nat.div_div_eq_div_mul, Nat.add_mul_div_right _ _ (Nat.two_pow_pos w),
        Nat.div_eq_of_lt low, Nat.zero_add, ih, List.getD_cons_succ]

/-- Element i of a register. -/
theorem elems_getD (v : BitVec 1024) {w i : Nat} (inside : i < 1024 / w) : (elems w v).getD i 0 = v.toNat / 2 ^ (w * i) % 2 ^ w := by
  rw [elems, List.getD_eq_getElem _ _ (by simpa using inside)]
  simp

/-- Reading an element back gives what was put there, in w bits. -/
theorem elems_ofElems_getD (l : List Nat) {w i : Nat} (inside : i < 1024 / w) : (elems w (ofElems w l)).getD i 0 = l.getD i 0 % 2 ^ w := by
  have within : w * i + w ≤ 1024 := by
    rw [← Nat.mul_succ, Nat.mul_comm]
    exact (Nat.mul_le_mul_right w inside).trans (Nat.div_mul_le_self 1024 w)
  rw [elems_getD _ inside, ofElems, toNat_ofNat_div_mod _ within, foldr_div_mod]

/-! ### Integer lanes -/

/-- The integer nearest to v that an integer lane holds (R196). -/
def clampLane (f : Fmt) (v : Int) : Int := max (-2 ^ (f.bits - 1)) (min (2 ^ (f.bits - 1) - 1) v)

/-- Saturation encodes the sign of v and its magnitude, held to the largest on its side. -/
theorem satInt_eq {f : Fmt} (int : f.isInt = true) (v : Int) :
    satInt f v = intEnc f (decide (v < 0)) (min v.natAbs (intLim f (decide (v < 0)))) := by
  have exact : roundMag v.natAbs 0 0 1 0 = v.natAbs := by simp [roundMag]
  simp only [satInt, convert, int, if_true, exact]
  by_cases zero : v.natAbs = 0
  · obtain rfl := Int.natAbs_eq_zero.mp zero
    rfl
  · rw [if_neg zero, if_neg zero]
    split
    · next above => rw [Nat.min_eq_right above.le]
    · next within => rw [Nat.min_eq_left (Nat.not_lt.mp within)]

/-- The signed value of an integer lane: two's complement (R119). -/
theorem laneInt_eq {f : Fmt} (int : f.isInt = true) (n : Nat) :
    laneInt f n = if 2 ^ (f.bits - 1) ≤ n % 2 ^ f.bits then ((n % 2 ^ f.bits : Nat) : Int) - 2 ^ f.bits else (n % 2 ^ f.bits : Nat) := by
  have below : n % 2 ^ f.bits < 2 ^ f.bits := Nat.mod_lt _ (Nat.two_pow_pos _)
  simp only [laneInt, decode, int, if_true, intOf, decide_eq_true_eq]
  split
  · push_cast [Nat.cast_sub below.le]
    ring
  · rfl

/-- A lane to which v has been saturated reads v clamped to the lane. -/
theorem laneInt_satInt {f : Fmt} (int : f.isInt = true) (v : Int) : laneInt f (satInt f v % 2 ^ f.bits) = clampLane f v := by
  have double : 2 ^ f.bits = 2 * 2 ^ (f.bits - 1) := by cases f <;> rfl
  have half : 0 < 2 ^ (f.bits - 1) := Nat.two_pow_pos _
  have cast : (2 : Int) ^ (f.bits - 1) = (2 ^ (f.bits - 1) : Nat) := (Nat.cast_pow 2 _).symm
  have encoded : satInt f v % 2 ^ f.bits =
      if v < 0 then 2 ^ f.bits - min v.natAbs (2 ^ (f.bits - 1)) else min v.natAbs (2 ^ (f.bits - 1) - 1) := by
    rw [satInt_eq int]
    by_cases negative : v < 0
    · simp only [intEnc, intLim, negative, decide_true, if_true, Nat.mod_mod]
      exact Nat.mod_eq_of_lt (by omega)
    · simp only [intEnc, intLim, negative, decide_false, Bool.false_eq_true, if_false]
      exact Nat.mod_eq_of_lt (by omega)
  have whole : (2 : Int) ^ f.bits = 2 * (2 ^ (f.bits - 1) : Nat) := by rw [← cast]; exact_mod_cast double
  rw [laneInt_eq int, Nat.mod_mod, encoded, clampLane, cast, whole]
  split <;> split <;> omega

/-- A lane of integer arithmetic is its result on the operands' lanes, clamped (R196). -/
theorem laneInt_arith2 {f : Fmt} (int : f.isInt = true) (fv : Val → Val → Val) (fi : Int → Int → Int) (sl : Bool) (a b : BitVec 1024)
    {i : Nat} (inside : i < lanesOf f) :
    laneInt f ((elems f.bits (arith2 fv fi sl f a b)).getD i 0) =
      clampLane f (fi (laneInt f ((elems f.bits a).getD i 0)) (laneInt f ((elems f.bits b).getD i 0))) := by
  have lane (v : BitVec 1024) : i < (elems f.bits v).length := by rw [elems, List.length_map, List.length_range]; exact inside
  rw [arith2, zip2, elems_ofElems_getD _ inside, List.getD_eq_getElem _ _ (lane a), List.getD_eq_getElem _ _ (lane b),
    List.getD_eq_getElem _ _ (by simpa using ⟨lane a, lane b⟩), List.getElem_zipWith, if_pos int, laneInt_satInt int]

/-! ### Instructions that change the tallies and the lane generators -/

/-- From one engine to the other only tallies have been counted. -/
def OnlyTally (m n : Mtx) : Prop := ∃ t c, n = { m with tally := t, tallyCfg := c }

theorem onlyTally_tallyAdd (m : Mtx) (set bin n : Nat) : OnlyTally m (tallyAdd m set bin n) := by
  unfold tallyAdd
  extract_lets cfg v
  split
  · exact ⟨m.tally, m.tallyCfg, rfl⟩
  · exact ⟨_, _, rfl⟩

theorem onlyTally_tallyRows (m : Mtx) (f : Fmt) (set : Nat) (cs : List Cls) : OnlyTally m (tallyRows m f set cs) := by
  refine List.foldlRecOn cs _ (motive := OnlyTally m) ⟨m.tally, m.tallyCfg, rfl⟩ (fun n only c _ => ?_)
  obtain ⟨t, k, rfl⟩ := only
  exact onlyTally_tallyAdd { m with tally := t, tallyCfg := k } set _ 1

/-- The core with other performance counters, engine and lane generators. -/
def withCounts (c : Core) (p : Perf) (m : Mtx) (l : List (BitVec 32)) : Core := { c with perf := p, mtx := m, vlanes := l }

/-- g changes the tallies and the lane generators of a core, whatever its performance counters, and nothing else. -/
def CountsOnly (g : Core → Core) : Prop :=
  ∀ c : Core, ∃ m l, OnlyTally c.mtx m ∧ ∀ p, g { c with perf := p } = withCounts c p m l

/-- Quiet speaks neither of the tallies nor of the lane generators. -/
theorem Quiet.withCounts {c : Core} {m : Mtx} (q : Quiet c) (only : OnlyTally c.mtx m) (p : Perf) (l : List (BitVec 32)) :
    Quiet (withCounts c p m l) := by
  obtain ⟨t, k, rfl⟩ := only
  exact ⟨q.slots, q.chans, q.queue, q.waiters, q.dying, q.rings, q.vc2, q.outq, q.waits, q.fences, q.cmo, q.entries, q.asks⟩

section
variable {x : Issue} {a : Att} {s : State} {i : Instr} {body : State → Nat → Nat → IRes} {g : Core → Core}

/-- An instruction whose body takes its core to c, which is as g leaves it but for the issuing thread and the performance counters. -/
theorem counts_core {σ : State} {c : Core} (b : Before x a s) (counts : CountsOnly g) (he : exec i s = issue x a s body)
    (hh : ∀ τ, body s (co x) (th x) ≠ .hold τ) (hb : body (counted s x a) (co x) (th x) = .done σ .seq) (rise : rising σ.cores = true)
    (only : OnlyCore s σ (co x) c) (frame : { c with thr := (Claims.core s x).thr, perf := (Claims.core s x).perf } = g (Claims.core s x))
    (threads : rising c.thr = true) (others : ∀ u, u ≠ th x → getThr c u = getThr (Claims.core s x) u) (quiet : Quiet c)
    (plain : Plain (getThr c (th x))) (ready : (getThr c (th x)).st = .ready) :
    StateTo i x s (modCore s (co x) g) (after (getThr c (th x)) .seq) := by
  obtain ⟨m, l, -, units⟩ := counts (Claims.core s x)
  have own : g (Claims.core s x) = withCounts (Claims.core s x) (Claims.core s x).perf m l := units (Claims.core s x).perf
  have events : (Claims.core s x).sup.evq = c.sup.evq := (congrArg (fun c : Core => c.sup.evq) (frame.trans own)).symm
  obtain ⟨t, ht, core, cores, rest⟩ := issue_core b hh hb rise only threads events quiet plain ready (fun u hu => by rw [others u hu])
  have after_g : getCore (modCore s (co x) g) (co x) = g (Claims.core s x) := getCore_modCore (rising_of_ordered b.order) _ _
  refine ⟨t, he.trans ht, ?_, fun u hu => ?_, ?_, fun K hK => ?_, ?_⟩
  · rw [thrOf, core]
    exact getThr_setThr threads _ _
  · rw [thrOf, core, getThr_setThr_other _ _ hu, others u hu, thrOf, after_g, own]
    rfl
  · rw [core, after_g, ← frame]
    rfl
  · rw [cores K hK, getCore_modCore_other _ _ hK]
  · exact congrArg (fun z : State => { z with cores := (modCore s (co x) g).cores }) rest

/-- An instruction that changes its core by g, and whose thread goes on. -/
theorem counts_goes (b : Before x a s) (counts : CountsOnly g) (he : exec i s = issue x a s body)
    (hb : ∀ σ, Sees s x σ → body σ (co x) (th x) = .done (modCore σ (co x) g) .seq) :
    StateTo i x s (modCore s (co x) g) (after (thr s x) .seq) := by
  obtain ⟨m, l, only, units⟩ := counts (Claims.core s x)
  obtain ⟨p, core, cores, rest⟩ := onlyCore_counted b.order x a
  have rise : rising (counted s x a).cores = true := rising_modCore (rising_of_ordered b.order) _ _
  refine counts_core (c := withCounts (Claims.core s x) p m l) b counts he (by rw [hb s .self]; exact fun _ => nofun)
    (hb _ (.counted b.order)) (rising_modCore rise _ _) ⟨?_, fun K hK => ?_, rest⟩ (units _).symm (threads_rising b.order _)
    (fun _ _ => rfl) (b.quiet.withCounts only p l) b.plain b.runs.ready
  · rw [getCore_modCore rise, core, units]
  · rw [getCore_modCore_other _ _ hK, cores K hK]

/-- An instruction that changes its core by g and its thread by f. -/
theorem counts_to {f : Thread → Thread} (b : Before x a s) (counts : CountsOnly g) (hf : KeepsPlace f) (he : exec i s = issue x a s body)
    (hb : ∀ σ, Sees s x σ → body σ (co x) (th x) = .done (modT (modCore σ (co x) g) (co x) (th x) f) .seq) :
    StateTo i x s (modCore s (co x) g) (after (f (thr s x)) .seq) := by
  obtain ⟨m, l, only, units⟩ := counts (Claims.core s x)
  obtain ⟨p, core, cores, rest⟩ := onlyCore_counted b.order x a
  have rise : rising (counted s x a).cores = true := rising_modCore (rising_of_ordered b.order) _ _
  obtain ⟨st, fences, dbg, stop, entry⟩ := hf (thr s x)
  have plain : Plain (f (thr s x)) := ⟨dbg ▸ b.plain.pend, dbg ▸ b.plain.stepping, stop ▸ b.plain.stop, entry ▸ b.plain.entry⟩
  have ready : (f (thr s x)).st = .ready := st.trans b.runs.ready
  have threads := threads_rising b.order (co x)
  have thread : getThr (setThr (withCounts (Claims.core s x) p m l) (th x) (f (thr s x))) (th x) = f (thr s x) :=
    getThr_setThr (c := withCounts (Claims.core s x) p m l) threads _ _
  have quiet := (b.quiet.withCounts only p l).setThr (t := th x) threads (by rw [ready]; exact nofun)
    (fences.trans (b.quiet.fences _ x.thread.isLt)) plain
  have goes := counts_core (c := setThr (withCounts (Claims.core s x) p m l) (th x) (f (thr s x))) b counts he
    (by rw [hb s .self]; exact fun _ => nofun) (hb _ (.counted b.order)) (rising_modCore (rising_modCore rise _ _) _ _)
    ⟨?_, fun K hK => ?_, rest⟩ (units _).symm (rising_setThr threads (th x) (f (thr s x)))
    (fun u hu => getThr_setThr_other _ _ hu) quiet (by rw [thread]; exact plain) (by rw [thread]; exact ready)
  · rwa [thread] at goes
  · rw [modT, getCore_modCore (rising_modCore rise _ _), getCore_modCore rise, core, units]
    rfl
  · rw [modT, getCore_modCore_other _ _ hK, getCore_modCore_other _ _ hK, cores K hK]

end

/-- Converting changes tallies and lane generators (R206, R207). -/
def convCore (w : Word) (f : Fmt) (sat : Bool) (vs : List Val) (c : Core) : Core :=
  let r := convRows f (bits w 4 3) sat (chunks32 4 vs) c.vlanes
  { c with mtx := if bit w 6 then tallyRows c.mtx f (bits w 9 7) (r.1.flatten.map (·.2)) else c.mtx, vlanes := r.2 }

theorem vconv_state (σ : State) (L : Nat) (w : Word) (f : Fmt) (sat : Bool) (vs : List Val) :
    (vconv σ L w f sat vs).1 = modCore σ L (convCore w f sat vs) := rfl

theorem countsOnly_convCore (w : Word) (f : Fmt) (sat : Bool) (vs : List Val) : CountsOnly (convCore w f sat vs) := by
  intro c
  refine ⟨(convCore w f sat vs c).mtx, (convCore w f sat vs c).vlanes, ?_, fun p => rfl⟩
  unfold convCore
  extract_lets r
  dsimp only
  split
  · exact onlyTally_tallyRows ..
  · exact ⟨c.mtx.tally, c.mtx.tallyCfg, rfl⟩

section
variable {x : Issue} {s σ : State} {i : Instr} {body : State → Nat → Nat → IRes} {w : Word} {f : Fmt} {sat : Bool} {vs : List Val}

/-- What a conversion gives is the same when the issue is counted. -/
theorem Sees.vconv_out (h : Sees s x σ) : (vconv σ (co x) w f sat vs).2 = (vconv s (co x) w f sat vs).2 := by
  obtain ⟨p, hp⟩ := h
  simp only [vconv, hp]

/-- An instruction whose checks pass converts values, and writes vd with v. -/
theorem conv_to {vd : BitVec 4} {v : BitVec 1024} {a : Att} {fails : Bool} (b : Before x a s) (passes : fails = false)
    (he : exec i s = issue x a s body)
    (hb : ∀ σ, Sees s x σ → body σ (co x) (th x) =
      if fails then .exc σ (faultOf 0x01) else .done (wv (vconv σ (co x) w f sat vs).1 (co x) (th x) vd v) .seq) :
    StateTo i x s (vconv s (co x) w f sat vs).1 (vecTo (thr s x) vd v) := by
  rw [vconv_state]
  refine counts_to b (countsOnly_convCore w f sat vs) (keepsPlace_setV vd.toNat v) he (fun σ k => ?_)
  rw [hb σ k, passes, vconv_state]
  rfl

end

/-- The low 32 bits of a word. -/
theorem ofNat_bits_low (w : Word) : BitVec.ofNat 32 (bits w 31 0) = w.truncate 32 := by
  apply BitVec.eq_of_toNat_eq
  simp [bits]

end Sys2Proof.Machine

open Sys2Proof Sys2Proof.Machine Sys2Proof.Claims

theorem integerLanesSaturate : Claims.IntegerLanesSaturate := by
  intro sl f a b i int inside lane clamp
  have int : f.isInt = true := by obtain rfl | rfl := int <;> rfl
  exact ⟨laneInt_arith2 int _ _ sl a b inside, laneInt_arith2 int _ _ sl a b inside, laneInt_arith2 int _ _ sl a b inside⟩

theorem vectorConversions : Claims.VectorConversions := by
  intro x vd va rc ty s b all w f g a conv legal
  refine ⟨fun plain format part => ?_, fun types unscaled format part => ?_, fun type unscaled format => ?_⟩
  · have passes : (cvtResv w || bits w 31 24 != 0 || bits w 2 0 == 7 ||
        decide (max (lanesOf f) (lanesOf g) / min (lanesOf f) (lanesOf g) ≤ bits w 12 10)) = false := by
      simp [legal, plain, format, part]
    refine conv_to b passes (issue_att (attVec_of_type (mem_tAll all))) (fun σ k => ?_)
    simp only [k.reg, k.vec, k.vconv_out]
    rfl
  · have types : ty.toNat ∈ [0, 2] := by simpa using types
    have passes : (cvtResv w || bits w 23 16 != 0 || decide (2 ≤ bits w 2 0) || decide (8 ≤ lanesOf f / 32 * bits w 12 10)) = false := by
      simp [legal, unscaled, format, part]
    refine conv_to b passes (issue_att (attVec_of_type types)) (fun σ k => ?_)
    simp only [k.reg, k.vec, k.vconv_out]
    rfl
  · have passes : (cvtResv w || bits w 23 16 != 0 || decide (2 ≤ bits w 2 0)) = false := by simp [legal, unscaled, format]
    refine conv_to b passes (issue_att (attVec_of_type (List.mem_singleton.mpr type))) (fun σ k => ?_)
    simp only [k.reg, k.vec, k.vconv_out]
    rfl

theorem seedsAndTallies : Claims.SeedsAndTallies := by
  intro x va rs set ty s b all c f
  refine ⟨counts_goes (g := fun c => { c with vlanes := (List.range 32).map (laneSeed ((reg s x rs).truncate 32)) }) b
      (fun c => ⟨c.mtx, _, ⟨c.mtx.tally, c.mtx.tallyCfg, rfl⟩, fun p => rfl⟩) rfl (fun σ k => ?_),
    counts_goes (g := fun c => { c with mtx := tallyRows c.mtx f set.toNat ((elems f.bits (vec s x va)).map (fun i => elemCls (decode f i))) }) b
      (fun c => ⟨_, c.vlanes, onlyTally_tallyRows .., fun p => rfl⟩) (issue_att (attVec_of_type (mem_tAll all))) (fun σ k => ?_)⟩
  · rw [k.reg, ofNat_bits_low]
  · rw [k.vec]
    rfl

/-- Settles O25: a saturated lane reads back clamped, and the instructions change of their core only what `CountsOnly` allows. -/
theorem vectorIntegersConversionsTallies : Obligations.VectorIntegersConversionsTallies :=
  ⟨integerLanesSaturate, vectorConversions, seedsAndTallies⟩
end

section
/-! PROOFS. A vector register stored in a scratchpad that is not in its canonical form (O26). As for the stores of O20, no premise asks for the
canonical form, and a zero byte of the register leaves an address that is listed out of order as it was. -/

namespace Sys2Proof.Machine
open Sys2Proof.Claims

/-- The store of a register that is zero leaves address 0 reading the 7 that is listed out of order. -/
theorem vSt_zero_keeps_seven {t : State} (h : exec (.vSt issueAt1 0#4 0#5 0#5) unorderedMemory = .next t) :
    mget 0#8 (Claims.core t issueAt1).spad.mem 0 = 7#8 := by
  have seven : (match exec (.vSt issueAt1 0#4 0#5 0#5) unorderedMemory with
      | .next t => decide (mget 0#8 (Claims.core t issueAt1).spad.mem 0 = 7#8)
      | _ => true) = true := by decide +kernel
  rw [h] at seven
  exact of_decide_eq_true seven

end Sys2Proof.Machine

open Sys2Proof Sys2Proof.Machine Sys2Proof.Claims

/-- Refutes O26, by its part about `v.st`: the 128 zero bytes of v0 are stored at [0, 128), and address 0 keeps the 7 that it read. -/
theorem not_vectorLocalMemory : ¬ Obligations.VectorLocalMemory := by
  unfold Obligations.VectorLocalMemory
  intro holds
  have before : Before issueAt1 attVmem unorderedMemory :=
    ⟨before_unorderedMemory.order, before_unorderedMemory.press, before_unorderedMemory.quiet, by constructor <;> decide,
      before_unorderedMemory.plain⟩
  have place : Local unorderedMemory issueAt1 0 128 true :=
    ⟨by decide, List.filter_eq_nil_iff.mpr (fun _ _ => Bool.false_ne_true), List.filter_eq_nil_iff.mpr (fun _ _ => Bool.false_ne_true), .inl rfl⟩
  obtain ⟨-, stores⟩ := holds issueAt1 0#4 0#5 0#5 unorderedMemory before rfl (by decide)
  obtain ⟨t, next, stored⟩ := stores place
  have zero : mget 0#8 (Claims.core t issueAt1).spad.mem 0 = 0#8 := by rw [stored.bytes, if_pos (by decide +kernel)]; decide +kernel
  exact absurd ((vSt_zero_keeps_seven next).symm.trans zero) (by decide)
end

section
/-! PROOFS. Responses of the mesh complete the request that waits (O23). -/

namespace Sys2Proof.Machine
open Sys2Proof.Claims

/-! ### Operations that leave the threads of a core as they are -/

/-- From s to z the threads of core L stand as they did, and the cores stay listed in order. -/
structure KeepsThreads (s z : State) (L : Nat) : Prop where
  rise : rising z.cores = true
  threads : (getCore z L).thr = (getCore s L).thr

section
variable {s y z : State} {L : Nat}

theorem KeepsThreads.refl (rise : rising s.cores = true) : KeepsThreads s s L := ⟨rise, rfl⟩

theorem KeepsThreads.thread (k : KeepsThreads s z L) (t : Nat) : thrOf z L t = thrOf s L t :=
  congrArg (mget Thread.reset · t) k.threads

/-- What touches no core keeps the threads. -/
theorem KeepsThreads.other_parts (k : KeepsThreads s y L) (same : z.cores = y.cores) : KeepsThreads s z L :=
  ⟨same ▸ k.rise, by rw [getCore, same]; exact k.threads⟩

/-- What changes other parts of the core keeps its threads. -/
theorem KeepsThreads.other_units (k : KeepsThreads s y L) {f : Core → Core} (keeps : ∀ c, (f c).thr = c.thr) :
    KeepsThreads s (modCore y L f) L :=
  ⟨rising_modCore k.rise L f, by rw [getCore_modCore k.rise, keeps, k.threads]⟩

/-- A write request leaves every core. -/
theorem sendWrite_cores (s : State) (L id : Nat) (h : Home) (data : List Byte) (bad : List Nat) (w : Who) :
    (sendWrite s L id h data bad w).cores = s.cores := by
  cases h with
  | spad K off => rfl
  | hbm a => rfl
  | comp a =>
    simp only [sendWrite, sendRuns]
    split <;> rfl

theorem KeepsThreads.writeBack (k : KeepsThreads s y L) (l : DLine) : KeepsThreads s (writeBack y L l) L := by
  have asked : KeepsThreads s (addOut (newId y).2 L (newId y).1 .wback l.home) L := by
    unfold addOut
    exact (k.other_parts (z := (newId y).2) rfl).other_units (fun _ => rfl)
  refine .other_parts ?_ (sendWrite_cores ..)
  exact asked.other_units (fun _ => rfl)

theorem KeepsThreads.evict (k : KeepsThreads s y L) (l : DLine) : KeepsThreads s (evict y L l) L := by
  unfold Machine.evict
  split
  · exact k
  · split
    · exact k.writeBack l
    · split
      · exact k.other_parts rfl
      · exact k

/-- A line that is installed leaves the threads: its victim goes, and the cache changes. -/
theorem KeepsThreads.installLine {l : DLine} (k : KeepsThreads s y L) (installed : installLine y L l = some z) :
    KeepsThreads s z L := by
  unfold Machine.installLine at installed
  split at installed
  · cases installed
  · obtain rfl := Option.some.inj installed
    have evicted := (k.other_parts (z := { y with freeCtr := y.freeCtr + 1 }) rfl).evict
      (mget DLine.empty (getCore y L).cache.d (fillWay (getCore y L).cache.d l.va y.freeCtr))
    exact evicted.other_units (fun _ => rfl)

theorem KeepsThreads.mergeAt (k : KeepsThreads s y L) (va : Nat) (data : List Byte) (dirty : Bool) :
    KeepsThreads s (mergeAt y L va data dirty) L := by
  simp only [Machine.mergeAt]
  split
  · next key l _ =>
    exact k.other_units (f := fun c => { c with cache := { c.cache with
      d := mput DLine.empty key { mergeLine l va data with dirty := dirty } c.cache.d } }) (fun _ => rfl)
  · exact k

/-- An acquire, where one is asked for, leaves the threads. -/
theorem KeepsThreads.acquire (k : KeepsThreads s y L) (asked : Bool) :
    KeepsThreads s (if asked then modCore y L acquire else y) L := by
  split
  · exact k.other_units (fun _ => rfl)
  · exact k

/-- The response and its request go, and the threads stay. -/
theorem keepsThreads_answered (o : s.ordered = true) (i id : Nat) : KeepsThreads s (dropOut (takePkt s i) L id) L := by
  have taken : KeepsThreads s (takePkt s i) L := .other_parts (.refl (rising_of_ordered o)) rfl
  unfold dropOut
  exact taken.other_units (fun _ => rfl)

/-! ### A held thread goes on -/

variable {id t : Nat}

theorem heldBy_of (held : (thrOf s L t).held = .access id) : heldBy s L t id = true := by simp [heldBy, held]

theorem loadDone_held (held : (thrOf s L t).held = .access id) (rd : BitVec 5) (b : List Byte) (sx : Bool) :
    loadDone s L id t rd b sx = finish (wg s L t rd (loadVal b sx)) L t .seq := if_pos (heldBy_of held)

theorem storeDone_held (held : (thrOf s L t).held = .access id) : storeDone s L id t = finish s L t .seq := if_pos (heldBy_of held)

/-- The answer to a request of a core that is on. -/
theorem response_arrives {i : Nat} {p : Packet} (arrives : mayArrive s i = some p) (dst : p.dst = .core L) (on : coreOn s L = true) :
    response s i = some (L, p.body) := by
  simp only [response, arrives, dst, on, if_true]

end

/-! ### The four responses -/

section
variable {s z : State} {i id L n va : Nat} {p : Packet} {t : BitVec 4} {rd : BitVec 5} {sx acq eight no k : Bool} {data d : List Byte}
  {l : DLine} {body : Body}

/-- READ_DATA of a load writes rd and ends its instruction, after the acquire of an acquiring load (R234, R274). -/
theorem readData_load (o : s.ordered = true) (answered : response s i = some (L, .readData id data [] k))
    (asked : (findOut (getCore s L) id).map (·.kind) = some (.load t rd n sx acq va)) (held : (thrOf s L t.toNat).held = .access id) :
    let s1 := dropOut (takePkt s i) L id
    GoesTo (.readData i) s
      (finish (wg (if acq then modCore s1 L acquire else s1) L t.toNat rd (loadVal data sx)) L t.toNat .seq) L := by
  intro s1
  have kept := (keepsThreads_answered (L := L) o i id).acquire acq
  obtain ⟨⟨oid, kind, win⟩, out, rfl⟩ := Option.map_eq_some_iff.mp asked
  rw [← loadDone_held (kept.thread t.toNat ▸ held)]
  simp only [GoesTo, exec, execReadData, answered, out]
  rfl

/-- The line of a load arrives: it is installed unless an acquire has passed, and the load takes its bytes from it (R271, R276). -/
theorem cacheFill_load (o : s.ordered = true) (answered : response s i = some (L, .readData id data [] k))
    (asked : (findOut (getCore s L) id).map (·.kind) = some (.fillLoad t rd n sx va l no)) (held : (thrOf s L t.toNat).held = .access id)
    (installs : if no then z = dropOut (takePkt s i) L id else installLine (dropOut (takePkt s i) L id) L { l with data := data } = some z) :
    GoesTo (.cacheFill i) s (finish (wg z L t.toNat rd (loadVal ((data.drop (va % 64)).take n) sx)) L t.toNat .seq) L := by
  have kept := keepsThreads_answered (L := L) o i id
  have arrives : fillArrives (dropOut (takePkt s i) L id) L l data [] no = some z ∧ KeepsThreads s z L := by
    cases no with
    | true => exact ⟨congrArg some installs.symm, installs ▸ kept⟩
    | false => exact ⟨installs, kept.installLine installs⟩
  obtain ⟨fill, kept⟩ := arrives
  obtain ⟨⟨oid, kind, win⟩, out, rfl⟩ := Option.map_eq_some_iff.mp asked
  rw [← loadDone_held (kept.thread t.toNat ▸ held)]
  simp only [GoesTo, exec, execCacheFill, answered, out, fill]
  rfl

/-- The line of a store arrives: it is installed dirty with the store's bytes, and the store ends (R271). -/
theorem cacheFill_store (o : s.ordered = true) (answered : response s i = some (L, .readData id data [] k))
    (asked : (findOut (getCore s L) id).map (·.kind) = some (.fillStore t va d l)) (held : (thrOf s L t.toNat).held = .access id)
    (installed : installLine (dropOut (takePkt s i) L id) L
      { mergeLine { l with data := data, poison := [] } va d with dirty := true } = some z) :
    GoesTo (.cacheFill i) s (finish z L t.toNat .seq) L := by
  have kept := (keepsThreads_answered (L := L) o i id).installLine installed
  obtain ⟨⟨oid, kind, win⟩, out, rfl⟩ := Option.map_eq_some_iff.mp asked
  rw [← storeDone_held (kept.thread t.toNat ▸ held)]
  simp only [GoesTo, exec, execCacheFill, answered, out, List.isEmpty_nil, if_true, installed]

/-- ATOMIC_DATA writes rd and ends the atomic, after the acquire of an ordered one (R370). -/
theorem atomicData_atomic {old : Word} {ord : Bool} (o : s.ordered = true) (answered : response s i = some (L, .atomicData id old false))
    (asked : (findOut (getCore s L) id).map (·.kind) = some (.atomic t rd eight ord va)) (held : (thrOf s L t.toNat).held = .access id) :
    let s1 := dropOut (takePkt s i) L id
    GoesTo (.atomicData i) s
      (finish (wg (if ord then modCore s1 L acquire else s1) L t.toNat rd (loadVal (toBytes 8 old.toNat) false)) L t.toNat .seq) L := by
  intro s1
  have kept := (keepsThreads_answered (L := L) o i id).acquire ord
  obtain ⟨⟨oid, kind, win⟩, out, rfl⟩ := Option.map_eq_some_iff.mp asked
  rw [← loadDone_held (kept.thread t.toNat ▸ held)]
  simp only [GoesTo, exec, execAtomicData, answered, out]
  rfl

/-- WRITE_ACK of a store merges the store's bytes into a cached line and ends the store (R234, R271). -/
theorem writeAck_store (o : s.ordered = true) (answered : response s i = some (L, .writeAck id))
    (asked : (findOut (getCore s L) id).map (·.kind) = some (.store t va n d)) (held : (thrOf s L t.toNat).held = .access id) :
    let s1 := dropOut (takePkt s i) L id
    GoesTo (.writeAck i) s (finish (if d = [] then s1 else mergeAt s1 L va d false) L t.toNat .seq) L := by
  intro s1
  have answer := keepsThreads_answered (L := L) o i id
  have kept : KeepsThreads s (if d = [] then s1 else mergeAt s1 L va d false) L := by
    split
    · exact answer
    · exact answer.mergeAt va d false
  obtain ⟨⟨oid, kind, win⟩, out, rfl⟩ := Option.map_eq_some_iff.mp asked
  rw [← storeDone_held (kept.thread t.toNat ▸ held)]
  simp only [GoesTo, exec, execWriteAck, answered, out, List.isEmpty_iff]
  rfl

end

end Sys2Proof.Machine

open Sys2Proof Sys2Proof.Machine in
/-- Settles O23: each response finds its request, and the thread is still held by it when its effect on the core is done. -/
theorem responsesCompleteRequests : Obligations.ResponsesCompleteRequests := by
  unfold Obligations.ResponsesCompleteRequests
  intro s i id L p t rd n va sx acq eight ord no k data d old l z o arrives dst on held s1 isFor acquires loads stores
  have answered {b : Body} (body : p.body = b) : response s i = some (L, b) := body ▸ response_arrives arrives dst on
  refine ⟨fun body asked => ?_, fun body asked installs => ?_, fun body asked installed => ?_, fun body asked => ?_, fun body asked => ?_⟩
  · exact readData_load o (answered body) asked held
  · exact cacheFill_load o (answered body) asked held installs
  · exact cacheFill_store o (answered body) asked held installed
  · exact atomicData_atomic o (answered body) asked held
  · exact writeAck_store o (answered body) asked held
end

section
/-! PROOFS. Landing windows (O34): the checks of `lwopen` in their order, and what the three instructions do. -/

namespace Sys2Proof.Machine
open Sys2Proof.Claims

/-! ### A core that is changed twice -/

/-- A write below every listed key goes to the front. -/
theorem mput_below {α : Type} [DecidableEq α] {d : α} {lo : Nat} {m : SMap α} (rise : risingFrom lo m = true) {k : Nat} (low : k < lo) (v : α) :
    mput d k v m = if v = d then m else (k, v) :: m := by
  cases m with
  | nil => rfl
  | cons e r =>
    simp only [risingFrom, Bool.and_eq_true, decide_eq_true_eq] at rise
    exact if_pos (Nat.lt_of_lt_of_le low rise.1)

/-- Of two writes to a key the later stands. -/
theorem mput_mput {α : Type} [DecidableEq α] {d : α} {lo : Nat} {m : SMap α} (rise : risingFrom lo m = true) (k : Nat) (v w : α) :
    mput d k w (mput d k v m) = mput d k w m := by
  induction m generalizing lo with
  | nil =>
    simp only [mput]
    split
    · rfl
    · simp [mput]
  | cons e r ih =>
    obtain ⟨j, u⟩ := e
    simp only [risingFrom, Bool.and_eq_true, decide_eq_true_eq] at rise
    obtain ⟨-, rest⟩ := rise
    by_cases below : k < j
    · by_cases gone : v = d
      · simp [mput, below, gone]
      · simp [mput, below, gone]
    · by_cases here : k = j
      · subst here
        by_cases gone : v = d
        · simp [mput, gone, mput_below rest]
        · simp [mput, gone]
      · simp [mput, below, here, ih rest]

theorem setCore_setCore {s : State} (rise : rising s.cores = true) (L : Nat) (c d : Core) : setCore (setCore s L c) L d = setCore s L d := by
  simp only [setCore, mput_mput rise]

theorem modCore_modCore {s : State} (rise : rising s.cores = true) (L : Nat) (f g : Core → Core) :
    modCore (modCore s L f) L g = setCore s L (g (f (getCore s L))) := by
  rw [modCore, getCore_modCore rise]
  exact setCore_setCore rise L _ _

/-! ### The checks of `lwopen` (Table: lwopen results) -/

/-- The window that a asks for lies in the scratchpad, in whole lines. -/
def LwInside (a : Word) : Prop :=
  bits a 21 0 % 64 = 0 ∧ bits a 53 32 % 64 = 0 ∧ bits a 53 32 ≠ 0 ∧ bits a 21 0 + bits a 53 32 ≤ 0x280000

/-- The window that a asks for meets an open one. -/
def LwMeets (c : Core) (a : Word) : Prop :=
  ∃ j < 16, (getWin c j).opened = true ∧ (getWin c j).base < bits a 21 0 + bits a 53 32 ∧
    bits a 21 0 < (getWin c j).base + (getWin c j).size

/-- The window that a asks for meets the last-resort slots. -/
def LwLastResort (a : Word) : Prop := bits a 21 0 < 0x80000 ∧ 0x7F800 < bits a 21 0 + bits a 53 32

/-- The other fields of the request are in their ranges. -/
def LwFields (a b : Word) : Prop :=
  bits a 63 54 = 0 ∧ bits a 31 22 = 0 ∧ bits b 63 39 = 0 ∧ bits b 31 27 = 0 ∧ bits b 7 4 = 0 ∧ 1 ≤ bits b 38 32 ∧ bits b 38 32 ≤ 64 ∧
    (b.getLsbD 24 = true → bits b 23 8 = 0) ∧ (b.getLsbD 25 = true ∨ b.getLsbD 26 = true)

section
variable {c : Core} {a b : Word}

theorem not_lwInside_iff :
    (bits a 21 0 % 64 ≠ 0 ∨ bits a 53 32 % 64 ≠ 0 ∨ bits a 53 32 = 0 ∨ spadSize < bits a 21 0 + bits a 53 32) ↔ ¬LwInside a := by
  simp only [LwInside, spadSize]
  omega

theorem lwMeets_iff :
    ((List.range 16).any (fun k => (getWin c k).opened && decide ((getWin c k).base < bits a 21 0 + bits a 53 32) &&
      decide (bits a 21 0 < (getWin c k).base + (getWin c k).size)) = true) ↔ LwMeets c a := by
  simp [LwMeets, and_assoc]

theorem lwLastResort_iff : inLastResort (bits a 21 0) (bits a 53 32) = true ↔ LwLastResort a := by
  simp [inLastResort, LwLastResort]

theorem not_lwFields_iff :
    (bits a 63 54 ≠ 0 ∨ bits a 31 22 ≠ 0 ∨ bits b 63 39 ≠ 0 ∨ bits b 31 27 ≠ 0 ∨ bits b 7 4 ≠ 0 ∨ bits b 38 32 = 0 ∨
      64 < bits b 38 32 ∨ (bit b 24 = true ∧ bits b 23 8 ≠ 0) ∨ (bit b 25 = false ∧ bit b 26 = false)) ↔ ¬LwFields a b := by
  simp only [LwFields, bit, ← Bool.not_eq_true, Nat.one_le_iff_ne_zero]
  rw [← not_le]
  tauto

theorem lwResult_opened (opened : (getWin c (bits b 3 0)).opened = true) : lwResult c a b = 1 := if_pos opened

variable (closed : (getWin c (bits b 3 0)).opened = false)
include closed

theorem lwResult_outside (out : ¬LwInside a) : lwResult c a b = 2 := by
  simp only [lwResult, closed, not_lwInside_iff, out, Bool.false_eq_true, if_false, if_true, not_false_eq_true]

theorem lwResult_meets (inside : LwInside a) (meets : LwMeets c a) : lwResult c a b = 3 := by
  simp only [lwResult, closed, not_lwInside_iff, inside, lwMeets_iff, meets, Bool.false_eq_true, if_false, if_true, not_true_eq_false]

theorem lwResult_lastResort (inside : LwInside a) (apart : ¬LwMeets c a) (last : LwLastResort a) : lwResult c a b = 4 := by
  simp only [lwResult, closed, not_lwInside_iff, inside, lwMeets_iff, apart, lwLastResort_iff, last, Bool.false_eq_true, if_false, if_true,
    not_true_eq_false]

/-- Past the first three tests, the fields decide. -/
theorem lwResult_fields (inside : LwInside a) (apart : ¬LwMeets c a) (clear : ¬LwLastResort a) :
    (¬LwFields a b → lwResult c a b = 5) ∧ (LwFields a b → lwResult c a b = 0) := by
  constructor
  all_goals
    intro fields
    simp only [lwResult, closed, not_lwInside_iff, inside, lwMeets_iff, apart, lwLastResort_iff, clear, not_lwFields_iff, fields,
      Bool.false_eq_true, if_false, if_true, not_true_eq_false, not_false_eq_true]

end

/-! ### The instructions -/

section
variable {s : State} {x : Issue} {rd rs1 rs2 : BitVec 5}

/-- An instruction for supervisors raises 0x02 in user mode. -/
theorem supervised_raises {a : Att} {i : Instr} {rest : State → Nat → Nat → IRes} (r : Ready x a s) (user : (thr s x).mode = .user)
    (he : exec i s = issue x a s (fun σ L t => if !isSup σ L t then .exc σ (faultOf 0x02) else rest σ L t)) :
    Raises i x s (counted s x a) (faultOf 0x02) :=
  raises_to r he (fun σ k => if_pos (by rw [k.isSup, user]; rfl))

/-- In supervisor mode it does what its body does. -/
theorem supervised_does {a : Att} {i : Instr} {rest : State → Nat → Nat → IRes} {z : State} {nx : Nx} (r : Ready x a s)
    (sup : (thr s x).mode = .supervisor)
    (he : exec i s = issue x a s (fun σ L t => if !isSup σ L t then .exc σ (faultOf 0x02) else rest σ L t))
    (hh : ∀ σ, rest s (co x) (th x) ≠ .hold σ) (hb : rest (counted s x a) (co x) (th x) = .done z nx) : Does i x s z nx := by
  have allowed {σ : State} (k : Sees s x σ) : ¬(!isSup σ (co x) (th x)) = true := by rw [k.isSup, sup]; decide
  exact does_to r he (by rw [if_neg (allowed .self)]; exact hh) ((if_neg (allowed (.counted r.order))).trans hb)

/-- In supervisor mode `lwopen` answers the code of its first failing test, and opens nothing. -/
theorem lwopen_fails {n : Nat} (r : Ready x attPort s) (sup : (thr s x).mode = .supervisor)
    (code : lwResult (Claims.core (counted s x attPort) x) (reg s x rs1) (reg s x rs2) = n) (fails : n ≠ 0) :
    Does (.lwopen x rd rs1 rs2) x s (wg (counted s x attPort) (co x) (th x) rd (BitVec.ofNat 64 n)) .seq := by
  refine supervised_does r sup rfl (fun σ => nofun) ?_
  simp only [rg_counted r.order, code, fails, if_false]
  rfl

/-- In supervisor mode `lwopen` answers 0 where its tests pass, and opens the window. -/
theorem lwopen_opens (r : Ready x attPort s) (sup : (thr s x).mode = .supervisor)
    (code : lwResult (Claims.core (counted s x attPort) x) (reg s x rs1) (reg s x rs2) = 0) :
    Does (.lwopen x rd rs1 rs2) x s (wg (setCore (counted s x attPort) (co x)
        (setWin (Claims.core (counted s x attPort) x) (bits (reg s x rs2) 3 0) (lwWindow (reg s x rs1) (reg s x rs2))))
      (co x) (th x) rd (BitVec.ofNat 64 0)) .seq := by
  refine supervised_does r sup rfl (fun σ => nofun) ?_
  simp only [rg_counted r.order, code, if_true]
  rfl

/-- In supervisor mode `lwclose` closes its window and answers how many credits it had (R241). -/
theorem lwclose_does {z : State} {n : Nat} (r : Ready x attPort s) (sup : (thr s x).mode = .supervisor)
    (closes : closeWin (counted s x attPort) (co x) (bits (reg s x rs1) 3 0) = (z, n)) :
    Does (.lwclose x rd rs1) x s (wg z (co x) (th x) rd (BitVec.ofNat 64 n)) .seq := by
  refine supervised_does r sup rfl (fun σ => nofun) ?_
  simp only [rg_counted r.order, closes]
  rfl

/-- `lwstat` answers the word of its window, in either mode. -/
theorem lwstat_does (r : Ready x attPort s) :
    let c := Claims.core (counted s x attPort) x
    let w := bits (reg s x rs1) 3 0
    Does (.lwstat x rd rs1) x s (wg (counted s x attPort) (co x) (th x) rd (BitVec.ofNat 64 (b2n (getWin c w).opened +
      (winCredits c w).length * 2 + (getWin c w).maxCredits * 256 + (getWin c w).drops * 65536))) .seq := by
  refine does_to r rfl (fun σ => nofun) ?_
  simp only [rg_counted r.order]
  rfl

/-- A window without credits closes alone. -/
theorem closeWin_none {L w : Nat} (none : winCredits (getCore s L) w = []) :
    closeWin s L w = (setCore s L (setWin (getCore s L) w { Window.closed with drops := (getWin (getCore s L) w).drops }), 0) := by
  simp only [closeWin, none]
  rfl

/-- The one credit of a window goes into quarantine, and is revoked at its sender (R241, R595). -/
theorem closeWin_one {L w e m q : Nat} {u : Eng} (rise : rising s.cores = true) (one : winCredits (getCore s L) w = [(e, m, q, u)]) :
    closeWin s L w = (sendTo (setCore s L (setCred (setWin (getCore s L) w { Window.closed with drops := (getWin (getCore s L) w).drops })
      e (.quarantine 0))) (.core L) (coreEp s m q) (.creditRevoke u e), 1) := by
  simp only [closeWin, one, List.foldl_cons, List.foldl_nil, modCore_modCore rise]
  rfl

end

end Sys2Proof.Machine

open Sys2Proof Sys2Proof.Machine Sys2Proof.Claims in
/-- Settles O34: the result code of `lwopen` by its first failing test, the window that `lwclose` closes, the word of `lwstat`. -/
theorem landingWindows : Obligations.LandingWindows := by
  unfold Obligations.LandingWindows
  intro x rd rs1 rs2 s r z c a b base size w k lr meets range fields result
  refine ⟨fun user => ?_, fun sup => ?_, ?_⟩
  · exact ⟨supervised_raises r user rfl, supervised_raises r user rfl⟩
  · have answers {n : Nat} (fails : n ≠ 0) (code : lwResult c a b = n) : result z n := lwopen_fails r sup code fails
    refine ⟨fun opened => ?_, fun closed out => ?_, fun closed inside met => ?_, fun closed inside apart last => ?_,
      fun closed inside apart clear bad => ?_, fun closed inside apart clear good => ?_, fun none => ?_, fun e m q u one => ?_⟩
    · exact answers (by decide) (lwResult_opened opened)
    · exact answers (by decide) (lwResult_outside closed out)
    · exact answers (by decide) (lwResult_meets closed inside met)
    · exact answers (by decide) (lwResult_lastResort closed inside apart last)
    · exact answers (by decide) ((lwResult_fields closed inside apart clear).1 bad)
    · exact lwopen_opens r sup ((lwResult_fields closed inside apart clear).2 good)
    · exact lwclose_does r sup (closeWin_none none)
    · exact lwclose_does r sup (closeWin_one (rising_setCore (rising_of_ordered r.order) _ _) one)
  · exact lwstat_does r
end

section
/-! PROOFS. The credit protocol, at the receiver and at the sender (O35). -/

namespace Sys2Proof.Machine
open Sys2Proof.Claims

/-- A packet of a core that is on, which no message holds back, arrives there. -/
theorem arrival_arrives {s : State} {i L : Nat} {p : Packet} {b : Body} (arrives : mayArrive s i = some p) (dst : p.dst = .core L)
    (on : coreOn s L = true) (free : behindMessage (getCore s L) p.body = false) (body : p.body = b) :
    arrival s i = some (L, { src := p.src, dst := .core L, body := b, age := p.age }) := by
  obtain ⟨src, _, _, age⟩ := p
  simp only at dst body free
  subst dst body
  simp only [arrival, arrives, on, free, Bool.not_false, Bool.and_self, if_true]

/-! ### The receiver's judgment (R238) -/

/-- The window admits the sender's module. -/
def PathOk (w : Window) (here m : Nat) : Prop := (if m = here then w.thisModule else w.otherModules) = true

/-- The window admits the sender's task. -/
def PairOk (c : Core) (w : Window) (pair : Pair) : Prop := pair = (if w.ownPair then c.sup.pair else w.pair)

/-- The bytes asked for lie in the window. -/
def Within (w : Window) (off len : Nat) : Prop := w.base ≤ off ∧ off + len ≤ w.base + w.size

/-- The window may hold one more credit, and an entry of the table is free. -/
def CreditRoom (c : Core) (win : Nat) : Prop := (winCredits c win).length < (getWin c win).maxCredits ∧ ∃ e < 64, getCred c e = .free

section
variable {c : Core} {here m win off len : Nat} {pair : Pair} {w : Window}

theorem not_pathOk_iff : (!(if m = here then w.thisModule else w.otherModules)) = true ↔ ¬PathOk w here m := by
  rw [PathOk, Bool.not_eq_true, Bool.not_eq_true']

theorem not_pairOk_iff : pair ≠ (if w.ownPair then c.sup.pair else w.pair) ↔ ¬PairOk c w pair := Iff.rfl

theorem not_within_iff : (off < w.base ∨ w.base + w.size < off + len) ↔ ¬Within w off len := by
  simp only [Within]
  omega

theorem not_creditRoom_iff :
    ((getWin c win).maxCredits ≤ (winCredits c win).length ∨ (List.range 64).all (fun e => getCred c e != .free) = true) ↔
      ¬CreditRoom c win := by
  rw [CreditRoom, not_and_or, Nat.not_lt]
  simp only [List.all_eq_true, List.mem_range, bne_iff_ne, ne_eq, not_exists, not_and]

theorem creditJudge_closed (closed : (getWin c win).opened = false) : creditJudge c here m win off len pair = 1 := by
  simp only [creditJudge, closed, Bool.not_false, if_true]

variable (opened : (getWin c win).opened = true)
include opened

theorem creditJudge_path (path : ¬PathOk (getWin c win) here m) : creditJudge c here m win off len pair = 4 := by
  simp only [creditJudge, opened, not_pathOk_iff, path, Bool.not_true, Bool.false_eq_true, if_false, not_false_eq_true, if_true]

variable (path : PathOk (getWin c win) here m)
include path

theorem creditJudge_pair (other : ¬PairOk c (getWin c win) pair) : creditJudge c here m win off len pair = 3 := by
  simp only [creditJudge, opened, not_pathOk_iff, path, not_pairOk_iff, other, Bool.not_true, Bool.false_eq_true, not_true_eq_false, if_false,
    not_false_eq_true, if_true]

variable (own : PairOk c (getWin c win) pair)
include own

theorem creditJudge_outside (out : ¬Within (getWin c win) off len) : creditJudge c here m win off len pair = 2 := by
  simp only [creditJudge, opened, not_pathOk_iff, path, not_pairOk_iff, own, not_within_iff, out, Bool.not_true, Bool.false_eq_true,
    not_true_eq_false, if_false, not_false_eq_true, if_true]

/-- Past the first four tests, the room decides. -/
theorem creditJudge_room (inside : Within (getWin c win) off len) :
    (¬CreditRoom c win → creditJudge c here m win off len pair = 5) ∧ (CreditRoom c win → creditJudge c here m win off len pair = 0) := by
  constructor
  all_goals
    intro room
    simp only [creditJudge, opened, not_pathOk_iff, path, not_pairOk_iff, own, not_within_iff, inside, not_creditRoom_iff, room, Bool.not_true,
      Bool.false_eq_true, not_true_eq_false, if_false, not_false_eq_true, if_true]

end

/-! ### The receiver's answer -/

section
variable {s : State} {i L m win off len src sid age e r n : Nat} {pair : Pair} {u : Eng} {sender : Ep} {f : Option Nat}

theorem creditReq_refuses
    (arrived : arrival s i = some (L, { src := sender, dst := .core L, body := .creditReq src u m sid win off len pair, age := age }))
    (judged : creditJudge (getCore s L) (moduleId s) m win off len pair = r) (reason : r ≠ 0) :
    exec (.creditReq i) s = .next (sendTo (takePkt s i) (.core L) (coreEp s m src) (.creditRefuse u r)) := by
  obtain ⟨r, rfl⟩ := Nat.exists_eq_succ_of_ne_zero reason
  have judged : creditJudge (getCore (takePkt s i) L) (moduleId (takePkt s i)) m win off len pair = r + 1 := judged
  simp only [exec, execCreditReq, arrived, judged]
  rfl

/-- A grant takes the least free entry (log 52). -/
theorem creditReq_grants
    (arrived : arrival s i = some (L, { src := sender, dst := .core L, body := .creditReq src u m sid win off len pair, age := age }))
    (judged : creditJudge (getCore s L) (moduleId s) m win off len pair = 0)
    (below : e < 64) (free : getCred (getCore s L) e = .free) (least : ∀ j < e, getCred (getCore s L) j ≠ .free) :
    exec (.creditReq i) s = .next (sendTo (setCore (takePkt s i) L (setCred (getCore s L) e (.held win m src u off len 0 pair))) (.core L)
      (coreEp s m src) (.creditGrant u e)) := by
  have judged : creditJudge (getCore (takePkt s i) L) (moduleId (takePkt s i)) m win off len pair = 0 := judged
  have found : (List.range 64).find? (fun e => getCred (getCore (takePkt s i) L) e == .free) = some e :=
    List.find?_range_eq_some.mpr ⟨beq_iff_eq.mpr free, List.mem_range.mpr below, fun j low =>
      (Bool.not_eq_true' _).mpr (beq_eq_false_iff_ne.mpr (least j low))⟩
  simp only [exec, execCreditReq, arrived, judged, found]
  rfl

/-! ### The sender (R238, R241, R251) -/

theorem creditGrant_taken (arrived : arrival s i = some (L, { src := sender, dst := .core L, body := .creditGrant u e, age := age }))
    (asked : engTarget s (getCore s L) u = some sender) (waits : engCredit (getCore s L) u = .asked n f) :
    GoesTo (.creditGrant i) s (setEngCredit (takePkt s i) L u (.held e)) L := by
  simp only [GoesTo, exec, execCreditGrant, arrived, asked, waits, ne_eq, not_true_eq_false, if_false]

theorem creditGrant_ignored (arrived : arrival s i = some (L, { src := sender, dst := .core L, body := .creditGrant u e, age := age }))
    (other : ¬engTarget s (getCore s L) u = some sender) : exec (.creditGrant i) s = .next (takePkt s i) := by
  simp only [exec, execCreditGrant, arrived, ne_eq, other, not_false_eq_true, if_true]

theorem creditRevoke_ignored (arrived : arrival s i = some (L, { src := sender, dst := .core L, body := .creditRevoke u e, age := age }))
    (other : ¬engTarget s (getCore s L) u = some sender) : exec (.creditRevoke i) s = .next (takePkt s i) := by
  simp only [exec, execCreditRevoke, arrived, other, and_false, if_false]

theorem creditRevoke_ends (arrived : arrival s i = some (L, { src := sender, dst := .core L, body := .creditRevoke u e, age := age }))
    (asked : engTarget s (getCore s L) u = some sender) (held : engCredit (getCore s L) u = .held e) :
    GoesTo (.creditRevoke i) s (creditFail (takePkt s i) L u 7) L := by
  simp only [GoesTo, exec, execCreditRevoke, arrived, asked, held, and_self, if_true]

/-- A refusal is counted; NO_WINDOW and BUSY are asked again for 5 ms, and any other ends the remote write. -/
theorem creditRefuse_counts (arrived : arrival s i = some (L, { src := sender, dst := .core L, body := .creditRefuse u r, age := age }))
    (believed : sender = .io ∨ engTarget s (getCore s L) u = some sender) (waits : engCredit (getCore s L) u = .asked n f) :
    let t := modCore (takePkt s i) L (fun c => pmcEvent c 0x1C none 1)
    ((r = 1 ∨ r = 5) ∧ f.getD 0 < 5000 →
      exec (.creditRefuse i) s = .next (setEngReason (setEngCredit t L u (.again (f.getD 0))) L u r)) ∧
    (¬((r = 1 ∨ r = 5) ∧ f.getD 0 < 5000) → GoesTo (.creditRefuse i) s (creditFail t L u r) L) := by
  have heard : ¬(sender ≠ .io ∧ engTarget s (getCore s L) u ≠ some sender) := fun ⟨afar, other⟩ => believed.elim afar other
  refine ⟨fun again => ?_, fun final => ?_⟩
  · simp only [exec, execCreditRefuse, arrived, heard, waits, again.1, again.2, and_self, if_true, if_false]
  · simp only [GoesTo, exec, execCreditRefuse, arrived, heard, waits, final, if_false]

variable {K : BitVec 13}

theorem creditRetry_asks {g : Nat} (on : coreOn s K.toNat = true) (active : (getCore s K.toNat).sup.stopped = false)
    (again : engCredit (getCore s K.toNat) u = .again g) (runs : engRuns (getCore s K.toNat) u = true) (early : g < 5000) :
    exec (.creditRetry K u) s = .next (creditAgain (setEngCredit s K.toNat u (.asked 0 (some g))) K.toNat u) := by
  simp only [exec, execCreditRetry, on, active, again, runs, Nat.not_le.mpr early, Bool.not_true, Bool.or_self, Bool.false_eq_true, if_false]

theorem creditTimeout_ends (on : coreOn s K.toNat = true) (waits : engCredit (getCore s K.toNat) u = .asked n f) (late : 50000 ≤ n) :
    GoesTo (.creditTimeout K u) s (creditFail s K.toNat u 8) K.toNat := by
  simp only [GoesTo, exec, execCreditTimeout, waits, on, late, and_self, if_true]

/-- Quarantine ends after 21 ms (R595). -/
theorem creditQuarantineEnd_frees {entry : BitVec 6} (waits : getCred (getCore s K.toNat) entry.toNat = .quarantine n) (late : 21000 ≤ n) :
    exec (.creditQuarantineEnd K entry) s = .next (setCore s K.toNat (setCred (getCore s K.toNat) entry.toNat .free)) := by
  simp only [exec, execCreditQuarantineEnd, waits, late, if_true]
  rfl

end

end Sys2Proof.Machine

open Sys2Proof Sys2Proof.Machine Sys2Proof.Claims

theorem creditProtocol : Claims.CreditProtocol := by
  intro s i p L K u o arrives dst on free t c asked
  have arrived {b : Body} := arrival_arrives (b := b) arrives dst on free
  refine ⟨fun src m sid win off len pair body => ?_, fun e n f body fromAsked waits => creditGrant_taken (arrived body) fromAsked waits,
    fun e => ⟨fun body other => creditGrant_ignored (arrived body) other, fun body other => creditRevoke_ignored (arrived body) other⟩,
    fun r n f body believed waits => ?_, fun e body fromAsked held => creditRevoke_ends (arrived body) fromAsked held,
    fun active running => ⟨fun f again runs early => creditRetry_asks active running again runs early,
      fun n f waits late => creditTimeout_ends active waits late⟩,
    fun e n waits late => creditQuarantineEnd_frees waits late⟩
  · intro w pairOk pathOk inside room refused
    have refuse {r : Nat} (reason : r ≠ 0) (judged : creditJudge c (moduleId s) m win off len pair = r) : refused r :=
      creditReq_refuses (arrived body) judged reason
    refine ⟨fun closed => ?_, fun opened path => ?_, fun opened path other => ?_, fun opened path own out => ?_,
      fun opened path own within full => ?_, fun e below opened path own within room empty least => ?_⟩
    · exact refuse (by decide) (creditJudge_closed closed)
    · exact refuse (by decide) (creditJudge_path opened path)
    · exact refuse (by decide) (creditJudge_pair opened path other)
    · exact refuse (by decide) (creditJudge_outside opened path own out)
    · exact refuse (by decide) ((creditJudge_room opened path own within).1 full)
    · exact creditReq_grants (arrived body) ((creditJudge_room opened path own within).2 room) below empty least
  · obtain ⟨again, ends⟩ := creditRefuse_counts (arrived body) believed waits
    exact ⟨fun reason early => again ⟨reason, early⟩, fun reason => ends (by omega)⟩
end

section
/-! PROOFS. Remote writes, acknowledgments, the module window and the scrubber (O35). -/

namespace Sys2Proof.Machine
open Sys2Proof.Claims

/-! ### Remote writes (R239, R240, R363) -/

/-- What the signal that rides on a packet of n bytes adds at core L: with the last bytes of the credit (`full`), the bytes, or one (R363). -/
def rideSignal (full : Bool) (n L : Nat) (s : State) : Option RSig → State
  | none => s
  | some g =>
    match g.mode.toNat with
    | 0 => if full then modCore s L (fun c => scAdd c g.cnt.toNat 1) else s
    | 1 => modCore s L (fun c => scAdd c g.cnt.toNat n)
    | 2 => modCore s L (fun c => scAdd c g.cnt.toNat 1)
    | _ => s

section
variable {s : State} {i L e off o n m src win len done age home : Nat} {u v : Eng} {pair pr : Pair} {data : List Byte} {last : Bool}
  {sig : Option RSig} {pos : Nat} {sender : Ep}

section
variable {full : Bool} {j : BitVec 6}

theorem rideSignal_none : rideSignal full n L s none = s := rfl

theorem rideSignal_not_last : rideSignal false n L s (some { mode := 0#2, cnt := j }) = s := rfl

theorem rideSignal_last : rideSignal true n L s (some { mode := 0#2, cnt := j }) = modCore s L (fun c => scAdd c j.toNat 1) := rfl

theorem rideSignal_bytes : rideSignal full n L s (some { mode := 1#2, cnt := j }) = modCore s L (fun c => scAdd c j.toNat n) := rfl

theorem rideSignal_packet : rideSignal full n L s (some { mode := 2#2, cnt := j }) = modCore s L (fun c => scAdd c j.toNat 1) := rfl

end

/-- Bytes short of the end of the credit count toward it. -/
theorem landPacket_part (more : done + data.length < len) :
    landPacket s L e off data sig win m src u o len done pr =
      rideSignal false data.length L
        (modCore (netWrite s L off data []) L (fun c => setCred c e (.held win m src u o len (done + data.length) pr))) sig := by
  simp only [landPacket, Nat.not_le.mpr more, decide_false, Bool.false_eq_true, if_false]
  cases sig <;> rfl

/-- The last bytes of the credit free it and are acknowledged. -/
theorem landPacket_whole (whole : len ≤ done + data.length) :
    landPacket s L e off data sig win m src u o len done pr =
      sendTo (rideSignal true data.length L (modCore (netWrite s L off data []) L (fun c => setCred c e .free)) sig) (.core L)
        (coreEp (rideSignal true data.length L (modCore (netWrite s L off data []) L (fun c => setCred c e .free)) sig) m src)
        (.landingAck u e) := by
  simp only [landPacket, whole, decide_true, if_true]
  cases sig <;> rfl

section
variable (arrived : arrival s i = some (L, { src := sender, dst := .core L, body := .remoteWrite home v e off pair data last sig pos, age := age }))
  (held : getCred (getCore s L) e = .held win m src u o len done pr)
include arrived held

theorem remoteWrite_lands (inside : pair = pr ∧ o ≤ off ∧ off + data.length ≤ o + len) :
    GoesTo (.remoteWrite i) s (landPacket (takePkt s i) L e off data sig win m src u o len done pr) L := by
  simp only [GoesTo, exec, execRemoteWrite, arrived, held, inside, and_self, if_true]

theorem remoteWrite_dropped (outside : ¬(pair = pr ∧ o ≤ off ∧ off + data.length ≤ o + len)) :
    exec (.remoteWrite i) s = .next (modCore (takePkt s i) L (fun c => setWin c win
      { getWin c win with drops := satAdd 0xFFFFFFFF (getWin c win).drops 1 })) := by
  simp only [exec, execRemoteWrite, arrived, held, outside, if_false]
  rfl

end

/-! ### Acknowledgments (R373, R393) -/

theorem landingAck_channel {ch : BitVec 2}
    (arrived : arrival s i = some (L, { src := sender, dst := .core L, body := .landingAck (.dma ch) e, age := age }))
    (asked : engTarget s (getCore s L) (.dma ch) = some sender) (held : (getChan (getCore s L) ch.toNat).credit = .held e)
    (started : (getChan (getCore s L) ch.toNat).started = true)
    (sent : (getChan (getCore s L) ch.toNat).nxt = ddLen (getChan (getCore s L) ch.toNat).desc) :
    let q := getChan (getCore s L) ch.toNat
    exec (.landingAck i) s = .next (modChan (modCore (takePkt s i) L (fun c => pmcEvent c 0x1D none (ddLen q.desc - q.creditFrom))) L ch.toNat
      (fun q => { q with credit := .none, pos := ddLen q.desc })) := by
  have believed : ¬(engCredit (getCore s L) (.dma ch) ≠ .held e ∨ engTarget s (getCore s L) (.dma ch) ≠ some sender) :=
    fun unheard => unheard.elim (· held) (· asked)
  simp only [exec, execLandingAck, arrived, believed, started, sent, and_self, if_true, if_false]

theorem landingAck_slot {sl : BitVec 3} {d : Desc} {r : List Desc}
    (arrived : arrival s i = some (L, { src := sender, dst := .core L, body := .landingAck (.slot sl) e, age := age }))
    (asked : engTarget s (getCore s L) (.slot sl) = some sender) (held : (getSlot (getCore s L) sl.toNat).credit = .held e)
    (queue : (getSlot (getCore s L) sl.toNat).queue = d :: r) (sent : (getSlot (getCore s L) sl.toNat).nxt = sdUnits d.w)
    (got : (getSlot (getCore s L) sl.toNat).got = []) (outs : slotOuts (getCore s L) sl.toNat = []) (uncounted : sdCntEn d.w = false) :
    GoesTo (.landingAck i) s (slotNext (modCore (takePkt s i) L (fun c =>
      pmcEvent c 0x1E none (sdBytes d.w - (getSlot (getCore s L) sl.toNat).creditFrom))) L sl.toNat) L := by
  have believed : ¬(engCredit (getCore s L) (.slot sl) ≠ .held e ∨ engTarget s (getCore s L) (.slot sl) ≠ some sender) :=
    fun unheard => unheard.elim (· held) (· asked)
  simp only [GoesTo, exec, execLandingAck, arrived, believed, queue, sent, got, outs, uncounted, List.isEmpty_nil, List.all_nil, and_self,
    Bool.false_eq_true, if_true, if_false]

/-! ### The module window (R234) -/

/-- A read that meets no single-bit error changes nothing. -/
theorem spadMeet_clean (clean : badIn (getCore s L).spad.ce off n = []) : spadMeet s L off n = s := by
  simp only [spadMeet, clean]

theorem windowRequest_read {id : Nat} {who : Who}
    (arrived : arrival s i = some (L, { src := sender, dst := .core L, body := .read id (.spad L off) n who, age := age }))
    (whole : badIn (getCore s L).spad.ue off n = []) (clean : badIn (getCore s L).spad.ce off n = []) :
    exec (.windowRequest i) s =
      .next (sendTo (takePkt s i) (.core L) sender (.readData id (readBytes (getCore s L).spad.mem off n) [] (bulkWho who false))) := by
  have met : spadMeet (takePkt s i) L off n = takePkt s i := spadMeet_clean clean
  simp only [exec, execWindowRequest, arrived, ne_eq, not_true_eq_false, if_false, spadRead, whole, met, List.foldl_nil, List.map_nil]

theorem windowRequest_write {id : Nat} {who : Who} {runs : List (Nat × List Byte)} {bad : List Nat}
    (arrived : arrival s i = some (L, { src := sender, dst := .core L, body := .write id (.spad L off) runs bad who, age := age })) :
    exec (.windowRequest i) s =
      .next (sendTo (runs.foldl (fun z r => netWrite z L (off + r.1) r.2 bad) (takePkt s i)) (.core L) sender (.writeAck id)) := by
  simp only [exec, execWindowRequest, arrived, ne_eq, not_true_eq_false, if_false]

end

/-! ### Marked words of a range -/

section
variable {marks : List Nat} {a n j k : Nat}

theorem mem_insertNat : j ∈ insertNat k marks ↔ j = k ∨ j ∈ marks := by
  induction marks with
  | nil => simp [insertNat]
  | cons h r ih =>
    rw [insertNat]
    split
    · exact List.mem_cons
    · split
      · next same => simp [same]
      · rw [List.mem_cons, ih, List.mem_cons]
        exact or_left_comm

theorem badIn_nil_iff : badIn marks a n = [] ↔ ∀ w ∈ wordsTouched a n, w ∉ marks := by
  simp [badIn]

theorem nodup_wordsTouched : (wordsTouched a n).Nodup := by
  unfold wordsTouched
  split
  · exact List.nodup_nil
  · exact List.nodup_range.map (add_left_injective _)

/-- One marked word among those that a range touches. -/
theorem badIn_one (touched : k ∈ wordsTouched a n) (only : ∀ w ∈ wordsTouched a n, w ∈ marks ↔ w = k) : badIn marks a n = [k] := by
  have same : badIn marks a n = (wordsTouched a n).filter (· == k) :=
    List.filter_congr (fun w hw => by rw [Bool.eq_iff_iff, List.contains_iff_mem, beq_iff_eq, only w hw])
  rw [same, List.filter_beq, List.count_eq_one_of_mem nodup_wordsTouched touched]
  rfl

/-- A new mark is the only one where there was none. -/
theorem badIn_insertNat (touched : k ∈ wordsTouched a n) (whole : badIn marks a n = []) : badIn (insertNat k marks) a n = [k] :=
  badIn_one touched (fun w hw => by simp [mem_insertNat, badIn_nil_iff.mp whole w hw])

/-- The word that follows w others in a beat of 64 bytes is touched by the beat. -/
theorem beat_touches {o w : Nat} (aligned : o % 64 = 0) (below : w < 8) : o / 8 + w ∈ wordsTouched o 64 :=
  mem_wordsTouched.mpr ⟨by decide, by omega, by omega⟩

end

/-! ### The scrubber (R229, R230) -/

/-- Core L after the scrubber's visit of a beat, with the marks ue and ce: the pending corrections are written back and the visit is counted. -/
def scrubTo (s : State) (L : Nat) (ue ce : List Nat) : State :=
  setCore s L { pmcEvent (getCore s L) 0x1F none 1 with
    spad := { (getCore s L).spad with
      ue := ue, ce := ce, scrubPos := ((getCore s L).spad.scrubPos + 64) % 0x280000, scrubFix := [] } }

/-- The words of scratchpad p with a single-bit error after the write-back of the corrected ones, and of ws. -/
def scrubLeft (p : Spad) (ue ws : List Nat) : List Nat :=
  (addBad (p.ce.filter (fun w => !p.scrubFix.contains w)) ws).filter (fun w => !ue.contains w)

section
variable {s : State} {L o w n : Nat} {ue ce : List Nat}

theorem getCore_scrubTo (rise : rising s.cores = true) : getCore (scrubTo s L ue ce) L = { pmcEvent (getCore s L) 0x1F none 1 with
    spad := { (getCore s L).spad with
      ue := ue, ce := ce, scrubPos := ((getCore s L).spad.scrubPos + 64) % 0x280000, scrubFix := [] } } :=
  getCore_setCore rise L _

theorem spad_pmcEvent (c : Core) (ev : Nat) (t : Option Nat) (n : Nat) : (pmcEvent c ev t n).spad = c.spad := by
  obtain ⟨p, counts⟩ := pmcEvent_perf c ev t n
  rw [counts]

/-- A visit writes the pending corrections back, and then reads its beat: corrected words wait for their write-back, and uncorrectable ones are
recorded. -/
theorem scrubVisit_reads {K : BitVec 13} {ecc : Ecc} {bad hurt : List Nat} (on : coreOn s K.toNat = true)
    (uncorrectable : bad = (ecc.uncorrectable.filter (fun k => decide (k < 8))).map (· + (getCore s K.toNat).spad.scrubPos / 8))
    (corrected : hurt = (ecc.corrected.filter (fun k => decide (k < 8))).map (· + (getCore s K.toNat).spad.scrubPos / 8)) :
    exec (.scrubVisit K ecc) s = .next ((badIn (addBad (getCore s K.toNat).spad.ue bad) (getCore s K.toNat).spad.scrubPos 64).foldl
      (fun z k => noteSpadUE z K.toNat (8 * k))
      (spadMeet (scrubTo s K.toNat (addBad (getCore s K.toNat).spad.ue bad)
        (scrubLeft (getCore s K.toNat).spad (addBad (getCore s K.toNat).spad.ue bad) hurt)) K.toNat (getCore s K.toNat).spad.scrubPos 64)) := by
  subst uncorrectable corrected
  simp only [exec, execScrubVisit, on, Bool.not_true, Bool.false_eq_true, if_false, spad_pmcEvent]
  rfl

/-- A read that meets one word with a single-bit error notes its write-back, and counts it. -/
theorem spadMeet_one (rise : rising s.cores = true) (met : badIn (getCore s L).spad.ce o n = [w]) :
    (getCore (spadMeet s L o n) L).spad = { (getCore s L).spad with scrubFix := insertNat w (getCore s L).spad.scrubFix } ∧
      (frozen (getCore s L) = false →
        (getCore (spadMeet s L o n) L).perf =
          { (getCore s L).perf with spadCorr := satAdd 0xFFFFFFFF (getCore s L).perf.spadCorr 1 }) := by
  have same (p : Spad) : frozen { getCore s L with spad := p } = frozen (getCore s L) := rfl
  simp only [spadMeet, met, getCore_setCore rise, same]
  refine ⟨?_, fun counting => ?_⟩
  · split <;> rfl
  · simp only [counting, Bool.false_eq_true, if_false]
    rfl

/-- A word of a beat, as the check of the beat numbers it. -/
theorem beat_word (below : w < 8) : [o / 8 + w] = ([w].filter (fun k => decide (k < 8))).map (· + o / 8) := by
  simp [below, Nat.add_comm]

end

/-- Core L is on, and the scrubber's next beat there holds no marked word once the pending corrections are written back. -/
structure CleanBeat (s : State) (L : Nat) : Prop where
  rise : rising s.cores = true
  on : coreOn s L = true
  whole : badIn (getCore s L).spad.ue (getCore s L).spad.scrubPos 64 = []
  clean : badIn (scrubLeft (getCore s L).spad (getCore s L).spad.ue []) (getCore s L).spad.scrubPos 64 = []
  aligned : (getCore s L).spad.scrubPos % 64 = 0

section
variable {s : State} {K : BitVec 13} {w k : Nat}

/-- No word of the beat has a single-bit error that is left. -/
theorem CleanBeat.corrected {L : Nat} (b : CleanBeat s L) (touched : k ∈ wordsTouched (getCore s L).spad.scrubPos 64) :
    k ∉ (getCore s L).spad.ce.filter (fun w => !(getCore s L).spad.scrubFix.contains w) := by
  intro left
  have sound := badIn_nil_iff.mp b.whole k touched
  refine badIn_nil_iff.mp b.clean k touched (List.mem_filter.mpr ⟨left, ?_⟩)
  simpa using sound

/-- A new error of a word is the only one of its beat. -/
theorem CleanBeat.corrects {L : Nat} (b : CleanBeat s L) (touched : k ∈ wordsTouched (getCore s L).spad.scrubPos 64) :
    badIn (scrubLeft (getCore s L).spad (getCore s L).spad.ue [k]) (getCore s L).spad.scrubPos 64 = [k] := by
  refine badIn_one touched (fun j inBeat => ?_)
  have sound : (!(getCore s L).spad.ue.contains j) = true := by simpa using badIn_nil_iff.mp b.whole j inBeat
  rw [scrubLeft, List.mem_filter, addBad, List.foldl_cons, List.foldl_nil, mem_insertNat]
  simp only [b.corrected inBeat, sound, or_false, and_true]

/-- A word of the beat that is found uncorrectable takes no other mark away. -/
theorem CleanBeat.left_insertNat {L : Nat} (b : CleanBeat s L) (touched : k ∈ wordsTouched (getCore s L).spad.scrubPos 64) :
    scrubLeft (getCore s L).spad (insertNat k (getCore s L).spad.ue) [] = scrubLeft (getCore s L).spad (getCore s L).spad.ue [] := by
  refine List.filter_congr (fun j left => ?_)
  have other : j ≠ k := fun same => b.corrected touched (same ▸ left)
  simp [mem_insertNat, other]

/-- A visit that finds nothing goes on. -/
theorem scrubVisit_finds_nothing (b : CleanBeat s K.toNat) :
    exec (.scrubVisit K { corrected := [], uncorrectable := [] }) s =
      .next (scrubTo s K.toNat (getCore s K.toNat).spad.ue (scrubLeft (getCore s K.toNat).spad (getCore s K.toNat).spad.ue [])) := by
  rw [scrubVisit_reads (bad := []) (hurt := []) b.on rfl rfl]
  simp only [addBad, List.foldl_nil, b.whole]
  rw [spadMeet_clean (by rw [getCore_scrubTo b.rise]; exact b.clean)]

/-- A visit that corrects a word notes its write-back, and counts it. -/
theorem scrubVisit_corrects (b : CleanBeat s K.toNat) (below : w < 8) (word : (getCore s K.toNat).spad.scrubPos / 8 + w = k) :
    ∃ t : State, exec (.scrubVisit K { corrected := [w], uncorrectable := [] }) s = .next t ∧
      (getCore t K.toNat).spad = { (getCore (scrubTo s K.toNat (getCore s K.toNat).spad.ue
        (scrubLeft (getCore s K.toNat).spad (getCore s K.toNat).spad.ue [k])) K.toNat).spad with scrubFix := [k] } ∧
      (frozen (pmcEvent (getCore s K.toNat) 0x1F none 1) = false →
        (getCore t K.toNat).perf = { (pmcEvent (getCore s K.toNat) 0x1F none 1).perf with
          spadCorr := satAdd 0xFFFFFFFF (pmcEvent (getCore s K.toNat) 0x1F none 1).perf.spadCorr 1 }) := by
  have touched : k ∈ wordsTouched (getCore s K.toNat).spad.scrubPos 64 := word ▸ beat_touches b.aligned below
  have visited := scrubVisit_reads (ecc := { corrected := [w], uncorrectable := [] }) (bad := []) (hurt := [k]) b.on rfl
    (word ▸ beat_word below)
  simp only [addBad, List.foldl_nil, b.whole] at visited
  refine ⟨_, visited, ?_⟩
  have core := getCore_scrubTo (L := K.toNat) (ue := (getCore s K.toNat).spad.ue)
    (ce := scrubLeft (getCore s K.toNat).spad (getCore s K.toNat).spad.ue [k]) b.rise
  have rise : rising (scrubTo s K.toNat (getCore s K.toNat).spad.ue
    (scrubLeft (getCore s K.toNat).spad (getCore s K.toNat).spad.ue [k])).cores = true := rising_setCore b.rise _ _
  generalize scrubTo s K.toNat (getCore s K.toNat).spad.ue
    (scrubLeft (getCore s K.toNat).spad (getCore s K.toNat).spad.ue [k]) = z at core rise ⊢
  obtain ⟨spad, perf⟩ := spadMeet_one rise (show badIn (getCore z K.toNat).spad.ce _ 64 = [k] by rw [core]; exact b.corrects touched)
  refine ⟨?_, fun counting => ?_⟩
  · rw [spad, core]
    rfl
  · rw [perf (by rw [core]; exact counting), core]

/-- A visit that finds an uncorrectable word marks it and records it. -/
theorem scrubVisit_records (b : CleanBeat s K.toNat) (below : w < 8) (word : (getCore s K.toNat).spad.scrubPos / 8 + w = k) :
    exec (.scrubVisit K { corrected := [], uncorrectable := [w] }) s =
      .next (noteSpadUE (scrubTo s K.toNat (insertNat k (getCore s K.toNat).spad.ue)
        (scrubLeft (getCore s K.toNat).spad (getCore s K.toNat).spad.ue [])) K.toNat (8 * k)) := by
  have touched : k ∈ wordsTouched (getCore s K.toNat).spad.scrubPos 64 := word ▸ beat_touches b.aligned below
  have visited := scrubVisit_reads (ecc := { corrected := [], uncorrectable := [w] }) (bad := [k]) (hurt := []) b.on
    (word ▸ beat_word below) rfl
  rw [spadMeet_clean (by rw [getCore_scrubTo b.rise]; exact (congrArg (badIn · _ 64) (b.left_insertNat touched)).trans b.clean)] at visited
  simp only [addBad, List.foldl_cons, List.foldl_nil, badIn_insertNat touched b.whole, b.left_insertNat touched] at visited
  exact visited

end

end Sys2Proof.Machine

open Sys2Proof Sys2Proof.Machine Sys2Proof.Claims

theorem remoteWritesAndWindows : Claims.RemoteWritesAndWindows := by
  intro s i p L u v e off o n k pair pr data last sig pos win m src len done id bad runs who K order arrives dst on free t c
  have arrived {b : Body} := arrival_arrives (b := b) arrives dst on free
  refine ⟨fun body held => ?_, fun ch unit asked body held started sent => ?_, fun sl d r unit asked body held queue sent got outs uncounted => ?_,
    fun body whole clean => windowRequest_read (arrived body) whole clean, fun body => windowRequest_write (arrived body), fun active => ?_⟩
  · intro inside part whole ack add
    refine ⟨fun outside => remoteWrite_dropped (arrived body) held outside, fun within more => ?_, fun within last => ?_⟩
    · have lands := remoteWrite_lands (arrived body) held within
      rw [landPacket_part more] at lands
      have rides {g : Option RSig} {z : State} (h : sig = g) (adds : rideSignal false data.length L part g = z) :
          GoesTo (.remoteWrite i) s z L := adds ▸ h ▸ lands
      exact ⟨fun h => rides h rideSignal_none, fun j h => rides h rideSignal_not_last, fun j h => rides h rideSignal_bytes,
        fun j h => rides h rideSignal_packet⟩
    · have lands := remoteWrite_lands (arrived body) held within
      rw [landPacket_whole last] at lands
      have rides {g : Option RSig} {z : State} (h : sig = g) (adds : rideSignal true data.length L whole g = z) :
          GoesTo (.remoteWrite i) s (ack z) L := adds ▸ h ▸ lands
      exact ⟨fun h => rides h rideSignal_none, fun j h => rides h rideSignal_last, fun j h => rides h rideSignal_bytes,
        fun j h => rides h rideSignal_packet⟩
  · subst unit
    exact landingAck_channel (arrived body) asked held started sent
  · subst unit
    exact landingAck_slot (arrived body) asked held queue sent got outs uncounted
  · intro c d o left goes whole clean aligned
    have beat : CleanBeat s K.toNat := ⟨rising_of_ordered order, active, whole, clean, aligned⟩
    refine ⟨scrubVisit_finds_nothing beat, fun w below => ?_⟩
    obtain ⟨z, visited, spad, perf⟩ := scrubVisit_corrects beat below rfl
    exact ⟨z, visited, spad, perf, scrubVisit_records beat below rfl⟩

/-- Settles O35: the receiver judges a request in order, and each answer finds the unit that it is for; a packet inside its credit lands, and
the last one frees it. -/
theorem creditsAndRemoteWrites : Obligations.CreditsAndRemoteWrites := ⟨creditProtocol, remoteWritesAndWindows⟩
end

section
/-! PROOFS. Stream slots (O36): the instructions, the slot commands, the start of a descriptor and the responses. -/

namespace Sys2Proof.Machine
open Sys2Proof.Claims

/-! ### A slot after a change of it -/

section
variable {s t : State} {L k : Nat} {q : Slot}

theorem slots_rising (o : s.ordered = true) (L : Nat) : rising (getCore s L).slots = true := by
  have oc := core_ordered o L
  simp only [Core.ordered, Bool.and_eq_true] at oc
  obtain ⟨⟨⟨-, slots⟩, -⟩, -⟩ := oc
  exact slots

/-- Two changes of a slot that agree on it change the module alike. -/
theorem modSlot_congr {f g : Slot → Slot} (agree : f (getSlot (getCore s L) k) = g (getSlot (getCore s L) k)) :
    modSlot s L k f = modSlot s L k g := by
  rw [modSlot, modCore, agree]
  rfl

/-- From s to t slot k of core L has become q; the core's other slots and the other cores stand as they did. -/
structure SlotTo (s t : State) (L k : Nat) (q : Slot) : Prop where
  cores : rising t.cores = true
  slots : rising (getCore t L).slots = true
  slot : getSlot (getCore t L) k = q
  same : ∀ j, j ≠ k → getSlot (getCore t L) j = getSlot (getCore s L) j
  others : ∀ K, K ≠ L → getCore t K = getCore s K

/-- A change of the core that changes slot k by g, and no other slot. -/
theorem SlotTo.change (h : SlotTo s t L k q) {f : Core → Core} (g : Slot → Slot)
    (keeps : ∀ c, (f c).slots = (setSlot c k (g (getSlot c k))).slots) : SlotTo s (modCore t L f) L k (g q) := by
  obtain ⟨cores, slots, slot, same, others⟩ := h
  have changed (j : Nat) : getSlot (getCore (modCore t L f) L) j = getSlot (setSlot (getCore t L) k (g q)) j := by
    rw [getCore_modCore cores, getSlot, keeps, slot]
    rfl
  refine ⟨rising_modCore cores L f, ?_, ?_, fun j hj => ?_, fun K hK => ?_⟩
  · rw [getCore_modCore cores, keeps]
    exact rising_mput slots k _
  · exact (changed k).trans (mget_mput_same slots k _)
  · exact (changed j).trans ((mget_mput_other _ _ _ hj).trans (same j hj))
  · exact (getCore_modCore_other t f hK).trans (others K hK)

/-- A change of other parts of the core. -/
theorem SlotTo.other_units (h : SlotTo s t L k q) {f : Core → Core} (keeps : ∀ c, (f c).slots = c.slots) :
    SlotTo s (modCore t L f) L k q := by
  obtain ⟨cores, slots, slot, same, others⟩ := h
  have changed : (getCore (modCore t L f) L).slots = (getCore t L).slots := by rw [getCore_modCore cores, keeps]
  refine ⟨rising_modCore cores L f, changed ▸ slots, ?_, fun j hj => ?_, fun K hK => ?_⟩
  · rw [getSlot, changed]
    exact slot
  · rw [getSlot, changed]
    exact same j hj
  · exact (getCore_modCore_other t f hK).trans (others K hK)

/-- The slot whose active descriptor has left (R256, R258). -/
def leftSlot (q : Slot) : Slot :=
  match q.queue.drop 1 with
  | [] => { Slot.reset with cmdIgnored := q.cmdIgnored, err := q.err, creditReason := q.creditReason }
  | r => { q with queue := r, started := q.early && !q.earlyBad, nxt := if q.earlyBad then 0 else q.nxtEarly, early := false,
                  nxtEarly := 0, earlyBad := false, pos := 0, rel := 0, counted := 0, failed := [], credit := .none, creditFrom := 0,
                  got := [] }

theorem SlotTo.modSlot (h : SlotTo s t L k q) (g : Slot → Slot) : SlotTo s (modSlot t L k g) L k (g q) := h.change g (fun _ => rfl)

theorem SlotTo.cancelForward (h : SlotTo s t L k q) (n : Nat) : SlotTo s (cancelForward t L n) L k q := h.other_units (fun _ => rfl)

theorem SlotTo.next (h : SlotTo s t L k q) : SlotTo s (slotNext t L k) L k (leftSlot q) := h.change leftSlot (fun _ => rfl)

/-- FLUSH leaves the slot reset but for what it keeps for the program to read (R262). -/
theorem slotTo_flush (h : SlotTo s t L k q) :
    SlotTo s (slotFlush t L k) L k { Slot.reset with cmdIgnored := q.cmdIgnored, err := q.err, creditReason := q.creditReason } := by
  refine SlotTo.cancelForward ?_ (20 + k)
  exact h.change (fun q => { Slot.reset with cmdIgnored := q.cmdIgnored, err := q.err, creditReason := q.creditReason }) (fun _ => rfl)

theorem slotOuts_dropSlotOuts (c : Core) (k : Nat) : slotOuts (dropSlotOuts c k) k = [] := by
  refine List.filterMap_eq_nil_iff.mpr (fun o listed => ?_)
  have keeps := (List.mem_filter.mp listed).2
  split
  · next sl e lo hi w stream =>
    rw [stream] at keeps
    exact if_neg (bne_iff_ne.mp keeps)
  · rfl

/-- FLUSH forgets the slot's requests. -/
theorem slotOuts_slotFlush (rise : rising s.cores = true) : slotOuts (getCore (slotFlush s L k) L) k = [] := by
  rw [slotFlush, cancelForward, getCore_modCore (rising_modCore rise _ _), getCore_modCore rise]
  exact slotOuts_dropSlotOuts _ k

end

/-! ### What the slot instructions see -/

section
variable {s σ : State} {x : Issue} {a : Att} {i : Instr} {body : State → Nat → Nat → IRes}

/-- What does not look at the performance counters is as in s. -/
theorem Sees.agree {α : Type} (h : Sees s x σ) (g : Core → α) (ignores : ∀ c p, g { c with perf := p } = g c) :
    g (getCore σ (co x)) = g (Claims.core s x) := by
  obtain ⟨p, hp⟩ := h
  rw [hp]
  exact ignores _ p

theorem Sees.slot (h : Sees s x σ) (k : Nat) : getSlot (getCore σ (co x)) k = getSlot (Claims.core s x) k :=
  h.agree (getSlot · k) (fun _ _ => rfl)

/-- Counting the issue leaves every slot. -/
theorem slotTo_counted (o : s.ordered = true) (k : Nat) : SlotTo s (counted s x a) (co x) k (getSlot (Claims.core s x) k) := by
  have sees : Sees s x (counted s x a) := .counted o
  refine ⟨rising_modCore (rising_of_ordered o) _ _, ?_, sees.slot k, fun j _ => sees.slot j, fun K hK => getCore_modCore_other s _ hK⟩
  obtain ⟨p, hp⟩ := sees
  rw [hp]
  exact slots_rising o _

theorem Sees.segAvail (h : Sees s x σ) (k j : Nat) : segAvail (getCore σ (co x)) k j = segAvail (Claims.core s x) k j :=
  h.agree (Machine.segAvail · k j) (fun _ _ => rfl)

theorem Sees.segWord (h : Sees s x σ) (k : Nat) : segWord (getCore σ (co x)) k = segWord (Claims.core s x) k :=
  h.agree (Machine.segWord · k) (fun _ _ => rfl)

theorem Sees.slotOuts (h : Sees s x σ) (k : Nat) : slotOuts (getCore σ (co x)) k = slotOuts (Claims.core s x) k :=
  h.agree (Machine.slotOuts · k) (fun _ _ => rfl)

theorem Sees.spad (h : Sees s x σ) : (getCore σ (co x)).spad = (Claims.core s x).spad := h.agree Core.spad (fun _ _ => rfl)

theorem Sees.spadRead (h : Sees s x σ) (b n : Nat) :
    spadRead σ (co x) b n = (spadBytes s x b n, badIn (Claims.core s x).spad.ue b n) := by
  simp only [Machine.spadRead, h.spad, readBytes_eq_map]
  rfl

theorem Sees.spadMeet_clean (h : Sees s x σ) {b n : Nat} (clean : badIn (Claims.core s x).spad.ce b n = []) :
    spadMeet σ (co x) b n = σ := by
  simp only [Machine.spadMeet, h.spad, clean]

theorem Sees.watch_none (h : Sees s x σ) (watch : noWatch s x) (b n : Nat) (rd wr : Bool) :
    Machine.watch σ (co x) (th x) b n rd wr = σ :=
  Machine.watch_none ((h.agree (·.dbg.wp) (fun _ _ => rfl)).trans watch) _ _ _ _ _

/-- An instruction that goes on in the state g of the one it runs in. -/
theorem does_by {nx : Nx} (g : State → State) (r : Ready x a s) (he : exec i s = issue x a s body)
    (hb : ∀ σ, Sees s x σ → body σ (co x) (th x) = .done (g σ) nx) : Does i x s (g (counted s x a)) nx :=
  does_to r he (by rw [hb s .self]; exact fun _ => nofun) (hb _ (.counted r.order))

/-- An instruction that raises a fault in the state g of the one it runs in. -/
theorem raises_by {f : FInfo} (g : State → State) (r : Ready x a s) (he : exec i s = issue x a s body)
    (hb : ∀ σ, Sees s x σ → body σ (co x) (th x) = .exc (g σ) f) : Raises i x s (g (counted s x a)) f := by
  have runs := issue_runs (body := body) r.runs (by rw [hb s .self]; exact fun _ => nofun)
  rw [hb _ (.counted r.order)] at runs
  exact he.trans runs

/-- An instruction that waits for w in the state it runs in. -/
theorem sleeps_to {w : Wait} {cls : Nat} (r : Ready x a s) (he : exec i s = issue x a s body)
    (hb : ∀ σ, Sees s x σ → body σ (co x) (th x) = .wait σ w cls) : Sleeps i x s (counted s x a) w cls := by
  have runs := issue_runs (body := body) r.runs (by rw [hb s .self]; exact fun _ => nofun)
  rw [hb _ (.counted r.order)] at runs
  exact he.trans runs

end

/-! ### `st.q` (R253) -/

section
variable {s : State} {x : Issue} {slot : BitVec 3} {rs : BitVec 5}

/-- The attributes of `st.q`, a stream instruction that accesses memory. -/
abbrev attStQ : Att := { attStream with mem := true }

/-- A slot that has taken the descriptor at offset b of the issuing thread's scratchpad. -/
def queuedSlot (s : State) (x : Issue) (b : Nat) (q : Slot) : Slot :=
  { q with
    queue := q.queue ++ [{ w := wordsOf 8 (spadBytes s x b 64), thread := x.thread, mode := (thr s x).mode }]
    st := if q.st = 0 then 1 else q.st }

theorem stQ_misaligned (r : Ready x attStQ s) (odd : (reg s x rs).toNat % 64 ≠ 0) :
    Raises (.stQ x slot rs) x s (counted s x attStQ) (faultAt 0x03 (reg s x rs).toNat false 64) := by
  refine raises_to r rfl (fun σ sees => ?_)
  simp only [sees.reg]
  exact if_pos odd

theorem stQ_outside (r : Ready x attStQ s) (aligned : (reg s x rs).toNat % 64 = 0) (out : 0x280000 < (reg s x rs).toNat + 64) :
    Raises (.stQ x slot rs) x s (counted s x attStQ) (faultAt 0x05 (reg s x rs).toNat false 64) := by
  refine raises_to r rfl (fun σ sees => ?_)
  simp only [sees.reg, aligned, spadSize, out, ne_eq, not_true_eq_false, if_true, if_false]

section
variable (r : Ready x attStQ s) (aligned : (reg s x rs).toNat % 64 = 0) (inside : (reg s x rs).toNat + 64 ≤ 0x280000)
  (clean : badIn (Claims.core s x).spad.ce (reg s x rs).toNat 64 = [])
include r aligned inside clean

/-- A descriptor with an uncorrectable word is a data error, and the word is recorded (R228). -/
theorem stQ_uncorrectable (hurt : badIn (Claims.core s x).spad.ue (reg s x rs).toNat 64 ≠ []) :
    Raises (.stQ x slot rs) x s (noteLocalUE (counted s x attStQ) (co x) (reg s x rs).toNat 64)
      (faultAt 0x0D (reg s x rs).toNat false 64) := by
  refine raises_by (fun σ => noteLocalUE σ (co x) (reg s x rs).toNat 64) r rfl (fun σ sees => ?_)
  simp only [sees.reg, sees.spadRead, sees.spadMeet_clean clean, aligned, spadSize, Nat.not_lt.mpr inside, ne_eq, not_true_eq_false,
    List.isEmpty_eq_false_iff.mpr hurt, Bool.not_false, if_true, if_false]

/-- The descriptor goes behind those in the slot's queue; an IDLE slot runs. -/
theorem stQ_queues (watch : noWatch s x) (whole : badIn (Claims.core s x).spad.ue (reg s x rs).toNat 64 = [])
    (room : (getSlot (Claims.core s x) slot.toNat).queue.length < 4) :
    Does (.stQ x slot rs) x s (modSlot (counted s x attStQ) (co x) slot.toNat (queuedSlot s x (reg s x rs).toNat)) .seq := by
  refine does_by (fun σ => modSlot σ (co x) slot.toNat (queuedSlot s x (reg s x rs).toNat)) r rfl (fun σ sees => ?_)
  simp only [sees.reg, sees.spadRead, sees.spadMeet_clean clean, sees.slot, sees.thread, sees.watch_none watch, aligned, spadSize,
    Nat.not_lt.mpr inside, whole, Nat.not_le.mpr room, ne_eq, not_true_eq_false, List.isEmpty_nil, Bool.not_true, Bool.false_eq_true,
    if_false, BitVec.ofNat_toNat, BitVec.setWidth_eq]
  rfl

end

/-! ### `st.wait` and `st.rel` (R254–R256) -/

section
variable {rd : BitVec 5} (r : Ready x attStream s)
include r

theorem stWait_empty (empty : (getSlot (Claims.core s x) slot.toNat).queue = []) :
    Does (.stWait x rd slot) x s (wg (counted s x attStream) (co x) (th x) rd 0#64) .seq := by
  refine does_by (fun σ => wg σ (co x) (th x) rd 0#64) r rfl (fun σ sees => ?_)
  simp only [sees.slot, empty, List.isEmpty_nil, if_true]

section
variable (full : (getSlot (Claims.core s x) slot.toNat).queue ≠ [])
include full

theorem stWait_available (ready : segAvail (Claims.core s x) slot.toNat (getSlot (Claims.core s x) slot.toNat).rel = true) :
    Does (.stWait x rd slot) x s (wg (counted s x attStream) (co x) (th x) rd (segWord (Claims.core s x) slot.toNat)) .seq := by
  refine does_by (fun σ => wg σ (co x) (th x) rd (segWord (Claims.core s x) slot.toNat)) r rfl (fun σ sees => ?_)
  simp only [sees.slot, sees.segAvail, sees.segWord, List.isEmpty_eq_false_iff.mpr full, ready, Bool.false_eq_true, if_true, if_false]

theorem stWait_sleeps (missing : segAvail (Claims.core s x) slot.toNat (getSlot (Claims.core s x) slot.toNat).rel = false) :
    Sleeps (.stWait x rd slot) x s (counted s x attStream) (.stream slot rd) 8 := by
  refine sleeps_to r rfl (fun σ sees => ?_)
  simp only [sees.slot, sees.segAvail, List.isEmpty_eq_false_iff.mpr full, missing, Bool.false_eq_true, if_false]

end

theorem stRel_raises (missing : segAvail (Claims.core s x) slot.toNat (getSlot (Claims.core s x) slot.toNat).rel = false) :
    Raises (.stRel x slot) x s (counted s x attStream) (faultOf 0x08) := by
  refine raises_to r rfl (fun σ sees => ?_)
  simp only [sees.slot, sees.segAvail, missing, Bool.not_false, if_true]

theorem stRel_does (ready : segAvail (Claims.core s x) slot.toNat (getSlot (Claims.core s x) slot.toNat).rel = true) :
    Does (.stRel x slot) x s (stRelease (counted s x attStream) (co x) slot.toNat) .seq := by
  refine does_by (fun σ => stRelease σ (co x) slot.toNat) r rfl (fun σ sees => ?_)
  simp only [sees.slot, sees.segAvail, ready, Bool.not_true, Bool.false_eq_true, if_false]

end

/-- A slot in RUN keeps its descriptor: the slot itself goes on to the next. -/
theorem stRelease_running {t : State} {L k : Nat} {q : Slot} (h : SlotTo s t L k q) (runs : q.st = 1) :
    stRelease t L k = modSlot t L k (fun q => { q with rel := q.rel + 1, counted := q.counted / 2 }) := by
  have released := (h.modSlot (fun q => { q with rel := q.rel + 1, counted := q.counted / 2 })).slot
  simp only [stRelease, released, runs, ne_eq, not_true_eq_false, false_and, if_false]
  split <;> rfl

end

/-! ### Commands of ST_CTL and STALL_CFG (R259, R262) -/

section
variable {s : State} {x : Issue}

/-- An `out` that the rules let pass in either mode to a register of the units is performed at once. -/
theorem unitOut_does {b : Nat} {v : Word} {i : Instr} (r : Ready x (attOut b) s) (he : exec i s = outTo x b v s) (aligned : b % 8 = 0)
    (low : 0x400 ≤ b) (high : b < 0xA00) (user : userWritable b = true) :
    Does i x s (ioWriteUnit (counted s x (attOut b)) (co x) (decide ((thr s x).mode = .supervisor)) b v) .seq := by
  refine does_by (fun σ => ioWriteUnit σ (co x) (decide ((thr s x).mode = .supervisor)) b v) r he (fun σ sees => ?_)
  have there : ioAbsent b = false := by simp [ioAbsent]; omega
  have passes (sup : Bool) : ioFault sup true b = none := by simp [ioFault, aligned, there, user]
  have parallel : ioSerial b = false := by simp [ioSerial]; omega
  simp only [outBody, passes, parallel, ioWrite, show ¬b < 0x300 by omega, high, sees.isSup, Bool.false_and, Bool.false_eq_true,
    if_true, if_false]

variable {slot : BitVec 3}

/-- The address of ST_CTL of a slot. -/
abbrev stCtl (slot : BitVec 3) : Nat := 0x810 + 0x18 * slot.toNat

theorem ioWriteUnit_stCtl (σ : State) (L : Nat) (sup : Bool) (v : Word) :
    ioWriteUnit σ L sup (stCtl slot) v = slotCmd σ L slot.toNat (bits v 2 0) sup := by
  have below := slot.isLt
  have ctl : stCtl slot = 0x810 + 0x18 * slot.toNat := rfl
  have index : (stCtl slot - 0x800) / 0x18 = slot.toNat := by omega
  have field : (stCtl slot - 0x800) % 0x18 / 8 = 2 := by omega
  simp only [ioWriteUnit, index, field, show ¬stCtl slot < 0x580 by omega, show ¬stCtl slot < 0x600 by omega,
    show ¬stCtl slot < 0x800 by omega, show stCtl slot < 0x8C0 by omega, if_true, if_false]

/-- A command of ST_CTL acts on its slot. -/
theorem stOut_does {i : Instr} {cmd : Nat} {t : State} (r : Ready x (attOut (stCtl slot)) s) (he : exec i s = stOut x slot cmd s)
    (code : bits (w64 cmd) 2 0 = cmd)
    (acts : slotCmd (counted s x (attOut (stCtl slot))) (co x) slot.toNat cmd (decide ((thr s x).mode = .supervisor)) = t) :
    Does i x s t .seq := by
  have below := slot.isLt
  have ctl : stCtl slot = 0x810 + 0x18 * slot.toNat := rfl
  have user : userWritable (stCtl slot) = true := by
    have field : (stCtl slot - 0x800) % 0x18 / 8 = 2 := by omega
    simp [userWritable, field, show 0x800 ≤ stCtl slot by omega, show stCtl slot < 0x8C0 by omega]
  have does := unitOut_does r he (by omega) (by omega) (by omega) user
  rwa [ioWriteUnit_stCtl, code, acts] at does

end

section
variable {s t : State} {L k : Nat} {q : Slot} {sup : Bool}

/-- RESUME and SKIP act on a slot that is STOPPED, and for a supervisor on one that has faulted. -/
abbrev MayGo (q : Slot) (sup : Bool) : Prop := q.st = 2 ∨ (3 ≤ q.st ∧ sup = true)

theorem mayGo_iff (q : Slot) : (q.st == 2 || (decide (3 ≤ q.st) && sup)) = true ↔ MayGo q sup := by
  simp only [Bool.or_eq_true, beq_iff_eq, Bool.and_eq_true, decide_eq_true_eq]

variable (h : SlotTo s t L k q)
include h

theorem slotCmd_stop_ignored (rests : q.st ≠ 1) : slotCmd t L k 1 sup = modSlot t L k (fun q => { q with cmdIgnored := true }) :=
  if_neg (h.slot ▸ rests)

/-- A slot with requests in flight notes the STOP and comes to its stop when they have landed (R260). -/
theorem slotCmd_stop (runs : q.st = 1) (free : q.stopping = none) (busy : slotOuts (getCore t L) k ≠ []) :
    slotCmd t L k 1 sup = modSlot t L k (fun q => { q with stopping := some (2 ^ 64, .stopCmd) }) := by
  have asks : modSlot t L k (fun q => if q.st = 1 ∧ q.stopping = none then { q with stopping := some (2 ^ 64, .stopCmd) } else q) =
      modSlot t L k (fun q => { q with stopping := some (2 ^ 64, .stopCmd) }) := modSlot_congr (by rw [h.slot, if_pos ⟨runs, free⟩])
  have asked := (h.modSlot (fun q => { q with stopping := some (2 ^ 64, .stopCmd) })).slot
  have outs : slotOuts (getCore (modSlot t L k (fun q => { q with stopping := some (2 ^ 64, .stopCmd) })) L) k ≠ [] := by
    rw [modSlot, getCore_modCore h.cores]
    exact busy
  simp only [slotCmd, h.slot, runs, slotStop, asks, slotSettle, asked, List.isEmpty_eq_false_iff.mpr outs, Bool.not_false, if_true]

theorem slotCmd_resume (go : MayGo q sup) : slotCmd t L k 2 sup = modSlot t L k (fun q => { q with st := 1 }) :=
  if_pos (h.slot ▸ (mayGo_iff q).mpr go)

theorem slotCmd_resume_ignored (stays : ¬MayGo q sup) : slotCmd t L k 2 sup = modSlot t L k (fun q => { q with cmdIgnored := true }) :=
  if_neg (h.slot ▸ mt (mayGo_iff q).mp stays)

theorem slotCmd_skip_ignored (stays : ¬MayGo q sup) : slotCmd t L k 3 sup = modSlot t L k (fun q => { q with cmdIgnored := true }) :=
  if_neg (h.slot ▸ mt (mayGo_iff q).mp stays)

theorem slotCmd_flush_idle (idle : q.st = 0) : slotCmd t L k 4 sup = t := if_pos (h.slot ▸ idle)

theorem slotCmd_flush (busy : q.st ≠ 0) : slotCmd t L k 4 sup = slotFlush t L k := if_neg (h.slot ▸ busy)

/-- SKIP of a slot that may go on and has a second descriptor runs that one (R259, R262). -/
theorem slotCmd_skip {d e : Desc} {r : List Desc} (go : MayGo q sup) (queue : q.queue = d :: e :: r) (early : q.early = false) :
    SlotTo s (slotCmd t L k 3 sup) L k { q with
      st := 1, queue := e :: r, started := false, nxt := if q.earlyBad then 0 else q.nxtEarly, early := false, nxtEarly := 0,
      earlyBad := false, pos := 0, rel := 0, counted := 0, failed := [], credit := .none, creditFrom := 0, got := [] } := by
  have dropped : SlotTo s (modCore t L (fun c => dropSlotOuts c k)) L k q := h.other_units (fun _ => rfl)
  have skipped := (dropped.next.cancelForward (20 + k)).modSlot (fun q => { q with st := if q.queue.isEmpty then 0 else 1 })
  simp only [leftSlot, queue, early, List.drop_succ_cons, List.drop_zero, List.isEmpty_cons, Bool.false_and, Bool.false_eq_true, if_false]
    at skipped
  simp only [slotCmd, h.slot, (mayGo_iff q).mpr go, if_true]
  exact skipped

end

/-- Bits 7:0 and 9 of a word that asks for CLEAR are those of v. -/
theorem stallCfg_clear (v : Word) :
    BitVec.ofNat 8 (bits (withField v 8 1 1) 7 0) = v.truncate 8 ∧ bit (withField v 8 1 1) 9 = v.getLsbD 9 ∧
      bit (withField v 8 1 1) 8 = true := by
  have below := v.isLt
  have word : (withField v 8 1 1).toNat = v.toNat % 256 + 256 + v.toNat / 512 * 512 := by
    simp only [withField, w64, BitVec.toNat_ofNat]
    omega
  refine ⟨BitVec.eq_of_toNat_eq ?_, ?_, ?_⟩
  · simp only [bits, word, BitVec.toNat_ofNat, BitVec.toNat_setWidth]
    omega
  · simp only [bit, BitVec.getLsbD, word, Nat.testBit_eq_decide_div_mod_eq]
    congr 1
    apply propext
    omega
  · simp only [bit, BitVec.getLsbD, word, Nat.testBit_eq_decide_div_mod_eq, decide_eq_true_eq]
    omega

theorem stallClear_does {s : State} {x : Issue} {v : Word} (r : Ready x (attOut 0x8C0) s) :
    Does (.stallClear x v) x s (setCore (counted s x (attOut 0x8C0)) (co x) { Claims.core (counted s x (attOut 0x8C0)) x with
      stalls := [], stallMask := v.truncate 8, stallFreeze := v.getLsbD 9 }) .seq := by
  obtain ⟨mask, freeze, clear⟩ := stallCfg_clear v
  have does := unitOut_does (v := withField v 8 1 1) r (i := .stallClear x v) rfl (by decide) (by decide) (by decide) (by decide)
  have writes (σ : State) (L : Nat) (sup : Bool) : ioWriteUnit σ L sup 0x8C0 (withField v 8 1 1) =
      setCore σ L { getCore σ L with stalls := [], stallMask := v.truncate 8, stallFreeze := v.getLsbD 9 } := by
    rw [← mask, ← freeze, ← if_pos (c := bit (withField v 8 1 1) 8 = true) (t := []) (e := (getCore σ L).stalls) clear]
    rfl
  rwa [writes] at does

/-! ### STREAM_DESC_START and STREAM_RESPONSE (R248–R250) -/

section
variable {s : State} {K : BitVec 13} {slot : BitVec 3} {d : Desc} {r : List Desc} {i id lo hi : Nat} {data : List Byte}
  {bad : List Nat} {bulk : Bool} (queue : (getSlot (getCore s K.toNat) slot.toNat).queue = d :: r)
include queue

section
variable (on : coreOn s K.toNat = true) (active : (getCore s K.toNat).sup.stopped = false)
  (runs : (getSlot (getCore s K.toNat) slot.toNat).st = 1) (free : (getSlot (getCore s K.toNat) slot.toNat).stopping = none)
  (fresh : (getSlot (getCore s K.toNat) slot.toNat).started = false)
include on active runs free fresh

theorem streamDescStart_starts (sound : sdCheck s d.mode d.w = 0) :
    GoesTo (.streamDescStart K slot) s (modSlot s K.toNat slot.toNat (fun q => { q with started := true, err := 0 })) K.toNat := by
  simp only [GoesTo, exec, execStreamDescStart, on, active, runs, free, fresh, queue, sound, Bool.not_true, Bool.not_false, bne_self_eq_false,
    Option.isSome_none, Bool.or_self, Bool.false_eq_true, if_true, if_false]

theorem streamDescStart_fails (unsound : sdCheck s d.mode d.w ≠ 0) :
    GoesTo (.streamDescStart K slot) s (slotEnter (modSlot s K.toNat slot.toNat (fun q => { q with pos := 0, nxt := 0 })) K.toNat slot.toNat
      (.err (sdCheck s d.mode d.w))) K.toNat := by
  obtain ⟨e, error⟩ := Nat.exists_eq_succ_of_ne_zero unsound
  simp only [GoesTo, exec, execStreamDescStart, on, active, runs, free, fresh, queue, error, Bool.not_true, Bool.not_false, bne_self_eq_false,
    Option.isSome_none, Bool.or_self, Bool.false_eq_true, if_true, if_false]

end

theorem streamResponse_lands (answered : response s i = some (K.toNat, .readData id data bad bulk))
    (asked : (findOut (getCore s K.toNat) id).map (·.kind) = some (.stream slot false lo hi false)) :
    GoesTo (.streamResponse K slot i) s (slotLand (dropOut (takePkt s i) K.toNat id) K.toNat slot.toNat d.w false
      (((List.range (hi - lo)).map (fun j => sdUAddr d.w (lo + j))).foldl Nat.min (sdUAddr d.w lo)) data bad (hi - lo) lo) K.toNat := by
  obtain ⟨⟨oid, kind, win⟩, out, rfl⟩ := Option.map_eq_some_iff.mp asked
  simp only [GoesTo, exec, execStreamResponse, answered, out, queue, ne_eq, not_true_eq_false, Bool.false_eq_true, if_false]

/-- The write of a STORE is acknowledged: its bytes are counted. -/
theorem streamResponse_stored (answered : response s i = some (K.toNat, .writeAck id))
    (asked : (findOut (getCore s K.toNat) id).map (·.kind) = some (.stream slot false lo hi true)) :
    GoesTo (.streamResponse K slot i) s (modCore (dropOut (takePkt s i) K.toNat id) K.toNat
      (fun c => pmcEvent c 0x1E none ((hi - lo) * sdE d.w))) K.toNat := by
  obtain ⟨⟨oid, kind, win⟩, out, rfl⟩ := Option.map_eq_some_iff.mp asked
  simp only [GoesTo, exec, execStreamResponse, answered, out, queue, ne_eq, not_true_eq_false, if_false]

end

end Sys2Proof.Machine

open Sys2Proof Sys2Proof.Machine Sys2Proof.Claims

theorem streamInstructions : Claims.StreamInstructions := by
  intro x rd rs slot v s k c q a
  refine ⟨fun r watch => ?_, fun r => ?_, fun r => ?_, fun r => stallClear_does r⟩
  · exact ⟨stQ_misaligned r, stQ_outside r, stQ_uncorrectable r,
      fun aligned inside clean whole room => stQ_queues r aligned inside clean watch whole room⟩
  · exact ⟨stWait_empty r, stWait_available r, stWait_sleeps r, stRel_raises r,
      fun ready => ⟨stRel_does r ready, stRelease_running (slotTo_counted r.order k)⟩⟩
  · intro z does ignored mayGo gone
    have here : SlotTo s z (co x) k q := slotTo_counted r.order k
    have go : mayGo ↔ MayGo q (decide ((thr s x).mode = .supervisor)) := by rw [MayGo, decide_eq_true_eq]
    refine ⟨fun rests => ?_, fun runs free busy => ?_, fun goes => ?_, fun stays => ?_, fun stays => ?_, fun d e l goes queue early => ?_,
      fun idle => ?_, fun busy => ?_⟩
    · exact stOut_does r rfl (by decide) (slotCmd_stop_ignored here rests)
    · exact stOut_does r rfl (by decide) (slotCmd_stop here runs free ((Sees.counted r.order).slotOuts k ▸ busy))
    · exact stOut_does r rfl (by decide) (slotCmd_resume here (go.mp goes))
    · exact stOut_does r rfl (by decide) (slotCmd_resume_ignored here (mt go.mpr stays))
    · exact stOut_does r rfl (by decide) (slotCmd_skip_ignored here (mt go.mpr stays))
    · obtain ⟨-, -, slot, same, others⟩ := slotCmd_skip here (go.mp goes) queue early
      exact ⟨_, stOut_does r rfl (by decide) rfl, same, slot, others⟩
    · exact stOut_does r rfl (by decide) (slotCmd_flush_idle here idle)
    · obtain ⟨-, -, slot, same, others⟩ := slotTo_flush here
      exact ⟨_, stOut_does r rfl (by decide) (slotCmd_flush here busy), ⟨same, slot, others⟩, slotOuts_slotFlush here.cores⟩

theorem streamEvents : Claims.StreamEvents := by
  intro s K slot d r i id lo hi p data bad bulk o on L k c q queue
  refine ⟨fun active runs free fresh => ⟨streamDescStart_starts queue on active runs free fresh,
    streamDescStart_fails queue on active runs free fresh⟩, fun arrives dst => ?_⟩
  intro t isFor
  refine ⟨fun body asked => ?_, fun body asked => ?_⟩
  · exact streamResponse_lands queue (body ▸ response_arrives arrives dst on) asked
  · exact streamResponse_stored queue (body ▸ response_arrives arrives dst on) asked

/-- Settles O36: each instruction by its test on the slot, each command by the change of its slot (`SlotTo`), which leaves the others. -/
theorem streams : Obligations.Streams := ⟨streamInstructions, streamEvents⟩
end

section
/-! PROOFS. Error answers, drop notices and aged packets (O44). -/

namespace Sys2Proof.Machine
open Sys2Proof.Claims

/-! ### Sending touches no press queue -/

section
variable (s : State)

@[simp] theorem netDrop_press (L k : Nat) : (netDrop s L k).press = s.press := by
  unfold netDrop
  dsimp only
  split <;> rfl

@[simp] theorem deliver_press (k : Packet) : (deliver s k).press = s.press := by
  unfold deliver
  split
  · split
    · rfl
    · split
      · exact netDrop_press ..
      · exact netDrop_press ..
      · exact netDrop_press ..
      · split <;> rfl
  · rfl

/-- A packet that takes a port changes the fabric's ports alone. -/
theorem fabPut_frame {t : State} {k : Packet} {m : Nat} (put : fabPut s k m = some t) :
    ∃ ports, t = { s with fab := { s.fab with ports := ports } } := by
  obtain ⟨g, -, rfl⟩ := Option.map_eq_some_iff.mp put
  dsimp only
  split <;> exact ⟨_, rfl⟩

@[simp] theorem fabSend_press (k : Packet) (m : Nat) : (fabSend s k m).press = s.press := by
  unfold fabSend
  split
  · next put =>
    obtain ⟨ports, rfl⟩ := fabPut_frame s put
    rfl
  · dsimp only
    split
    · next r i b _ =>
      cases put : fabPut (fabDrop s 3) (pkt .io (.remote r i) b) r with
      | none => rfl
      | some t =>
        obtain ⟨ports, rfl⟩ := fabPut_frame _ put
        rfl
    · exact deliver_press (fabDrop s 3) _
    · rfl

@[simp] theorem sendTo_press (src dst : Ep) (b : Body) : (sendTo s src dst b).press = s.press := by
  unfold sendTo sendPk
  split
  · exact fabSend_press ..
  · exact deliver_press ..

end

/-! ### A thread's access fails (R421) -/

section
variable {s : State} {L id t : Nat}

/-- Two changes of a thread that agree on it change the module alike. -/
theorem modT_congr {f g : Thread → Thread} (agree : f (thrOf s L t) = g (thrOf s L t)) : modT s L t f = modT s L t g := by
  rw [thrOf] at agree
  simp only [modT, modCore, modThr, agree]

/-- Without a pending debug hit there is none that does not stand. -/
theorem dropWatch_free {h : Thread} (free : h.dbg.pend = none) : dropWatch h = h := by
  simp only [dropWatch, free]
  rw [← free]

/-- The failed access of a held thread raises its fault, where no entry and no debug hit is pending. -/
theorem loadFault_raises (rise : rising s.cores = true) (threads : rising (getCore s L).thr = true)
    (held : (thrOf s L t).held = .access id) (entry : (thrOf s L t).entry = none) (free : (thrOf s L t).dbg.pend = none) (f : FInfo) :
    loadFault s L id t f = raise (modT s L t (fun h => { h with held := .none })) L t f := by
  have released : modT s L t (fun h => dropWatch { h with held := .none }) = modT s L t (fun h => { h with held := .none }) :=
    modT_congr (dropWatch_free free)
  have outside : (thrOf (modT s L t (fun h => { h with held := .none })) L t).entry = none := by
    rw [thrOf_modT rise threads]
    exact entry
  rw [loadFault, if_pos (heldBy_of held), released, accessFault, outside]

end

/-! ### The commands -/

section
variable {s : State} {i L id reason lo n va hi : Nat} {p : Packet} {b : Body}

theorem mayArrive_body (arrives : mayArrive s i = some p) (dst : p.dst = .core L) (body : p.body = b) :
    mayArrive s i = some { src := p.src, dst := .core L, body := b, age := p.age } := by
  rw [arrives, ← dst, ← body]

section
variable (arrives : mayArrive s i = some p) (dst : p.dst = .core L) (run : running s = true)
include arrives dst run

theorem errorResp_goes (body : p.body = .errorResp id reason) : GoesTo (.errorResp i) s (errorAnswer (takePkt s i) L id reason) L := by
  simp only [GoesTo, exec, execErrorResp, mayArrive_body arrives dst body, run, Bool.not_true, Bool.false_eq_true, if_false]

/-- A notice for a request ends it as an error answer does (R421). -/
theorem dropNotice_answers {k : Nat} (body : p.body = .dropNotice reason k none 0 (some id)) :
    GoesTo (.dropNotice i) s (errorAnswer (takePkt s i) L id reason) L := by
  simp only [GoesTo, exec, execDropNotice, mayArrive_body arrives dst body, run, Bool.not_true, Bool.false_eq_true, if_false]

/-- A notice for no request and no unit is counted (R596). -/
theorem dropNotice_counts {k : Nat} (body : p.body = .dropNotice reason k none 0 none) (small : k ≤ 2) :
    exec (.dropNotice i) s = .next (netDrop (takePkt s i) L k) := by
  simp only [exec, execDropNotice, mayArrive_body arrives dst body, run, small, Bool.not_true, Bool.false_eq_true, if_true, if_false]

end

theorem errorAnswer_load {t : BitVec 4} {rd : BitVec 5} {sx aq win : Bool} (o : s.ordered = true)
    (out : findOut (getCore s L) id = some { id := id, kind := .load t rd n sx aq va, win := win })
    (held : (thrOf s L t.toNat).held = .access id) (entry : (thrOf s L t.toNat).entry = none) (free : (thrOf s L t.toNat).dbg.pend = none) :
    errorAnswer (takePkt s i) L id reason =
      raise (modT (dropOut (takePkt s i) L id) L t.toNat (fun h => { h with held := .none })) L t.toNat (faultAt 0x0D va false n) := by
  have out : findOut (getCore (takePkt s i) L) id = some { id := id, kind := .load t rd n sx aq va, win := win } := out
  have kept := keepsThreads_answered (L := L) o i id
  have same := kept.thread t.toNat
  simp only [errorAnswer, out]
  exact loadFault_raises kept.rise (kept.threads ▸ threads_rising o L) (same ▸ held) (same ▸ entry) (same ▸ free) _

theorem errorAnswer_stream {sl : BitVec 3} {sx win : Bool}
    (out : findOut (getCore s L) id = some { id := id, kind := .stream sl false lo hi sx, win := win }) :
    errorAnswer (takePkt s i) L id reason = slotLose (dropOut (takePkt s i) L id) L sl.toNat lo hi .bus := by
  have out : findOut (getCore (takePkt s i) L) id = _ := out
  simp only [errorAnswer, out, Bool.false_eq_true, if_false]

/-- The byte of a channel's source that a failed read concerns (R397). -/
theorem errorAnswer_dma {ch : BitVec 2} {win : Bool} {ds : List Byte}
    (out : findOut (getCore s L) id = some { id := id, kind := .dma ch lo n false ds, win := win }) :
    let d := dropOut (takePkt s i) L id
    let q := getChan (getCore d L) ch.toNat
    errorAnswer (takePkt s i) L id 3 = chanFail d L ch.toNat lo .bus
      (if ddKind q.desc = 1 then ddOff q.desc + lo else if ddSrcFix q.desc then ddSrc q.desc else ddSrc q.desc + lo) := by
  have out : findOut (getCore (takePkt s i) L) id = _ := out
  simp only [errorAnswer, out, chanBus, true_or, Bool.false_eq_true, if_true, if_false]

/-- An aged packet of the mesh is removed, and its kind's answer is sent (R419, R420). -/
theorem packetAged_answers {q : Packet} {e : Ep} (rest : PressRest s) (placed : s.net[i]? = some q) (old : 999 ≤ q.age)
    (kind : ages q = true) (answer : dropAnswer q.body q.src q.dst 1 = some (e, b)) :
    exec (.packetAged i) s = .next (sendTo (takePkt s i) .io e b) := by
  have drops : dropPacket (takePkt s i) q 1 = sendTo (takePkt s i) .io e b := by
    rw [dropPacket, answer]
    exact pressAll_rest (rest.of (sendTo_press ..))
  simp only [exec, execPacketAged, placed, kind, Bool.true_and]
  split
  · next piece => rw [piece] at answer; cases answer
  · rw [if_pos (decide_eq_true old), drops]

end

end Sys2Proof.Machine

section
open Sys2Proof Sys2Proof.Machine Sys2Proof.Claims

theorem errorsAndDrops : Claims.ErrorsAndDrops := by
  intro s i L id reason k lo n p t4 rd sl ch sx aq va hi wn ds o rest run t c d
  refine ⟨fun arrives dst => ⟨fun body => ?_, fun body => ?_, fun body warm => ?_⟩, fun q home w placed old body => ?_,
    fun q m r placed old body => ?_⟩
  · have answers := errorResp_goes arrives dst run body
    refine ⟨fun out held entry free => ?_, fun out => ?_, fun out final => ?_⟩
    · rwa [errorAnswer_load o out held entry free] at answers
    · rwa [errorAnswer_stream out] at answers
    · subst final
      rwa [errorAnswer_dma out] at answers
  · exact dropNotice_answers arrives dst run body
  · have cold : frozen (getCore (takePkt s i) L) = false := warm
    have counts (small : k ≤ 2) := dropNotice_counts arrives dst run body small
    simp only [netDrop, cold, Bool.false_eq_true, if_false] at counts
    refine ⟨?_, ?_, ?_⟩
    · rintro rfl
      exact counts (by decide)
    · rintro rfl
      exact counts (by decide)
    · rintro rfl
      exact counts (by decide)
  · exact packetAged_answers rest placed old (by rw [ages, body]; rfl) (by rw [body]; rfl)
  · exact packetAged_answers rest placed old (by rw [ages, body]; rfl) (by rw [body]; rfl)
end
end

section
/-! PROOFS. Commands of the dispatcher and of the dictionary at a core (O44). -/

namespace Sys2Proof.Machine
open Sys2Proof.Claims

/-! ### Halting and resuming one thread (R584, R585) -/

section
variable {s : State} {L n : Nat}

theorem nbit_two_pow (n j : Nat) : nbit (2 ^ n) j = decide (n = j) := by
  rw [nbit, beq_eq_decide, ← Nat.testBit_eq_decide_div_mod_eq, Nat.testBit_two_pow]

/-- A fold over the numbers below m in which one of them alone acts. -/
theorem foldl_range_one {β : Type} {f : β → Nat → β} {m : Nat} (below : n < m) (idle : ∀ j b, j ≠ n → f b j = b) (b : β) :
    (List.range m).foldl f b = f b n := by
  induction m with
  | zero => exact absurd below (Nat.not_lt_zero n)
  | succ m ih =>
    rw [List.range_succ, List.foldl_append, List.foldl_cons, List.foldl_nil]
    by_cases last : n = m
    · rw [foldl_fix f b _ (fun j small => idle j b (by have := List.mem_range.mp small; omega)), last]
    · rw [ih (by omega), idle m _ (Ne.symm last)]

/-- A HALT of one waiting thread halts it. -/
theorem dbgHalt_one (below : n < 16) (waits : (thrOf s L n).st = .wait) : dbgHalt s L (2 ^ n) 5 none = haltThread s L n 5 0 0 := by
  unfold dbgHalt
  rw [foldl_range_one below (fun j z other => if_pos (by simp [nbit_two_pow, Ne.symm other]))]
  simp [nbit_two_pow, waits]

/-- A RESUME or STEP of one halted thread lets it go on. -/
theorem dbgGo_one (below : n < 16) (halted : (thrOf s L n).st = .halted) (step : Bool) :
    dbgGo s L (2 ^ n) step true =
      unitsResume (modT s L n (fun h => { h with st := .ready, dbg := { h.dbg with stepping := step } })) L := by
  unfold dbgGo
  rw [foldl_range_one below (fun j z other => if_pos (by simp [nbit_two_pow, Ne.symm other]))]
  simp [nbit_two_pow, halted]

theorem haltThread_st (o : s.ordered = true) (all : (getCore s L).dbg.haltAll = false) (units : (getCore s L).dbg.haltUnits = false) :
    (thrOf (haltThread s L n 5 0 0) L n).st = .halted := by
  have rise := rising_of_ordered o
  have off (c : Core) (off : c.dbg.haltUnits = false) : haltUnits (setCore s L c) L = setCore s L c := by
    simp only [haltUnits, getCore_setCore rise, off, Bool.false_and, Bool.not_false, if_true]
  simp only [haltThread, modThr, setThr, all, Bool.false_and, Bool.false_eq_true, if_false, OfNat.ofNat_ne_zero]
  rw [off, thrOf, getCore_setCore rise]
  · exact congrArg Thread.st (mget_mput_same (threads_rising o L) n _)
  · exact units

theorem unitsResume_thread (rise : rising s.cores = true) (unstopped : (getCore s L).dbg.stopped = []) :
    thrOf (unitsResume s L) L n = thrOf s L n := by
  simp only [unitsResume, unstopped, List.foldl_nil, thrOf, getCore_modCore rise]
  rfl

theorem dbgGo_thread (o : s.ordered = true) (below : n < 16) (unstopped : (getCore s L).dbg.stopped = []) (halted : (thrOf s L n).st = .halted)
    (step : Bool) :
    thrOf (dbgGo s L (2 ^ n) step true) L n =
      { thrOf s L n with st := .ready, dbg := { (thrOf s L n).dbg with stepping := step } } := by
  have rise := rising_of_ordered o
  rw [dbgGo_one below halted]
  refine (unitsResume_thread (rising_modCore rise _ _) ?_).trans (thrOf_modT rise (threads_rising o L) _)
  rw [getCore_modCore rise]
  exact unstopped

end

/-! ### The swap of a core (R378) -/

section
variable {s y : State} {L : Nat} {u : Sup}

theorem fabPut_cores {t : State} {k : Packet} {m : Nat} (put : fabPut s k m = some t) : t.cores = s.cores := by
  obtain ⟨ports, rfl⟩ := fabPut_frame s put
  rfl

/-- A revocation leaves every core: where it cannot be sent, nothing answers it. -/
theorem sendTo_creditRevoke_cores (src dst : Ep) (v : Eng) (e : Nat) : (sendTo s src dst (.creditRevoke v e)).cores = s.cores := by
  unfold sendTo sendPk
  split
  · next m id _ =>
    cases put : fabPut s (pkt src dst (.creditRevoke v e)) m with
    | none => simp only [fabSend, put]; rfl
    | some t => simp only [fabSend, put]; exact fabPut_cores put
  · unfold deliver
    split
    · split <;> rfl
    · rfl

/-- The cores are in order, and the supervisor registers of core L are u. -/
structure HasSup (u : Sup) (y : State) (L : Nat) : Prop where
  rise : rising y.cores = true
  sup : (getCore y L).sup = u

theorem HasSup.modCore (h : HasSup u y L) {f : Core → Core} (keeps : ∀ c, (f c).sup = c.sup) : HasSup u (modCore y L f) L :=
  ⟨rising_modCore h.rise L f, by rw [getCore_modCore h.rise, keeps, h.sup]⟩

theorem HasSup.of_cores {z : State} (h : HasSup u y L) (same : z.cores = y.cores) : HasSup u z L :=
  ⟨same ▸ h.rise, by rw [getCore, same]; exact h.sup⟩

theorem HasSup.closeWin (h : HasSup u y L) (w : Nat) : HasSup u (closeWin y L w).1 L := by
  refine List.foldlRecOn (motive := fun z => HasSup u z L) _ _ (h.modCore (fun _ => rfl)) (fun z hz e _ => ?_)
  have freed : HasSup u (Machine.modCore z L (fun c => setCred c e.1 (.quarantine 0))) L := hz.modCore (fun _ => rfl)
  exact freed.of_cores (sendTo_creditRevoke_cores ..)

/-- Closing the windows leaves the supervisor registers. -/
theorem HasSup.closeWins (h : HasSup u y L) : HasSup u (closeWins y L) L :=
  List.foldlRecOn (motive := fun z => HasSup u z L) _ _ h (fun _ hz w _ => hz.closeWin w)

/-- What a core has lost once it is swapped: pair, group, counters, translations, the rings' pairs; its caches begin to be emptied. -/
structure Swapped (c : Core) : Prop where
  pair : c.sup.pair = ⟨0#12, 0#4⟩
  first : c.sup.groupFirst = 0
  count : c.sup.groupCount = 0
  counters : c.sc = []
  tlb : c.xlt.tlb = []
  big : c.xlt.big = []
  walks : c.xlt.walks = []
  forwards : c.xlt.unitOut = []
  rings : ∀ r ∈ c.rings, r.2.pair = ⟨0#12, 0#4⟩
  empties : c.cache.cmo.isSome = true

theorem switchSwap_swapped (rise : rising s.cores = true) : Swapped (getCore (switchSwap s L) L) := by
  have begun : HasSup { (getCore s L).sup with pair := ⟨0#12, 0#4⟩, groupFirst := 0, groupCount := 0 }
      (modCore s L (fun c => { c with sup := { c.sup with pair := ⟨0#12, 0#4⟩, groupFirst := 0, groupCount := 0 } })) L :=
    ⟨rising_modCore rise _ _, by rw [getCore_modCore rise]⟩
  obtain ⟨closed, sup⟩ := begun.closeWins
  rw [switchSwap, cmoBegin, getCore_modCore (rising_modCore closed _ _), getCore_modCore closed]
  generalize getCore (closeWins _ L) L = c at sup
  refine ⟨?_, ?_, ?_, rfl, rfl, rfl, rfl, rfl, fun r listed => ?_, rfl⟩
  · exact congrArg Sup.pair sup
  · exact congrArg Sup.groupFirst sup
  · exact congrArg Sup.groupCount sup
  · obtain ⟨q, -, rfl⟩ := List.mem_map.mp listed
    rfl

/-! ### A command to stop (R378, R475) -/

variable {i k mode : Nat} {p : Packet}

/-- The cores stay in order when what follows a command is done. -/
theorem tidy_rising (o : s.ordered = true) (z : State) : rising (tidy z s L).cores = true := by
  have kept : Kept ⟨True, False, s.pending⟩ (tidy z s L) := kept_tidy (kept_iff.2 ⟨fun _ => o, False.elim, rfl⟩)
  exact rising_of_ordered ((kept_iff.1 kept).1 trivial)

/-- The end of a command to stop: it is acknowledged once the core is swapped, its caches are empty and nothing is outstanding. -/
def switchEnds (y : State) (i L k : Nat) : State :=
  if switchPassed y L && (getCore y L).cache.cmo.isNone && (getCore y L).outs.isEmpty then
    sendTo (takePkt y i) (.core L) .disp (.commandAck k L)
  else y

theorem switchEnds_acks (passed : switchPassed y L = true) (cmo : (getCore y L).cache.cmo = none) (outs : (getCore y L).outs = []) :
    switchEnds y i L k = sendTo (takePkt y i) (.core L) .disp (.commandAck k L) := if_pos (by rw [passed, cmo, outs]; rfl)

theorem switchEnds_waits (waits : ¬((getCore y L).cache.cmo = none ∧ (getCore y L).outs = [])) : switchEnds y i L k = y := by
  refine if_neg (fun ends => waits ?_)
  simp only [Bool.and_eq_true, Option.isNone_iff_eq_none, List.isEmpty_iff] at ends
  exact ⟨ends.1.2, ends.2⟩

theorem switchEnds_before (before : switchPassed y L = false) : switchEnds y i L k = y := if_neg (by simp [before])

theorem switchCommand_stopped (stopped : (getCore s L).sup.stopped = true) : switchCommand s i L k mode = takePkt s i := if_pos stopped

section
variable (active : (getCore s L).sup.stopped = false) (begun : (getCore s L).sup.switching = mode)
include active begun

/-- A core that is swapped, or whose group has still to drain, only lets its own work go on. -/
theorem switchCommand_stays (stays : switchPassed (tidy s s L) L = true ∨ groupReady (tidy s s L) k L mode = false) :
    switchCommand s i L k mode = switchEnds (tidy s s L) i L k := by
  have keeps : (switchPassed (tidy s s L) L || !groupReady (tidy s s L) k L mode) = true := by
    rw [Bool.or_eq_true, Bool.not_eq_true']
    exact stays
  simp only [switchCommand, active, begun, keeps, Bool.false_eq_true, if_true, if_false]
  rfl

/-- A core whose group has drained is swapped. -/
theorem switchCommand_swaps (before : switchPassed (tidy s s L) L = false) (ready : groupReady (tidy s s L) k L mode = true) :
    switchCommand s i L k mode = switchEnds (tidy (tidy s s L) (switchSwap (tidy s s L) L) L) i L k := by
  simp only [switchCommand, active, begun, before, ready, Bool.not_true, Bool.or_self, Bool.false_eq_true, if_true, if_false]
  rfl

end

/-- What a command that has arrived does at its core (R414). -/
def commanded (s : State) (i L : Nat) : CoreCmd → State
  | .halt m => tidy s (dbgHalt (takePkt s i) L m.toNat 5 none) L
  | .resume m => tidy s (dbgGo (takePkt s i) L m.toNat false true) L
  | .step m => tidy s (dbgGo (takePkt s i) L m.toNat true true) L
  | .stopAll k => switchCommand s i L k 1
  | .endSteps k => switchCommand s i L k 2

theorem command_runs (arrives : mayArrive s i = some p) (dst : p.dst = .core L) (on : coreOn s L = true) {m : CoreCmd}
    (body : p.body = .command m) :
    exec (.command i) s = .next (commanded s i L m) := by
  simp only [exec, execCommand, mayArrive_body arrives dst body, on, Bool.not_true, Bool.false_eq_true, if_false]
  cases m <;> rfl

end

end Sys2Proof.Machine

section
open Sys2Proof Sys2Proof.Machine Sys2Proof.Claims

theorem commandsAtCores : Claims.CommandsAtCores := by
  intro s i L k mode p m o on arrives dst modes t h cmd
  have taken : t.ordered = true := o
  have runs {b : CoreCmd} (body : p.body = .command b) := command_runs arrives dst on body
  refine ⟨runs (b := .halt m), runs (b := .resume m), runs (b := .step m),
    fun n below all units one => ⟨fun waits => ?_, fun unstopped halted => ⟨?_, ?_⟩⟩, fun body => ?_⟩
  · rw [one, dbgHalt_one (s := t) below waits]
    exact haltThread_st taken all units
  · rw [one, dbgGo_thread taken below unstopped halted]
  · rw [one, dbgGo_thread taken below unstopped halted]
  · have switches : exec (.command i) s = .next (switchCommand s i L k mode) := by
      obtain rfl | rfl := modes
      · exact runs (b := .stopAll k) body
      · exact runs (b := .endSteps k) body
    rw [switches]
    refine ⟨fun stopped => ?_, fun active begun => ⟨fun before drains => ?_, fun passed ended => ?_, fun passed waits => ?_,
      fun before ready => ?_⟩⟩
    · rw [switchCommand_stopped stopped]
    · rw [switchCommand_stays active begun (.inr drains), switchEnds_before before]
    · rw [switchCommand_stays active begun (.inl passed), switchEnds_acks passed ended.1 ended.2]
    · rw [switchCommand_stays active begun (.inl passed), switchEnds_waits waits]
    · obtain ⟨pair, first, count, counters, tlb, big, walks, forwards, rings, empties⟩ := switchSwap_swapped (L := L) (tidy_rising o s)
      refine ⟨switchSwap (tidy s s L) L, ⟨pair, first, count, counters, tlb, big, walks, forwards, rings, empties⟩,
        fun passed waits => ?_, fun passed ended => ?_⟩
      · rw [switchCommand_swaps active begun before ready, switchEnds_waits waits]
      · rw [switchCommand_swaps active begun before ready, switchEnds_acks passed ended.1 ended.2]

/-- Settles O44: an error answer by the unit that waits for it, an aged packet by the answer of its kind; a HALT, RESUME or STEP of one thread
acts on that thread alone, and a command to stop ends as `switchEnds` says, after the swap of the core where its group has drained. -/
theorem errorsDropsCommands : Obligations.ErrorsDropsCommands := ⟨errorsAndDrops, commandsAtCores⟩
end
end

section
/-! PROOFS. No cache maintenance begins at a core while an instruction of the core comes to its end (O40): one lemma for each operation that a
boundary can reach - a debug hit, a halt, the entry of an exception - in the order of the model's files. -/

namespace Sys2Proof.Machine

/-- No maintenance operation is in progress at core L, of cores in order. -/
structure CmoFree (L : Nat) (s : State) : Prop where
  rise : rising s.cores = true
  free : (getCore s L).cache.cmo = none

section
variable {s z : State} {L t : Nat}

/-! ### The rules of a change -/

theorem CmoFree.of_cores (h : CmoFree L s) (same : z.cores = s.cores) : CmoFree L z :=
  ⟨same ▸ h.rise, by rw [getCore, same]; exact h.free⟩

theorem CmoFree.setCore (h : CmoFree L s) {c : Core} (free : c.cache.cmo = none) : CmoFree L (setCore s L c) :=
  ⟨rising_setCore h.rise L c, by rw [getCore_setCore h.rise, free]⟩

/-- A core whose cache maintenance stands as it did. -/
theorem CmoFree.setUnits (h : CmoFree L s) {c : Core} (keeps : c.cache.cmo = (getCore s L).cache.cmo := by rfl) :
    CmoFree L (Machine.setCore s L c) := h.setCore (keeps.trans h.free)

theorem CmoFree.modCore (h : CmoFree L s) {f : Core → Core} (keeps : ∀ c, (f c).cache.cmo = c.cache.cmo) :
    CmoFree L (modCore s L f) := h.setCore ((keeps _).trans h.free)

theorem CmoFree.modT (h : CmoFree L s) (f : Thread → Thread) : CmoFree L (modT s L t f) := h.modCore (fun _ => rfl)

theorem CmoFree.modSlot (h : CmoFree L s) (k : Nat) (f : Slot → Slot) : CmoFree L (modSlot s L k f) := h.modCore (fun _ => rfl)

theorem CmoFree.modChan (h : CmoFree L s) (k : Nat) (f : Chan → Chan) : CmoFree L (modChan s L k f) := h.modCore (fun _ => rfl)

theorem CmoFree.ite {p : Prop} [Decidable p] (h : CmoFree L s) (k : CmoFree L z) : CmoFree L (if p then s else z) := by
  split
  · exact h
  · exact k

/-- Of two answers that carry a state, whichever is given. -/
theorem CmoFree.ite_of {β : Type} {g : β → State} {p : Prop} [Decidable p] {a b : β} (h : CmoFree L (g a)) (k : CmoFree L (g b)) :
    CmoFree L (g (if p then a else b)) := by
  split
  · exact h
  · exact k

/-- What an operation answers is free with its other name. -/
theorem CmoFree.along {β : Type} {g : β → State} {a b : β} (h : CmoFree L (g a)) (e : a = b) : CmoFree L (g b) := e ▸ h

theorem CmoFree.foldl {α : Type} {f : State → α → State} (h : CmoFree L s) (l : List α) (step : ∀ s a, CmoFree L s → CmoFree L (f s a)) :
    CmoFree L (l.foldl f s) :=
  List.foldlRecOn (motive := CmoFree L) _ _ h (fun s hs a _ => step s a hs)

theorem CmoFree.andThen {α β : Type} {r : AR α} {f : State → α → AR β} (h : CmoFree L r.state)
    (step : ∀ s v, CmoFree L s → CmoFree L (f s v).state) : CmoFree L (Machine.andThen r f).state := by
  cases r with
  | ok s v => exact step s v h
  | fault s e => exact h
  | hold s => exact h

/-! ### Updates of a core that leave its caches -/

@[simp] theorem pmcEvent_cache (c : Core) (ev : Nat) (u : Option Nat) (n : Nat) : (pmcEvent c ev u n).cache = c.cache := by
  obtain ⟨p, counts⟩ := pmcEvent_perf c ev u n
  rw [counts]

@[simp] theorem queueEvent_cache (c : Core) (unit index thread : Nat) (fw : Bool) (cause : Nat) :
    (queueEvent c unit index thread fw cause).cache = c.cache := by
  unfold queueEvent
  dsimp only
  split
  · rfl
  · exact pmcEvent_cache ..

@[simp] theorem countWalk_cache (c : Core) : (countWalk c).cache = c.cache := pmcEvent_cache ..

/-- Steps that leave the caches of a core, taken one after another. -/
theorem foldl_cache {α : Type} {f : Core → α → Core} (keeps : ∀ c a, (f c a).cache = c.cache) (c : Core) (l : List α) :
    (l.foldl f c).cache = c.cache :=
  List.foldlRecOn (motive := fun d => d.cache = c.cache) _ _ rfl (fun d same a _ => (keeps d a).trans same)

theorem sideTake_cmo {c d : Core} {va : Nat} {l : DLine} (taken : sideTake c va = some (l, d)) : d.cache.cmo = c.cache.cmo := by
  unfold sideTake at taken
  split at taken
  · cases taken
    rfl
  · cases taken

theorem CmoFree.pmcEvent (h : CmoFree L s) (ev : Nat) (u : Option Nat) (n : Nat) :
    CmoFree L (Machine.setCore s L (pmcEvent (getCore s L) ev u n)) := h.setUnits (by rw [pmcEvent_cache])

/-! ### The core map and the scratchpad -/

theorem errRecord_cores (s : State) (cls sev L pos stk bank cause off : Nat) (pair : Pair) :
    (errRecord s cls sev L pos stk bank cause off pair).cores = s.cores := by
  unfold errRecord
  dsimp only
  split <;> rfl

theorem unreserve_cores (s : State) (L : Nat) : (unreserve s L).cores = s.cores := by
  unfold unreserve
  split <;> rfl

theorem reserveSpare_cores (s : State) (L : Nat) : (reserveSpare s L).cores = s.cores := by
  unfold reserveSpare
  split <;> rfl

theorem CmoFree.markRetire (h : CmoFree L s) (K : Nat) : CmoFree L (markRetire s K) := by
  have given := (h.of_cores (z := setMap s (posOf s K) 3 K) rfl).foldl (insertNat K s.boot.markedNow)
    (fun s id hs => hs.of_cores (unreserve_cores s id))
  have reserved := given.foldl (insertNat K s.boot.markedNow) (fun s id hs => hs.of_cores (reserveSpare_cores s id))
  exact h.ite (reserved.of_cores rfl)

theorem CmoFree.noteSpadUE (h : CmoFree L s) (off : Nat) : CmoFree L (noteSpadUE s L off) := by
  unfold Machine.noteSpadUE
  extract_lets _ _ s1 _ _ s2 _ _ _ _ s3
  have counted : CmoFree L s1 := h.ite (h.setUnits)
  have recorded : CmoFree L s2 := counted.of_cores (errRecord_cores ..)
  have listed : CmoFree L s3 := recorded.of_cores rfl
  split
  · exact .ite (recorded.markRetire L) recorded
  · exact recorded
  · exact .ite (listed.markRetire L) listed

theorem CmoFree.spadWrite (h : CmoFree L s) (off : Nat) (data : List Byte) : CmoFree L (spadWrite s L off data) := by
  unfold Machine.spadWrite
  extract_lets c _ _ _ _ _ _ _ c1 _ z
  have free : c1.cache.cmo = none := by
    dsimp only [c1]
    split
    · exact h.free
    · exact h.free
  have written : CmoFree L z := h.setCore free
  exact written.ite (written.of_cores rfl)

/-! ### Requests -/

theorem CmoFree.addOut (h : CmoFree L s) (id : Nat) (k : OutKind) (a : Home) : CmoFree L (addOut s L id k a) := h.modCore (fun _ => rfl)

theorem CmoFree.sendRead (h : CmoFree L s) (id : Nat) (a : Home) (n : Nat) (w : Who) : CmoFree L (sendRead s L id a n w) := by
  refine h.of_cores ?_
  unfold Machine.sendRead
  split
  · split <;> rfl
  · rfl

theorem CmoFree.sendWrite (h : CmoFree L s) (id : Nat) (a : Home) (data : List Byte) (bad : List Nat) (w : Who) :
    CmoFree L (sendWrite s L id a data bad w) := h.of_cores (sendWrite_cores ..)

theorem CmoFree.accKeep (h : CmoFree L s) (r : AccRec) : CmoFree L (accKeep s L t r) := h.modT _

theorem CmoFree.threadAsks (h : CmoFree L s) (k : OutKind) (a : Home) : CmoFree L (threadAsks s L t k a).2 := by
  have numbered : CmoFree L (newId s).2 := h.of_cores rfl
  exact (numbered.addOut (newId s).1 k a).modT (fun h => { h with held := .access (newId s).1 })

/-! ### Stops, walks, lines -/

theorem CmoFree.coreStop (h : CmoFree L s) (sub n : Nat) : CmoFree L (coreStop s L sub n) := by
  unfold Machine.coreStop
  extract_lets _ c _ _ _ _ c1 s1
  have later : CmoFree L { s with freeCtr := s.freeCtr + 65536 } := h.of_cores rfl
  have stopped : CmoFree L s1 := later.setCore rfl
  exact h.ite (stopped.of_cores rfl)

theorem CmoFree.joinWalk (h : CmoFree L s) (page : Nat) (w : Waiter) : CmoFree L (joinWalk s L page w) := by
  unfold Machine.joinWalk
  dsimp only
  split
  · exact h.ite (h.setUnits)
  · exact h.ite (h.setCore ((congrArg Caches.cmo (countWalk_cache _)).trans h.free))

theorem CmoFree.threadXlate (h : CmoFree L s) (mode : Mode) (acc : Acc) (va : Nat) (f : FInfo) :
    CmoFree L (threadXlate s L t mode acc va f).state := by
  unfold Machine.threadXlate
  dsimp only
  split
  · split <;> exact h
  · exact .ite_of ((h.joinWalk _ _).modT _) h

theorem CmoFree.checkTags (h : CmoFree L s) (va : Nat) : CmoFree L (checkTags s L va) :=
  h.foldl _ (fun _ _ hs => hs.ite ((hs.coreStop 4 0).ite (hs.setUnits)))

theorem dropWay_cmo (k : Caches) (counts : Bool) (key : Nat) (l : DLine) : (dropWay k counts key l).cmo = k.cmo := by
  unfold dropWay
  split <;> rfl

/-- Whether the line that a read met stays or goes, the operation stands. -/
theorem metLine_cmo (k : Caches) (p : Prop) [Decidable p] (d : SMap DLine) (key : Nat) (l : DLine) :
    (if p then { k with d := d } else dropWay k false key l).cmo = k.cmo := by
  split
  · rfl
  · exact dropWay_cmo ..

theorem CmoFree.dcMeet (h : CmoFree L s) (va n : Nat) : CmoFree L (dcMeet s L va n) := by
  have checked := h.checkTags va
  unfold Machine.dcMeet
  generalize Machine.checkTags s L va = z at checked
  dsimp only
  split
  · exact checked
  · exact checked.ite (checked.setUnits (metLine_cmo ..))

theorem CmoFree.writeBack (h : CmoFree L s) (l : DLine) : CmoFree L (writeBack s L l) := by
  have asked : CmoFree L (Machine.addOut (newId s).2 L (newId s).1 .wback l.home) := .addOut (h.of_cores (z := (newId s).2) rfl) ..
  exact (asked.modCore (f := fun c => { c with cache := { c.cache with
    wbb := c.cache.wbb ++ [((newId s).1, l.home)], dcCorr := satAdd 0xFFFF c.cache.dcCorr (lineMeet l 0 64).2.1,
    dcUe := satAdd 0xFFFF c.cache.dcUe (lineMeet l 0 64).2.2 } }) (fun _ => rfl)).sendWrite ..

theorem CmoFree.evict (h : CmoFree L s) (l : DLine) : CmoFree L (evict s L l) := by
  refine h.ite (.ite (h.writeBack l) ?_)
  split
  · exact h.of_cores rfl
  · exact h

theorem CmoFree.installLine (h : CmoFree L s) {l : DLine} (installed : installLine s L l = some z) : CmoFree L z := by
  unfold Machine.installLine at installed
  split at installed
  · cases installed
  · obtain rfl := Option.some.inj installed
    have later : CmoFree L { s with freeCtr := s.freeCtr + 1 } := h.of_cores rfl
    exact (later.evict _).modCore (fun _ => rfl)

theorem CmoFree.sideDrop (h : CmoFree L s) (va : Nat) : CmoFree L (sideDrop s L va) := by
  unfold Machine.sideDrop
  split
  · next taken => exact h.setCore ((sideTake_cmo taken).trans h.free)
  · exact h

theorem CmoFree.sideMove (h : CmoFree L s) {va : Nat} (moved : sideMove s L va = some z) : CmoFree L z := by
  unfold Machine.sideMove at moved
  split at moved
  · next taken => exact (h.setCore ((sideTake_cmo taken).trans h.free)).installLine moved
  · exact Option.some.inj moved ▸ h

theorem CmoFree.mergeAt (h : CmoFree L s) (va : Nat) (data : List Byte) (dirty : Bool) : CmoFree L (mergeAt s L va data dirty) := by
  unfold Machine.mergeAt
  dsimp only
  split
  · exact h.setUnits
  · exact h

/-! ### Whole accesses -/

theorem CmoFree.placesOf (h : CmoFree L s) (mode : Mode) (acc : Acc) (f : FInfo) (l : List (Nat × Nat)) :
    CmoFree L (placesOf s L t mode acc f l).state := by
  induction l generalizing s with
  | nil => exact h
  | cons a r ih =>
    rw [Machine.placesOf]
    exact (h.threadXlate mode acc a.1 f).andThen (fun _ _ walked => (ih walked).andThen (fun _ _ rest => rest))

theorem CmoFree.resolve (h : CmoFree L s) (mode : Mode) (acc : Acc) (va n : Nat) (f : FInfo) :
    CmoFree L (resolve s L t mode acc va n f).state := by
  unfold Machine.resolve
  split
  · exact h
  · exact .ite_of h h
  · exact .ite_of h (h.placesOf ..)

theorem CmoFree.homeWrite (h : CmoFree L s) (f : FInfo) (a : Home) (data : List Byte) (merge : Option Nat) :
    CmoFree L (homeWrite s L t f a data merge).state := by
  unfold Machine.homeWrite
  extract_lets ask
  have asked : CmoFree L ask.state := by
    dsimp only [ask]
    split
    · exact h
    · exact .ite_of h ((h.threadAsks _ a).sendWrite ..)
  split
  · refine .ite_of asked ?_
    split
    · exact h.spadWrite ..
    · exact h.foldl _ (fun _ k hs => hs.noteSpadUE (8 * k))
  · exact asked

theorem CmoFree.writePlace (h : CmoFree L s) (f : FInfo) (alloc : Bool) (p : Place) (data : List Byte) :
    CmoFree L (writePlace s L t f alloc p data).state := by
  unfold Machine.writePlace
  refine .ite_of (h.homeWrite ..) ?_
  extract_lets _ _ s1 _ put s2 s3
  have met : CmoFree L s1 := h.dcMeet p.va p.n
  have puts (z : State) (hz : CmoFree L z) : CmoFree L (put z).state := (hz.mergeAt p.va data true).accKeep _
  have hit : CmoFree L s2 := met.pmcEvent ..
  have miss : CmoFree L s3 := met.pmcEvent ..
  split
  · exact h
  refine .ite_of met ?_
  split
  · exact .ite_of (puts _ hit) (hit.homeWrite ..)
  refine .ite_of met (.ite_of ((miss.sideDrop p.va).homeWrite ..) (.ite_of ?_ (.ite_of (met.homeWrite ..) (.ite_of met ?_))))
  · split
    · next moved => exact puts _ ((met.sideMove moved).modCore (fun c => by rw [pmcEvent_cache]))
    · exact met
  · split
    · next asked => exact ((miss.threadAsks _ _).along (g := Prod.snd) asked).sendRead ..

theorem CmoFree.writePlaces (h : CmoFree L s) (f : FInfo) (alloc : Bool) (ps : List Place) (data : List Byte) :
    CmoFree L (writePlaces s L t f alloc ps data).state := by
  induction ps generalizing s data with
  | nil => exact h
  | cons p r ih =>
    rw [Machine.writePlaces]
    exact (h.writePlace f alloc p _).andThen (fun _ _ written => ih written _)

/-! ### Stream slots and DMA channels -/

theorem CmoFree.unitForward (h : CmoFree L s) (source va reason level : Nat) (write : Bool) :
    CmoFree L (unitForward s L source va reason level write) := by
  unfold Machine.unitForward
  extract_lets c seq w1 xlt s1
  have counted : CmoFree L s1 := h.setUnits
  exact counted.of_cores rfl

/-- The issuer that a fault of a unit takes to FAULT_WAIT keeps the caches. -/
theorem issuer_cache (c : Core) (n : Nat) (f : Thread → Thread) (p : Prop) [Decidable p] :
    (if p then modThr c n f else c).cache = c.cache := by
  split <;> rfl

theorem CmoFree.slotFault (h : CmoFree L s) (p : Prop) [Decidable p] (n : Nat) (f : Thread → Thread) (k : Nat) (q : Slot)
    (unit index thread : Nat) (fw : Bool) (cause : Nat) :
    CmoFree L (Machine.setCore s L
      (queueEvent (setSlot (if p then modThr (getCore s L) n f else getCore s L) k q) unit index thread fw cause)) := by
  refine h.setUnits ?_
  rw [queueEvent_cache, setSlot_cache, issuer_cache]

theorem CmoFree.slotEnter (h : CmoFree L s) (k : Nat) (w : Why) : CmoFree L (slotEnter s L k w) := by
  unfold Machine.slotEnter
  dsimp only
  split
  · exact h.modSlot ..
  · exact h.slotFault ..
  · exact h.slotFault ..
  · exact h.slotFault ..
  · exact .ite (h.slotFault ..) (h.slotFault ..)
  · exact (h.modSlot ..).unitForward ..

theorem CmoFree.slotStop (h : CmoFree L s) (k : Nat) : CmoFree L (slotStop s L k) := by
  have asked := h.modSlot k (fun q => if q.st = 1 ∧ q.stopping = none then { q with stopping := some (2 ^ 64, .stopCmd) } else q)
  unfold Machine.slotStop slotSettle
  dsimp only
  split
  · exact asked
  · exact asked.ite (.slotEnter (asked.setUnits) ..)

theorem CmoFree.chanWriteBack (h : CmoFree L s) (k result : Nat) (done : Bool) (crc : BitVec 32) (n : Nat) :
    CmoFree L (chanWriteBack s L k result done crc n) := h.ite (h.spadWrite ..)

theorem CmoFree.chanFault (h : CmoFree L s) (k st cause err result : Nat) : CmoFree L (chanFault s L k st cause err result) := by
  unfold Machine.chanFault
  extract_lets c q n fw c1 c2 s1
  have failed : CmoFree L s1 := by
    refine h.setUnits ?_
    rw [queueEvent_cache, setChan_cache]
    exact congrArg Caches.cmo (issuer_cache ..)
  exact failed.ite (failed.chanWriteBack ..)

theorem CmoFree.chanAbort (h : CmoFree L s) (k : Nat) : CmoFree L (chanAbort s L k) := by
  unfold Machine.chanAbort
  exact (h.chanWriteBack ..).modChan ..

theorem CmoFree.chanEnter (h : CmoFree L s) (k : Nat) (w : Why) : CmoFree L (chanEnter s L k w) := by
  unfold Machine.chanEnter
  refine .ite (h.chanAbort k) ?_
  split
  · exact (h.modChan ..).chanWriteBack ..
  · exact h.chanFault ..
  · exact h.chanFault ..
  · exact h.chanFault ..
  · exact .ite ((h.modChan ..).chanFault ..) ((h.modChan ..).chanFault ..)
  · exact ((h.modChan ..).chanWriteBack ..).unitForward ..

theorem CmoFree.chanSettle (h : CmoFree L s) (k : Nat) : CmoFree L (chanSettle s L k) := by
  unfold Machine.chanSettle
  dsimp only
  split
  · exact h
  · exact h.ite (.chanEnter (h.setUnits) ..)

theorem CmoFree.chanStop (h : CmoFree L s) (k : Nat) (abort : Bool) : CmoFree L (chanStop s L k abort) := (h.modChan ..).chanSettle k

/-! ### Boundaries -/

theorem CmoFree.haltUnits (h : CmoFree L s) : CmoFree L (haltUnits s L) :=
  h.ite (((h.setUnits).foldl _ (fun _ k hs => hs.slotStop k)).foldl _ (fun _ k hs => hs.chanStop k false))

theorem CmoFree.haltThread (h : CmoFree L s) (kind index addr : Nat) : CmoFree L (haltThread s L t kind index addr) := by
  unfold Machine.haltThread
  extract_lets _ c _ c1 c2
  have hit : c1.cache = (getCore s L).cache := by
    dsimp only [c1]
    split <;> rfl
  have others : c2.cache = (getCore s L).cache := by
    dsimp only [c2]
    split
    · refine (foldl_cache (fun d u => ?_) c1 _).trans hit
      split
      · rfl
      · split <;> rfl
    · exact hit
  exact (h.setCore ((congrArg Caches.cmo others).trans h.free)).haltUnits

theorem CmoFree.lastResort (h : CmoFree L s) (e : Entry) : CmoFree L (lastResort s L t e) :=
  .ite ((h.spadWrite ..).coreStop 1 0) ((h.spadWrite ..).modCore (fun _ => by rw [queueEvent_cache]; rfl))

theorem CmoFree.enterStep (h : CmoFree L s) : CmoFree L (enterStep s L t) := by
  unfold Machine.enterStep
  extract_lets _ _ _
  split
  · exact h
  refine h.ite (.ite (h.lastResort _) ?_)
  split
  · next failed => exact .lastResort ((h.resolve ..).along (g := AR.state) failed) _
  · next held => exact (h.resolve ..).along (g := AR.state) held
  next places =>
    have resolved := (h.resolve ..).along (g := AR.state) places
    split
    · next failed => exact .lastResort ((resolved.writePlaces ..).along (g := AR.state) failed) _
    · next held => exact (resolved.writePlaces ..).along (g := AR.state) held
    next written =>
      have pushed := (resolved.writePlaces ..).along (g := AR.state) written
      extract_lets s1
      have entered : CmoFree L s1 := pushed.modCore (fun c => by rw [pmcEvent_cache]; rfl)
      exact .ite ((entered.modT _).haltThread 3 0 0) entered

theorem CmoFree.debugHit (h : CmoFree L s) (kind index addr : Nat) : CmoFree L (debugHit s L t kind index addr) := by
  unfold Machine.debugHit
  refine .ite ?_ (h.haltThread ..)
  exact .enterStep (.modT (h.setCore (c := { modThr (getCore s L) t _ with dbg := _ }) h.free) _)

theorem CmoFree.takeAsked (h : CmoFree L s) : CmoFree L (takeAsked s L t) := by
  unfold Machine.takeAsked
  dsimp only
  split
  · exact h.debugHit ..
  · exact .ite (h.modT _) h

/-- An instruction that completes begins no cache maintenance. -/
theorem CmoFree.finish (h : CmoFree L s) (nx : Nx) : CmoFree L (finish s L t nx) := by
  have advanced : CmoFree L (Machine.modT s L t (fun h => advance { h with held := .none, acc := [] } nx)) := h.modT _
  exact .ite advanced (.ite (advanced.debugHit 3 0 0) advanced.takeAsked)

end

end Sys2Proof.Machine
end

section
/-! PROOFS. Cache maintenance that causes no write-back (O40): an `out` to CMO_CMD begins an operation and, in the same step, the operation
acts on its lines and ends. -/

namespace Sys2Proof.Machine
open Sys2Proof.Claims

/-! ### A core with other caches -/

/-- Core L with thread t held for maintenance. -/
abbrev cmoHeld (s : State) (L t : Nat) : State := modT s L t (fun h => { h with held := .cmo })

/-- The caches with an operation in progress. -/
abbrev withCmo (k : Caches) (x : CmoRun) : Caches := { k with cmo := some x }

/-- Core L with caches k. -/
def putCache (s : State) (L : Nat) (k : Caches) : State := modCore s L (fun c => { c with cache := k })

section
variable {s : State} {L t : Nat} {k k' : Caches} (rise : rising s.cores = true)
include rise

theorem rising_putCache : rising (putCache s L k).cores = true := rising_modCore rise L _

theorem getCore_putCache : getCore (putCache s L k) L = { getCore s L with cache := k } := getCore_modCore rise L _

/-- A change of the caches alone of a core with caches k. -/
theorem modCore_putCache {f : Core → Core} (changes : ∀ c : Core, f { c with cache := k } = { c with cache := k' }) :
    modCore (putCache s L k) L f = putCache s L k' := by
  rw [putCache, modCore_modCore rise, changes]
  rfl

theorem modCmo_putCache {x : CmoRun} (f : CmoRun → CmoRun) :
    modCmo (putCache s L (withCmo k x)) L f = putCache s L (withCmo k (f x)) :=
  modCore_putCache rise (fun _ => rfl)

theorem cmoResult_putCache {x : CmoRun} (r n : Nat) :
    cmoResult (putCache s L (withCmo k x)) L r n = putCache s L (withCmo k { x with result := some r, lines := n }) :=
  modCmo_putCache rise _

/-- A thread's change and one of the caches commute. -/
theorem modT_putCache (f : Thread → Thread) : modT (putCache s L k) L t f = putCache (modT s L t f) L k := by
  rw [modT, putCache, putCache, modT, modCore_modCore rise, modCore_modCore rise]
  rfl

/-- Of two changes of a thread the later sees the earlier. -/
theorem modT_modT (threads : rising (getCore s L).thr = true) (f g : Thread → Thread) :
    modT (modT s L t f) L t g = modT s L t (fun h => g (f h)) := by
  have both : modThr (modThr (getCore s L) t f) t g = modThr (getCore s L) t (fun h => g (f h)) := by
    rw [modThr, modThr, getThr_setThr threads]
    simp only [setThr, mput_mput threads, modThr]
  rw [modT, modT, modCore_modCore rise, both]
  rfl

end

/-- An instruction that completes forgets that its thread was held for maintenance. -/
theorem finish_held {s : State} {L t : Nat} (rise : rising s.cores = true) (threads : rising (getCore s L).thr = true) (nx : Nx) :
    finish (cmoHeld s L t) L t nx = finish s L t nx := by
  rw [finish, modT_modT rise threads, finish]

/-! ### An operation that ends in the step in which it begins -/

/-- The operation that a thread's `out` of v begins. -/
def cmoBegun (t : BitVec 4) (k : Caches) (v : Word) : CmoRun :=
  { who := .thread t, cmd := v, next := 0, lines := 0, wb := 0, ids := [], fill := none, line := none,
    result := if cmoCheck k v = 0 then none else some (cmoCheck k v) }

/-- The operation x of core L, whose caches are k, gets RESULT r with n lines at once, and leaves the caches k'. -/
def CmoRuns (s : State) (L : Nat) (k : Caches) (x : CmoRun) (k' : Caches) (r n : Nat) : Prop :=
  ∃ next, cmoStep (putCache s L (withCmo k x)) L =
    putCache s L (withCmo k' { x with next := next, result := some r, lines := n })

section
variable {s : State} {L : Nat} {k k' : Caches} {t : BitVec 4} {v : Word} {r n : Nat}

/-- The operation ends, and with it the `out` of its thread. -/
theorem cmoPump_ends (rise : rising s.cores = true) (threads : rising (getCore s L).thr = true) (free : k'.cmo = none)
    (last : k'.cmoWait = []) {y : State} (begun : y = cmoHeld s L t.toNat)
    (runs : CmoRuns y L k (cmoBegun t k v) k' r n) :
    cmoPump (putCache y L (withCmo k (cmoBegun t k v))) L = finish (putCache s L (cmoDone k' r n 0)) L t.toNat .seq := by
  obtain ⟨next, step⟩ := runs
  have riseY : rising y.cores = true := begun ▸ rising_modCore rise _ _
  have ended : cmoEnd (putCache y L (withCmo k' { cmoBegun t k v with next := next, result := some r, lines := n })) L
      { cmoBegun t k v with next := next, result := some r, lines := n } = putCache y L (cmoDone k' r n 0) :=
    modCore_putCache riseY (fun c => by rw [cmoDone, ← free]; rfl)
  have held : (thrOf (putCache y L (cmoDone k' r n 0)) L t.toNat).held = .cmo := by
    rw [thrOf, getCore_putCache riseY, begun]
    exact congrArg Thread.held (thrOf_modT rise threads _)
  have waits : (getCore (putCache y L (cmoDone k' r n 0)) L).cache.cmoWait = [] := by
    rw [getCore_putCache riseY]
    exact last
  have ends : cmoEnded (getCore (putCache y L (withCmo k' { cmoBegun t k v with next := next, result := some r, lines := n })) L) =
      some { cmoBegun t k v with next := next, result := some r, lines := n } := by
    rw [getCore_putCache riseY]
    rfl
  simp only [cmoPump, step, ends, ended, waits]
  refine (if_pos held).trans ?_
  rw [begun, ← modT_putCache rise, finish_held (rising_putCache rise)]
  rw [getCore_putCache rise]
  exact threads

theorem cmoPump_free {z : State} (h : CmoFree L z) : cmoPump z L = z := by
  have rests : cmoStep z L = z := by rw [cmoStep, h.free]
  rw [cmoPump, rests, cmoEnded, h.free]

/-- What follows is the same after the maintenance that is left to do. -/
theorem tidy_pumped {a z : State} (pumped : cmoPump a L = z) (h : CmoFree L z) (b : State) : tidy b a L = tidy b z L := by
  simp only [tidy, pumped, cmoPump_free h]

end

/-! ### The words of CMO_CMD -/

section
variable {v : Word} {op : Nat} (small : op < 8)
include small

theorem withField_op : (withField v 0 3 op).toNat = op + v.toNat / 8 * 8 := by
  have below := v.isLt
  simp only [withField, w64, BitVec.toNat_ofNat]
  omega

theorem bits_op : bits (withField v 0 3 op) 2 0 = op := by
  simp only [bits, withField_op small]
  omega

theorem bits_above_op {hi lo : Nat} (above : 3 ≤ lo) : bits (withField v 0 3 op) hi lo = bits v hi lo := by
  obtain ⟨j, rfl⟩ := Nat.exists_eq_add_of_le above
  have tail : (op + v.toNat / 8 * 8) / 8 = v.toNat / 8 := by omega
  rw [bits, bits, withField_op small, Nat.pow_add, ← Nat.div_div_eq_div_mul, ← Nat.div_div_eq_div_mul]
  exact congrArg (fun m => m / 2 ^ j % _) tail

theorem bit_above_op {i : Nat} (above : 3 ≤ i) : bit (withField v 0 3 op) i = v.getLsbD i := by
  obtain ⟨j, rfl⟩ := Nat.exists_eq_add_of_le' above
  have tail : (op + v.toNat / 8 * 8) / 2 ^ 3 = v.toNat / 2 ^ 3 := by omega
  rw [bit, BitVec.getLsbD, BitVec.getLsbD, withField_op small, ← Nat.testBit_div_two_pow, ← Nat.testBit_div_two_pow, tail]

end

end Sys2Proof.Machine
end

section
/-! PROOFS. The walk of a maintenance operation over the D-cache (O40), where no line of it has to be written back. -/

namespace Sys2Proof.Machine
open Sys2Proof.Claims

/-! ### Ways of a D-cache -/

section
variable {α : Type}

/-- A write at a key changes no entry above it. -/
theorem filter_above_mput [DecidableEq α] (d v : α) (key : Nat) (p : Nat × α → Bool) (m : SMap α) :
    (mput d key v m).filter (fun e => decide (key + 1 ≤ e.1) && p e) = m.filter (fun e => decide (key + 1 ≤ e.1) && p e) := by
  have gone (w : α) (r : SMap α) : ((key, w) :: r).filter (fun e => decide (key + 1 ≤ e.1) && p e) =
      r.filter (fun e => decide (key + 1 ≤ e.1) && p e) := List.filter_cons_of_neg (by simp)
  induction m with
  | nil =>
    rw [mput]
    split
    · rfl
    · exact gone v []
  | cons e r ih =>
    obtain ⟨j, w⟩ := e
    rw [mput]
    split
    · split
      · rfl
      · exact gone v _
    · split
      · next here =>
        subst here
        split
        · exact (gone w r).symm
        · exact (gone v r).trans (gone w r).symm
      · rw [List.filter_cons, ih, List.filter_cons]

theorem le_of_risingFrom {lo : Nat} {m : SMap α} (rise : risingFrom lo m = true) {e : Nat × α} (listed : e ∈ m) : lo ≤ e.1 := by
  induction m generalizing lo with
  | nil => cases listed
  | cons a r ih =>
    simp only [risingFrom, Bool.and_eq_true, decide_eq_true_eq] at rise
    obtain ⟨low, rest⟩ := rise
    obtain rfl | later := List.mem_cons.mp listed
    · exact low
    · exact Nat.le_trans (Nat.le_succ_of_le low) (ih rest later)

/-- Past the first of the entries that rise from a bound come the others. -/
theorem filter_past_first {lo : Nat} {m r : SMap α} {e : Nat × α} {p : Nat × α → Bool} (rise : rising m = true)
    (first : m.filter (fun a => decide (lo ≤ a.1) && p a) = e :: r) : m.filter (fun a => decide (e.1 + 1 ≤ a.1) && p a) = r := by
  have risen : risingFrom 0 (e :: r) = true := first ▸ risingFrom_filter _ rise
  simp only [risingFrom, Bool.and_eq_true] at risen
  obtain ⟨-, above⟩ := risen
  have listed : e ∈ m.filter (fun a => decide (lo ≤ a.1) && p a) := first ▸ List.mem_cons_self
  have bound : lo ≤ e.1 := by
    obtain ⟨-, chosen⟩ := List.mem_filter.mp listed
    simp only [Bool.and_eq_true, decide_eq_true_eq] at chosen
    exact chosen.1
  have split_off : m.filter (fun a => decide (e.1 + 1 ≤ a.1) && p a) = (e :: r).filter (fun a => decide (e.1 + 1 ≤ a.1)) := by
    rw [← first, List.filter_filter]
    refine List.filter_congr (fun a _ => ?_)
    by_cases past : e.1 + 1 ≤ a.1
    · simp [past, show lo ≤ a.1 by omega]
    · simp [past]
  rw [split_off, List.filter_cons_of_neg (by simp)]
  exact List.filter_eq_self.mpr (fun a later => decide_eq_true (le_of_risingFrom above later))

theorem length_le_of_risingFrom {lo hi : Nat} {m : SMap α} (rise : risingFrom lo m = true) (below : ∀ e ∈ m, e.1 < hi) :
    m.length ≤ hi - lo := by
  induction m generalizing lo with
  | nil => exact Nat.zero_le _
  | cons a r ih =>
    simp only [risingFrom, Bool.and_eq_true, decide_eq_true_eq] at rise
    obtain ⟨low, rest⟩ := rise
    have first := below a List.mem_cons_self
    have others := ih rest (fun e later => below e (List.mem_cons_of_mem _ later))
    rw [List.length_cons]
    omega

/-- Writing back what is listed changes nothing. -/
theorem mput_listed [DecidableEq α] {d v : α} (listed : v ≠ d) {lo key : Nat} {m : SMap α} (rise : risingFrom lo m = true)
    (mem : (key, v) ∈ m) : mput d key v m = m := by
  induction m generalizing lo with
  | nil => cases mem
  | cons a r ih =>
    obtain ⟨j, w⟩ := a
    simp only [risingFrom, Bool.and_eq_true, decide_eq_true_eq] at rise
    obtain ⟨low, rest⟩ := rise
    obtain here | later := List.mem_cons.mp mem
    · cases here
      simp [mput, listed]
    · have past : j + 1 ≤ key := le_of_risingFrom rest later
      rw [mput, if_neg (by omega), if_neg (by omega), ih rest later]

end

/-! ### The act on one way -/

section
variable {k : Caches} {op key : Nat} {counts : Bool} {l : DLine}

/-- An act changes at most its own way and the counts of what is dropped. -/
theorem cmoAct_frame (k : Caches) (op : Nat) (counts : Bool) (key : Nat) (l : DLine) :
    ∃ d drops discards, cmoAct k op counts key l = { k with d := d, lockDrops := drops, dirtyDiscards := discards } ∧
      (d = k.d ∨ ∃ l', d = mput DLine.empty key l' k.d) := by
  unfold cmoAct dropWay
  split
  · exact ⟨_, _, _, rfl, .inr ⟨_, rfl⟩⟩
  · split
    · exact ⟨_, _, _, rfl, .inl rfl⟩
    · split
      · exact ⟨_, _, _, rfl, .inr ⟨_, rfl⟩⟩
      · dsimp only
        split <;> split <;> exact ⟨_, _, _, rfl, .inr ⟨_, rfl⟩⟩

/-- An act does not look at the operation. -/
theorem cmoAct_cmo (x : CmoRun) : cmoAct (withCmo k x) op counts key l = withCmo (cmoAct k op counts key l) x := by
  unfold cmoAct dropWay
  split
  · rfl
  · split
    · rfl
    · split
      · rfl
      · dsimp only
        split <;> split <;> rfl

theorem cmoSide_cmo (x : CmoRun) (target : Nat) : cmoSide (withCmo k x) op target = withCmo (cmoSide k op target) x := by
  by_cases drops : op = 2 ∨ op = 3
  · simp only [cmoSide, drops, if_true]
  · simp only [cmoSide, drops, if_false]

end

/-! ### The walk -/

/-- The ways that the operation of a word of CMO_CMD selects. -/
def cmoSel (k : Caches) (w : Word) (e : Nat × DLine) : Bool := cmoSelects k (bits w 4 3) (bits w 15 8) (bits w 17 16) 256 e.1 e.2

/-- The selected ways that a walk has still to act on. -/
def cmoTodo (k : Caches) (x : CmoRun) : List (Nat × DLine) := k.d.filter (fun e => decide (x.next ≤ e.1) && cmoSel k x.cmd e)

/-- The acts of an operation of a thread on ways, one after another. -/
def cmoActs (op : Nat) (k : Caches) (l : List (Nat × DLine)) : Caches := l.foldl (fun k e => cmoAct k op true e.1 e.2) k

/-- The operation would write the way back. -/
def cmoWrites (op : Nat) (l : DLine) : Bool := l.valid && l.dirty && (op == 1 || op == 3)

section
variable {y : State} {L : Nat} {k : Caches} {x : CmoRun}

/-- After the act on the first way the others are still to do. -/
theorem cmoTodo_acted {e : Nat × DLine} {r : List (Nat × DLine)} (rise : rising k.d = true) (todo : cmoTodo k x = e :: r) (op n : Nat) :
    rising (cmoAct k op true e.1 e.2).d = true ∧
      cmoTodo (cmoAct k op true e.1 e.2) { x with next := e.1 + 1, lines := n } = r := by
  obtain ⟨d, drops, discards, acted, same | ⟨l, put⟩⟩ := cmoAct_frame k op true e.1 e.2
  · subst same
    rw [acted]
    exact ⟨rise, filter_past_first rise todo⟩
  · subst put
    rw [acted]
    exact ⟨rising_mput rise _ _, (filter_above_mput ..).trans (filter_past_first rise todo)⟩

section
variable (riseY : rising y.cores = true)
include riseY

/-- The way that a walk looks for is the first that is still to do. -/
theorem find_todo :
    (getCore (putCache y L (withCmo k x)) L).cache.d.find? (fun p => decide (x.next ≤ p.1) &&
      cmoSelects (getCore (putCache y L (withCmo k x)) L).cache (bits x.cmd 4 3) (bits x.cmd 15 8) (bits x.cmd 17 16) 256 p.1 p.2) =
      (cmoTodo k x).head? := by
  rw [getCore_putCache riseY, cmoTodo, List.head?_filter]
  rfl

theorem cmoWalk_ends (fuel : Nat) (todo : cmoTodo k x = []) :
    cmoWalk (fuel + 1) (putCache y L (withCmo k x)) L =
      putCache y L (withCmo k { x with result := some 0 }) := by
  have cmo : (getCore (putCache y L (withCmo k x)) L).cache.cmo = some x := by rw [getCore_putCache riseY]
  simp only [cmoWalk, cmo, find_todo riseY, todo, List.head?_nil]
  exact cmoResult_putCache riseY 0 x.lines

theorem cmoWalk_acts (fuel : Nat) {e : Nat × DLine} {r : List (Nat × DLine)} (asked : (x.who != .switch) = true)
    (todo : cmoTodo k x = e :: r) (clean : cmoWrites (bits x.cmd 2 0) e.2 = false) :
    cmoWalk (fuel + 1) (putCache y L (withCmo k x)) L =
      cmoWalk fuel (putCache y L (withCmo (cmoAct k (bits x.cmd 2 0) true e.1 e.2)
        { x with next := e.1 + 1, lines := x.lines + b2n e.2.valid })) L := by
  have cmo : (getCore (putCache y L (withCmo k x)) L).cache.cmo = some x := by rw [getCore_putCache riseY]
  have acted : modCore (putCache y L (withCmo k x)) L
      (fun c => { c with cache := cmoAct c.cache (bits x.cmd 2 0) true e.1 e.2 }) =
        putCache y L (withCmo (cmoAct k (bits x.cmd 2 0) true e.1 e.2) x) :=
    modCore_putCache riseY (fun c => congrArg (fun k => { c with cache := k }) (cmoAct_cmo x))
  rw [cmoWrites] at clean
  simp only [cmoWalk, cmo, find_todo riseY, todo, List.head?_cons, clean, asked, acted, modCmo_putCache riseY, Bool.false_and,
    Bool.false_eq_true, if_false]
  rfl

end

/-- A walk that writes nothing back acts on every selected way and ends. -/
theorem cmoWalk_runs (riseY : rising y.cores = true) {fuel : Nat} (asked : (x.who != .switch) = true) (rise : rising k.d = true)
    (enough : (cmoTodo k x).length < fuel) (clean : ∀ e ∈ cmoTodo k x, cmoWrites (bits x.cmd 2 0) e.2 = false) :
    ∃ next, cmoWalk fuel (putCache y L (withCmo k x)) L =
      putCache y L (withCmo (cmoActs (bits x.cmd 2 0) k (cmoTodo k x))
        { x with next := next, lines := x.lines + ((cmoTodo k x).filter (fun e => e.2.valid)).length, result := some 0 }) := by
  induction fuel generalizing k x with
  | zero => exact absurd enough (Nat.not_lt_zero _)
  | succ fuel ih =>
    cases todo : cmoTodo k x with
    | nil => exact ⟨x.next, cmoWalk_ends riseY fuel todo⟩
    | cons e r =>
      rw [todo] at enough clean
      obtain ⟨risen, rest⟩ := cmoTodo_acted rise todo (bits x.cmd 2 0) (x.lines + b2n e.2.valid)
      have others := ih (k := cmoAct k (bits x.cmd 2 0) true e.1 e.2) (x := { x with next := e.1 + 1, lines := x.lines + b2n e.2.valid })
        asked risen (by rw [rest]; exact Nat.lt_of_succ_lt_succ enough)
        (fun a later => clean a (List.mem_cons_of_mem _ (rest ▸ later)))
      rw [rest] at others
      obtain ⟨next, walked⟩ := others
      refine ⟨next, ((cmoWalk_acts riseY fuel asked todo (clean e List.mem_cons_self)).trans walked).trans ?_⟩
      have count : x.lines + b2n e.2.valid + (r.filter (fun a => a.2.valid)).length =
          x.lines + ((e :: r).filter (fun a => a.2.valid)).length := by
        cases valid : e.2.valid <;> simp [valid, b2n, Nat.add_assoc, Nat.add_comm]
      rw [← count]
      rfl

end

end Sys2Proof.Machine
end

section
/-! PROOFS. What each operation of cache maintenance leaves (O40), and the instructions that ask for it. -/

namespace Sys2Proof.Machine
open Sys2Proof.Claims

/-! ### The ways that an operation has acted on -/

/-- The lines of these ways are dropped, one after another. -/
def dropWays (k : Caches) (l : List (Nat × DLine)) : Caches := l.foldl (fun k e => dropWay k true e.1 e.2) k

/-- DIRTY_DISCARDS after these lines are discarded, all of them dirty. -/
def discarded (n : Nat) (l : List (Nat × DLine)) : Nat := if l = [] then n else satAdd 0xFFFFFFFF n l.length

/-- The valid lines of ways, and of them the dirty ones. -/
abbrev validOf (l : List (Nat × DLine)) : List (Nat × DLine) := l.filter (fun e => e.2.valid)
abbrev dirtyOf (l : List (Nat × DLine)) : List (Nat × DLine) := (validOf l).filter (fun e => e.2.dirty)

section
variable {k : Caches} {e : Nat × DLine} {l : List (Nat × DLine)}

/-- What is dropped depends neither on the side buffer nor on the count of discards. -/
theorem dropWays_side (side : List DLine) : dropWays { k with side := side } l = { dropWays k l with side := side } := by
  refine List.foldl_hom (fun k : Caches => { k with side := side }) (fun k e => ?_)
  unfold dropWay
  split <;> rfl

theorem dropWays_discards (n : Nat) : dropWays { k with dirtyDiscards := n } l = { dropWays k l with dirtyDiscards := n } := by
  refine List.foldl_hom (fun k : Caches => { k with dirtyDiscards := n }) (fun k e => ?_)
  unfold dropWay
  split <;> rfl

theorem dropWay_discards (key : Nat) (m : DLine) : (dropWay k true key m).dirtyDiscards = k.dirtyDiscards := by
  unfold dropWay
  split <;> rfl

theorem cmoAct_invalid {op : Nat} (other : op ≠ 5) (invalid : e.2.valid = false) : cmoAct k op true e.1 e.2 = k := by
  simp only [cmoAct, other, invalid, Bool.not_false, if_true, if_false]

/-- Operations but UNLOCK act on valid lines only. -/
theorem cmoActs_validOf {op : Nat} (other : op ≠ 5) : cmoActs op k (validOf l) = cmoActs op k l := by
  induction l generalizing k with
  | nil => rfl
  | cons e r ih =>
    rw [validOf, List.filter_cons]
    split
    · exact ih (k := cmoAct k op true e.1 e.2)
    · next invalid =>
      refine (ih (k := k)).trans (congrArg (cmoActs op · r) ?_)
      exact (cmoAct_invalid other (by simpa using invalid)).symm

/-- CLEAN_INV drops the valid lines. -/
theorem cmoActs_cleanInv : cmoActs 3 k l = dropWays k (validOf l) := by
  rw [← cmoActs_validOf (by decide)]
  refine List.foldl_ext _ _ _ (fun c e listed => ?_)
  obtain ⟨-, valid⟩ := List.mem_filter.mp listed
  simp [cmoAct, valid]

theorem satAdd_satAdd (top n a b : Nat) : satAdd top (satAdd top n a) b = satAdd top n (a + b) := by
  change min top (min top (n + a) + b) = min top (n + (a + b))
  omega

theorem discarded_cons (n : Nat) (e : Nat × DLine) (r : List (Nat × DLine)) :
    discarded n ((e :: r).filter (fun e => e.2.dirty)) =
      discarded (if e.2.dirty then satAdd 0xFFFFFFFF n 1 else n) (r.filter (fun e => e.2.dirty)) := by
  rw [List.filter_cons]
  split
  · rw [discarded, discarded, if_neg (List.cons_ne_nil _ _), List.length_cons, Nat.add_comm _ 1, ← satAdd_satAdd]
    split
    · next none =>
      rw [none]
      exact satAdd_satAdd ..
    · rfl
  · rfl

/-- INV drops the valid lines and counts the dirty ones. -/
theorem cmoActs_inv : cmoActs 2 k l = { dropWays k (validOf l) with dirtyDiscards := discarded k.dirtyDiscards (dirtyOf l) } := by
  rw [← cmoActs_validOf (by decide), dirtyOf]
  have valid : ∀ e ∈ validOf l, e.2.valid = true := fun e listed => (List.mem_filter.mp listed).2
  generalize validOf l = lines at valid
  induction lines generalizing k with
  | nil => rfl
  | cons e r ih =>
    have acts : cmoAct k 2 true e.1 e.2 = { dropWay k true e.1 e.2 with
        dirtyDiscards := if e.2.dirty then satAdd 0xFFFFFFFF k.dirtyDiscards 1 else k.dirtyDiscards } := by
      have count : (dropWay k true e.1 e.2).dirtyDiscards = k.dirtyDiscards := dropWay_discards ..
      cases dirty : e.2.dirty with
      | false => simp [cmoAct, valid e List.mem_cons_self, dirty, ← count]
      | true => simp [cmoAct, valid e List.mem_cons_self, dirty, count]
    rw [cmoActs, List.foldl_cons, acts, discarded_cons]
    refine (ih (fun a later => valid a (List.mem_cons_of_mem _ later))).trans ?_
    rw [dropWays_discards]
    rfl

/-- CLEAN of lines that are not dirty changes nothing. -/
theorem cmoActs_clean (rise : rising k.d = true) (listed : ∀ e ∈ l, e ∈ k.d) (clean : dirtyOf l = []) : cmoActs 1 k l = k := by
  refine foldl_fix _ _ _ (fun e mem => ?_)
  cases valid : e.2.valid with
  | false => exact cmoAct_invalid (by decide) valid
  | true =>
    have rests : e.2.dirty = false := by
      simpa using List.filter_eq_nil_iff.mp clean e (List.mem_filter.mpr ⟨mem, valid⟩)
    have there : e.2 ≠ DLine.empty := fun empty => by rw [empty] at valid; cases valid
    have same : { e.2 with dirty := false } = e.2 := by rw [← rests]
    have put : mput DLine.empty e.1 e.2 k.d = k.d := mput_listed there rise (listed e mem)
    have acts : cmoAct k 1 true e.1 e.2 = { k with d := mput DLine.empty e.1 { e.2 with dirty := false } k.d } := by
      rw [cmoAct, if_neg (by decide), if_neg (by simp [valid]), if_pos rfl]
    rw [acts, same, put]

/-- UNLOCK unlocks the lines and gives up the ways that are reserved. -/
theorem cmoActs_unlock : cmoActs 5 k l = { k with
    d := l.foldl (fun d e => mput DLine.empty e.1 (if e.2.valid then { e.2 with locked := false } else DLine.empty) d) k.d } := by
  induction l generalizing k with
  | nil => rfl
  | cons e r ih =>
    rw [cmoActs, List.foldl_cons]
    exact ih

/-- The side-buffer lines that an operation leaves there. -/
def sideStays (k : Caches) (target : Nat) (l : DLine) : Bool :=
  !(target == 3 || (target == 0 && l.va == lineOf k.cmoAddr) ||
    (target == 1 && decide (l.va < k.cmoAddr + k.cmoLen) && decide (k.cmoAddr < l.va + 64) && k.cmoLen != 0))

theorem cmoSide_drops {op target : Nat} (drops : op = 2 ∨ op = 3) (field : target < 4) :
    cmoSide k op target = { k with side := k.side.filter (sideStays k target) } := by
  have stays (hit : DLine → Bool) (same : ∀ l, hit l = !sideStays k target l) :
      { k with side := k.side.filter (fun l => !hit l) } = { k with side := k.side.filter (sideStays k target) } := by
    simp only [same, Bool.not_not]
  simp only [cmoSide, drops, if_true]
  refine stays _ (fun l => ?_)
  match target, field with
  | 0, _ => simp [sideStays]
  | 1, _ => simp [sideStays]
  | 2, _ => simp [sideStays]
  | 3, _ => simp [sideStays]

theorem cmoSide_stays {op target : Nat} (clean : op ≠ 2) (other : op ≠ 3) : cmoSide k op target = k :=
  if_neg (fun drops => drops.elim clean other)

/-- Lines that are not dirty are not written back. -/
theorem cmoWrites_clean {op : Nat} (clean : dirtyOf l = []) : ∀ e ∈ l, cmoWrites op e.2 = false := by
  intro e listed
  cases valid : e.2.valid with
  | false => simp [cmoWrites, valid]
  | true => simp [cmoWrites, List.filter_eq_nil_iff.mp clean e (List.mem_filter.mpr ⟨listed, valid⟩)]

/-- No act begins an operation or asks for one. -/
theorem cmoActs_rests {op : Nat} (rests : k.cmo = none) (last : k.cmoWait = []) :
    (cmoActs op k l).cmo = none ∧ (cmoActs op k l).cmoWait = [] := by
  refine List.foldlRecOn (motive := fun c : Caches => c.cmo = none ∧ c.cmoWait = []) _ _ ⟨rests, last⟩ (fun c kept e _ => ?_)
  obtain ⟨_, _, _, acted, -⟩ := cmoAct_frame c op true e.1 e.2
  rw [acted]
  exact kept

theorem cmoSide_rests {op target : Nat} (rests : k.cmo = none) (last : k.cmoWait = []) :
    (cmoSide k op target).cmo = none ∧ (cmoSide k op target).cmoWait = [] := by
  by_cases drops : op = 2 ∨ op = 3
  · simp only [cmoSide, drops, if_true, rests, last, and_self]
  · simp only [cmoSide, drops, if_false, rests, last, and_self]

end

end Sys2Proof.Machine
end

section
/-! PROOFS. Cache maintenance and cache events (O40). -/

namespace Sys2Proof.Machine
open Sys2Proof.Claims

/-! ### The step of an operation -/

section
variable {y : State} {L : Nat} {k : Caches} {t : BitVec 4} {w : Word}

/-- An operation that the checks refuse has its RESULT as it begins. -/
theorem cmoRuns_refused (riseY : rising y.cores = true) {r : Nat} (check : cmoCheck k w = r) (bad : r ≠ 0) :
    CmoRuns y L k (cmoBegun t k w) k r 0 := by
  subst check
  refine ⟨0, ?_⟩
  have begun : cmoBegun t k w = { cmoBegun t k w with next := 0, result := some (cmoCheck k w), lines := 0 } := by
    simp only [cmoBegun, bad, if_false]
  rw [← begun, cmoStep, getCore_putCache riseY]
  exact if_pos (.inl (by rw [begun]; rfl))

section
variable (riseY : rising y.cores = true) (active : (getCore y L).sup.stopped = false)
  (pending : cmoFillPending { getCore y L with cache := k } (bits w 4 3) = false) (sound : cmoCheck k w = 0) (data : bit w 5 = false)
include riseY active pending sound data

/-- An operation that the checks let pass goes to its lines: LOCK to its line, another to the side buffer and the selected ways. -/
theorem cmoStep_goes (acts : bits w 2 0 ≠ 0) :
    cmoStep (putCache y L (withCmo k (cmoBegun t k w))) L =
      if bits w 2 0 = 4 then cmoLock (putCache y L (withCmo k (cmoBegun t k w))) L (cmoBegun t k w)
      else cmoWalk 1025 (putCache y L (withCmo (cmoSide k (bits w 2 0) (bits w 4 3)) (cmoBegun t k w))) L := by
  have core : getCore (putCache y L (withCmo k (cmoBegun t k w))) L =
      { getCore y L with cache := withCmo k (cmoBegun t k w) } := getCore_putCache riseY
  have free : cmoFillPending { getCore y L with cache := withCmo k (cmoBegun t k w) } (bits w 4 3) = false := pending
  have begun : (cmoBegun t k w).result = none := by rw [cmoBegun, sound]; rfl
  have side : modCore (putCache y L (withCmo k (cmoBegun t k w))) L
      (fun c => { c with cache := cmoSide c.cache (bits w 2 0) (bits w 4 3) }) =
        putCache y L (withCmo (cmoSide k (bits w 2 0) (bits w 4 3)) (cmoBegun t k w)) :=
    modCore_putCache riseY (fun c => congrArg (fun k => { c with cache := k }) (cmoSide_cmo _ _))
  have word : (cmoBegun t k w).cmd = w := rfl
  simp only [cmoStep, core, begun, word, active, acts, free, data, side, Option.isSome_none, Bool.false_eq_true, or_self, if_false]

/-- An operation that writes nothing back acts on the selected ways and answers 0. -/
theorem cmoRuns_walk {op : Nat} (code : bits w 2 0 = op) (some_op : op ≠ 0) (not_lock : op ≠ 4) (rise : rising k.d = true)
    (ways : ∀ e ∈ k.d, e.1 < 1024) (clean : ∀ e ∈ k.d.filter (cmoSel k w), cmoWrites op e.2 = false) :
    CmoRuns y L k (cmoBegun t k w) (cmoActs op (cmoSide k op (bits w 4 3)) (k.d.filter (cmoSel k w))) 0
      (validOf (k.d.filter (cmoSel k w))).length := by
  subst code
  have goes := (cmoStep_goes (t := t) riseY active pending sound data some_op).trans (if_neg not_lock)
  obtain ⟨side, filtered⟩ : ∃ side, cmoSide k (bits w 2 0) (bits w 4 3) = { k with side := side } := by
    by_cases drops : bits w 2 0 = 2 ∨ bits w 2 0 = 3
    · exact ⟨_, cmoSide_drops drops (Nat.mod_lt _ (by decide))⟩
    · obtain ⟨not_inv, not_cleanInv⟩ := not_or.mp drops
      exact ⟨k.side, cmoSide_stays not_inv not_cleanInv⟩
  have todo : cmoTodo { k with side := side } (cmoBegun t k w) = k.d.filter (cmoSel k w) :=
    List.filter_congr (fun e _ => by
      rw [show (cmoBegun t k w).next = 0 from rfl, decide_eq_true (Nat.zero_le _), Bool.true_and]
      rfl)
  rw [filtered] at goes ⊢
  have few : (k.d.filter (cmoSel k w)).length < 1025 :=
    Nat.lt_succ_of_le ((List.length_filter_le ..).trans (length_le_of_risingFrom rise ways))
  obtain ⟨next, walked⟩ := cmoWalk_runs (k := { k with side := side }) (x := cmoBegun t k w) (L := L) riseY (fuel := 1025) rfl rise
    (by rw [todo]; exact few) (by rw [todo]; exact clean)
  rw [todo] at walked
  refine ⟨next, (goes.trans walked).trans ?_⟩
  rw [show (cmoBegun t k w).lines = 0 from rfl, Nat.zero_add]
  rfl

/-- LOCK of a line that is locked already has nothing to do (R286). -/
theorem cmoRuns_locked {key : Nat} {l : DLine} (code : bits w 2 0 = 4)
    (tags : ∀ i < 4, (mget DLine.empty k.d (4 * (k.cmoAddr / 64 % 256) + i)).tagBad = false)
    (found : findLine k.d 256 k.cmoAddr = some (key, l)) (whole : l.flips = []) (locked : l.locked = true) :
    CmoRuns y L k (cmoBegun t k w) k 0 1 := by
  have goes := (cmoStep_goes (t := t) riseY active pending sound data (by rw [code]; decide)).trans (if_pos code)
  have core : getCore (putCache y L (withCmo k (cmoBegun t k w))) L =
      { getCore y L with cache := withCmo k (cmoBegun t k w) } := getCore_putCache riseY
  have checked : checkTags (putCache y L (withCmo k (cmoBegun t k w))) L k.cmoAddr =
      putCache y L (withCmo k (cmoBegun t k w)) :=
    foldl_fix _ _ _ (fun i low => by simp only [core, tags i (List.mem_range.mp low), Bool.not_false, if_true])
  have met : dcMeet (putCache y L (withCmo k (cmoBegun t k w))) L k.cmoAddr 0 =
      putCache y L (withCmo k (cmoBegun t k w)) := by
    simp only [dcMeet, checked, core, found, whole, List.isEmpty_nil, if_true]
  refine ⟨0, goes.trans ?_⟩
  simp only [cmoLock, core, met, active, found, locked, Bool.false_eq_true, if_false, if_true]
  exact cmoResult_putCache riseY 0 1

end

end

/-! ### The checks of R285 -/

/-- Reserved bits of CMO_CMD are not zero. -/
abbrev CmoReserved (v : Word) : Prop := bits v 7 6 ≠ 0 ∨ bits v 63 18 ≠ 0

/-- The word asks for the D-cache, and its reserved bits are zero. -/
abbrev CmoData (v : Word) : Prop := ¬CmoReserved v ∧ v.getLsbD 5 = false

section
variable {k : Caches} {v : Word} {op : Nat}

/-- The checks of a word with an operation, in the terms of the word. -/
theorem cmoCheck_op (small : op < 8) : cmoCheck k (withField v 0 3 op) =
    if (bits v 7 6 != 0 || bits v 63 18 != 0) || (v.getLsbD 5 && op != 2 && op != 0) ||
        (!v.getLsbD 5 && !(decide (op ≤ 3) || (op == 4 && bits v 4 3 == 0) || (op == 5 && (bits v 4 3 == 0 || bits v 4 3 == 3)))) ||
        (v.getLsbD 5 && bits v 4 3 == 2 && decide (128 ≤ bits v 15 8)) then 1
    else if op ≠ 0 ∧ (bits v 4 3 = 0 ∨ op = 4) ∧ k.cmoAddr < 0x10000000000 then 2 else 0 := by
  simp only [cmoCheck, bits_op small, bits_above_op small (show 3 ≤ 3 by decide), bits_above_op small (show 3 ≤ 6 by decide),
    bits_above_op small (show 3 ≤ 18 by decide), bits_above_op small (show 3 ≤ 8 by decide), bit_above_op small (show 3 ≤ 5 by decide)]

theorem cmoCheck_reserved (small : op < 8) (reserved : CmoReserved v) : cmoCheck k (withField v 0 3 op) = 1 := by
  rw [cmoCheck_op small]
  refine if_pos ?_
  simp only [Bool.or_eq_true, bne_iff_ne]
  exact .inl (.inl (.inl reserved))

theorem cmoCheck_icache (small : op < 8) (inst : v.getLsbD 5 = true) (not_inv : op ≠ 2) (some_op : op ≠ 0) :
    cmoCheck k (withField v 0 3 op) = 1 := by
  rw [cmoCheck_op small]
  exact if_pos (by simp [inst, not_inv, some_op])

theorem cmoCheck_icacheWay (inst : v.getLsbD 5 = true) (way : bits v 4 3 = 2) (high : 128 ≤ bits v 15 8) :
    cmoCheck k (withField v 0 3 2) = 1 := by
  rw [cmoCheck_op (by decide)]
  exact if_pos (by simp [inst, way, high])

theorem cmoCheck_lockTarget (other : bits v 4 3 ≠ 0) : cmoCheck k (withField v 0 3 4) = 1 := by
  rw [cmoCheck_op (by decide)]
  refine if_pos ?_
  cases inst : v.getLsbD 5 <;> simp [other]

theorem cmoCheck_unlockTarget (other : bits v 4 3 = 1 ∨ bits v 4 3 = 2) : cmoCheck k (withField v 0 3 5) = 1 := by
  rw [cmoCheck_op (by decide)]
  refine if_pos ?_
  obtain target | target := other <;> cases inst : v.getLsbD 5 <;> simp [target]

/-- The form of the word is one of Table: maintenance operations. -/
abbrev CmoForm (v : Word) (op : Nat) : Prop :=
  op ≤ 3 ∨ (op = 4 ∧ bits v 4 3 = 0) ∨ (op = 5 ∧ (bits v 4 3 = 0 ∨ bits v 4 3 = 3))

theorem cmoCheck_form (small : op < 8) (mine : CmoData v) (form : CmoForm v op) : cmoCheck k (withField v 0 3 op) =
    if op ≠ 0 ∧ (bits v 4 3 = 0 ∨ op = 4) ∧ k.cmoAddr < 0x10000000000 then 2 else 0 := by
  obtain ⟨open_bits, data⟩ := mine
  obtain ⟨low, high⟩ := not_or.mp open_bits
  rw [cmoCheck_op small]
  refine if_neg ?_
  have listed : (decide (op ≤ 3) || (op == 4 && bits v 4 3 == 0) || (op == 5 && (bits v 4 3 == 0 || bits v 4 3 == 3))) = true := by
    simpa [or_assoc] using form
  rw [listed, data, not_not.mp low, not_not.mp high]
  exact Bool.false_ne_true

theorem cmoCheck_outside (small : op < 8) (some_op : op ≠ 0) (mine : CmoData v) (form : CmoForm v op) (target : bits v 4 3 = 0)
    (low : k.cmoAddr < 0x10000000000) : cmoCheck k (withField v 0 3 op) = 2 :=
  (cmoCheck_form small mine form).trans (if_pos ⟨some_op, .inl target, low⟩)

theorem cmoCheck_sound (small : op < 8) (mine : CmoData v) (form : CmoForm v op)
    (inside : (bits v 4 3 ≠ 0 ∧ op ≠ 4) ∨ 0x10000000000 ≤ k.cmoAddr) : cmoCheck k (withField v 0 3 op) = 0 := by
  refine (cmoCheck_form small mine form).trans (if_neg ?_)
  rintro ⟨-, target, low⟩
  obtain ⟨other, not_lock⟩ | high := inside
  · exact target.elim other not_lock
  · omega

end

/-! ### The instructions -/

section
variable {x : Issue} {s : State}

section
variable (sup : (thr s x).mode = .supervisor) (idle : serialBusy (Claims.core s x) (th x) = false)
  (rests : (Claims.core s x).cache.cmo = none)
include sup idle rests

/-- A supervisor's `out` to CMO_CMD begins its operation and holds the thread (R280). -/
theorem cmoOut_begins {σ : State} (sees : Sees s x σ) (rise : rising σ.cores = true) (threads : rising (getCore σ (co x)).thr = true)
    (w : Word) :
    outBody 0xA10 w σ (co x) (th x) = .set (putCache (cmoHeld σ (co x) (th x)) (co x)
      (withCmo (Claims.core s x).cache (cmoBegun x.thread (Claims.core s x).cache w))) := by
  have passes : ioFault (isSup σ (co x) (th x)) true 0xA10 = none := by
    rw [sees.isSup, decide_eq_true sup]
    exact ioFault_supervisor true (by decide) (by rw [IoAbsent]; omega)
  have same : (getCore σ (co x)).cache = (Claims.core s x).cache := sees.agree Core.cache (fun _ _ => rfl)
  have free : (getCore σ (co x)).cache.cmo = none := by rw [same, rests]
  have riseH : rising (cmoHeld σ (co x) (th x)).cores = true := rising_modCore rise _ _
  have begins : modT (cmoBegin σ (co x) (.thread (BitVec.ofNat 4 (th x))) w) (co x) (th x) (fun h => { h with held := .cmo }) =
      putCache (cmoHeld σ (co x) (th x)) (co x)
        (withCmo (Claims.core s x).cache (cmoBegun x.thread (Claims.core s x).cache w)) := by
    rw [← modT_putCache rise, ← same, BitVec.ofNat_toNat, BitVec.setWidth_eq]
    rfl
  have held : (thrOf (putCache (cmoHeld σ (co x) (th x)) (co x)
      (withCmo (Claims.core s x).cache (cmoBegun x.thread (Claims.core s x).cache w))) (co x) (th x)).held = .cmo := by
    rw [thrOf, getCore_putCache riseH]
    exact congrArg Thread.held (thrOf_modT rise threads _)
  have writes : ioWrite σ (co x) (some (th x)) (isSup σ (co x) (th x)) 0xA10 w =
      (putCache (cmoHeld σ (co x) (th x)) (co x)
        (withCmo (Claims.core s x).cache (cmoBegun x.thread (Claims.core s x).cache w)), false) := by
    rw [← begins]
    simp [ioWrite, ioWriteXlt, free]
  simp only [outBody, passes, sees.serialBusy, idle, Bool.and_false, Bool.false_eq_true, if_false, writes, held, if_true]

end

/-- A supervisor may begin an operation: its thread issues, and none is in progress or waits at the core. -/
structure CmoReady (s : State) (x : Issue) : Prop where
  ready : Ready x (attOut 0xA10) s
  sup : (thr s x).mode = .supervisor
  idle : serialBusy (Claims.core s x) (th x) = false
  rests : (Claims.core s x).cache.cmo = none
  last : (Claims.core s x).cache.cmoWait = []

/-- The state in which an `out` to CMO_CMD runs, and that state with its thread held. -/
abbrev cmoIssued (s : State) (x : Issue) : State := counted s x (attOut 0xA10)
abbrev cmoBusy (s : State) (x : Issue) : State := cmoHeld (cmoIssued s x) (co x) (th x)

section
variable (m : CmoReady s x)
include m

theorem CmoReady.rising_issued : rising (cmoIssued s x).cores = true := rising_modCore (rising_of_ordered m.ready.order) _ _

theorem CmoReady.rising_busy : rising (cmoBusy s x).cores = true := rising_modCore m.rising_issued _ _

/-- But for the thread that is held and the performance counters the core is as before. -/
theorem CmoReady.core : ∃ p t, getCore (cmoBusy s x) (co x) = { Claims.core s x with perf := p, thr := t } := by
  obtain ⟨p, hp⟩ : Sees s x (cmoIssued s x) := .counted m.ready.order
  exact ⟨p, _, (getCore_modCore m.rising_issued _ _).trans (congrArg (modThr · _ _) hp)⟩

theorem CmoReady.active : (getCore (cmoBusy s x) (co x)).sup.stopped = false := by
  obtain ⟨p, t, core⟩ := m.core
  have issues := m.ready.runs.issues
  simp only [canIssue, Bool.and_eq_true, Bool.not_eq_true'] at issues
  obtain ⟨⟨⟨⟨⟨⟨⟨-, active⟩, -⟩, -⟩, -⟩, -⟩, -⟩, -⟩ := issues
  rw [core]
  exact active

/-- A fill that the operation would wait for is one that the core had before. -/
theorem CmoReady.unfilled {target : Nat} (pending : cmoFillPending (Claims.core s x) target = false) :
    cmoFillPending { getCore (cmoBusy s x) (co x) with cache := (Claims.core s x).cache } target = false := by
  obtain ⟨p, t, core⟩ := m.core
  rw [core]
  exact pending

variable {i : Instr} {v : Word} {op : Nat} (he : exec i s = cmoOut x v op s)
include he

/-- A supervisor's `out` to CMO_CMD whose operation ends in the same step (R280). -/
theorem cmoOut_does {res n : Nat} {k' : Caches}
    (runs : CmoRuns (cmoBusy s x) (co x) (Claims.core s x).cache
      (cmoBegun x.thread (Claims.core s x).cache (withField v 0 3 op)) k' res n)
    (free : k'.cmo = none ∧ k'.cmoWait = []) :
    Does i x s (putCache (cmoIssued s x) (co x) (cmoDone k' res n 0)) .seq := by
  obtain ⟨r, sup, idle, rests, -⟩ := m
  have rise := rising_of_ordered r.order
  have sees : Sees s x (cmoIssued s x) := .counted r.order
  have threads : rising (getCore (cmoIssued s x) (co x)).thr = true := by
    obtain ⟨p, hp⟩ := sees
    rw [hp]
    exact threads_rising r.order _
  have riseC : rising (cmoIssued s x).cores = true := rising_modCore rise _ _
  have issued := issue_runs (body := outBody 0xA10 (withField v 0 3 op)) r.runs
    (by rw [cmoOut_begins sup idle rests .self rise (threads_rising r.order _)]; exact fun _ => nofun)
  rw [cmoOut_begins sup idle rests sees riseC threads] at issued
  have done : CmoFree (co x) (putCache (cmoIssued s x) (co x) (cmoDone k' res n 0)) :=
    ⟨rising_putCache riseC, by rw [getCore_putCache riseC]; exact free.1⟩
  have pumped := tidy_pumped (cmoPump_ends riseC threads free.1 free.2 rfl runs) (done.finish .seq) s
  exact (he.trans issued).trans (congrArg Host.Outcome.next pumped)

/-- An operation that the checks refuse (R285). -/
theorem cmo_refused {res : Nat} (check : cmoCheck (Claims.core s x).cache (withField v 0 3 op) = res) (bad : res ≠ 0) :
    Does i x s (putCache (cmoIssued s x) (co x) (cmoDone (Claims.core s x).cache res 0 0)) .seq :=
  cmoOut_does m he (cmoRuns_refused m.rising_busy check bad) ⟨m.rests, m.last⟩

section
variable (small : op < 8) (pending : cmoFillPending (Claims.core s x) (bits v 4 3) = false) (mine : CmoData v) (form : CmoForm v op)
  (inside : (bits v 4 3 ≠ 0 ∧ op ≠ 4) ∨ 0x10000000000 ≤ (Claims.core s x).cache.cmoAddr)
include small pending mine form inside

/-- An operation that acts on the selected ways of the D-cache and writes none of them back. -/
theorem cmo_walks (some_op : op ≠ 0) (not_lock : op ≠ 4) (rise : rising (Claims.core s x).cache.d = true)
    (ways : ∀ e ∈ (Claims.core s x).cache.d, e.1 < 1024)
    (clean : ∀ e ∈ (Claims.core s x).cache.d.filter (cmoSel (Claims.core s x).cache v), cmoWrites op e.2 = false) :
    Does i x s (putCache (cmoIssued s x) (co x) (cmoDone
      (cmoActs op (cmoSide (Claims.core s x).cache op (bits v 4 3))
        ((Claims.core s x).cache.d.filter (cmoSel (Claims.core s x).cache v)))
      0 (validOf ((Claims.core s x).cache.d.filter (cmoSel (Claims.core s x).cache v))).length 0)) .seq := by
  have sel : cmoSel (Claims.core s x).cache (withField v 0 3 op) = cmoSel (Claims.core s x).cache v := by
    funext e
    simp only [cmoSel, bits_above_op small (show 3 ≤ 3 by decide), bits_above_op small (show 3 ≤ 8 by decide),
      bits_above_op small (show 3 ≤ 16 by decide)]
  have target : bits (withField v 0 3 op) 4 3 = bits v 4 3 := bits_above_op small (by decide)
  have runs := cmoRuns_walk (t := x.thread) m.rising_busy m.active (m.unfilled (target ▸ pending)) (cmoCheck_sound small mine form inside)
    ((bit_above_op small (by decide)).trans mine.2) (bits_op small) some_op not_lock rise ways (by rw [sel]; exact clean)
  rw [sel, target] at runs
  obtain ⟨rests, last⟩ := cmoSide_rests (op := op) (target := bits v 4 3) m.rests m.last
  exact cmoOut_does m he runs (cmoActs_rests rests last)

/-- LOCK of a line that is locked already (R286). -/
theorem cmo_locked {key : Nat} {l : DLine} (lock : op = 4)
    (tags : ∀ w < 4, (mget DLine.empty (Claims.core s x).cache.d (4 * ((Claims.core s x).cache.cmoAddr / 64 % 256) + w)).tagBad = false)
    (found : findLine (Claims.core s x).cache.d 256 (Claims.core s x).cache.cmoAddr = some (key, l)) (whole : l.flips = [])
    (locked : l.locked = true) :
    Does i x s (putCache (cmoIssued s x) (co x) (cmoDone (Claims.core s x).cache 0 1 0)) .seq := by
  have target : bits (withField v 0 3 op) 4 3 = bits v 4 3 := bits_above_op small (by decide)
  exact cmoOut_does m he (cmoRuns_locked m.rising_busy m.active (m.unfilled (target ▸ pending)) (cmoCheck_sound small mine form inside)
    ((bit_above_op small (by decide)).trans mine.2) ((bits_op small).trans lock) tags found whole locked) ⟨m.rests, m.last⟩

end

end

/-! ### PF_CTL -/

theorem bit_of_digit {a b : Word} {i : Nat} (same : a.toNat / 2 ^ i % 2 = b.toNat / 2 ^ i % 2) : bit a i = b.getLsbD i := by
  simp only [bit, BitVec.getLsbD, Nat.testBit_eq_decide_div_mod_eq, same]

/-- The fields of a word of PF_CTL that asks for FLUSH are those of v. -/
theorem pfCtl_flush (v : Word) : bit (withField v 4 1 1) 0 = v.getLsbD 0 ∧ bits (withField v 4 1 1) 2 1 = bits v 2 1 ∧
    bit (withField v 4 1 1) 3 = v.getLsbD 3 ∧ bit (withField v 4 1 1) 4 = true := by
  have below := v.isLt
  have word : (withField v 4 1 1).toNat = v.toNat % 16 + 16 + v.toNat / 32 * 32 := by
    simp only [withField, w64, BitVec.toNat_ofNat]
    omega
  refine ⟨bit_of_digit ?_, ?_, bit_of_digit ?_, (bit_of_digit (b := 0x10#64) ?_).trans (by decide)⟩
  · omega
  · simp only [bits, word]
    omega
  · omega
  · rw [word, show (0x10#64).toNat = 16 from rfl]
    omega

/-- PF_CTL with FLUSH empties the side buffer (R291). -/
theorem pfFlush_does {v : Word} (r : Ready x (attOut 0xA28) s) (sup : (thr s x).mode = .supervisor)
    (idle : serialBusy (Claims.core s x) (th x) = false) :
    Does (.pfFlush x v) x s (putCache (counted s x (attOut 0xA28)) (co x) { (Claims.core s x).cache with
      pfEnable := v.getLsbD 0, pfDepthM1 := bits v 2 1, pfShared := v.getLsbD 3, side := [] }) .seq := by
  obtain ⟨enable, depth, shared, flush⟩ := pfCtl_flush v
  refine does_by (fun σ => putCache σ (co x) _) r (body := outBody 0xA28 (withField v 4 1 1)) rfl (fun σ sees => ?_)
  have passes : ioFault (isSup σ (co x) (th x)) true 0xA28 = none := by
    rw [sees.isSup, decide_eq_true sup]
    exact ioFault_supervisor true (by decide) (by rw [IoAbsent]; omega)
  have same : (getCore σ (co x)).cache = (Claims.core s x).cache := sees.agree Core.cache (fun _ _ => rfl)
  have writes : ioWrite σ (co x) (some (th x)) (isSup σ (co x) (th x)) 0xA28 (withField v 4 1 1) =
      (putCache σ (co x) { (Claims.core s x).cache with
        pfEnable := v.getLsbD 0, pfDepthM1 := bits v 2 1, pfShared := v.getLsbD 3, side := [] }, true) := by
    simp [ioWrite, ioWriteXlt, enable, depth, shared, flush, same]
    rfl
  simp only [outBody, passes, sees.serialBusy, idle, Bool.and_false, Bool.false_eq_true, if_false, writes]

end

/-! ### Events -/

section
variable {s : State}

/-- The end of a reset invalidation makes the cache ready (R294). -/
theorem cacheInitDone_goes {K : BitVec 13} (on : coreOn s K.toNat = true) (icache : Bool) :
    GoesTo (.cacheInitDone K icache) s (putCache s K.toNat
      (if icache then { (getCore s K.toNat).cache with icBusy := false } else { (getCore s K.toNat).cache with dcBusy := false })) K.toNat :=
  if_neg (by rw [on]; decide)

variable {i h line : Nat} {p : Packet} (arrives : mayArrive s i = some p) (dst : p.dst = .stack h) (body : p.body = .victim line)
  (run : running s = true)
include arrives dst body run

/-- A VICTIM that arrives at its stack: what decides it, and its two answers. -/
theorem victim_arrives : exec (.victim i) s =
    if s.disp.msc.contains line || decide (32 < victimOffers s h) || !stackUp s h then .next (stackCount (takePkt s i) h 3 1)
    else .next (stackCount (mscPut (takePkt s i) line) h 2 1) := by
  obtain ⟨src, _, _, age⟩ := p
  subst dst body
  simp only [exec, execVictim, arrives, run, Bool.not_true, Bool.false_eq_true, if_false]

theorem victim_declined (declined : line ∈ s.disp.msc ∨ 32 < victimOffers s h ∨ stackUp s h = false) :
    exec (.victim i) s = .next (stackCount (takePkt s i) h 3 1) := by
  rw [victim_arrives arrives dst body run]
  refine if_pos ?_
  simpa [or_assoc] using declined

theorem victim_taken (taken : ¬(line ∈ s.disp.msc ∨ 32 < victimOffers s h ∨ stackUp s h = false))
    (room : (s.disp.msc.filter (fun l => stackOf l == stackOf line)).length < 65536) :
    exec (.victim i) s = .next (stackCount { takePkt s i with disp := { s.disp with msc := s.disp.msc ++ [line] } } h 2 1) := by
  have put : mscPut (takePkt s i) line = { takePkt s i with disp := { s.disp with msc := s.disp.msc ++ [line] } } := by
    have more : ¬mscLines ≤ ((takePkt s i).disp.msc.filter (fun l => stackOf l == stackOf line)).length := Nat.not_le.mpr room
    rw [mscPut, if_neg more]
    rfl
  rw [victim_arrives arrives dst body run, put]
  refine if_neg (fun declined => taken ?_)
  simpa [or_assoc] using declined

end

end Sys2Proof.Machine

open Sys2Proof Sys2Proof.Machine Sys2Proof.Claims

theorem cacheMaintenance : Claims.CacheMaintenance := by
  intro x v s sup idle c k target sel hit dirty stays
  refine ⟨fun r free last pending rise ways => ?_, fun r => pfFlush_does r sup idle⟩
  intro z does stat resv mine dropped
  have m : CmoReady s x := ⟨r, sup, idle, free, last⟩
  refine ⟨fun refused => ?_, fun refused => ?_, fun other => ?_, fun other => ?_, fun data at0 low => ?_, fun data inside => ?_,
    fun key l data at0 high tags found whole locked => ?_⟩
  · have refuses {op : Nat} (small : op < 8) (some_op : op ≠ 0) (not_inv : op ≠ 2) : cmoCheck k (withField v 0 3 op) = 1 :=
      refused.elim (cmoCheck_reserved small) (fun inst => cmoCheck_icache small inst not_inv some_op)
    exact ⟨cmo_refused m rfl (refuses (op := 1) (by decide) (by decide) (by decide)) (by decide),
      cmo_refused m rfl (refuses (op := 3) (by decide) (by decide) (by decide)) (by decide),
      cmo_refused m rfl (refuses (op := 4) (by decide) (by decide) (by decide)) (by decide),
      cmo_refused m rfl (refuses (op := 5) (by decide) (by decide) (by decide)) (by decide)⟩
  · refine cmo_refused m (op := 2) rfl ?_ (by decide)
    exact refused.elim (cmoCheck_reserved (by decide)) (fun ⟨inst, way, high⟩ => cmoCheck_icacheWay inst way high)
  · exact cmo_refused m (op := 4) rfl (cmoCheck_lockTarget other) (by decide)
  · exact cmo_refused m (op := 5) rfl (cmoCheck_unlockTarget other) (by decide)
  · have refuses {op : Nat} (small : op < 8) (some_op : op ≠ 0) (form : CmoForm v op) : cmoCheck k (withField v 0 3 op) = 2 :=
      cmoCheck_outside small some_op data form at0 low
    exact ⟨cmo_refused m rfl (refuses (op := 1) (by decide) (by decide) (.inl (by decide))) (by decide),
      cmo_refused m rfl (refuses (op := 2) (by decide) (by decide) (.inl (by decide))) (by decide),
      cmo_refused m rfl (refuses (op := 3) (by decide) (by decide) (.inl (by decide))) (by decide),
      cmo_refused m rfl (refuses (op := 4) (by decide) (by decide) (.inr (.inl ⟨rfl, at0⟩))) (by decide),
      cmo_refused m rfl (refuses (op := 5) (by decide) (by decide) (.inr (.inr ⟨rfl, .inl at0⟩))) (by decide)⟩
  · have field : target < 4 := Nat.mod_lt _ (by decide)
    have walks {i : Instr} {op : Nat} (he : exec i s = cmoOut x v op s) (small : op < 8) (form : CmoForm v op) (some_op : op ≠ 0)
        (not_lock : op ≠ 4) (clean : ∀ e ∈ k.d.filter sel, cmoWrites op e.2 = false) : Does i x s (putCache z (co x)
          (cmoDone (cmoActs op (cmoSide k op target) (k.d.filter sel)) 0 hit.length 0)) .seq :=
      cmo_walks m he small pending data form (inside.imp_left (⟨·, not_lock⟩)) some_op not_lock rise ways clean
    refine ⟨fun clean => ?_, ?_, fun clean => ?_, fun unlocks => ?_⟩
    · have walked := walks (i := .cmoClean x v) (op := 1) rfl (by decide) (.inl (by decide)) (by decide) (by decide) (cmoWrites_clean clean)
      rwa [cmoSide_stays (by decide) (by decide), cmoActs_clean rise (fun e listed => List.mem_of_mem_filter listed) clean] at walked
    · have walked := walks (i := .cmoInv x v) (op := 2) rfl (by decide) (.inl (by decide)) (by decide) (by decide)
        (fun e _ => by simp [cmoWrites])
      rw [cmoActs_inv, cmoSide_drops (.inl rfl) field, dropWays_side] at walked
      exact walked
    · have walked := walks (i := .cmoCleanInv x v) (op := 3) rfl (by decide) (.inl (by decide)) (by decide) (by decide) (cmoWrites_clean clean)
      rw [cmoActs_cleanInv, cmoSide_drops (.inr rfl) field, dropWays_side] at walked
      exact walked
    · have walked := walks (i := .cmoUnlock x v) (op := 5) rfl (by decide) (.inr (.inr ⟨rfl, unlocks⟩)) (by decide) (by decide)
        (fun e _ => by simp [cmoWrites])
      rw [cmoSide_stays (by decide) (by decide), cmoActs_unlock] at walked
      exact walked
  · exact cmo_locked m (op := 4) rfl (by decide) pending data (.inr (.inl ⟨rfl, at0⟩)) (.inr high) rfl tags found whole locked

theorem cacheEvents : Claims.CacheEvents := by
  intro s K i h line p o run c count
  refine ⟨fun on => ⟨cacheInitDone_goes on true, cacheInitDone_goes on false⟩, fun arrives dst body => ⟨?_, ?_⟩⟩
  · exact victim_declined arrives dst body run
  · exact victim_taken arrives dst body run

/-- Settles O40: an `out` to CMO_CMD begins its operation and, where nothing is to be written back, `cmoPump` ends it in the same step, with
what the checks answer (`cmo_refused`), what the walk leaves (`cmo_walks`) or a line that is locked already (`cmo_locked`). -/
theorem caches : Obligations.Caches := ⟨cacheMaintenance, cacheEvents⟩
end

section
/-! PROOFS. Translation commands (O39): what an `out` to TLB_INV, XLT_ROOT and XLT_FWD leaves. -/

namespace Sys2Proof.Machine
open Sys2Proof.Claims

/-! ### The words of TLB_INV -/

section
variable {v : Word} {op : Nat} (small : op < 4)
include small

theorem withField_inv : (withField v 0 2 op).toNat = op + v.toNat / 4 * 4 := by
  have below := v.isLt
  simp only [withField, w64, BitVec.toNat_ofNat]
  omega

theorem bits_inv : bits (withField v 0 2 op) 1 0 = op := by
  simp only [bits, withField_inv small]
  omega

theorem bits_page : bits (withField v 0 2 op) 47 12 = bits v 47 12 := by
  simp only [bits, withField_inv small]
  omega

end

/-! ### Writes of a supervisor -/

/-- Core L with translation state X. -/
def putXlt (s : State) (L : Nat) (X : Xlt) : State := modCore s L (fun c => { c with xlt := X })

section
variable {s : State} {x : Issue} {i : Instr}

theorem Sees.xlt {σ : State} (h : Sees s x σ) : (getCore σ (co x)).xlt = (Claims.core s x).xlt := h.agree Core.xlt (fun _ _ => rfl)

theorem Sees.threadOf {σ : State} (h : Sees s x σ) (t : Nat) : thrOf σ (co x) t = thrOf s (co x) t := h.agree (getThr · t) (fun _ _ => rfl)

variable (sup : (thr s x).mode = .supervisor) (idle : serialBusy (Claims.core s x) (th x) = false)
include sup idle

/-- A supervisor's `out` to a register of translation that completes at once goes on in the state that the write leaves. -/
theorem xltOut_does {a : Nat} {v : Word} (g : State → State) (r : Ready x (attOut a) s) (aligned : a % 8 = 0) (low : 0xA00 ≤ a) (high : a < 0xC00)
    (he : exec i s = outTo x a v s) (writes : ∀ σ, Sees s x σ → ioWriteXlt σ (co x) (some (th x)) a v = (g σ, true)) :
    Does i x s (g (counted s x (attOut a))) .seq := by
  refine does_by g r (body := outBody a v) he (fun σ sees => ?_)
  have passes : ioFault (isSup σ (co x) (th x)) true a = none := by
    rw [sees.isSup, decide_eq_true sup]
    exact ioFault_supervisor true aligned (by rw [IoAbsent]; omega)
  have written : ioWrite σ (co x) (some (th x)) (isSup σ (co x) (th x)) a v = (g σ, true) := by
    rw [ioWrite, if_neg (by omega), if_neg (by omega), if_pos high]
    exact writes σ sees
  simp only [outBody, passes, sees.serialBusy, idle, Bool.and_false, Bool.false_eq_true, if_false, written]

/-- TLB_INV of one page drops the entries that cover a byte of it (R306). -/
theorem tlbInvVa_does (v : Word) (r : Ready x (attOut 0xB08) s) : Does (.tlbInvVa x v) x s
    (putXlt (counted s x (attOut 0xB08)) (co x) (tlbRemove (Claims.core s x).xlt (bits v 47 12 * 4096) 1)) .seq := by
  refine xltOut_does sup idle (putXlt · (co x) _) r (by decide) (by decide) (by decide) rfl (fun σ sees => ?_)
  have write : ioWriteXlt σ (co x) (some (th x)) 0xB08 (withField v 0 2 1) = (tlbInvWrite σ (co x) (withField v 0 2 1), true) := rfl
  simp only [write, tlbInvWrite, bits_inv (show 1 < 4 by decide), bits_page (show 1 < 4 by decide), modCore, putXlt, sees.xlt]

/-- TLB_INV of all empties the TLB (R306). -/
theorem tlbInvAll_does (v : Word) (r : Ready x (attOut 0xB08) s) : Does (.tlbInvAll x v) x s
    (putXlt (counted s x (attOut 0xB08)) (co x) (tlbClear (Claims.core s x).xlt)) .seq := by
  refine xltOut_does sup idle (putXlt · (co x) _) r (by decide) (by decide) (by decide) rfl (fun σ sees => ?_)
  have write : ioWriteXlt σ (co x) (some (th x)) 0xB08 (withField v 0 2 2) = (tlbInvWrite σ (co x) (withField v 0 2 2), true) := rfl
  simp only [write, tlbInvWrite, bits_inv (show 2 < 4 by decide), modCore, putXlt, sees.xlt]

/-- A write of XLT_ROOT empties the TLB (R305). -/
theorem xltRoot_does (v : Word) (r : Ready x (attOut 0xB00) s) : Does (.xltRootWrite x v) x s
    (putXlt (counted s x (attOut 0xB00)) (co x)
      { tlbClear (Claims.core s x).xlt with root := w64 (bits v 39 12 * 4096 + b2n (v.getLsbD 0)) }) .seq := by
  refine xltOut_does sup idle (putXlt · (co x) _) r (by decide) (by decide) (by decide) rfl (fun σ sees => ?_)
  have write : ioWriteXlt σ (co x) (some (th x)) 0xB00 v =
    (putXlt σ (co x) { tlbClear (getCore σ (co x)).xlt with root := w64 (bits v 39 12 * 4096 + b2n (v.getLsbD 0)) }, true) := rfl
  rw [write, sees.xlt]

/-- XLT_FWD for a thread without a fault to forward, or with one outstanding, is ignored (R309). -/
theorem xltFwd_ignored {v : Word} (r : Ready x (attOut 0xB18) s)
    (nothing : (thrOf s (co x) (bits v 51 48)).fsr.reason = 0 ∨ (thrOf s (co x) (bits v 51 48)).fsr.outstanding = true) :
    Does (.xltFwd x v) x s
      (putXlt (counted s x (attOut 0xB18)) (co x) { (Claims.core s x).xlt with fwdIgnored := true }) .seq := by
  refine xltOut_does sup idle (putXlt · (co x) _) r (by decide) (by decide) (by decide) rfl (fun σ sees => ?_)
  have write : ioWriteXlt σ (co x) (some (th x)) 0xB18 v = (fwdWrite σ (co x) v, true) := rfl
  rw [write, fwdWrite, sees.threadOf, if_pos nothing, modCore, putXlt, modCore, sees.xlt]

/-- XLT_FWD forwards the recorded fault (R309). -/
theorem xltFwd_forwards {v : Word} (r : Ready x (attOut 0xB18) s) (fault : (thrOf s (co x) (bits v 51 48)).fsr.reason ≠ 0)
    (first : (thrOf s (co x) (bits v 51 48)).fsr.outstanding = false) :
    Does (.xltFwd x v) x s (forwardThread (counted s x (attOut 0xB18)) (co x) (bits v 51 48) (v.truncate 48) (v.getLsbD 52)
      (BitVec.ofNat 6 (bits v 58 53))) .seq := by
  refine xltOut_does sup idle (fun σ => forwardThread σ (co x) (bits v 51 48) (v.truncate 48) (v.getLsbD 52)
      (BitVec.ofNat 6 (bits v 58 53))) r (by decide) (by decide) (by decide) rfl (fun σ sees => ?_)
  have write : ioWriteXlt σ (co x) (some (th x)) 0xB18 v = (fwdWrite σ (co x) v, true) := rfl
  have va : BitVec.ofNat 48 (bits v 47 0) = v.truncate 48 := by
    apply BitVec.eq_of_toNat_eq
    simp [bits]
  have goes : ¬((thrOf s (co x) (bits v 51 48)).fsr.reason = 0 ∨ (thrOf s (co x) (bits v 51 48)).fsr.outstanding = true) := by
    simp [fault, first]
  rw [write, fwdWrite, sees.threadOf, if_neg goes, va]
  rfl

end

/-! ### The record of a fault that is forwarded -/

section
variable {s : State} {L t : Nat} {va : BitVec 48} {cntEn : Bool} {cnt : BitVec 6}

/-- The fault state of a thread whose fault has been forwarded. -/
def forwarded (f : Fsr) (va : BitVec 48) (cntEn : Bool) (cnt : BitVec 6) : Fsr :=
  { f with outstanding := true, replied := false, cntEn := cntEn, cnt := cnt, seq := f.seq + 1#8, va := va }

/-- What forwarding changes: the thread's fault state, the count of forwards, and the record in the mesh (R309, R314). -/
theorem forwardThread_eq (rise : rising s.cores = true) :
    forwardThread s L t va cntEn cnt = inject (setCore s L
        { modThr (getCore s L) t (fun h => { h with fsr := forwarded (thrOf s L t).fsr va cntEn cnt }) with
          xlt := { (getCore s L).xlt with forwards := satAdd 0xFFFFFFFF (getCore s L).xlt.forwards 1 } })
      (pkt (.core L) .disp (.faultRecord (threadRecord s L t (thrOf s L t).fsr ((thrOf s L t).fsr.seq + 1#8) va) t)) := by
  unfold forwardThread
  dsimp only
  rw [modT, modCore_modCore rise, threadRecord, getCore_setCore rise]
  rfl

/-- The core after a fault of its thread t has been forwarded. -/
theorem getCore_forwardThread (rise : rising s.cores = true) : getCore (forwardThread s L t va cntEn cnt) L =
    { modThr (getCore s L) t (fun h => { h with fsr := forwarded (thrOf s L t).fsr va cntEn cnt }) with
      xlt := { (getCore s L).xlt with forwards := satAdd 0xFFFFFFFF (getCore s L).xlt.forwards 1 } } := by
  rw [forwardThread_eq rise]
  exact getCore_setCore rise L _

theorem thrOf_forwardThread (rise : rising s.cores = true) (threads : rising (getCore s L).thr = true) :
    thrOf (forwardThread s L t va cntEn cnt) L t = { thrOf s L t with fsr := forwarded (thrOf s L t).fsr va cntEn cnt } := by
  rw [thrOf, getCore_forwardThread rise]
  exact getThr_setThr threads t _

/-- The record of a fault tells of the core nothing but its pair. -/
theorem threadRecord_counted {x : Issue} {a : Att} {f : Fsr} {seq : BitVec 8} (o : s.ordered = true) :
    threadRecord (counted s x a) (co x) t f seq va = threadRecord s (co x) t f seq va := by
  have pair : (getCore (counted s x a) (co x)).sup.pair = (getCore s (co x)).sup.pair :=
    (Sees.counted o).agree (·.sup.pair) (fun _ _ => rfl)
  rw [threadRecord, pair]
  rfl

end

end Sys2Proof.Machine

open Sys2Proof Sys2Proof.Machine Sys2Proof.Claims

theorem translationCommands : Claims.TranslationCommands := by
  intro x v s sup idle X page keep f does
  refine ⟨fun r => ⟨tlbInvVa_does sup idle v r, tlbInvAll_does sup idle v r⟩, fun r => xltRoot_does sup idle v r,
    fun r nothing => xltFwd_ignored sup idle r nothing, fun r fault first => ?_⟩
  have forwards := xltFwd_forwards sup idle r fault first
  have sees : Sees s x (counted s x (attOut 0xB18)) := .counted r.order
  have rise : rising (counted s x (attOut 0xB18)).cores = true := rising_modCore (rising_of_ordered r.order) _ _
  have threads : rising (getCore (counted s x (attOut 0xB18)) (co x)).thr = true := by
    rw [sees.agree Core.thr (fun _ _ => rfl)]
    exact threads_rising r.order _
  refine ⟨_, forwards, ?_, ?_, ?_⟩
  · rw [thrOf_forwardThread rise threads, sees.threadOf]
    rfl
  · rw [Claims.core, getCore_forwardThread rise, sees.xlt]
  · rw [forwardThread_eq rise, sees.threadOf, threadRecord_counted r.order]
    rfl
end

section
/-! PROOFS. Walks that end, and the lines that a shootdown takes out of a core (O39). -/

namespace Sys2Proof.Machine
open Sys2Proof.Claims

/-! ### The end of a walk -/

/-- A walk that ends with a translation began at a root that is enabled and lies in HBM. -/
theorem root_of_walkFrom {s : State} {root : Word} {va : Nat} {e : Tlb} (ok : walkFrom s root va = .ok e) :
    (bit root 0 && decide (bits root 39 12 * 4096 ≤ 0xBFFFFFF000)) = true := by
  unfold walkFrom at ok
  dsimp only at ok
  split at ok
  · cases ok
  · next enabled =>
    split at ok
    · cases ok
    · next inside =>
      rw [Bool.and_eq_true, decide_eq_true_eq]
      exact ⟨by simpa using enabled, Nat.le_of_not_lt inside⟩

/-- Installing a translation does not look at the walks under way. -/
theorem tlbInstall_walks (X : Xlt) (ws : List Walk) (e : Tlb) (k : Nat) :
    tlbInstall { X with walks := ws } e k = { tlbInstall X e k with walks := ws } := by
  unfold tlbInstall
  dsimp only
  split
  · split <;> rfl
  · split <;> rfl

theorem tlbInstall_frame (X : Xlt) (e : Tlb) (k : Nat) : ∃ tlb big, tlbInstall X e k = { X with tlb := tlb, big := big } := by
  unfold tlbInstall
  dsimp only
  split
  · split <;> exact ⟨_, _, rfl⟩
  · split <;> exact ⟨_, _, rfl⟩

/-- A walk for which nothing waits installs its translation (R303). -/
theorem walkComplete_installs {s : State} {K : BitVec 13} {i page : Nat} {e : Tlb} (on : coreOn s K.toNat = true)
    (walk : (getCore s K.toNat).xlt.walks[i]? = some { page := page, waiters := [] })
    (ok : walkFrom s (getCore s K.toNat).xlt.root (page * 4096) = .ok e) :
    GoesTo (.walkComplete K i) s
      (walkReads (setCore { s with freeCtr := s.freeCtr + 1 } K.toNat { getCore s K.toNat with
          xlt := tlbInstall { (getCore s K.toNat).xlt with walks := dropAt i (getCore s K.toNat).xlt.walks } e s.freeCtr })
        (page * 4096) 4 0 (bits (getCore s K.toNat).xlt.root 39 12 * 4096)) K.toNat := by
  obtain ⟨tlb, big, installed⟩ := tlbInstall_frame (getCore s K.toNat).xlt e s.freeCtr
  have root := root_of_walkFrom ok
  rw [GoesTo, tlbInstall_walks, installed]
  simp only [exec, execWalkComplete, on, walk, ok, installed, root, Bool.not_true, Bool.false_eq_true, if_false, if_true, List.foldl_nil]

/-! ### Lines that leave the D-cache -/

section
variable {α : Type} {m : SMap α} {e : Nat × α}

/-- What a rising map lists is what a read of its key gives. -/
theorem mget_listed (d : α) {lo : Nat} (rise : risingFrom lo m = true) (listed : e ∈ m) : mget d m e.1 = e.2 := by
  induction m generalizing lo with
  | nil => cases listed
  | cons a r ih =>
    obtain ⟨j, w⟩ := a
    simp only [risingFrom, Bool.and_eq_true, decide_eq_true_eq] at rise
    obtain ⟨-, rest⟩ := rise
    obtain rfl | later := List.mem_cons.mp listed
    · exact if_pos rfl
    · have above : j + 1 ≤ e.1 := le_of_risingFrom rest later
      rw [mget, if_neg (by omega)]
      exact ih rest later

/-- What is listed after a write to a rising map is what was written, or stands at another key. -/
theorem mem_mput_rising [DecidableEq α] {d v : α} {k : Nat} (rise : rising m = true) (listed : e ∈ mput d k v m) :
    e = (k, v) ∨ (e ∈ m ∧ e.1 ≠ k) := by
  obtain written | before := mem_mput listed
  · exact .inl written
  · by_cases here : e.1 = k
    · subst here
      have value : e.2 = v := (mget_listed d (rising_mput rise e.1 v) listed).symm.trans (mget_mput_same rise e.1 v)
      exact .inl (Prod.ext rfl value)
    · exact .inr ⟨before, here⟩

end

/-- These ways are dropped, and none of them counts (R307). -/
def shotWays (k : Caches) (l : List (Nat × DLine)) : Caches := l.foldl (fun k e => dropWay k false e.1 e.2) k

/-- The caches without the lines of [lo, lo + n). -/
def shotCaches (k : Caches) (lo n : Nat) : Caches :=
  shotWays { k with i := k.i.filter (fun e => !lineIn lo n e.2), side := k.side.filter (fun l => !lineIn lo n l) }
    (k.d.filter (fun e => lineIn lo n e.2))

section
variable {k : Caches} {lo n : Nat}

/-- A way that is dropped is empty, or reserved without a line. -/
theorem dropWay_d (k : Caches) (counts : Bool) (key : Nat) (l : DLine) :
    ∃ l', l'.valid = false ∧ (dropWay k counts key l).d = mput DLine.empty key l' k.d := by
  unfold dropWay
  split
  · exact ⟨_, rfl, rfl⟩
  · exact ⟨_, rfl, rfl⟩

/-- Where every line of the range is among the ways that are dropped, none is left. -/
theorem shotWays_none {l : List (Nat × DLine)} (rise : rising k.d = true) (all : ∀ e ∈ k.d, lineIn lo n e.2 = true → e ∈ l) :
    ∀ e ∈ (shotWays k l).d, lineIn lo n e.2 = false := by
  induction l generalizing k with
  | nil =>
    intro e listed
    rw [← Bool.not_eq_true]
    exact fun inside => nomatch all e listed inside
  | cons a r ih =>
    obtain ⟨gone, invalid, dropped⟩ := dropWay_d k false a.1 a.2
    refine ih (k := dropWay k false a.1 a.2) (by rw [dropped]; exact rising_mput rise _ _) (fun e listed inside => ?_)
    rw [dropped] at listed
    obtain rfl | ⟨before, other⟩ := mem_mput_rising rise listed
    · simp [lineIn, invalid] at inside
    · obtain rfl | later := List.mem_cons.mp (all e before inside)
      · exact absurd rfl other
      · exact later

theorem shotCaches_none (rise : rising k.d = true) : (shotCaches k lo n).d.any (fun e => lineIn lo n e.2) = false := by
  rw [List.any_eq_false]
  intro e listed
  rw [Bool.not_eq_true]
  refine shotWays_none ?_ ?_ e listed
  · exact rise
  · exact fun a there inside => List.mem_filter.mpr ⟨there, inside⟩

end

/-! ### A shootdown at a core -/

section
variable {s : State} {L lo n : Nat} (rise : rising s.cores = true)
include rise

/-- Ways none of which is dirty are dropped without a write-back. -/
theorem shotWays_clean {k : Caches} {l : List (Nat × DLine)} (clean : ∀ e ∈ l, e.2.dirty = false) :
    l.foldl (fun σ p =>
      if p.2.dirty = true ∧ 8 ≤ (getCore σ L).cache.wbb.length then σ else
      let σ := if p.2.dirty then writeBack σ L p.2 else σ
      modCore σ L (fun c => { c with cache := dropWay c.cache false p.1 p.2 })) (putCache s L k) = putCache s L (shotWays k l) := by
  induction l generalizing k with
  | nil => rfl
  | cons a r ih =>
    have first : modCore (putCache s L k) L (fun c => { c with cache := dropWay c.cache false a.1 a.2 }) =
        putCache s L (dropWay k false a.1 a.2) := modCore_putCache rise (fun _ => rfl)
    rw [List.foldl_cons]
    simp only [clean a List.mem_cons_self, Bool.false_eq_true, false_and, if_false, first]
    exact ih (fun e later => clean e (List.mem_cons_of_mem _ later))

theorem shootLines_clean (clean : ∀ e ∈ (getCore s L).cache.d, lineIn lo n e.2 = true → e.2.dirty = false) :
    shootLines s L lo n = putCache s L (shotCaches (getCore s L).cache lo n) := by
  have first : modCore s L (fun c => { c with cache := { c.cache with
      i := c.cache.i.filter (fun p => !lineIn lo n p.2), side := c.cache.side.filter (fun l => !lineIn lo n l) } }) =
    putCache s L { (getCore s L).cache with
      i := (getCore s L).cache.i.filter (fun p => !lineIn lo n p.2),
      side := (getCore s L).cache.side.filter (fun l => !lineIn lo n l) } := rfl
  rw [shootLines, first, getCore_putCache rise]
  refine shotWays_clean rise (fun e listed => ?_)
  obtain ⟨there, inside⟩ := List.mem_filter.mp listed
  exact clean e there inside

/-- A shootdown at a core that knows of none takes the range out of its TLB and caches, and waits for the requests in flight (R307). -/
theorem coreShoot_first (first : (getCore s L).xlt.shoot = none) (lines : rising (getCore s L).cache.d = true)
    (clean : ∀ e ∈ (getCore s L).cache.d, lineIn lo n e.2 = true → e.2.dirty = false) :
    coreShoot s L lo n = (setCore s L { getCore s L with
        cache := shotCaches (getCore s L).cache lo n
        xlt := { tlbRemove (getCore s L).xlt lo n with shoot := some (requestIds (getCore s L)) } },
      (requestIds (getCore s L)).isEmpty) := by
  have removed : getCore (modCore s L (fun c => { c with xlt := tlbRemove c.xlt lo n })) L =
      { getCore s L with xlt := tlbRemove (getCore s L).xlt lo n } := getCore_modCore rise L _
  have riseX : rising (modCore s L (fun c => { c with xlt := tlbRemove c.xlt lo n })).cores = true := rising_modCore rise L _
  have shot : shootLines (modCore s L (fun c => { c with xlt := tlbRemove c.xlt lo n })) L lo n =
      setCore s L { getCore s L with xlt := tlbRemove (getCore s L).xlt lo n, cache := shotCaches (getCore s L).cache lo n } := by
    rw [shootLines_clean riseX (by rw [removed]; exact clean), removed, putCache, modCore_modCore rise]
  have free : (tlbRemove (getCore s L).xlt lo n).shoot = none := first
  unfold coreShoot
  dsimp only
  rw [removed]
  simp only [free, shot, getCore_setCore rise, shotCaches_none lines, Bool.false_eq_true, if_false, setCore_setCore rise]
  rfl

variable {i : Nat} {p : Packet} (arrives : mayArrive s i = some p) (dst : p.dst = .core L) (on : coreOn s L = true)
  (body : p.body = .shootdown lo n) (first : (getCore s L).xlt.shoot = none) (lines : rising (getCore s L).cache.d = true)
  (clean : ∀ e ∈ (getCore s L).cache.d, lineIn lo n e.2 = true → e.2.dirty = false)
include arrives dst on body first lines clean

/-- With no request in flight the core acknowledges at once. -/
theorem shootdown_acked (idle : requestIds (getCore s L) = []) : GoesTo (.shootdown i) s
    (sendTo (setCore (takePkt s i) L { getCore s L with
      cache := shotCaches (getCore s L).cache lo n
      xlt := { tlbRemove (getCore s L).xlt lo n with shootdowns := satAdd 0xFFFF (getCore s L).xlt.shootdowns 1 } })
      (.core L) .disp .shootdownAck) L := by
  have shot := coreShoot_first rise first lines clean
  have free : (tlbRemove (getCore s L).xlt lo n).shoot = none := first
  have riseT : rising (takePkt s i).cores = true := rise
  have taken (c : Core) : takePkt (setCore s L c) i = setCore (takePkt s i) L c := rfl
  rw [idle, List.isEmpty_nil] at shot
  simp only [GoesTo, exec, execShootdown, mayArrive_body arrives dst body, on, shot, Bool.not_true, Bool.false_eq_true, if_false, taken,
    modCore, getCore_setCore riseT, setCore_setCore riseT]
  rw [← free]
  rfl

/-- With requests in flight the packet waits at the core. -/
theorem shootdown_waits (busy : requestIds (getCore s L) ≠ []) : GoesTo (.shootdown i) s
    (setCore s L { getCore s L with
      cache := shotCaches (getCore s L).cache lo n
      xlt := { tlbRemove (getCore s L).xlt lo n with shoot := some (requestIds (getCore s L)) } }) L := by
  have shot := coreShoot_first rise first lines clean
  rw [List.isEmpty_eq_false_iff.mpr busy] at shot
  simp only [GoesTo, exec, execShootdown, mayArrive_body arrives dst body, on, shot, Bool.not_true, Bool.false_eq_true, if_false]

end

end Sys2Proof.Machine
end

section
/-! PROOFS. Translation events at the dispatcher, and fault replies (O39). -/

namespace Sys2Proof.Machine
open Sys2Proof.Claims

section
variable {s : State} {i : Nat} {p : Packet} {b : Body}

/-- A packet for the dispatcher arrives there while the module runs. -/
theorem arrivalAt_disp (arrives : mayArrive s i = some p) (dst : p.dst = .disp) (run : running s = true) (body : p.body = b) :
    arrivalAt s i .disp = some { src := p.src, dst := .disp, body := b, age := p.age } := by
  rw [arrivalAt, arrives, ← dst, ← body]
  exact if_pos ⟨run, rfl⟩

/-! ### The fault ring (R466) -/

/-- A write of the module's own services to companion memory is performed while some link is up. -/
theorem svcWrite_comp (link : linkUp s = true) (a : Nat) (d : List Byte) : svcWrite s (.comp a) d = .ok (compWrite s a d) := if_pos link

/-- A record that the ring in companion memory can take is written there and raises vector 64. -/
theorem faultPut_comp {a : Nat} (link : linkUp s = true) (place : ringPlace (dv s 0x2010 3 0) (32 * s.disp.faultTail) = .comp a) (r : FaultRec) :
    faultPut s r = .ok { s with
      comp := writeBytes s.comp a (bytesOf [r.w0, r.w1, r.w2, 0#64])
      disp := { s.disp with faultTail := (s.disp.faultTail + 1) % faultSlots s, raised := insertNat 64 s.disp.raised } } := by
  have slots (d : List Byte) : faultSlots (compWrite s a d) = faultSlots s := rfl
  simp [faultPut, place, svcWrite_comp link, slots, raiseVector]

section
variable {r : FaultRec} {k : Nat} (arrived : arrivalAt s i .disp = some p) (body : p.body = .faultRecord r k)
include arrived body

theorem faultRecord_taken : exec (.faultRecord i) s = .next (faultDrain (s.disp.faultWait.length + 1)
    { takePkt s i with disp := { s.disp with faultWait := s.disp.faultWait ++ [r] } }) := by
  obtain ⟨src, dst, _, age⟩ := p
  subst body
  simp only [exec, execFaultRecord, arrived, takePkt_disp, List.length_append, List.length_singleton]

/-- While the ring is full a record waits. -/
theorem faultRecord_waits (full : faultRoom s = false) :
    exec (.faultRecord i) s = .next { takePkt s i with disp := { s.disp with faultWait := s.disp.faultWait ++ [r] } } := by
  rw [faultRecord_taken arrived body]
  have still : faultRoom { takePkt s i with disp := { s.disp with faultWait := s.disp.faultWait ++ [r] } } = false := full
  obtain ⟨first, rest, waits⟩ := List.exists_cons_of_ne_nil (List.append_ne_nil_of_right_ne_nil s.disp.faultWait (List.cons_ne_nil r []))
  simp only [waits] at still ⊢
  simp only [faultDrain, still, Bool.not_false, if_true]

/-- A record that finds room in a ring of companion memory is written there and raises vector 64. -/
theorem faultRecord_writes {a : Nat} (first : s.disp.faultWait = []) (room : faultRoom s = true) (link : linkUp s = true)
    (place : ringPlace (dv s 0x2010 3 0) (32 * s.disp.faultTail) = .comp a) :
    exec (.faultRecord i) s = .next { takePkt s i with
      comp := writeBytes s.comp a (bytesOf [r.w0, r.w1, r.w2, 0#64])
      disp := { s.disp with faultTail := (s.disp.faultTail + 1) % faultSlots s, faultWait := [], raised := insertNat 64 s.disp.raised } } := by
  have put := faultPut_comp (s := { takePkt s i with disp := { s.disp with faultWait := [r] } }) link place r
  have room' : faultRoom { takePkt s i with disp := { s.disp with faultWait := [r] } } = true := room
  rw [faultRecord_taken arrived body, first]
  simp only [List.length_nil, List.nil_append, faultDrain, room', put, Bool.not_true, Bool.false_eq_true, if_false]
  rfl

end

/-- FAULT_REPLY_WRITE for a core of this module sends the reply there (R466). -/
theorem faultReplyWrite_sends {v : Word} (on : windowOn s = true) (run : running s = true) (here : bits v 55 48 = moduleId s % 256)
    (source : bits v 12 8 ≠ 31) (there : bits v 28 16 < gradeOf s) :
    exec (.faultReplyWrite v) s = .next (sendTo s .disp (.core (bits v 28 16)) (.faultReply (bits v 12 8) (BitVec.ofNat 8 (bits v 63 56))
      ⟨BitVec.ofNat 12 (bits v 43 32), BitVec.ofNat 4 (bits v 47 44)⟩ (v.getLsbD 29))) := by
  simp only [exec, execFaultReplyWrite, windowHeld_of_on on, awake_of_running run, on, run, Bool.and_self, Bool.false_eq_true, if_false,
    if_true, faultReplySend, here, ne_eq, not_true_eq_false, source, there]
  rfl

/-- A reply to the outstanding fault of a thread ends it (R312). -/
theorem faultReply_ends {L n : Nat} {seq : BitVec 8} {abort : Bool} (arrives : mayArrive s i = some p) (dst : p.dst = .core L)
    (on : coreOn s L = true) (thread : n < 16) (body : p.body = .faultReply n seq (getCore s L).sup.pair abort)
    (out : (getThr (getCore s L) n).fsr.outstanding = true) (same : (getThr (getCore s L) n).fsr.seq = seq)
    (plain : (getThr (getCore s L) n).fsr.cntEn = false) :
    GoesTo (.faultReply i) s (modT (takePkt s i) L n (fun h => { h with
      fsr := { h.fsr with outstanding := false, replied := true, result := abort } })) L := by
  subst same
  have core : getCore (takePkt s i) L = getCore s L := rfl
  have replied : coreFaultReply (takePkt s i) L n (getThr (getCore s L) n).fsr.seq (getCore s L).sup.pair abort =
      modT (takePkt s i) L n (fun h => { h with fsr := { h.fsr with outstanding := false, replied := true, result := abort } }) := by
    simp only [coreFaultReply, core, ne_eq, not_true_eq_false, if_false, thread, if_true, out, or_self, Bool.true_eq_false]
    rw [if_neg (Bool.eq_false_iff.mp plain)]
    rfl
  simp only [GoesTo, exec, execFaultReply, mayArrive_body arrives dst body, on, replied, Bool.not_true, Bool.false_eq_true, if_false]

/-! ### Shootdowns at the dispatcher (R467) -/

section
variable {v : Word}

theorem execShootCtl_running (on : windowOn s = true) (run : running s = true) : exec (.shootCtl v) s = .next (shootWrite s v) := by
  simp only [exec, execShootCtl, windowHeld_of_on on, awake_of_running run, on, run, Bool.and_self, Bool.false_eq_true, if_false, if_true]

/-- A shootdown of length 0 is complete at once. -/
theorem shootWrite_empty (idle : s.disp.shoot = none) (first : s.disp.shootWait = []) (empty : s.disp.shootLen = 0) :
    shootWrite s v = { s with disp := { s.disp with shootDone := bits v 31 16, raised := insertNat 65 s.disp.raised } } := by
  have seq : (BitVec.ofNat 16 (bits v 31 16)).toNat = bits v 31 16 := Nat.mod_eq_of_lt (Nat.mod_lt _ (by decide))
  simp only [shootWrite, first, List.nil_append, List.length_nil, shootNext, idle, shootStart, empty, if_true, seq, raiseVector]

/-- While one is under way another waits. -/
theorem shootWrite_waits (under_way : s.disp.shoot.isSome = true) :
    shootWrite s v = { s with disp := { s.disp with shootWait := s.disp.shootWait ++ [v] } } := by
  obtain ⟨sd, shoot⟩ := Option.isSome_iff_exists.mp under_way
  simp only [shootWrite, shootNext, shoot]

end

/-- The last acknowledgment ends the shootdown. -/
theorem shootdownAck_ends {sd : Shoot} (arrived : arrivalAt s i .disp = some p) (body : p.body = .shootdownAck)
    (under_way : s.disp.shoot = some sd) (last : s.disp.shootWait = []) (waits : sd.waiting = [p.src]) :
    exec (.shootdownAck i) s = .next { takePkt s i with disp := { s.disp with
      shoot := none, shootDone := sd.seq.toNat, raised := insertNat 65 s.disp.raised } } := by
  obtain ⟨src, dst, _, age⟩ := p
  subst body
  have none_left : sd.waiting.erase src = [] := by rw [waits, List.erase_cons_head]
  simp only [exec, execShootdownAck, arrived, takePkt_disp, under_way, none_left, last, raiseVector, shootNext]

end

end Sys2Proof.Machine

open Sys2Proof Sys2Proof.Machine Sys2Proof.Claims

theorem translationEvents : Claims.TranslationEvents := by
  intro s K i p v order run L c t
  have rise : rising s.cores = true := rising_of_ordered order
  refine ⟨fun page e on walk ok => walkComplete_installs on walk ok, fun r k arrives dst body => ?_,
    fun on here source there => faultReplyWrite_sends on run here source there,
    fun n seq abort arrives dst on thread body out same plain => faultReply_ends arrives dst on thread body out same plain,
    fun on idle first empty => ?_, fun on under_way => ?_, fun lo n arrives dst on body first lines clean => ?_,
    fun sd arrives dst body under_way last waits => ?_⟩
  · have arrived := arrivalAt_disp arrives dst run body
    exact ⟨faultRecord_waits arrived rfl, fun a first room link place => faultRecord_writes arrived rfl first room link place⟩
  · rw [execShootCtl_running on run, shootWrite_empty idle first empty]
  · rw [execShootCtl_running on run, shootWrite_waits under_way]
  · exact ⟨shootdown_acked rise arrives dst on body first lines clean, shootdown_waits rise arrives dst on body first lines clean⟩
  · exact shootdownAck_ends (arrivalAt_disp arrives dst run body) rfl under_way last waits

/-- Settles O39: an `out` to a register of translation goes on in the state that its write leaves; a core that a shootdown reaches has no line
of the range left (`shotCaches_none`), so that only the requests in flight hold its acknowledgment back. -/
theorem translation : Obligations.Translation := ⟨translationCommands, translationEvents⟩
end
